-- ==== Sys2Proof/Word.lean ====
section
/-! DEFINITION. The word types of the Skemos FSK-25 model (R6: bit 0 is the least significant bit). -/

namespace Sys2Proof

/-- A byte. -/
abbrev Byte := BitVec 8
/-- A sequence of bytes, the first on the wire (or at the lowest address) first. -/
abbrev Bytes := List Byte
/-- A token ID as stream frames carry it (R354, R355). -/
abbrev Token := BitVec 32
/-- A SHA-512 digest, its first output byte in bits 511..504. -/
abbrev Digest := BitVec 512
/-- A 64-byte HMAC key (R371), its first byte in bits 511..504. -/
abbrev Key := BitVec 512
/-- An FP32 code (R40). -/
abbrev F32 := BitVec 32
/-- A timestamp: 48 bits of seconds, 32 of nanoseconds, 16 of fraction (R336). -/
abbrev PtpTime := BitVec 96

end Sys2Proof
end

