-- ==== Sys2Proof/Syntax.lean ====
section
/-! DEFINITION. The commands: one constructor of Instr for each row of spec/opcode_table.json, with its operands. -/

namespace Sys2Proof

/-- An arrival stamp: the step count of the PTP clock and its time (R336). -/
structure Stamp where
  steps : Nat
  time : PtpTime
  deriving DecidableEq, Repr

/-- A UDP endpoint; an IPv4 address stands in its IPv4-mapped form (R391). -/
structure Endpoint where
  addr : BitVec 128
  port : BitVec 16
  deriving DecidableEq, Repr

/-- A datagram on the mailbox port: the header fields of R340 but the opcode (the constructor names it), the bytes
between header and tag, the tag, the addresses of the datagram and the arrival stamp. -/
structure Request where
  src : Endpoint
  dst : BitVec 128
  stamp : Stamp
  magic : BitVec 32
  version : BitVec 8
  flags : BitVec 8
  mailbox : BitVec 16
  sequence : BitVec 32
  status : BitVec 16
  length : BitVec 32
  stampField : BitVec 96
  payload : Bytes
  tag : Bytes
  deriving DecidableEq, Repr

/-- A datagram on the stream port: the header fields of R353 but the kind (the constructor names it), the entry bytes
and the tag. -/
structure Frame where
  src : Endpoint
  dst : BitVec 128
  stamp : Stamp
  magic : BitVec 32
  version : BitVec 8
  frameFlags : BitVec 8
  reason : BitVec 8
  mailbox : BitVec 16
  entryCount : BitVec 16
  firstPosition : BitVec 32
  streamId : BitVec 64
  aux : BitVec 32
  reserved : BitVec 32
  entries : Bytes
  tag : Bytes
  deriving DecidableEq, Repr

/-- A Lumwin image without its payload section, each record as its raw little-endian bits (R187 to R200). -/
structure Image where
  header : BitVec 2048
  directory : List (BitVec 256)
  vgrid : List (BitVec 256)
  phases : List (BitVec 256)
  flows : List (BitVec 256)
  layers : List (BitVec 1536)
  envelopes : List (BitVec 128)
  /-- The tide-program section in units of 16 B: instructions, and descriptors of two units each. -/
  programs : List (BitVec 128)
  shards : List (BitVec 768)
  wide : Bytes
  slotLayout : BitVec 512
  draft : Option (BitVec 512)
  sampler : BitVec 256
  signature : Option (BitVec 4224)
  deriving DecidableEq, Repr

/-- One entry of the load report's failure table: code, section type, record index, byte offset (R211). -/
structure Failure where
  code : BitVec 16
  sect : BitVec 16
  record : BitVec 32
  offset : BitVec 64
  deriving DecidableEq, Repr

/-- A schedule fault that another comb than the commanded one detects, or one in a repeat, by the fields of the fault record
(R213, R214). -/
structure UnitFault where
  rule : Nat
  comb : Nat
  pc : BitVec 16
  cycle : BitVec 13
  flow : Nat
  row : BitVec 22
  slot : Nat
  unit : Nat
  detail : Nat
  deriving DecidableEq, Repr

/-- Where and when a tide-program instruction issues: physical comb, program counter, issue_cycle (R130); and the places,
in what it puts into the fabric, of the entries whose sum fails its residue check at the die's adder (R150), the words
that fail their byte parity at the unit that reads them, as row and word (R125), and, where it is a schedule fault, the
faults that other combs detect from its cycle on before the stop reaches them (R213). -/
structure Issue where
  comb : Nat
  pc : BitVec 16
  cycle : BitVec 13
  residue : List Nat := []
  parity : List (BitVec 22 × Nat) := []
  others : List UnitFault := []
  deriving DecidableEq, Repr

/-- The output of a layer that accumulators hold (R195); q of R41 stands in its record. Log 12. -/
structure OutRef where
  layer : BitVec 12
  out : BitVec 3
  deriving DecidableEq, Repr

/-- Body fields of DOT (R131). -/
structure DotOp where
  laneDesc : BitVec 10
  serialDesc : BitVec 10
  laneGroups : BitVec 12
  a : BitVec 4
  b : BitVec 3
  quadMode : Bool
  quad : BitVec 2
  deriving DecidableEq, Repr

/-- Body fields of EMIT (R131). -/
structure EmitOp where
  layer : BitVec 12
  quadMode : Bool
  quad : BitVec 2
  toRow : Bool
  flow : BitVec 16
  firstRow : BitVec 22
  deriving DecidableEq, Repr

/-- Body fields of ROW (R131). -/
structure RowOp where
  src : BitVec 22
  dst : BitVec 22
  count : BitVec 12
  mode : BitVec 2
  laneWidth : BitVec 2
  deriving DecidableEq, Repr

/-- Body fields of SHELF (R131). -/
structure ShelfOp where
  addr : BitVec 38
  desc : BitVec 10
  count : BitVec 12
  gather : Bool
  indexRow : BitVec 22
  deriving DecidableEq, Repr

/-- Body fields of FABRIC (R131). -/
structure FabricOp where
  flow : BitVec 16
  send : Bool
  desc : BitVec 10
  count : BitVec 12
  deriving DecidableEq, Repr

/-- Body fields of ROTATE (R131). -/
structure RotateOp where
  k : BitVec 4
  layer : BitVec 12
  point : BitVec 4
  flow : BitVec 16
  deriving DecidableEq, Repr

/-- Body fields of SLOT (R131). -/
structure SlotOp where
  first : BitVec 8
  count : BitVec 9
  cls : BitVec 2
  deriving DecidableEq, Repr

/-- A tide-program instruction, by the classes of R131. -/
inductive TideOp where
  | wait
  | dot (o : DotOp)
  | emit (o : EmitOp)
  | row (o : RowOp)
  | shelf (o : ShelfOp)
  | fabric (o : FabricOp)
  | rotate (o : RotateOp)
  | fbwin
  | slot (o : SlotOp)
  | done
  deriving DecidableEq, Repr

/-- The address that an Ethernet frame is sent to: one host's, or a group's (R324). -/
inductive FrameDest where
  | unicast (mac : BitVec 48)
  | broadcast
  | allNodes
  | solicitedNode (suffix : BitVec 24)
  | ptpGroup
  | macControl
  | otherGroup
  deriving DecidableEq, Repr

/-- What an IP packet carries (R324, R331). -/
inductive IpPayload where
  | tcp
  | udp (port : BitVec 16)
  | roce (qpn : BitVec 24) (request icrcGood : Bool)
  | other
  deriving DecidableEq, Repr

/-- What an Ethernet frame carries; `extra` is an option or extension header that neighbour discovery does not use (R324). -/
inductive FrameBody where
  | arp
  | pause
  | pfc
  | ip (fragment extra : Bool) (payload : IpPayload)
  | other
  deriving DecidableEq, Repr

/-- An Ethernet frame as the port's filter sees it (R323, R324): its check sequence, length, address, VIDs, priority. -/
structure PortFrame where
  fcsGood : Bool
  bytes : Nat
  dest : FrameDest
  tags : List (BitVec 12)
  priority : Nat
  body : FrameBody
  deriving DecidableEq, Repr

/-- A Thrumbuson frame as the receiving port sees it (R137). -/
structure LinkFrame where
  kind : BitVec 4
  flow : BitVec 16
  flitIndex : BitVec 20
  seq : BitVec 16
  ackSeq : BitVec 16
  nak : Bool
  last : Bool
  reserved : BitVec 22
  payload : Bytes
  parity : BitVec 128
  crc : BitVec 32
  deriving DecidableEq, Repr

/-- One operation of the wide datapath on the registers of a slot (R93, R94). Its result is the slot's next register; a and b
name earlier ones. Parameters stand at a byte of the wide-parameter section (R48). -/
inductive WideOp where
  /-- The slot's row of an output as the root rounded it. -/
  | output (o : OutRef)
  /-- Parameters, in FP32 where `wide` is set, else in BF16. -/
  | param (offset count : Nat) (wide : Bool)
  /-- The BF16 row of the slot's token in the embedding table. -/
  | embed (offset count : Nat)
  /-- The slot's activations that a broadcast flow carries, decoded to FP32 (R56). -/
  | decode (flow : BitVec 16)
  | add (a b : Nat)
  | sub (a b : Nat)
  | mul (a b : Nat)
  | sum (a : Nat) (squares : Bool)
  | mean (a : Nat) (squares : Bool)
  | rsqrt (a : Nat)
  | exp (a : Nat)
  | logistic (a : Nat)
  /-- Rounding to BF16 (R56). -/
  | narrow (a : Nat)
  /-- Dot products of a register in BF16 with `rows` rows of BF16 parameters. -/
  | dot (a offset rows : Nat)
  | part (a first count : Nat)
  | join (a b : Nat)
  deriving DecidableEq, Repr

/-- What the root writes into index rows (R224, R230, R272): the KV that the rows of the step attend to, or the experts of the
predicted list. -/
inductive IndexUse where
  | kv | experts
  deriving DecidableEq, Repr

/-- What the wide datapath does with the rows that a frame completes at the root (R90, R93, R230, R272): operations on each
slot's registers; the registers that the next phase's activations are formed from, with the broadcast flow that carries
them, and KV, block summaries (in FP32 where set), block scores and router logits; and the broadcast flows of index rows.
And the places in the flit of the entries whose sum fails its residue check at the adder (R150). -/
structure WideData where
  ops : List WideOp := []
  acts : Option (Nat × BitVec 16) := none
  kv : Option Nat := none
  summary : Option (Nat × Bool) := none
  scores : Option Nat := none
  logits : Option Nat := none
  index : List (BitVec 16 × IndexUse) := []
  residue : List Nat := []
  deriving DecidableEq, Repr

/-- A late source (R179, R311). -/
inductive Source where
  | none
  | comb (n : Nat)
  | die (n : Nat)
  | link (n : Nat)
  | channels (stack : Nat) (mask : BitVec 32)
  | stack (n : Nat)
  | coveStack (n : Nat)
  | domain (n : Nat)
  | root
  deriving DecidableEq, Repr

/-- What the head does for one slot in a sampling phase (R93, R284, R286): operations on the slot's registers, the register of
the FP32 logits, and those of the draft logits of passes 0, 1, ... -/
structure HeadRow where
  slot : Nat
  ops : List WideOp
  logits : Nat
  draft : List Nat
  deriving DecidableEq, Repr

/-- One domain's measurements in a window (R409): mean current in 0.01 A, mean voltage and lowest voltage in mV, and when
the lowest voltage occurred. -/
structure DomainSample where
  meanCa : BitVec 16
  meanMv : BitVec 16
  minMv : BitVec 12
  minTide : BitVec 64
  minPtp : PtpTime
  minRunning : Bool
  deriving DecidableEq, Repr

/-- Measurements at the end of a telemetry window, in the units of R410 and R417. -/
structure WindowData where
  endTime : PtpTime
  vinCv : BitVec 16
  iinDa : BitVec 16
  pinW10 : BitVec 16
  bankCv : BitVec 16
  domains : List DomainSample
  /-- Per sensor: the raw reading in 0.01 degrees, or none for a sample the sensor reports as invalid. -/
  sensors : List (Option Int)
  deriving DecidableEq, Repr

/-- What the units of a comb read in a repeat (R129, R318): corrected and uncorrectable words, poison reads, bank cycles waited,
the rows that did not read, and its poison reports: of storage on slot operands and on others, and of transport. -/
structure RepeatReads where
  comb : Nat
  corrected : Nat
  uncorrectable : Nat
  poison : Nat
  waits : Nat
  badRows : List (BitVec 22)
  slotReports : Nat := 0
  weightReports : Nat := 0
  transportReports : Nat := 0
  deriving DecidableEq, Repr

/-- What classification observes of an entry (R308): whether the repeat or a shadow met poison or a remap, the schedule fault that
it met (R214), whether its outputs equal the entry's, whether the shadow of each contributor agreed, and what the combs read
(R129). -/
structure ClassifyInput where
  disturbed : Bool
  fault : Option UnitFault := none
  sameOutputs : Bool
  shadows : List (Nat × Bool)
  reads : List RepeatReads := []
  deriving DecidableEq, Repr

/-- How the read of a cove chunk ends (R304): it verifies, fails its digest, or returns an uncorrectable read. -/
inductive ChunkRead where
  | good | badDigest | uncorrectable
  deriving DecidableEq, Repr

/-- Why the hold-up monitor decides on a power failure (R440). -/
inductive PowerCause where
  | inputLow | enableHigh | insertOpen | inputHigh | overcurrent | hiveHot
  deriving DecidableEq, Repr

/-- What power-up observes of the module (R431, R433). -/
structure PowerUpInput where
  pufOk : Bool
  firmwareAOk : Bool
  firmwareBOk : Bool
  recoveryOk : Bool
  strap : Bool
  lidOpen : Bool
  coresFailed : Nat
  convertersFailed : List Nat
  /-- Recorded latched domains that fail their test (R408). -/
  domainsFailed : List Nat
  /-- Active lane groups found by training, per link direction. -/
  laneGroups : List (BitVec 16)
  /-- Shelf channels that fail training, per stack. -/
  channelsFailed : List (BitVec 32)
  /-- A hive domain that latches off while it ramps, 0 to 3 for SRAM, logic, link, memory interface (R433). -/
  hiveLatched : Option Nat
  deriving DecidableEq, Repr

/-- What calibration observes (R420, R111). -/
structure CalibrationInput where
  /-- Per sensor: the trim it needs, in 0.01 degrees; coolant sensors: deviation from the median. -/
  trims : List Int
  /-- Per hot spot: fitted R_h, R'_h (K/W) and a_h. -/
  fits : List (Rat × Rat × Rat)
  /-- Per comb: rows and columns that the self-test adds to the repair map, and whether banks and program memory pass. -/
  combTests : List (List Nat × List Nat × Bool)
  rise : Rat
  characterisedRise : Rat
  baseline : Rat
  time : PtpTime
  deriving DecidableEq, Repr

/-- What is mended from the backing copy (R302): a row of scratchpad or a program-memory word. -/
inductive MendTarget where
  | row (ra : BitVec 22)
  | program (pc : BitVec 16)
  | descriptor (n : BitVec 10)
  deriving DecidableEq, Repr

/-- The commands, in the table's order. -/
inductive Instr where
  -- mailbox requests
  | moduleInfo (r : Request)
  | identityCert (r : Request)
  | ownerClaim (r : Request) (key : Option Key)
  | ownerTransfer (r : Request) (key : Option Key)
  | ownerRelease (r : Request)
  | moduleShutdown (r : Request)
  | tenantEnrol (r : Request) (key : Option Key)
  | tenantRemove (r : Request)
  | tenantQuery (r : Request)
  | imageSourceSet (r : Request)
  | imageLoad (r : Request) (network : Option Image)
  | coveStage (r : Request) (network : Option Image)
  | imageStop (r : Request)
  | imageStart (r : Request)
  | imageUnload (r : Request)
  | imageQuery (r : Request)
  | quarantineClear (r : Request)
  | coveObjectQuery (r : Request)
  | coveObjectSet (r : Request)
  | coveErase (r : Request)
  | imageKeyEnrol (r : Request)
  | imageKeyRemove (r : Request)
  | streamOpen (r : Request)
  | streamGenerate (r : Request)
  | streamStop (r : Request)
  | streamClose (r : Request)
  | streamPark (r : Request)
  | streamResume (r : Request)
  | streamSet (r : Request)
  | streamQuery (r : Request)
  | streamList (r : Request)
  | ownerStreamStop (r : Request)
  | ownerClose (r : Request)
  | ownerPark (r : Request)
  | ownerStreamSet (r : Request)
  | ownerStreamQuery (r : Request)
  | ownerStreamList (r : Request)
  | prefixPublish (r : Request)
  | prefixDrop (r : Request)
  | prefixQuery (r : Request)
  | policySet (r : Request)
  | policyQuery (r : Request)
  | thermalPolicySet (r : Request)
  | faultPolicySet (r : Request)
  | portConfigSet (r : Request)
  | noticeConfigSet (r : Request)
  | telemetrySelect (r : Request)
  | powerPolicySet (r : Request)
  | telemetryRead (r : Request)
  | counterQuery (r : Request)
  | faultQuery (r : Request)
  | slotQuery (r : Request)
  | servingQuery (r : Request)
  | attestQuote (r : Request)
  | firmwareChunk (r : Request)
  | firmwareActivate (r : Request)
  -- presence
  | presencePendingWriteDone
  | presencePress (closureMs : Nat) (stamp : Stamp)
  | presenceRefusal
  | presenceWindowExpiry
  -- stream frames
  | prompt (f : Frame)
  | hostNak (f : Frame)
  | tokenEmission (record : Nat)
  | stateFrameRepeat
  -- the tide
  | tideBoundary
  | servingIntervalBoundary
  | epochBoundary
  | stepBoundary
  | dataPlaneStart
  | prologueLanded
  | prologueTimeout (channels : List (BitVec 32))
  | wait (i : Issue)
  | dot (i : Issue) (o : DotOp) (out : OutRef)
  | emit (i : Issue) (o : EmitOp) (out : BitVec 3)
  | row (i : Issue) (o : RowOp)
  | shelf (i : Issue) (o : ShelfOp)
  | fabric (i : Issue) (o : FabricOp)
  | rotate (i : Issue) (o : RotateOp)
  | fbwin (i : Issue)
  | slot (i : Issue) (o : SlotOp)
  | done (i : Issue)
  | fallbackWindowClose (comb : Nat)
  /-- `parity`: words of the row that fail their byte parity at the scratchpad (R125, R138, R217). -/
  | rowLands (comb : Nat) (ra : BitVec 22) (parity : List Nat)
  | linkFrameReceive (link : Nat) (dir : Bool) (group : Nat) (f : LinkFrame) (wide : WideData)
  | expertPageinComplete (stack : Nat) (vcomb layer expert : Nat)
  | expertPromotionComplete (layer expert : Nat)
  | samplingPhase (rows : List HeadRow)
  | holdRaise (cause : BitVec 8) (point : BitVec 13) (source : Source)
  | holdRelease (index : Nat) (elapsed : Nat)
  | knownHoldEnd (index : Nat)
  | slackTimeout (index : Nat)
  | mend (comb : Nat) (t : MendTarget)
  | scrubRow (comb : Nat) (ra : BitVec 22)
  | shelfScrub (stack unit : Nat)
  | shelfRefresh (stack : Nat) (point : BitVec 13)
  | channelRetirement (stack channel : Nat)
  | remap (selfTestFails : List Nat)
  | classify (index : Nat) (x : ClassifyInput)
  | classifyExpiry (index : Nat)
  | serveNextInterval
  | parkDelayExpiry (record : Nat)
  | readyParkDelayExpiry (record : Nat)
  | parkCommit (record : Nat)
  | resumeLanded (record : Nat)
  | prefixReadbackComplete (index : Nat)
  | prefixCopyDone (index : Nat)
  | closedRecordExpiry (mailbox : BitVec 16) (streamId : BitVec 64)
  | loadPayloadStart
  | shardRangeLanded (index : Nat) (data : Bytes)
  | loadComplete
  | rdmaReadResponse (qp : Nat) (reads : Nat) (ce : Bool)
  | rdmaTimeout (qp : Nat) (psn : BitVec 24)
  | cnpReceive (qp : Nat)
  | cnpRecoveryTick (qp : Nat)
  | stageCommit (digestsMatch : Bool)
  | extentDurable (object : BitVec 128) (extent : Nat)
  | holdupRetry
  | coveExpiryCheck (now : PtpTime)
  | coveChunkRead (object : BitVec 128) (extent chunk : Nat) (found : ChunkRead) (network : Bool)
  | coveScrub (object : BitVec 128) (extent : Nat) (ok : Bool)
  | journalCompaction (stack : Nat)
  | configDurabilityWrite
  | telemetryWindowEnd (w : WindowData)
  | thermalResume
  | sensorCheckIdle
  | reportPeriodEnd
  | busConverterCheck (failed : List Nat)
  | warningClear (code index : Nat)
  | overcurrentLatch (domain : Nat)
  | powerFailureDecision (cause : PowerCause)
  | goDark
  | lidSealOpen
  | powerUp (x : PowerUpInput)
  | capacitanceTest (dischargeMs : Nat)
  | coveMount
  | calibration (x : CalibrationInput)
  | readyPoint
  | portLinkUp (pmd : BitVec 8) (powerW : Nat) (trained : Bool)
  | portLinkDown
  /-- The alarm, and the codewords of the FEC corrected and not correctable since the last reading (log 36). -/
  | pluggableMonitor (alarm : BitVec 256) (corrected uncorrected : Nat)
  | pfcFrameReceive (classes : BitVec 8) (quanta : List (BitVec 16))
  | arpNdRequest (family : Nat) (target : BitVec 128) (from_ : Endpoint)
  | echoRequest (family : Nat) (target : BitVec 128) (from_ : Endpoint) (bytes : Nat)
  | portConfigRevert
  /-- time: what the clock reads once the Sync has been taken. -/
  | ptpSyncReceive (master : BitVec 64) (offsetNs : Int) (time : PtpTime) (ppb : Int)
  | ptpDelayReq
  | ptpHoldover
  | keeperCoreFailure (core : Nat)
  | ptpAnnounceReceive (master : BitVec 64) (priority1 cls accuracy variance priority2 : Nat) (steps : Nat)
  | ptpDelayRespReceive (master : BitVec 64) (delayNs : Int)
  | frameFilterDrop (frame : PortFrame)
  | pfcPauseExpiry (priority : Nat)
  | pfcBufferThreshold (priority : Nat) (level : Nat)
  | arpNdReply (family : Nat) (addr : BitVec 128) (mac : BitVec 48)
  | undefinedOpcodeRequest (r : Request) (opcode : BitVec 16)
  deriving DecidableEq, Repr

end Sys2Proof
end

