-- ==== Sys2Proof/Decode.lean ====
section
/-! DEFINITION. The command a word of the table spells, and the encoding of tide-program instructions (R130, R131). -/

namespace Sys2Proof

/-- The table gives no row any bits, so no word spells a command. -/
def decodeTableWord (_nbits _w : Nat) : Option Instr := none

/-! ## Tide-program instructions (R131): class, issue_cycle, 15 zero bits, body -/

/-- A Bool as one bit. -/
def bit1 (b : Bool) : BitVec 1 := if b then 1 else 0

/-- The body field of an instruction, 96 bits. -/
def TideOp.body : TideOp → BitVec 96
  | .wait => 0
  | .dot o => o.laneDesc ++ o.serialDesc ++ o.laneGroups ++ o.a ++ o.b ++ bit1 o.quadMode ++ o.quad ++ 0#54
  | .emit o => o.layer ++ bit1 o.quadMode ++ o.quad ++ bit1 o.toRow ++ o.flow ++ o.firstRow ++ 0#42
  | .row o => o.src ++ o.dst ++ o.count ++ o.mode ++ o.laneWidth ++ 0#36
  | .shelf o => o.addr ++ o.desc ++ o.count ++ bit1 o.gather ++ o.indexRow ++ 0#13
  | .fabric o => o.flow ++ bit1 o.send ++ o.desc ++ o.count ++ 0#57
  | .rotate o => o.k ++ o.layer ++ o.point ++ o.flow ++ 0#60
  | .fbwin => 0
  | .slot o => o.first ++ o.count ++ o.cls ++ 0#77
  | .done => 0

/-- The class code of an instruction. -/
def TideOp.cls : TideOp → BitVec 4
  | .wait => 0x0 | .dot _ => 0x1 | .emit _ => 0x2 | .row _ => 0x3 | .shelf _ => 0x4 | .fabric _ => 0x5 | .rotate _ => 0x6
  | .fbwin => 0x7 | .slot _ => 0x8 | .done => 0xF

/-- An instruction word (R130, R131). -/
def encodeTide (cycle : BitVec 13) (o : TideOp) : BitVec 128 := o.cls ++ cycle ++ 0#15 ++ o.body

/-- Bits hi..lo of a word, as w bits. -/
def cut {n : Nat} (w : Nat) (x : BitVec n) (lo : Nat) : BitVec w := x.extractLsb' lo w

/-- One bit as a Bool. -/
def cutBit {n : Nat} (x : BitVec n) (i : Nat) : Bool := x.getLsbD i

/-- An answer only where reserved bits are zero and the ranges hold (R131). -/
def ifOk (c : Bool) (o : TideOp) : Option TideOp := if c then some o else none

/-- The instruction of a class code and a body; none where R131 rejects it. -/
def decodeBody (c : BitVec 4) (b : BitVec 96) : Option TideOp :=
  match c.toNat with
  | 0x0 => ifOk (b == 0) .wait
  | 0x1 =>
    let o : DotOp := ⟨cut 10 b 86, cut 10 b 76, cut 12 b 64, cut 4 b 60, cut 3 b 57, cutBit b 56, cut 2 b 54⟩
    ifOk (cut 54 b 0 == 0 && o.laneGroups != 0 && decide (3 ≤ o.a.toNat) && decide (o.a.toNat ≤ 9)
      && decide (o.b.toNat ≤ 4)) (.dot o)
  | 0x2 => ifOk (cut 42 b 0 == 0)
    (.emit ⟨cut 12 b 84, cutBit b 83, cut 2 b 81, cutBit b 80, cut 16 b 64, cut 22 b 42⟩)
  | 0x3 =>
    let o : RowOp := ⟨cut 22 b 74, cut 22 b 52, cut 12 b 40, cut 2 b 38, cut 2 b 36⟩
    ifOk (cut 36 b 0 == 0 && o.count != 0 && decide (o.laneWidth.toNat ≤ 2)) (.row o)
  | 0x4 => ifOk (cut 13 b 0 == 0) (.shelf ⟨cut 38 b 58, cut 10 b 48, cut 12 b 36, cutBit b 35, cut 22 b 13⟩)
  | 0x5 => ifOk (cut 57 b 0 == 0) (.fabric ⟨cut 16 b 80, cutBit b 79, cut 10 b 69, cut 12 b 57⟩)
  | 0x6 =>
    let o : RotateOp := ⟨cut 4 b 92, cut 12 b 80, cut 4 b 76, cut 16 b 60⟩
    ifOk (cut 60 b 0 == 0 && decide (6 ≤ o.k.toNat) && decide (o.k.toNat ≤ 14)) (.rotate o)
  | 0x7 => ifOk (b == 0) .fbwin
  | 0x8 =>
    let o : SlotOp := ⟨cut 8 b 88, cut 9 b 79, cut 2 b 77⟩
    ifOk (cut 77 b 0 == 0 && o.count != 0 && decide (o.count.toNat ≤ 256) && decide (o.cls.toNat ≤ 2)) (.slot o)
  | 0xF => ifOk (b == 0) .done
  | _ => none

/-- issue_cycle and instruction of a program-memory word; none for a word that R131 rejects. -/
def decodeTide (w : BitVec 128) : Option (BitVec 13 × TideOp) :=
  if cut 15 w 96 = 0 then (decodeBody (cut 4 w 124) (cut 96 w 0)).map fun o => (cut 13 w 111, o) else none

end Sys2Proof
end

