-- ==== Sys2Proof/Config.lean ====
section
/-! DEFINITION. What one module fixes, and the free values: constants without a body, of which no proof can know a
value (the assumption log names each). -/

namespace Sys2Proof.Config

/-- The module's universally administered MAC address (R328: unique to the module; R372 binds no value). Log 3. -/
opaque macAddress : BitVec 48
/-- The DER identity certificate of the module (R382). Log 3. -/
opaque certificate : Bytes
/-- SHA-512 of the boot ROM, one published value per stepping (R387). Log 6. -/
opaque bootMeasurement : Bool → Digest
/-- SHA-512 of the firmware copy a module leaves manufacture with, and of the recovery firmware (R387). Log 6. -/
opaque firmwareMeasurement : Bool → Digest
/-- welent_version in the header of the recovery firmware (R385). Log 6. -/
opaque recoveryVersion : BitVec 48
/-- SHA-512 of the modulus of firmware key n, as the boot ROM holds it (R385). Log 6. -/
opaque bootKey : Nat → Digest
/-- Byte n of a firmware copy's region as manufactured, of copy B where the flag is set (R385). Log 6. -/
opaque flashByte : Bool → Nat → Byte
/-- The n-th 64-bit value drawn from the security engine's CTR_DRBG (R380). Log 6. -/
opaque drbg : Nat → BitVec 64
/-- The identity key's RSASSA-PSS signature of a message, 512 bytes (R387). Log 6. -/
opaque identitySign : Bytes → Bytes
/-- How a real quantity is brought into the units of a telemetry or summary field (R410, R417, R428 state the unit and
no rounding); the first argument names the field. Log 13. -/
opaque inUnits : Nat → Rat → Int
/-- Characterised resistance of a physical quadrant of a comb, in any unit (R421). Log 6. -/
opaque quadrantResistance : Nat → Nat → Nat
/-- The reciprocal square root of a value that is not positive (R94 states none). Log 15. -/
opaque rsqrtOther : F32 → F32
/-- A value that the spec leaves open, drawn from the free-value counter of State. Log 6. -/
opaque freeValue : Nat → BitVec 64

end Sys2Proof.Config
end

