-- ==== Sys2Proof/Machine/Bits.lean ====
section
/-! DEFINITION. Bit fields, byte order, saturating counters, SHA-512, HMAC-SHA-512/256 and the Ethernet CRC-32: the
helpers that every family uses. SHA-512, SHA-512/256 and HMAC keep their standard meanings (00_scope.md). -/

namespace Sys2Proof.Machine

/-- Bits hi..lo of a bit vector, as a number (R6). -/
def bits {w : Nat} (x : BitVec w) (hi lo : Nat) : Nat := (x.toNat >>> lo) % 2 ^ (hi + 1 - lo)

/-- Bit i of a bit vector. -/
def bit {w : Nat} (x : BitVec w) (i : Nat) : Bool := x.toNat.testBit i

/-- Bits hi..lo of a bit vector, read as a two's-complement number. -/
def sbits {w : Nat} (x : BitVec w) (hi lo : Nat) : Int := (BitVec.ofNat (hi + 1 - lo) (bits x hi lo)).toInt

/-- x with bits hi..lo replaced by v. -/
def setBits {w : Nat} (x : BitVec w) (hi lo v : Nat) : BitVec w :=
  let n := x.toNat
  BitVec.ofNat w (n - ((n >>> lo) % 2 ^ (hi + 1 - lo)) * 2 ^ lo + (v % 2 ^ (hi + 1 - lo)) * 2 ^ lo)

/-- A number from bytes, the first byte the most significant. -/
def natBE (bs : Bytes) : Nat := bs.foldl (fun a b => a * 256 + b.toNat) 0

/-- A number from bytes, the first byte the least significant. -/
def natLE (bs : Bytes) : Nat := natBE bs.reverse

/-- The k low bytes of n, the least significant first. -/
def bytesLE : Nat → Nat → Bytes
  | 0, _ => []
  | k + 1, n => BitVec.ofNat 8 n :: bytesLE k (n / 256)

/-- The k low bytes of n, the most significant first. -/
def bytesBE (k n : Nat) : Bytes := (bytesLE k n).reverse

/-- len bytes of p from off, big-endian, as a number (0 beyond the end). -/
def field (p : Bytes) (off len : Nat) : Nat := natBE ((p.drop off).take len)

/-- A big-endian record from its fields, each a width and a value, most significant first (the field tables carry
records big-endian; R7). -/
def pack (fs : List (Nat × Nat)) : Bytes :=
  let r := fs.foldl (fun (a : Nat × Nat) f => (a.1 + f.1, a.2 * 2 ^ f.1 + f.2 % 2 ^ f.1)) (0, 0)
  bytesBE (r.1 / 8) r.2

/-- The value of a Bool in a field. -/
def flag (b : Bool) : Nat := if b then 1 else 0

/-- A signed value as the w-bit code of a field. -/
def code (w : Nat) (x : Int) : Nat := (BitVec.ofInt w x).toNat

/-- Addition that saturates at the all-ones value (R129, R161, R183, R249, R318, R361). -/
def satAdd {w : Nat} (x : BitVec w) (n : Nat) : BitVec w :=
  if x.toNat + n < 2 ^ w then BitVec.ofNat w (x.toNat + n) else BitVec.allOnes w

/-- A counter one higher, saturating. -/
def satInc {w : Nat} (x : BitVec w) : BitVec w := satAdd x 1

/-- Element i of a list, or the default. -/
def nth {α : Type} (l : List α) (i : Nat) (d : α) : α := l.getD i d

/-- The list with f applied to element i. -/
def upd {α : Type} (l : List α) (i : Nat) (f : α → α) : List α := l.modify i f

/-- The first value that an association list gives a key. -/
def lookup {α β : Type} [DecidableEq α] (l : List (α × β)) (k : α) : Option β :=
  (l.find? (fun p => p.1 = k)).map (·.2)

/-- An association list without a key. -/
def remove {α β : Type} [DecidableEq α] (l : List (α × β)) (k : α) : List (α × β) := l.filter (fun p => p.1 ≠ k)

/-- An association list with the value of a key replaced, in the key's place or at the end. -/
def assign {α β : Type} [DecidableEq α] : List (α × β) → α → β → List (α × β)
  | [], k, v => [(k, v)]
  | p :: l, k, v => if p.1 = k then (k, v) :: l else p :: assign l k v

/-- The last n elements of a list. -/
def lastN {α : Type} (n : Nat) (l : List α) : List α := l.drop (l.length - n)

/-! SHA-512 over numbers below 2^64. -/

/-- x put before the first element that it does not follow. -/
def insertBy {α : Type} (le : α → α → Bool) (x : α) : List α → List α
  | [] => [x]
  | y :: ys => if le x y then x :: y :: ys else y :: insertBy le x ys

/-- A list in order, equal elements in their places. -/
def sortBy {α : Type} (le : α → α → Bool) (l : List α) : List α := l.foldr (insertBy le) []

/-- Evaluate n before going on. -/
def strict {α : Type} (n : Nat) (k : Nat → α) : α :=
  match n with
  | 0 => k 0
  | m + 1 => k (m + 1)

/-- x rotated right by n of 64 bits. -/
def rotr64 (x n : Nat) : Nat := Nat.lor (Nat.shiftRight x n) (Nat.mod (Nat.shiftLeft x (Nat.sub 64 n)) 0x10000000000000000)

def shaK : List Nat :=
    [0x428A2F98D728AE22, 0x7137449123EF65CD, 0xB5C0FBCFEC4D3B2F, 0xE9B5DBA58189DBBC, 0x3956C25BF348B538, 0x59F111F1B605D019, 0x923F82A4AF194F9B, 0xAB1C5ED5DA6D8118] ++
    [0xD807AA98A3030242, 0x12835B0145706FBE, 0x243185BE4EE4B28C, 0x550C7DC3D5FFB4E2, 0x72BE5D74F27B896F, 0x80DEB1FE3B1696B1, 0x9BDC06A725C71235, 0xC19BF174CF692694] ++
    [0xE49B69C19EF14AD2, 0xEFBE4786384F25E3, 0x0FC19DC68B8CD5B5, 0x240CA1CC77AC9C65, 0x2DE92C6F592B0275, 0x4A7484AA6EA6E483, 0x5CB0A9DCBD41FBD4, 0x76F988DA831153B5] ++
    [0x983E5152EE66DFAB, 0xA831C66D2DB43210, 0xB00327C898FB213F, 0xBF597FC7BEEF0EE4, 0xC6E00BF33DA88FC2, 0xD5A79147930AA725, 0x06CA6351E003826F, 0x142929670A0E6E70] ++
    [0x27B70A8546D22FFC, 0x2E1B21385C26C926, 0x4D2C6DFC5AC42AED, 0x53380D139D95B3DF, 0x650A73548BAF63DE, 0x766A0ABB3C77B2A8, 0x81C2C92E47EDAEE6, 0x92722C851482353B] ++
    [0xA2BFE8A14CF10364, 0xA81A664BBC423001, 0xC24B8B70D0F89791, 0xC76C51A30654BE30, 0xD192E819D6EF5218, 0xD69906245565A910, 0xF40E35855771202A, 0x106AA07032BBD1B8] ++
    [0x19A4C116B8D2D0C8, 0x1E376C085141AB53, 0x2748774CDF8EEB99, 0x34B0BCB5E19B48A8, 0x391C0CB3C5C95A63, 0x4ED8AA4AE3418ACB, 0x5B9CCA4F7763E373, 0x682E6FF3D6B2B8A3] ++
    [0x748F82EE5DEFB2FC, 0x78A5636F43172F60, 0x84C87814A1F0AB72, 0x8CC702081A6439EC, 0x90BEFFFA23631E28, 0xA4506CEBDE82BDE9, 0xBEF9A3F7B2C67915, 0xC67178F2E372532B] ++
    [0xCA273ECEEA26619C, 0xD186B8C721C0C207, 0xEADA7DD6CDE0EB1E, 0xF57D4F7FEE6ED178, 0x06F067AA72176FBA, 0x0A637DC5A2C898A6, 0x113F9804BEF90DAE, 0x1B710B35131C471B] ++
    [0x28DB77F523047D84, 0x32CAAB7B40C72493, 0x3C9EBE0A15C9BEBC, 0x431D67C49C100D4C, 0x4CC5D4BECB3E42B6, 0x597F299CFC657E2A, 0x5FCB6FAB3AD6FAEC, 0x6C44198C4A475817]

def sha512Start : List Nat :=
    [0x6A09E667F3BCC908, 0xBB67AE8584CAA73B, 0x3C6EF372FE94F82B, 0xA54FF53A5F1D36F1, 0x510E527FADE682D1, 0x9B05688C2B3E6C1F, 0x1F83D9ABFB41BD6B, 0x5BE0CD19137E2179]

def sha512256Start : List Nat :=
    [0x22312194FC2BF72C, 0x9F555FA3C84C64C2, 0x2393B86B6F53B151, 0x963877195940EABD, 0x96283EE2A88EFFE3, 0xBE5E1E2553863992, 0x2B0199FC2C85B8AA, 0x0EB72DDC81C52CA2]

/-- The sixteen schedule words in force, the oldest first. -/
structure ShaWords where
  (a b c d e f g h i j k l m n o p : Nat)

/-- The schedule word after them. -/
def shaWord (w : ShaWords) : Nat :=
  let s0 := Nat.xor (Nat.xor (rotr64 w.b 1) (rotr64 w.b 8)) (Nat.shiftRight w.b 7)
  let s1 := Nat.xor (Nat.xor (rotr64 w.o 19) (rotr64 w.o 61)) (Nat.shiftRight w.o 6)
  Nat.mod (Nat.add (Nat.add w.a s0) (Nat.add w.j s1)) 0x10000000000000000

/-- The eight working variables of one block. -/
structure ShaVars where
  (a b c d e f g h : Nat)

def shaRound (v : ShaVars) (k w : Nat) : ShaVars :=
  let s1 := Nat.xor (Nat.xor (rotr64 v.e 14) (rotr64 v.e 18)) (rotr64 v.e 41)
  let ch := Nat.xor (Nat.land v.e v.f) (Nat.land (Nat.sub 0xFFFFFFFFFFFFFFFF v.e) v.g)
  let s0 := Nat.xor (Nat.xor (rotr64 v.a 28) (rotr64 v.a 34)) (rotr64 v.a 39)
  let mj := Nat.xor (Nat.xor (Nat.land v.a v.b) (Nat.land v.a v.c)) (Nat.land v.b v.c)
  strict (Nat.mod (Nat.add (Nat.add (Nat.add v.h s1) (Nat.add ch k)) w) 0x10000000000000000) fun t1 =>
  strict (Nat.mod (Nat.add v.d t1) 0x10000000000000000) fun e' =>
  strict (Nat.mod (Nat.add t1 (Nat.add s0 mj)) 0x10000000000000000) fun a' => ⟨a', v.a, v.b, v.c, e', v.e, v.f, v.g⟩

def shaRounds : List Nat → ShaWords → ShaVars → ShaVars
  | [], _, v => v
  | k :: ks, ⟨w0, w1, w2, w3, w4, w5, w6, w7, w8, w9, w10, w11, w12, w13, w14, w15⟩, v =>
    match shaRound v k w0 with
    | ⟨a, b, c, d, e, f, g, h⟩ =>
      strict (shaWord ⟨w0, w1, w2, w3, w4, w5, w6, w7, w8, w9, w10, w11, w12, w13, w14, w15⟩) fun w =>
        shaRounds ks ⟨w1, w2, w3, w4, w5, w6, w7, w8, w9, w10, w11, w12, w13, w14, w15, w⟩ ⟨a, b, c, d, e, f, g, h⟩

/-- One block of 16 words. -/
def shaBlock (h : List Nat) (w : Nat → Nat) : List Nat :=
  let v := shaRounds shaK ⟨w 0, w 1, w 2, w 3, w 4, w 5, w 6, w 7, w 8, w 9, w 10, w 11, w 12, w 13, w 14, w 15⟩
    ⟨h.getD 0 0, h.getD 1 0, h.getD 2 0, h.getD 3 0, h.getD 4 0, h.getD 5 0, h.getD 6 0, h.getD 7 0⟩
  List.zipWith (fun x y => Nat.mod (Nat.add x y) 0x10000000000000000) h [v.a, v.b, v.c, v.d, v.e, v.f, v.g, v.h]

/-- k of the big-endian number that n bytes add to x, and of the bytes after them. -/
def withWord {α : Type} (k : Nat → Bytes → α) : Nat → Nat → Bytes → α
  | 0, x, bs => k x bs
  | n + 1, x, [] => withWord k n x []
  | n + 1, x, b :: bs => strict (Nat.add (Nat.mul x 256) b.toNat) fun y => withWord k n y bs

/-- k of the first n 64-bit words of a byte string, and of the bytes after them. -/
def withWords {α : Type} : Nat → (List Nat → Bytes → α) → Bytes → α
  | 0, k, bs => k [] bs
  | n + 1, k, bs => withWord (fun w rest => withWords n (fun ws r => k (w :: ws) r) rest) 8 0 bs

def shaBlocks : Nat → List Nat → Bytes → List Nat
  | 0, h, _ => h
  | n + 1, h, bs => withWords 16 (fun ws rest => shaBlocks n (shaBlock h fun k => ws.getD k 0) rest) bs

/-- SHA-512 with a given start value: padding, then the blocks. -/
def shaWith (start : List Nat) (m : Bytes) : Bytes :=
  let l := m.length
  let z := (239 - l % 128) % 128
  let p := m ++ (0x80#8 :: List.replicate z 0#8) ++ bytesBE 16 (8 * l)
  (shaBlocks ((l + z + 17) / 128) start p).flatMap (bytesBE 8)

/-- SHA-512. -/
def sha512 (m : Bytes) : Bytes := shaWith sha512Start m

/-- SHA-512 as a digest. -/
def digestOf (m : Bytes) : Digest := BitVec.ofNat 512 (natBE (sha512 m))

/-- SHA-512/256. -/
def sha512256 (m : Bytes) : Bytes := (shaWith sha512256Start m).take 32

/-- HMAC-SHA-512/256 under a 64-byte key (R342). -/
def hmac (key : Key) (m : Bytes) : Bytes :=
  let k := bytesBE 64 key.toNat ++ List.replicate 64 0#8
  let ipad := k.map (fun b => BitVec.ofNat 8 (Nat.xor b.toNat 0x36))
  let opad := k.map (fun b => BitVec.ofNat 8 (Nat.xor b.toNat 0x5C))
  sha512256 (opad ++ sha512256 (ipad ++ m))

/-! CRC-32 with the IEEE 802.3 polynomial (R137). -/

def crcBit : Nat → Nat → Nat
  | 0, c => c
  | n + 1, c => strict (if c % 2 = 1 then Nat.xor (c / 2) 0xEDB88320 else c / 2) fun c' => crcBit n c'

def crcByte (c : Nat) (b : Byte) : Nat := crcBit 8 (Nat.xor c b.toNat)

def crc32 (bs : Bytes) : BitVec 32 := BitVec.ofNat 32 (Nat.xor (bs.foldl crcByte 0xFFFFFFFF) 0xFFFFFFFF)

end Sys2Proof.Machine
end

