-- ==== Sys2Proof/Machine/State.lean ====
section
/-! DEFINITION. The state of the module as plain data, its reset value, and the reasons a step can stop. Each group is
the state that one chapter of the spec gives the machine; INVENTORY.md lists every field with its rule. -/

namespace Sys2Proof.Machine

/-! ## Mailbox, identity and configuration -/

/-- Which firmware runs (R385, R396). -/
inductive Firmware where
  | copyA | copyB | recovery
  deriving DecidableEq, Repr

/-- The module's identity and the facts of this power-up (R372). -/
structure Ident where
  grade : BitVec 8
  stepping : Bool
  welentVersion : BitVec 48
  protocolVersion : BitVec 8
  macAddress : BitVec 48
  strapInstalled : Bool
  firmware : Firmware
  /-- SHA-512 of the firmware copy that booted (R387). -/
  measurement : Digest
  standingPresence : Bool
  /-- The boot ROM's SHA-512 digests of the four firmware keys (R385). -/
  bootKeys : List Digest
  deriving DecidableEq, Repr

/-- The 14 words of R368, each in the layout of its field table; word 6 has one byte per comb. -/
structure Words where
  w1 : BitVec 32
  w2 : BitVec 64
  w3 : BitVec 64
  w4 : BitVec 256
  w5 : BitVec 32
  w6 : List (BitVec 8)
  w7 : BitVec 32
  w8 : BitVec 64
  w9 : BitVec 32
  w10 : BitVec 32
  w11 : BitVec 512
  w12 : BitVec 256
  w13 : BitVec 64
  w14 : BitVec 32
  deriving DecidableEq, Repr

/-- A tenant entry: its mailbox, key and prefix list (R392). -/
structure Tenant where
  mailbox : BitVec 16
  key : Key
  prefixes : List (BitVec 256)
  deriving DecidableEq, Repr

/-- An enrolled image key (R393). -/
structure ImageKey where
  keyId : BitVec 128
  exponent : BitVec 32
  modulus : BitVec 4096
  deriving DecidableEq, Repr

/-- Repair map of a comb: disabled physical rows and columns (R109). -/
structure Repair where
  rows : List Nat
  cols : List Nat
  deriving DecidableEq, Repr

/-- The content of a config copy (15, section Config flash). -/
structure Cfg where
  claimed : Bool
  ownerKey : Key
  ownerPrefixes : List (BitVec 256)
  tenants : List Tenant
  words : Words
  imageKeys : List ImageKey
  coveMasterKey : Option (BitVec 256)
  quarantine : List (Digest × BitVec 1024)
  repair : List Repair
  setpoints : List (BitVec 12)
  latched : List Nat
  activeCopyB : Bool
  rollbackCounter : BitVec 32
  powerUpCount : BitVec 24
  faultSerial : BitVec 32
  goodCombs : List Bool
  deriving DecidableEq, Repr

/-- One config copy on the flash (R382 to R384): a PENDING copy carries what its undo section restores. -/
structure ConfigCopy where
  pending : Bool
  serial : BitVec 64
  pressStamp : PtpTime
  content : Cfg
  undo : Option Cfg
  deriving DecidableEq, Repr

/-- One firmware copy (R385) as FIRMWARE_CHUNK leaves it: the first 18 bytes of its header as manufactured, the chunks
written over it, oldest first, and the highest offset plus length written. -/
structure FirmwareCopy where
  head : Bytes
  chunks : List (Nat × Bytes)
  written : Nat
  deriving DecidableEq, Repr

/-- The config flash. dirty: command-class writes committed and not yet durable (R367). -/
structure Flash where
  copyA : Option ConfigCopy
  copyB : Option ConfigCopy
  selectedB : Bool
  firmwareA : FirmwareCopy
  firmwareB : FirmwareCopy
  dirty : Bool
  writing : Bool
  deriving DecidableEq, Repr

/-- The last change of an object (R350). -/
structure Change where
  serial : BitVec 64
  mailbox : BitVec 16
  deriving DecidableEq, Repr

/-- One entry of a response cache (R343): the answer is kept as the datagram's fields. -/
structure CacheEntry where
  mailbox : BitVec 16
  sequence : BitVec 32
  digest : Digest
  opcode : BitVec 16
  status : BitVec 16
  payload : Bytes
  stamp : PtpTime
  deriving DecidableEq, Repr

/-- A message outstanding (R344): a long operation or a presence-pending command. -/
structure Outstanding where
  mailbox : BitVec 16
  sequence : BitVec 32
  opcode : BitVec 16
  src : Endpoint
  dst : BitVec 128
  stamp : PtpTime
  /-- stream_id, prefix index or 0. -/
  subject : BitVec 64
  /-- Mailbox of the stream it is about, or 0; stream identifiers are unique in a mailbox only (R254). -/
  holder : BitVec 16
  /-- The change serial the request received. -/
  serial : BitVec 64
  /-- effect_at of the change it committed (R365). -/
  effectAt : BitVec 64
  deriving DecidableEq, Repr

/-- The mailbox record (13, section Mailbox record). -/
structure MailboxRecord where
  msgsAccepted : BitVec 32 := 0
  droppedAuth : BitVec 32 := 0
  duplicates : BitVec 16 := 0
  windowFull : BitVec 16 := 0
  staleOrReused : BitVec 16 := 0
  lateResponses : BitVec 16 := 0
  framesInAccepted : BitVec 32 := 0
  framesOut : BitVec 32 := 0
  naksReceived : BitVec 16 := 0
  naksSent : BitVec 16 := 0
  deriving DecidableEq, Repr

/-- A notice as the ring keeps it (R359). -/
structure Notice where
  code : BitVec 16
  serial : BitVec 32
  record : BitVec 512
  /-- Sent, or not to be sent (masked off, or no destination). -/
  sent : Bool
  deriving DecidableEq, Repr

/-- Progress of MODULE_SHUTDOWN (R438). -/
inductive Shutdown where
  | no | accepted | complete
  deriving DecidableEq, Repr

/-- The mailbox engine's state. -/
structure Mbox where
  cache : List CacheEntry
  outstanding : List Outstanding
  records : List MailboxRecord
  changes : BitVec 40
  moduleChange : Change
  imageChange : Change
  wordChanges : List Change
  tenantChanges : List (BitVec 16 × Change)
  /-- Words whose T fields wait for the epoch boundary, written beside an E field (R21). -/
  lateT : List Nat
  shutdown : Shutdown
  notices : List Notice
  noticeSerial : BitVec 32
  deriving DecidableEq, Repr

/-- What leaves the port (model's own record of it, log 2). -/
inductive Sent where
  | message (dest : Endpoint) (from_ : BitVec 128) (flags : BitVec 8) (mailbox : BitVec 16) (sequence : BitVec 32)
      (opcode status : BitVec 16) (stamp : BitVec 96) (payload tag : Bytes)
  | frame (dest : Endpoint) (kind flags reason : BitVec 8) (mailbox : BitVec 16) (first : BitVec 32)
      (streamId : BitVec 64) (aux : BitVec 32) (entries : List (BitVec 128)) (tag : Bytes)
  | cnp (qp : Nat)
  | rdmaRead (qp : Nat) (psn : BitVec 24)
  | delayReq
  | neighbourReply (family : Nat) (dest : Endpoint)
  | echoReply (dest : Endpoint) (bytes : Nat)
  | neighbourProbe (family : Nat) (addr : BitVec 128)
  | pfc (priority : Nat) (pause : Bool)
  | linkFrame (link : Nat) (dir : Bool) (f : LinkFrame)
  deriving DecidableEq, Repr

/-- What a presence-pending command will do, with the key that its datagram carries encrypted. -/
structure PresenceCmd where
  request : Request
  opcode : BitVec 16
  key : Option Key
  code : BitVec 8
  written : Bool
  press : Option PtpTime
  deriving DecidableEq, Repr

/-- Colours and patterns of the status LED (R394, R434, R395). -/
inductive Led where
  | off | amber | amberBlink | green | greenBlink | red | redBlink | presenceCycle | redThrice
  deriving DecidableEq, Repr

/-- The presence unit. -/
structure Presence where
  cmd : Option PresenceCmd
  led : Led
  leds : BitVec 4
  deriving DecidableEq, Repr

/-! ## The tide and slack -/

/-- Data-plane states (R171), in the order of their codes. -/
inductive DpState where
  | idle | loading | running | stopped | halted
  deriving DecidableEq, Repr

/-- Why the data plane is Halted (R210, R213, R216, R312, R424). -/
inductive HaltCause where
  | none | fault | timeout | remap | insufficientSpares | thermal | damaged
  deriving DecidableEq, Repr

/-- A hold (R175, R179). age: run cycles of slack since it was raised; quiet: those since its source last reported
progress. -/
structure Hold where
  cause : BitVec 8
  source : Source
  known : Option Nat
  age : Nat
  quiet : Nat
  deriving DecidableEq, Repr

/-- The record of one slack cause, with the counts of the epoch that runs. -/
structure SlackRecord where
  cyclesTotal : BitVec 64 := 0
  holdsTotal : BitVec 32 := 0
  cyclesLastEpoch : BitVec 32 := 0
  holdsLastEpoch : BitVec 32 := 0
  maxCycles : BitVec 32 := 0
  timeoutsTotal : BitVec 16 := 0
  cyclesEpoch : BitVec 32 := 0
  holdsEpoch : BitVec 32 := 0
  deriving DecidableEq, Repr

/-- The master counters of the hive die, the boundary actions that are due, and the slack controller. -/
structure Tide where
  dp : DpState
  halt : HaltCause
  number : BitVec 64
  runCycles : BitVec 64
  tideCycle : BitVec 13
  throttleK : BitVec 4
  servingDue : Bool
  epochDue : Bool
  stepDue : Bool
  prologue : Bool
  stopPending : Bool
  /-- Running is to be entered: DATA_PLANE_START comes next (R172). -/
  startPending : Bool
  contractHolds : List (Nat × Nat × Nat)
  contractPerStep : BitVec 16
  /-- Thermal stops so far in epoch `thermalEpoch` (R424). -/
  thermalStops : Nat
  thermalEpoch : Nat
  holds : List Hold
  /-- Holds in force when a schedule fault Halted the data plane: one that timed out in the fault's cycle is still acted on
  (R214). -/
  lapsed : List Hold
  slack : List SlackRecord
  slackCycles : BitVec 64
  deriving DecidableEq, Repr

/-! ## Image and loader -/

/-- The load report (R211); the per-layer counts stand with it. -/
structure LoadReport where
  status : BitVec 16
  failures : List Failure
  goodCombs : BitVec 8
  spareCount : BitVec 8
  warnings : BitVec 16
  contractPerStep : BitVec 16
  remapCount : BitVec 16
  digest : Digest
  mapping : List (BitVec 8)
  layerCounts : List (BitVec 64 × BitVec 64)
  deriving DecidableEq, Repr

/-- A load in progress (R202, R203): the image, whether it waits for a staging of its digest (R379), its placement, the
shard ranges landed, and whether step 6 has begun. -/
structure Load where
  image : Image
  digest : Digest
  network : Bool
  waiting : Bool
  place : List Nat
  parents : List (BitVec 8)
  landed : List Nat
  /-- Ranges that have landed, by shard entry (R198). -/
  ranges : List (Nat × Bytes)
  payload : Bool
  /-- Extents reserved for the image object, and their start stack (R247). -/
  reserve : Option (Nat × Nat)
  deriving DecidableEq, Repr

/-- A staging in progress (R247). -/
structure Staging where
  image : Image
  digest : Digest
  ttl : BitVec 32
  paused : Bool
  deriving DecidableEq, Repr

/-- The image and the loader. -/
structure Img where
  image : Option Image
  digest : Digest
  place : List Nat
  parents : List (BitVec 8)
  kvStacks : List Nat
  /-- Virtual combs on the die of each stack of the KV stack set at the load (R228). -/
  kvReaders : List (List Nat)
  gather : List Nat
  report : LoadReport
  load : Option Load
  staging : Option Staging
  /-- The ranges of the image object in the cove, by shard entry (R198, R226, R247). -/
  ranges : List (Nat × Bytes)
  unloading : Bool
  deriving DecidableEq, Repr

/-! ## Combs -/

/-- A run register: run exponent, value, blocks it holds (R76, R77). -/
structure Run where
  r : Int
  u : Int
  blocks : Nat
  deriving DecidableEq, Repr

/-- A cell: its wide accumulator A with base exponent b (R78), its main run register, and its flags. -/
structure Cell where
  a : Int
  b : Int
  main : Option Run
  overflow : Bool
  poison : Bool
  deriving DecidableEq, Repr

/-- An entry of the fallback queue: the DOT with its output and slot declaration, lane group, half, and its replay cycles
(R101). -/
structure Replay where
  pc : BitVec 16
  op : DotOp
  out : OutRef
  slot : SlotOp
  group : Nat
  half : Nat
  cycles : Nat
  deriving DecidableEq, Repr

/-- A broadcast flow that a comb receives: its FABRIC instruction's descriptor, the flits taken so far, and whether the flit
marked last has come (R145). -/
structure Receive where
  flow : BitVec 16
  desc : BitVec 10
  flits : Nat
  ended : Bool
  deriving DecidableEq, Repr

/-- Rows that a gather fills with an expert's slice: layer, expert, place in the list (R230 to R232). -/
structure ExpertRows where
  layer : Nat
  expert : Nat
  place : Nat
  first : Nat
  count : Nat
  deriving DecidableEq, Repr

/-- A skW partial: sum, overflow flag, poison flag (R79, R148). -/
abbrev Partial := Int × Bool × Bool

/-- A pending row: the physical bytes that land in it, so far, the cause under which a reader waits (R116), and the row of the
same stream that lands before it (R222). -/
structure Pending where
  ra : BitVec 22
  data : Bytes
  cause : BitVec 8
  after : Option (BitVec 22) := none
  deriving DecidableEq, Repr

/-- The comb record and its running counts (04, section Comb counters). -/
structure CombRecord where
  eccCorrected : BitVec 32 := 0
  eccUncorrectable : BitVec 32 := 0
  poisonRead : BitVec 32 := 0
  replayCycles : BitVec 32 := 0
  slackCycles : BitVec 32 := 0
  scrubPassesLast : BitVec 16 := 0
  scrubRows : Nat := 0
  bankWait : BitVec 32 := 0
  deriving DecidableEq, Repr

/-- A physical comb. -/
structure Comb where
  /-- Good: not retired and not reported bad (R110). -/
  good : Bool
  /-- The scratchpad's physical bytes (R112, R122). -/
  mem : List Host.Cell
  pending : List Pending
  /-- Program memory and operand descriptors as physical bytes of words with their check bytes (R130). -/
  code : List Host.Cell
  /-- Program counter of the instruction that issues next (R130). -/
  pc : Nat
  /-- Accumulators by logical cell, keyed (region, r, c, slice). -/
  cells : List ((Nat × Nat × Nat × Nat) × Cell)
  /-- Per region (4: full array): a and b of the last DOT, whose shape EMIT drains (R105). -/
  shape : List (Nat × Nat × Nat)
  fallback : List Replay
  windowOpen : Bool
  /-- Phase cycle at which FBWIN issued. -/
  windowAt : BitVec 13
  /-- ROTATE instructions whose partials have not been drained, and drained partials, with the columns of their region,
  that wait for theirs (R91). -/
  rotations : List RotateOp
  drained : List (BitVec 16 × Nat × List Partial)
  receives : List Receive
  /-- skW rows with the output whose partials they carry and the columns of its region (R120). -/
  rowOuts : List (Nat × OutRef × Nat)
  expertRows : List ExpertRows
  quadRot : BitVec 2
  slots : List SlotOp
  /-- Rows that program instructions wrote, with the phase cycle from which a read sees them (R115). -/
  writes : List (BitVec 22 × Nat)
  /-- Bank accesses of program instructions: bank, phase cycle, program counter (R113). -/
  accesses : List (Nat × Nat × BitVec 16)
  /-- Instructions whose unit is still busy, with the phase cycle from which it is free (R107, R132). -/
  busy : List (TideOp × Nat)
  ended : Bool
  scrubQueue : List (BitVec 22)
  /-- Resident rows that wait for their mend (R126, R302). -/
  mendQueue : List (BitVec 22)
  mends : List (BitVec 22)
  transportErrors : Nat
  record : CombRecord
  deriving DecidableEq, Repr

/-! ## Fabric -/

/-- One direction of a link with its counter record (05). -/
structure LinkDir where
  nextSeq : BitVec 16
  expectSeq : BitVec 16
  /-- The receiver waits for a resend after a failed frame. -/
  nak : Bool
  failures : Nat
  replay : List LinkFrame
  crcFailTotal : BitVec 32
  crcFailLast : BitVec 32
  crcFailEpoch : BitVec 32
  retriesTotal : BitVec 32
  groupsActive : BitVec 16
  groupsRetired : BitVec 16
  groupFails : List Nat
  state : BitVec 8
  retryRunMax : BitVec 8
  deriving DecidableEq, Repr

/-- A reduction-buffer entry: flow, element, exact sum, flags, and the inputs that have delivered it (R149). -/
structure RedEntry where
  flow : BitVec 16
  element : Nat
  sum : Int
  overflow : Bool
  poison : Bool
  inputs : List Nat
  deriving DecidableEq, Repr

/-- A broadcast flit in staging: flow, flit index, whether it is marked last, physical bytes of its words (R145, R151). -/
structure Staged where
  flow : BitVec 16
  flit : Nat
  last : Bool
  data : Bytes
  deriving DecidableEq, Repr

/-- A die port: its reduction buffer, broadcast staging rows and the next element to forward per flow. Port 24 is the
hive die. -/
structure Port where
  entries : List RedEntry
  staging : List Staged
  forwarded : List (BitVec 16 × Nat)
  transportErrors : Nat
  deriving DecidableEq, Repr

/-- An output element that the root formed (R81). -/
structure RootOut where
  flow : BitVec 16
  element : Nat
  bits : BitVec 32
  poison : Bool
  event : Bool
  /-- The sum left the 64-bit window or carried the overflow flag. -/
  window : Bool
  deriving DecidableEq, Repr

/-- A quantised block (R50): scale code, element codes, fallback entry, its range events (R57). -/
structure Block where
  scale : BitVec 8
  codes : List Nat
  entry : Option Bytes
  events : Nat
  poison : Bool
  deriving DecidableEq, Repr

/-- Activations of a slot in blocks, with their format and the broadcast flow that carries them (R50, R145). -/
structure Formed where
  flow : BitVec 16
  slot : Nat
  format : Nat
  blocks : List Block
  deriving DecidableEq, Repr

/-- A register of the wide datapath: FP32 values with their poison (R93). -/
abbrev WideVec := List (F32 × Bool)

/-- The KV of one token in one layer, as bytes with their poison (R227): payload, scales, fallback entries, and what a token
that completes a block adds: its summary and the blocks selected for the next block (R272, R273). -/
structure KvToken where
  record : Nat
  node : Nat
  layer : Nat
  position : Nat
  payload : List (Byte × Bool)
  scales : List (Byte × Bool)
  entries : List (List (Byte × Bool))
  summary : Option (List (Byte × Bool))
  chosen : Option (List Nat)
  deriving DecidableEq, Repr

/-- What a reduction flow of the phase carries: an output of a layer, from the slot of its first row on, in rows of `width`
elements (R147; log 28). -/
structure NamedFlow where
  flow : BitVec 16
  out : OutRef
  first : Nat
  width : Nat
  deriving DecidableEq, Repr

/-- The fabric, the reduction root and the wide datapath's results. -/
structure Fabric where
  links : List LinkDir
  ports : List Port
  /-- The output that each reduction flow of the phase carries. -/
  named : List NamedFlow
  outs : List RootOut
  formed : List Formed
  /-- The phase input: what the phase before has formed. -/
  inputs : List Formed
  /-- Index rows by the flow that broadcast them, with the phase ends since (R224). -/
  index : List (Nat × BitVec 16 × List (BitVec 64 × Bool))
  /-- Registers of the wide datapath by slot. -/
  wide : List (Nat × List WideVec)
  /-- KV of the step's nodes other than roots, until the step has verified its trees (R283). -/
  heldKv : List KvToken
  /-- 0 while the first reduction root serves, 1 once the second has taken over, 2 when none remains (R34). -/
  root : Nat
  /-- The predicted and the actual expert list per layer (R230, R231). -/
  predicted : List (Nat × List Nat)
  actual : List (Nat × List Nat)
  deriving DecidableEq, Repr

/-! ## Shelf and cove -/

/-- An expert map entry (R229). -/
structure ExpertEntry where
  vcomb : Nat
  layer : Nat
  expert : Nat
  inShelf : Bool
  pending : Bool
  /-- The slice of a lost stack waits for its re-staging (R316). -/
  restage : Bool := false
  offset : BitVec 38
  deriving DecidableEq, Repr

/-- A shelf stack with its counter record (08). -/
structure Stack where
  lost : Bool
  mem : List Host.Cell
  experts : List ExpertEntry
  channelsRetired : BitVec 32
  reserveUsed : BitVec 16
  /-- MiB by which the KV area ends lower (R234). -/
  kvCut : Nat
  hot : Bool
  refreshes : Nat
  /-- The tide of the last refresh outside the refresh window (R166). -/
  refreshedAt : Option (BitVec 64)
  uncorrectableEpoch : List Nat
  correctedEpoch : List Nat
  eccCorrected : BitVec 32
  eccUncorrectable : BitVec 32
  pageinLast : BitVec 32
  refetchLast : BitVec 32
  pageinEpoch : BitVec 32
  refetchEpoch : BitVec 32
  deriving DecidableEq, Repr

/-- The data plane's count of an expert (R233). -/
structure ExpertHeat where
  layer : Nat
  expert : Nat
  temperature : Nat
  count : Nat
  deriving DecidableEq, Repr

/-- A planned swap: the expert that comes from the cove, the one that leaves the shelf, and whether the copy is complete
(R233). -/
structure Promotion where
  layer : Nat
  expert : Nat
  outLayer : Nat
  outExpert : Nat
  complete : Bool
  deriving DecidableEq, Repr

/-- A KV page of 2 MiB per stack (R228): the layer and the ordinal of its run of blocks, and its number, which counts from the
start of a stack; layer 4,096 stands for the token history (R256). -/
structure KvPage where
  layer : Nat
  ordinal : Nat
  page : Nat
  deriving DecidableEq, Repr

/-- The units of a page that a virtual comb's gathers read stand in another stack since a remap moved the comb (R313). -/
structure MovedPage where
  vcomb : Nat
  page : Nat
  stack : Nat
  toPage : Nat
  deriving DecidableEq, Repr

/-- A KV record as a cove object holds it (R238, R276): layer, block, bytes with their poison. -/
structure KvCopy where
  layer : Nat
  block : Nat
  bytes : List (Byte × Bool)
  deriving DecidableEq, Repr

/-- The shelf interfaces, the expert keeper and the hive die's page map. -/
structure Shelf where
  stk : List Stack
  moved : List MovedPage
  heat : List ExpertHeat
  promotions : List Promotion
  /-- A growth of the expert area waits for pages beyond the first epoch boundary (R221). -/
  growthLate : Bool
  deriving DecidableEq, Repr

/-- The storage source record of a queue pair and the requester's state (R245 table, R331 to R333). -/
structure QueuePair where
  record : BitVec 512
  psn : BitVec 24
  outstanding : Nat
  window : Nat
  retries : Nat
  error : Bool
  lastCnp : PtpTime
  deriving DecidableEq, Repr

/-- The counter record of a cove stack (08). -/
structure CoveRecord where
  extentsFree : BitVec 32
  extentsCommitted : BitVec 32
  deferrals : BitVec 32
  digestFailures : BitVec 16
  eccUncorrectable : BitVec 16
  readMib : BitVec 32
  writeMib : BitVec 32
  readEpoch : BitVec 32
  writeEpoch : BitVec 32
  deriving DecidableEq, Repr

/-- An extent write of an object in creation: stack, started, durable (R240). -/
structure ExtentWrite where
  index : Nat
  stack : Nat
  started : Bool
  durable : Bool
  deriving DecidableEq, Repr

/-! ## Streams -/

/-- The settings block of a stream: the TW fields of R255 and R292. -/
structure Settings where
  latencyClass : BitVec 2
  noShare : Bool
  parkTtl : BitVec 32
  seed : BitVec 64
  temperature : F32
  topP : F32
  repPenalty : F32
  repWindow : BitVec 16
  topK : BitVec 11
  draftDepthMax : BitVec 4
  deriving DecidableEq, Repr

/-- Stream states (R250), in the order of their codes 1 to 8. -/
inductive StreamState where
  | ready | prefill | decode | paused | parking | parked | resuming | closed
  deriving DecidableEq, Repr

/-- A node of a verify tree (R281, R282). -/
structure Node where
  token : Token
  parent : Nat
  depth : Nat
  deriving DecidableEq, Repr

/-- One entry of a TOKENS frame (R355). -/
structure TokenEntry where
  position : BitVec 32
  token : Token
  tide : BitVec 56
  flags : BitVec 8
  deriving DecidableEq, Repr

/-- What the sampling phase settled for a stream in the step (R285 to R288): the accepted tokens, the bonus, how the
generation ends, the tide that sampled, and the chain prepared from the last node with its rank-1 token. -/
structure StepOut where
  accepted : List Token
  bonus : Option Token
  ends : Bool
  truncated : Bool
  limit : Bool
  tide : BitVec 56
  chain : List (List F32)
  head : Option Token
  deriving DecidableEq, Repr

/-- What takes effect on a stream at the next step boundary (R252). -/
structure StreamEvent where
  stop : Bool := false
  close : Option (BitVec 5) := none
  park : Bool := false
  /-- By its own mailbox's command: no state frame (R357). -/
  own : Bool := false
  cancelPark : Bool := false
  resumeDone : Bool := false
  pause : Option (BitVec 3) := none
  deriving DecidableEq, Repr

/-- A stream: history, settings live and shadow, and everything its records hold (09, 10). -/
structure Stream where
  id : BitVec 64
  mailbox : BitVec 16
  digest : Digest
  state : StreamState
  resumeTo : Option StreamState
  live : Settings
  shadow : Settings
  pauseReason : BitVec 4
  closeReason : BitVec 5
  committed : List Token
  tail : Option Token
  pending : List Token
  sharedTokens : Nat
  maxNew : Nat
  generated : Nat
  draftDepth : BitVec 4
  probe : BitVec 6
  /-- draft_depth_max was written and takes effect at the next tide boundary (R289). -/
  depthWritten : Bool
  verifySteps : BitVec 24
  draftAccepted : BitVec 24
  out : Endpoint
  kept : List TokenEntry
  /-- Draft logits after the next root and after each chain node (R284, R285). -/
  chain : Option (List (List F32))
  chainHead : Option Token
  tree : List Node
  rows : Nat
  slotCount : Nat
  stepOut : Option StepOut
  event : StreamEvent
  suspectMark : Bool
  admission : BitVec 64
  pages : List KvPage
  /-- Fallback entries that a token has taken from the pool of its block: layer, position, entries (R63). -/
  taken : List (Nat × Nat × Nat)
  /-- Blocks selected for a block: layer, block, selected blocks (R272). -/
  chosen : List (Nat × Nat × List Nat)
  /-- KV records in the object of a parked stream (R268). -/
  copies : List KvCopy
  prefixIndex : Option Nat
  waitPrefix : Bool
  lastChange : Change
  nakAt : PtpTime
  parkObject : Option (BitVec 128)
  deriving DecidableEq, Repr

/-- A cove object's content, by its kind (R237). -/
inductive CoveData where
  | image (i : Image)
  | stream (s : Stream)
  | prefix_ (index : Nat)
  deriving DecidableEq, Repr

/-- A cove object, committed or in creation (R235 to R241). -/
structure CoveObject where
  id : BitVec 128
  data : CoveData
  holder : BitVec 16
  startStack : Nat
  extents : Nat
  bytes : Nat
  expiresAt : BitVec 64
  digest : Digest
  contentAddress : Digest
  keyAlive : Bool
  committed : Bool
  cancelled : Bool
  damaged : Bool
  readers : Nat
  serial : BitVec 64
  writes : List ExtentWrite
  lastChange : Change
  /-- PTP second from which its TTL counts, once it is dated (R244). -/
  dated : Nat
  deriving DecidableEq, Repr

/-- The eight cove controllers. -/
structure Cove where
  mounted : Bool
  objects : List CoveObject
  journalSerial : BitVec 64
  records : List CoveRecord
  reserved : List Nat
  qps : List QueuePair
  deferred : Bool
  /-- Failed reads of chunks that are still to be read again: object, extent, chunk (R304). -/
  rereads : List (BitVec 128 × Nat × Nat)
  /-- Requests of the pull that went to another queue pair (R246). -/
  pullRetries : Nat
  deriving DecidableEq, Repr

/-- A shared prefix (R275 to R278). place: 0 shelf, 1 cove, 2 withdrawn. -/
structure Prefix where
  index : Nat
  address : Digest
  publisher : BitVec 16
  blocks : Nat
  tokens : List Token
  place : BitVec 8
  lastUse : Nat
  copying : Bool
  pages : List KvPage
  /-- Blocks selected for the block after the prefix, by layer (R272). -/
  chosen : List (Nat × Nat × List Nat)
  /-- KV records in the prefix's cove object (R278). -/
  copies : List KvCopy
  lastChange : Change
  deriving DecidableEq, Repr

/-- The running and last-epoch counts of a latency class (R270). -/
structure ClassRecord where
  intervalsLast : BitVec 32 := 0
  missesLast : BitVec 32 := 0
  intervals : BitVec 32 := 0
  misses : BitVec 32 := 0
  deriving DecidableEq, Repr

/-- A table set of the keepers (R263): per slot the live record and position, and the prefill queue of records with
rows_max. -/
structure Tables where
  slots : List (Option (Nat × Nat))
  queue : List (Nat × Nat)
  deriving DecidableEq, Repr

/-- Streams, slots and serving. -/
structure Streams where
  live : List (Nat × Stream)
  parked : List Stream
  closed : List Stream
  tables : Tables
  committedTables : Option Tables
  /-- The tables in force are new since the last step boundary (R252, R264). -/
  fresh : Bool
  /-- The serving interval's decision has been made (R26). -/
  decided : Bool
  /-- The step's slots: record and row or position. -/
  slots : List (Option (Nat × Nat))
  prefixes : List Prefix
  useCount : Nat
  classes : List ClassRecord
  emit : List (Nat × List TokenEntry)
  repeats : List Sent
  deriving DecidableEq, Repr

/-! ## Errors -/

/-- A poison report (R298): class and operand, slot, comb (die port n as 96 + n), row or flow, tide and phase cycle. -/
structure PoisonReport where
  transport : Bool
  /-- 0 slot, 1 weight, 2 draft. -/
  operand : Nat
  slot : Nat
  comb : Nat
  place : Nat := 0
  tide : BitVec 64 := 0
  cycle : Nat := 0
  deriving DecidableEq, Repr

/-- A suspect record (R310). -/
structure Suspect where
  serial : BitVec 32
  tide : BitVec 64
  streamId : BitVec 64
  /-- The stream's mailbox (R254, R310). -/
  mailbox : BitVec 16
  phase : BitVec 12
  layer : BitVec 12
  output : BitVec 3
  slot : BitVec 8
  cause : BitVec 4
  outcome : BitVec 3
  retiredComb : BitVec 8
  groups : BitVec 16
  deriving DecidableEq, Repr

/-- A repeat-buffer entry (R307): the suspect record it classifies, the mapping of its tide, the rounded outputs of every
violating output, the virtual combs that contribute to them, and the row's phase input with its index rows and expert list. -/
structure Repeat where
  serial : BitVec 32
  tide : BitVec 64
  digest : Digest
  place : List Nat
  outputs : List (BitVec 32)
  contributors : List Nat := []
  phase : Nat := 0
  input : List Formed := []
  index : List (BitVec 16 × List (BitVec 64 × Bool)) := []
  experts : List Nat := []
  deriving DecidableEq, Repr

/-- The error record (R318). -/
structure ErrorRecord where
  poisonStorageSlot : BitVec 32 := 0
  poisonStorageWeight : BitVec 32 := 0
  poisonTransport : BitVec 32 := 0
  mendsTotal : BitVec 32 := 0
  suspectEvents : BitVec 32 := 0
  streamsClosedPoison : BitVec 16 := 0
  batchDiscarded : BitVec 16 := 0
  repeatDropped : BitVec 16 := 0
  transient : BitVec 16 := 0
  genuine : BitVec 16 := 0
  unresolved : BitVec 8 := 0
  permanent : BitVec 8 := 0
  deriving DecidableEq, Repr

/-- The layer record of format counters (02, section Counters). -/
structure LayerRecord where
  actFallback : BitVec 64 := 0
  kvFallback : BitVec 64 := 0
  rangeEvents : BitVec 64 := 0
  kvOverflow : BitVec 32 := 0
  slackEpochs : BitVec 16 := 0
  deriving DecidableEq, Repr

/-- Errors, poison and failure. -/
structure Errs where
  reports : List PoisonReport
  suspects : List Suspect
  suspectSerial : BitVec 32
  repeats : List Repeat
  fault : BitVec 1024
  record : ErrorRecord
  layers : List LayerRecord
  /-- Layer counts of the step in flight, not yet settled (R67, R296). -/
  layersStep : List LayerRecord
  /-- Violations of the step in flight, not yet settled (R296, R305). -/
  raised : List (Suspect × Repeat)
  /-- Layers that have caused fallback slack in the epoch (02, section Counters). -/
  layerSlack : List Nat
  /-- Failed units that wait for a remap. -/
  failed : List Source
  /-- Keeper cores that have failed since power-up (R34). -/
  coresFailed : List Nat
  /-- Spare keeper cores that power-up has not put to use. -/
  sparesLeft : Nat
  deriving DecidableEq, Repr

/-! ## Port -/

/-- PTP clock states (R335). -/
inductive PtpState where
  | unlocked | locking | locked | holdover
  deriving DecidableEq, Repr

/-- The PTP clock (R334 to R336). -/
structure Ptp where
  state : PtpState
  now : PtpTime
  steps : Nat
  valid : Bool
  offsetNs : Int
  ppb : Int
  goodSyncs : Nat
  master : Option (BitVec 64)
  masterRank : Nat × Nat × Nat × Nat × Nat × Nat × Nat
  delayNs : Int
  delayAsked : Bool
  deriving DecidableEq, Repr

/-- The tide correlation record (R337). -/
structure Correlation where
  tide : BitVec 64
  runCycles : BitVec 64
  time : PtpTime
  ppb : BitVec 16
  state : BitVec 8
  deriving DecidableEq, Repr

/-- The Ethernet port (12). -/
structure Eth where
  link : BitVec 8
  pmd : BitVec 8
  fecCorrected : BitVec 32
  fecUncorrected : BitVec 32
  rx : BitVec 64
  tx : BitVec 64
  droppedFilter : BitVec 32
  droppedError : BitVec 32
  pfcRx : BitVec 32
  pfcTx : BitVec 32
  cnpTx : BitVec 32
  cnpRx : BitVec 32
  addressFlags : BitVec 8
  linkDowns : BitVec 16
  paused : List (Nat × BitVec 16)
  pauseSent : List Nat
  /-- Frames of paused priorities, waiting (R327). -/
  held : List Sent
  levels : List Nat
  cache : List (Nat × BitVec 128 × BitVec 48)
  /-- Per kind (ARP, neighbour discovery, ICMP echo, ICMPv6 echo): the second and the replies sent in it (R325). -/
  replies : List (Nat × Nat)
  lowPower : Bool
  alarm : BitVec 256
  revert : Option (BitVec 512)
  /-- A port configuration that waits for the hold-up check (R330, step 3). -/
  portWrite : Option (BitVec 512)
  ptp : Ptp
  corr : Correlation
  deriving DecidableEq, Repr

/-! ## Power and cooling -/

/-- Where the module stands between dark and ready (R430 to R442). -/
inductive Stage where
  | dark | booted | holdup | ready | nothing
  deriving DecidableEq, Repr

/-- A power domain (R410). -/
structure Domain where
  state : BitVec 4
  mode : Bool
  valid : Bool
  running : Bool
  currentCa : BitVec 16
  peakCa : BitVec 16
  peakSoFar : BitVec 16
  windowEnd : PtpTime
  minMv : BitVec 12
  /-- Lowest voltage so far in the report period, with its tide, its time, and whether the data plane was Running. -/
  runningMin : Option (BitVec 12)
  runningTide : BitVec 64
  runningPtp : PtpTime
  runningLive : Bool
  minTide : BitVec 64
  minPtp : PtpTime
  deriving DecidableEq, Repr

/-- Power delivery and telemetry (16). -/
structure Power where
  stage : Stage
  steps : Nat
  enableHigh : Bool
  insertOpen : Bool
  pwrGood : Bool
  lidOpen : Bool
  noStart : Bool
  domains : List Domain
  converters : List Bool
  vinCv : BitVec 16
  iinDa : BitVec 16
  pinW10 : BitVec 16
  capW10 : BitVec 16
  kP : BitVec 4
  below : Nat
  window : Nat
  lastUp : Int
  powers : List Nat
  overCap : Nat
  bankCv : BitVec 16
  capacitanceUf : BitVec 16
  measured : Bool
  windowEnd : PtpTime
  warnings : List (Nat × Nat × BitVec 32)
  deriving DecidableEq, Repr

/-- A temperature sensor (R417, R426). -/
structure Sensor where
  state : BitVec 2
  reading : BitVec 16
  trim : BitVec 16
  maxEpoch : BitVec 16
  maxRun : BitVec 16
  suspect : BitVec 8
  /-- Consecutive samples far from its partner, far from the model, and in agreement (R426). -/
  apart : Nat
  far : Nat
  agree : Nat
  time : PtpTime
  deriving DecidableEq, Repr

/-- A hot spot (R418, R424). Temperatures in degrees, exact (log 13). -/
structure HotSpot where
  theta : Rat
  bias : Rat
  model : Rat
  forecast : Rat
  maxForecast : Rat
  r : Rat
  rPrime : Rat
  a : Rat
  control : Rat
  overCount : Nat
  deriving DecidableEq, Repr

/-- Cooling and thermal control (17). -/
structure Cooling where
  sensors : List Sensor
  spots : List HotSpot
  /-- Index of f: 0 for 1, 1 for 1/2, 2 for 1/4, 3 for 1/8, 4 for 0. -/
  f : BitVec 4
  fPending : Option (BitVec 4)
  kT : BitVec 4
  kDeg : BitVec 4
  calm : Nat
  lastUp : Int
  /-- Recorded powers: per hot spot P and Q. -/
  stack : List (List (Rat × Rat))
  rc0 : Rat
  rc : Rat
  baselineTime : PtpTime
  hottest : Nat
  capped : List Nat
  epochRise : Rat
  epochPower : Rat
  epochWindows : Nat
  pairSuspended : Bool
  /-- The coolant pairs' disagreement has been notified in the epoch (R427). -/
  pairNoticed : Bool
  /-- Beats per comb and logical quadrant in the epoch (R421). -/
  beats : List (List Nat)
  deriving DecidableEq, Repr

/-! ## The whole -/

/-- Everything the spec gives the module, and the queue of commands that wait. -/
structure State where
  ident : Ident
  cfg : Cfg
  live : Words
  flash : Flash
  mbox : Mbox
  outbox : List Sent
  pres : Presence
  tide : Tide
  img : Img
  combs : List Comb
  fabric : Fabric
  shelf : Shelf
  cove : Cove
  str : Streams
  err : Errs
  eth : Eth
  pow : Power
  cool : Cooling
  /-- Draws made from the generator (argument of Config.drbg). -/
  draws : Nat
  pending : List Instr
  deriving DecidableEq, Repr

/-- Why the machine stops. -/
inductive Fault where
  /-- Raised by SHELF, SHELF_SCRUB and the prologue of DATA_PLANE_START: a shelf address beyond 1,610,612,735, which R217 says does not exist.
  Safe: the model stops. -/
  | shelfAddressOutside
  deriving DecidableEq, Repr

/-- Why a command has no meaning. -/
inductive Refusal where
  /-- Raised by Dispatch for a command without a meaning; none is left. Safe: the model stops. -/
  | notModelled (mnemonic : String)
  deriving DecidableEq, Repr

/-! ## Reset -/

/-- The shipped configuration of the words (their field tables); word 2 to 4, 8 to 12 and 14 hold nonzero fields. -/
def Words.shipped : Words where
  w1 := 0
  w2 := BitVec.ofNat 64 (256 * 2 ^ 32 + 25 * 2 ^ 24)
  w3 := BitVec.ofNat 64 (86400 * 2 ^ 32)
  w4 := BitVec.ofNat 256 (2000 * 2 ^ 240 + 300 * 2 ^ 224 + 64 * 2 ^ 211 + 1 * 2 ^ 209 + 3600 * 2 ^ 160
    + 400 * 2 ^ 144 + 1000 * 2 ^ 128 + 5000 * 2 ^ 112 + 50000 * 2 ^ 96)
  w5 := 1
  w6 := List.replicate 96 0
  w7 := 0
  w8 := BitVec.ofNat 64 (95 * 2 ^ 56 + 15 * 2 ^ 48 + 30 * 2 ^ 40)
  w9 := 4096
  w10 := BitVec.ofNat 32 (4096 * 2 ^ 16 + 16 * 2 ^ 8)
  w11 := BitVec.ofNat 512 (52100 * 2 ^ 150 + 52101 * 2 ^ 134 + 52102 * 2 ^ 118 + 9194 * 2 ^ 104 + 8 * 2 ^ 96
    + 5 * 2 ^ 93 + 4 * 2 ^ 90 + 3 * 2 ^ 87 + 6 * 2 ^ 84 + 40 * 2 ^ 78 + 32 * 2 ^ 72 + 26 * 2 ^ 66 + 46 * 2 ^ 60
    + 1 * 2 ^ 48 + 120 * 2 ^ 32)
  w12 := BitVec.ofNat 256 (15 * 2 ^ 124)
  w13 := 0
  w14 := BitVec.ofNat 32 (200 * 2 ^ 24)

/-- Lowest set-point of each domain's range, in mV (R403; log 3). -/
def shippedSetpoints : List (BitVec 12) :=
  List.replicate 96 550 ++ (List.replicate 24 [700#12, 600#12, 750#12, 1050#12]).flatten ++ [700, 600, 750, 1050]

/-- The configuration a module leaves manufacture with (R389, log 3). -/
def Cfg.shipped : Cfg where
  claimed := false
  ownerKey := 0
  ownerPrefixes := []
  tenants := []
  words := Words.shipped
  imageKeys := []
  coveMasterKey := none
  quarantine := []
  repair := List.replicate 96 ⟨[], []⟩
  setpoints := shippedSetpoints
  latched := []
  activeCopyB := false
  rollbackCounter := 0
  powerUpCount := 0
  faultSerial := 0
  goodCombs := List.replicate 96 true

def Change.zero : Change := ⟨0, 0⟩

def Comb.reset : Comb where
  good := true
  mem := []
  pending := []
  code := []
  pc := 0
  cells := []
  shape := []
  fallback := []
  windowOpen := false
  windowAt := 0
  rotations := []
  drained := []
  receives := []
  rowOuts := []
  expertRows := []
  quadRot := 0
  slots := []
  writes := []
  accesses := []
  busy := []
  ended := false
  scrubQueue := []
  mendQueue := []
  mends := []
  transportErrors := 0
  record := {}

def LinkDir.reset : LinkDir where
  nextSeq := 0
  expectSeq := 0
  nak := false
  failures := 0
  replay := []
  crcFailTotal := 0
  crcFailLast := 0
  crcFailEpoch := 0
  retriesTotal := 0
  groupsActive := 0
  groupsRetired := 0
  groupFails := List.replicate 16 0
  state := 0
  retryRunMax := 0

def Port.reset : Port := ⟨[], [], [], 0⟩

def Stack.reset : Stack where
  lost := false
  mem := []
  experts := []
  channelsRetired := 0
  reserveUsed := 0
  kvCut := 0
  hot := false
  refreshes := 0
  refreshedAt := none
  uncorrectableEpoch := List.replicate 32 0
  correctedEpoch := List.replicate 32 0
  eccCorrected := 0
  eccUncorrectable := 0
  pageinLast := 0
  refetchLast := 0
  pageinEpoch := 0
  refetchEpoch := 0

def QueuePair.reset : QueuePair := ⟨0, 0, 0, 0, 0, false, 0⟩

def CoveRecord.reset : CoveRecord := ⟨0, 0, 0, 0, 0, 0, 0, 0, 0⟩

/-- good_combs stands in the config block (R211): 96 as shipped. -/
def LoadReport.reset : LoadReport := ⟨0, [], 96, 0, 0, 0, 0, 0, List.replicate 96 0xFF, []⟩

def Tables.reset : Tables := ⟨List.replicate 256 none, []⟩

def Domain.reset : Domain where
  state := 4
  mode := false
  valid := false
  running := false
  currentCa := 0
  peakCa := 0
  peakSoFar := 0
  windowEnd := 0
  minMv := 0
  runningMin := none
  runningTide := 0
  runningPtp := 0
  runningLive := false
  minTide := 0
  minPtp := 0

def Sensor.reset : Sensor := ⟨0, 0, 0, 0, 0x8000, 0, 0, 0, 0, 0⟩

/-- A hot spot before calibration: the typical values of R419. -/
def HotSpot.reset : HotSpot where
  theta := 0
  bias := 0
  model := 0
  forecast := 0
  maxForecast := -300
  r := 32 / 100
  rPrime := 2 / 100
  a := 8825 / 10000
  control := 0
  overCount := 0

/-- The Welent copy a module leaves manufacture with: 1.6.0, security_version 0, rollback_floor 0 (R385, log 3). -/
def FirmwareCopy.shipped : FirmwareCopy :=
  ⟨[0x57, 0x4C, 0x46, 0x57, 0, 0, 6, 0, 1, 0, 0, 0, 0, 0, 0, 0, 0, 0], [], 0⟩
/-- An erased copy (log 3). -/
def FirmwareCopy.blank : FirmwareCopy := ⟨List.replicate 18 0xFF, [], 0⟩

/-- The default tree of R153: the parent direction of C00 to C23 (0 north, 1 east, 2 south, 3 west). -/
def defaultTree : List (BitVec 8) :=
  [1, 2, 2, 2, 2, 1, 2, 2, 3, 3, 1, 1, 3, 3, 1, 1, 0, 0, 3, 0, 0, 0, 0, 3]

/-- No image is loaded, and the default tree stands (R153). -/
def Img.reset : Img where
  image := none
  digest := 0
  place := []
  parents := defaultTree
  kvStacks := []
  kvReaders := []
  gather := List.replicate 24 0
  report := LoadReport.reset
  load := none
  staging := none
  ranges := []
  unloading := false

def Tide.reset : Tide where
  dp := .idle
  halt := .none
  number := 0
  runCycles := 0
  tideCycle := 0
  throttleK := 0
  servingDue := false
  epochDue := false
  stepDue := false
  prologue := false
  stopPending := false
  startPending := false
  contractHolds := []
  contractPerStep := 0
  thermalStops := 0
  thermalEpoch := 0
  holds := []
  lapsed := []
  slack := List.replicate 10 {}
  slackCycles := 0

def Streams.reset : Streams where
  live := []
  parked := []
  closed := []
  tables := Tables.reset
  committedTables := none
  fresh := false
  decided := false
  slots := List.replicate 256 none
  prefixes := []
  useCount := 0
  classes := List.replicate 4 {}
  emit := []
  repeats := []

def Errs.reset : Errs where
  reports := []
  suspects := []
  suspectSerial := 0
  repeats := []
  fault := 0
  record := {}
  layers := []
  layersStep := []
  raised := []
  layerSlack := []
  failed := []
  coresFailed := []
  sparesLeft := 2

def Ptp.reset : Ptp := ⟨.unlocked, 0, 0, false, 0, 0, 0, none, (255, 255, 255, 65535, 255, 0, 0), 0, false⟩

def Eth.reset : Eth where
  link := 0
  pmd := 0
  fecCorrected := 0
  fecUncorrected := 0
  rx := 0
  tx := 0
  droppedFilter := 0
  droppedError := 0
  pfcRx := 0
  pfcTx := 0
  cnpTx := 0
  cnpRx := 0
  addressFlags := 0
  linkDowns := 0
  paused := []
  pauseSent := []
  held := []
  levels := List.replicate 8 0
  cache := []
  replies := List.replicate 4 (0, 0)
  lowPower := false
  alarm := 0
  revert := none
  portWrite := none
  ptp := Ptp.reset
  corr := ⟨0, 0, 0, 0, 0⟩

def Power.reset : Power where
  stage := .dark
  steps := 0
  enableHigh := false
  insertOpen := false
  pwrGood := false
  lidOpen := false
  noStart := false
  domains := List.replicate 196 Domain.reset
  converters := List.replicate 12 true
  vinCv := 0
  iinDa := 0
  pinW10 := 0
  capW10 := 0
  kP := 0
  below := 0
  window := 0
  lastUp := -5
  powers := []
  overCap := 0
  bankCv := 0
  capacitanceUf := 0
  measured := false
  windowEnd := 0
  warnings := []

def Cooling.reset : Cooling where
  sensors := List.replicate 328 Sensor.reset
  spots := List.replicate 146 HotSpot.reset
  f := 0
  fPending := none
  kT := 0
  kDeg := 0
  calm := 0
  lastUp := -3
  stack := []
  rc0 := 0
  rc := 0
  baselineTime := 0
  hottest := 0
  capped := []
  epochRise := 0
  epochPower := 0
  epochWindows := 0
  pairSuspended := false
  pairNoticed := false
  beats := List.replicate 96 [0, 0, 0, 0]

def Mbox.reset : Mbox where
  cache := []
  outstanding := []
  records := List.replicate 257 {}
  changes := 0
  moduleChange := Change.zero
  imageChange := Change.zero
  wordChanges := List.replicate 15 Change.zero
  tenantChanges := []
  lateT := []
  shutdown := .no
  notices := []
  noticeSerial := 0

/-- The module after reset: dark, as it left manufacture, every field at the value of its Reset column (R15, R430); log
3 and log 11 name what the spec leaves open and how the module comes to run. -/
def State.reset : State where
  ident := ⟨96, false, BitVec.ofNat 48 (1 * 2 ^ 32 + 6 * 2 ^ 16), 1, Config.macAddress, false, .copyA,
    Config.firmwareMeasurement false, false, (List.range 4).map Config.bootKey⟩
  cfg := Cfg.shipped
  live := Words.shipped
  flash := ⟨some ⟨false, 1, 0, Cfg.shipped, none⟩, none, false, FirmwareCopy.shipped, FirmwareCopy.blank, false, false⟩
  mbox := Mbox.reset
  outbox := []
  pres := ⟨none, .off, 0⟩
  tide := Tide.reset
  img := Img.reset
  combs := List.replicate 96 Comb.reset
  fabric := ⟨List.replicate 80 LinkDir.reset, List.replicate 25 Port.reset, [], [], [], [], [], [], [], 0, [], []⟩
  shelf := ⟨List.replicate 24 Stack.reset, [], [], [], false⟩
  cove := ⟨false, [], 0, List.replicate 8 CoveRecord.reset, List.replicate 8 0, List.replicate 64 QueuePair.reset,
    false, [], 0⟩
  str := Streams.reset
  err := Errs.reset
  eth := Eth.reset
  pow := Power.reset
  cool := Cooling.reset
  draws := 0
  pending := []

end Sys2Proof.Machine
end

