-- ==== Sys2Proof/Machine/Fields.lean ====
section
/-! DEFINITION. The fields of an image's records (R188 to R200, R164, R143, R133), read from their raw little-endian
bits, and the bytes of an image. -/

namespace Sys2Proof

open Sys2Proof.Machine

/-- Byte n of a raw record. -/
def rbyte {w : Nat} (x : BitVec w) (n : Nat) : Nat := bits x (8 * n + 7) (8 * n)

/-- Bytes lo..hi of a raw record as a number. -/
def rfield {w : Nat} (x : BitVec w) (hi lo : Nat) : Nat := bits x (8 * hi + 7) (8 * lo)

namespace Image

/-! Header (R188). -/
def tideCycles (i : Image) : Nat := rfield i.header 17 16
def contractLevel (i : Image) : Nat := rbyte i.header 18
def vCount (i : Image) : Nat := rbyte i.header 19
def phaseCount (i : Image) : Nat := rfield i.header 21 20
/-- P, the step period in tides (R164). -/
def stepTides (i : Image) : Nat := rfield i.header 23 22
def layerCount (i : Image) : Nat := rfield i.header 25 24
def flowCount (i : Image) : Nat := rfield i.header 27 26
def linkMargin (i : Image) : Nat := rbyte i.header 28
def flags (i : Image) : Nat := rbyte i.header 29
def treeParent (i : Image) : List (BitVec 8) := (List.range 24).map fun n => BitVec.ofNat 8 (rbyte i.header (32 + n))
/-- image_digest: byte 64 of the header is its first byte. -/
def digestField (i : Image) : Digest := BitVec.ofNat 512 (natLE (bytesBE 64 (rfield i.header 127 64)))

/-! Slot layout, draft model, sampler limits (R200). -/
def decodeSlots (i : Image) : Nat := rfield i.slotLayout 1 0
def prefillSlots (i : Image) : Nat := rfield i.slotLayout 3 2
def chunkTokens (i : Image) : Nat := rfield i.slotLayout 5 4
def selectBlocks (i : Image) : Nat := rfield i.slotLayout 7 6
def maxContext (i : Image) : Nat := rfield i.slotLayout 11 8
def kvBytes (i : Image) : Nat := rfield i.slotLayout 13 12
def candidatesMax (i : Image) : Nat := match i.draft with | some d => rbyte d 0 | none => 0
def depthMax (i : Image) : Nat := match i.draft with | some d => rbyte d 1 | none => 0
def draftFirst (i : Image) : Nat := match i.draft with | some d => rfield d 3 2 | none => 0
def draftLast (i : Image) : Nat := match i.draft with | some d => rfield d 5 4 | none => 0
def vocab (i : Image) : Nat := rfield i.sampler 3 0
def topKMax (i : Image) : Nat := rfield i.sampler 5 4
def endTokens (i : Image) : List Token :=
  (List.range (rfield i.sampler 7 6)).map fun n => BitVec.ofNat 32 (rfield i.sampler (11 + 4 * n) (8 + 4 * n))

/-- 1 where the image has a draft section. -/
def hasDraft (i : Image) : Bool := i.draft.isSome

end Image

/-! Virtual grid (R192). -/
namespace Vgrid
def rootReach (v : BitVec 256) : Nat := bits v 255 252
def peerReach (v : BitVec 256) : Nat := bits v 251 248
def instructions (v : BitVec 256) : Nat := bits v 247 231
def descriptors (v : BitVec 256) : Nat := bits v 230 220
def programOffset (v : BitVec 256) : Nat := bits v 219 188
def descriptorOffset (v : BitVec 256) : Nat := bits v 187 156
def peers (v : BitVec 256) : List Nat := (List.range 96).filter fun u => bit v u
end Vgrid

/-! Phase records (R164). -/
namespace Phase
def kind (p : BitVec 256) : Nat := bits p 255 252
def layer (p : BitVec 256) : Nat := bits p 251 240
def tides (p : BitVec 256) : Nat := bits p 239 236
def decodeCycles (p : BitVec 256) : Nat := bits p 235 223
def prefillCycles (p : BitVec 256) : Nat := bits p 222 210
def window (p : BitVec 256) : Nat := bits p 209 197
def refreshStart (p : BitVec 256) : Nat := bits p 196 184
def refreshCycles (p : BitVec 256) : Nat := bits p 183 171
def firstFlow (p : BitVec 256) : Nat := bits p 170 158
def flowCount (p : BitVec 256) : Nat := bits p 157 145
end Phase

/-! Flow records (R143). -/
namespace Flow
def kind (f : BitVec 256) : Nat := bits f 255 254
def phase (f : BitVec 256) : Nat := bits f 253 242
def elements (f : BitVec 256) : Nat := bits f 241 218
def rows (f : BitVec 256) : Nat := bits f 217 206
def tailRows (f : BitVec 256) : Nat := bits f 205 194
def vcombs (f : BitVec 256) : List Nat := (List.range 96).filter fun v => bit f (96 + v)
def allowance (f : BitVec 256) : Nat := bits f 95 72
end Flow

/-! Layer records (R195). -/
namespace Layer
def index (l : BitVec 1536) : Nat := rfield l 1 0
def kind (l : BitVec 1536) : Nat := rbyte l 2
def flags (l : BitVec 1536) : Nat := rbyte l 3
def isDraft (l : BitVec 1536) : Bool := (flags l).testBit 0
def fullAttention (l : BitVec 1536) : Bool := (flags l).testBit 1
def routed (l : BitVec 1536) : Bool := (flags l).testBit 2
def weightFormat (l : BitVec 1536) : Nat := rbyte l 4
def actFormat (l : BitVec 1536) : Nat := rbyte l 5
def kvFormat (l : BitVec 1536) : Nat := rbyte l 6
def outFormat (l : BitVec 1536) : Nat := rbyte l 7
def weightFallback (l : BitVec 1536) : Nat := rbyte l 8
def actFallback (l : BitVec 1536) : Nat := rbyte l 9
def kvFallback (l : BitVec 1536) : Nat := rbyte l 10
def headroom (l : BitVec 1536) : Nat := rbyte l 11
def weightLo (l : BitVec 1536) : Int := sbits l 103 96
def weightHi (l : BitVec 1536) : Int := sbits l 111 104
def actLo (l : BitVec 1536) : Int := sbits l 119 112
def actHi (l : BitVec 1536) : Int := sbits l 127 120
def kvLo (l : BitVec 1536) : Int := sbits l 135 128
def kvHi (l : BitVec 1536) : Int := sbits l 143 136
def kvEntries (l : BitVec 1536) : Nat := rbyte l 18
def outputs (l : BitVec 1536) : Nat := rbyte l 19
def rotations (l : BitVec 1536) : Nat := rbyte l 20
def expertsPerToken (l : BitVec 1536) : Nat := rbyte l 21
def experts (l : BitVec 1536) : Nat := rfield l 23 22
def rotSeed (l : BitVec 1536) (p : Nat) : Nat := rfield l (31 + 10 * p) (24 + 10 * p)
def rotK (l : BitVec 1536) (p : Nat) : Nat := rbyte l (32 + 10 * p)
def rotSite (l : BitVec 1536) (p : Nat) : Nat := rbyte l (33 + 10 * p)
def q (l : BitVec 1536) (o : Nat) : Int := sbits l (8 * (65 + 16 * o) + 7) (8 * (64 + 16 * o))
def outRotation (l : BitVec 1536) (o : Nat) : Nat := rbyte l (66 + 16 * o)
def pair (l : BitVec 1536) (o : Nat) : Nat := rbyte l (67 + 16 * o)
def reduction (l : BitVec 1536) (o : Nat) : Nat := rfield l (71 + 16 * o) (68 + 16 * o)
def elements (l : BitVec 1536) (o : Nat) : Nat := rfield l (75 + 16 * o) (72 + 16 * o)
def envelope (l : BitVec 1536) (o : Nat) : Nat := rfield l (79 + 16 * o) (76 + 16 * o)
end Layer

/-! Shard entries (R197). -/
namespace Shard
def vcomb (s : BitVec 768) : Nat := rfield s 1 0
def kind (s : BitVec 768) : Nat := rbyte s 2
def dest (s : BitVec 768) : Nat := rfield s 15 8
def offset (s : BitVec 768) : Nat := rfield s 23 16
def length (s : BitVec 768) : Nat := rfield s 31 24
def digest (s : BitVec 768) : Digest := BitVec.ofNat 512 (natLE (bytesBE 64 (rfield s 95 32)))
end Shard

/-! Operand descriptors (R133). -/
namespace Desc
def blockRow (d : BitVec 256) : Nat := rfield d 3 0
def scaleRow (d : BitVec 256) : Nat := rfield d 7 4
def fallbackRow (d : BitVec 256) : Nat := rfield d 11 8
def format (d : BitVec 256) : Nat := rbyte d 12
def lo (d : BitVec 256) : Int := sbits d 111 104
def hi (d : BitVec 256) : Int := sbits d 119 112
def slotIndexed (d : BitVec 256) : Bool := bit d 120
def shelfBuffer (d : BitVec 256) : Bool := bit d 121
def fallbackBf16 (d : BitVec 256) : Bool := bit d 122
def stride (d : BitVec 256) : Nat := rfield d 19 16
end Desc

/-! Directory entries (R188). -/
namespace Dir
def sect (d : BitVec 256) : Nat := rfield d 1 0
def count (d : BitVec 256) : Nat := rfield d 7 4
def entryBytes (d : BitVec 256) : Nat := rfield d 11 8
def offset (d : BitVec 256) : Nat := rfield d 23 16
def length (d : BitVec 256) : Nat := rfield d 31 24
end Dir

/-- The bytes of a list of raw records, each little-endian. -/
def rawBytes {w : Nat} (l : List (BitVec w)) : Bytes := l.flatMap fun x => bytesLE (w / 8) x.toNat

namespace Image

/-- The bytes of a section (0 to 0x000D); the payload is not held here. -/
def sectionBytes (i : Image) : Nat → Bytes
  | 1 => rawBytes i.vgrid
  | 2 => rawBytes i.phases
  | 3 => rawBytes i.flows
  | 4 => rawBytes i.layers
  | 5 => rawBytes i.envelopes
  | 6 => rawBytes i.programs
  | 7 => rawBytes i.shards
  | 9 => i.wide
  | 10 => rawBytes [i.slotLayout]
  | 11 => rawBytes i.draft.toList
  | 12 => rawBytes [i.sampler]
  | _ => []

/-- The bytes that image_digest covers (R190): header with its digest as zero, directory, every section in order of its
place in the image with zero bytes between them; payload and signature left out. -/
def covered (i : Image) : Bytes :=
  let head := bytesLE 256 (setBits i.header 1023 512 0).toNat ++ rawBytes i.directory
  ((sortBy (fun a b => decide (Dir.offset a ≤ Dir.offset b)) i.directory).foldl (fun (a : Bytes × Nat) d =>
      let end_ := max a.2 (Dir.offset d + Dir.length d)
      let gap := List.replicate (Dir.offset d - a.2) 0
      if Dir.sect d = 8 ∨ Dir.sect d = 13 then (a.1 ++ gap, end_) else (a.1 ++ gap ++ i.sectionBytes (Dir.sect d), end_))
    (head, head.length)).1

/-- The digest computed over the image (R190). -/
def computedDigest (i : Image) : Digest := digestOf i.covered

/-- Whether the operand pair of output o makes KV an operand. -/
def layer (i : Image) (n : Nat) : BitVec 1536 := nth i.layers n 0
def phase (i : Image) (n : Nat) : BitVec 256 := nth i.phases n 0
def flow (i : Image) (n : Nat) : BitVec 256 := nth i.flows n 0

/-- The phase that position t of the step belongs to, and the tide within it (R164). -/
def phaseAt : List (BitVec 256) → Nat → Nat → Nat × Nat
  | [], k, t => (k, t)
  | p :: ps, k, t => if t < Phase.tides p then (k, t) else phaseAt ps (k + 1) (t - Phase.tides p)

/-- Phase index and tide within the phase of tide number n (R164). -/
def place (i : Image) (n : Nat) : Nat × Nat := phaseAt i.phases 0 (if i.stepTides = 0 then 0 else n % i.stepTides)

end Image

end Sys2Proof
end

