-- ==== Sys2Proof/Machine/Words.lean ====
section
/-! DEFINITION. The 14 words of R368: their fields in field-mask order (R366), the latch class and the range of each
field, and reading and writing a word by its number. -/

namespace Sys2Proof.Machine

/-- Latch classes (00, section Latch classes). -/
inductive Latch where
  | t | e | q
  deriving DecidableEq, Repr

/-- A field of a word: its bits, latch class and range. -/
structure FieldSpec where
  hi : Nat
  lo : Nat
  latch : Latch
  least : Nat
  most : Nat
  deriving DecidableEq, Repr

/-- Size in bits of word n (R368). -/
def wordBits : Nat → Nat
  | 1 => 32 | 2 => 64 | 3 => 64 | 4 => 256 | 5 => 32 | 6 => 8 | 7 => 32 | 8 => 64 | 9 => 32 | 10 => 32
  | 11 => 512 | 12 => 256 | 13 => 64 | 14 => 32
  | _ => 0

/-- The fields of word n, from the most significant down, reserved fields left out (R366). -/
def wordFields : Nat → List FieldSpec
  | 1 => [⟨0, 0, .q, 0, 1⟩]
  | 2 => [⟨63, 47, .e, 0, 95290⟩, ⟨46, 32, .e, 0, 32767⟩, ⟨31, 24, .q, 1, 100⟩]
  | 3 => [⟨63, 32, .e, 1, 4294967295⟩]
  | 4 => [⟨255, 240, .t, 0, 65535⟩, ⟨239, 224, .t, 0, 65535⟩, ⟨223, 211, .t, 1, 4096⟩, ⟨210, 209, .t, 0, 2⟩,
      ⟨191, 160, .t, 1, 4294967295⟩, ⟨159, 96, .t, 0, 2 ^ 64 - 1⟩]
  | 5 => [⟨0, 0, .q, 0, 1⟩]
  | 6 => [⟨2, 2, .e, 0, 1⟩, ⟨1, 0, .e, 0, 3⟩]
  | 7 => [⟨3, 0, .t, 0, 15⟩]
  | 8 => [⟨63, 56, .t, 85, 95⟩, ⟨55, 48, .e, 5, 50⟩, ⟨47, 40, .e, 10, 100⟩, ⟨39, 39, .e, 0, 1⟩]
  | 9 => [⟨19, 0, .e, 16, 1048575⟩]
  | 10 => [⟨31, 16, .e, 256, 65535⟩, ⟨15, 8, .e, 1, 255⟩]
  | 11 => [⟨511, 384, .q, 0, 2 ^ 128 - 1⟩, ⟨383, 376, .q, 0, 128⟩, ⟨375, 248, .q, 0, 2 ^ 128 - 1⟩,
      ⟨247, 216, .q, 0, 2 ^ 32 - 1⟩, ⟨215, 210, .q, 0, 32⟩, ⟨209, 178, .q, 0, 2 ^ 32 - 1⟩, ⟨177, 166, .q, 0, 4094⟩,
      ⟨165, 150, .q, 1, 65535⟩, ⟨149, 134, .q, 1, 65535⟩, ⟨133, 118, .q, 1, 65535⟩, ⟨117, 104, .q, 1280, 9194⟩,
      ⟨103, 96, .q, 0, 255⟩, ⟨95, 93, .q, 0, 7⟩, ⟨92, 90, .q, 0, 7⟩, ⟨89, 87, .q, 0, 7⟩, ⟨86, 84, .q, 0, 7⟩,
      ⟨83, 78, .q, 0, 63⟩, ⟨77, 72, .q, 0, 63⟩, ⟨71, 66, .q, 0, 63⟩, ⟨65, 60, .q, 0, 63⟩, ⟨59, 52, .q, 0, 127⟩,
      ⟨51, 48, .q, 0, 1⟩, ⟨47, 32, .q, 10, 3600⟩]
  | 12 => [⟨255, 128, .q, 0, 2 ^ 128 - 1⟩, ⟨127, 124, .q, 0, 15⟩]
  -- Domain groups 0 to 48 exist (R410): bits 63..49 must be zero, which wordWhole checks.
  | 13 => [⟨63, 0, .e, 0, 2 ^ 64 - 1⟩]
  | 14 => [⟨31, 24, .t, 45, 200⟩]
  | _ => []

/-- Rules over a word as it will stand: class targets from 1 (09), degrade_throttle_pct above degrade_warn_pct (17),
distinct ports other than 319, 320 and 4,791 (12), and telemetry groups that exist (R369). -/
def wordWhole (n v : Nat) : Bool :=
  let f (hi lo : Nat) : Nat := (v >>> lo) % 2 ^ (hi + 1 - lo)
  match n with
  | 4 => f 159 144 != 0 && f 143 128 != 0 && f 127 112 != 0 && f 111 96 != 0
  | 8 => decide (f 55 48 < f 47 40)
  | 11 =>
    let ports := [f 165 150, f 149 134, f 133 118]
    ports.Nodup && ports.all fun p => p != 0 && p != 319 && p != 320 && p != 4791
  | 13 => decide (v < 2 ^ 49)
  | _ => true

/-- Word n as a number; word 6 takes an index (the comb). -/
def Words.get (w : Words) (n i : Nat) : Nat :=
  match n with
  | 1 => w.w1.toNat | 2 => w.w2.toNat | 3 => w.w3.toNat | 4 => w.w4.toNat | 5 => w.w5.toNat
  | 6 => (nth w.w6 (if i = 0xFFFF then 0 else i) 0).toNat
  | 7 => w.w7.toNat | 8 => w.w8.toNat | 9 => w.w9.toNat | 10 => w.w10.toNat | 11 => w.w11.toNat
  | 12 => w.w12.toNat | 13 => w.w13.toNat | 14 => w.w14.toNat
  | _ => 0

/-- Word n replaced; word 6 with index 0xFFFF sets every comb's byte (R368). -/
def Words.put (w : Words) (n i v : Nat) : Words :=
  match n with
  | 1 => { w with w1 := BitVec.ofNat 32 v }
  | 2 => { w with w2 := BitVec.ofNat 64 v }
  | 3 => { w with w3 := BitVec.ofNat 64 v }
  | 4 => { w with w4 := BitVec.ofNat 256 v }
  | 5 => { w with w5 := BitVec.ofNat 32 v }
  | 6 => { w with w6 := if i = 0xFFFF then w.w6.map (fun _ => BitVec.ofNat 8 v) else w.w6.set i (BitVec.ofNat 8 v) }
  | 7 => { w with w7 := BitVec.ofNat 32 v }
  | 8 => { w with w8 := BitVec.ofNat 64 v }
  | 9 => { w with w9 := BitVec.ofNat 32 v }
  | 10 => { w with w10 := BitVec.ofNat 32 v }
  | 11 => { w with w11 := BitVec.ofNat 512 v }
  | 12 => { w with w12 := BitVec.ofNat 256 v }
  | 13 => { w with w13 := BitVec.ofNat 64 v }
  | 14 => { w with w14 := BitVec.ofNat 32 v }
  | _ => w

/-- Bits hi..lo of a number. -/
def nbits (v hi lo : Nat) : Nat := (v >>> lo) % 2 ^ (hi + 1 - lo)

/-- v with bits hi..lo replaced by those of x. -/
def nset (v hi lo x : Nat) : Nat := v - nbits v hi lo * 2 ^ lo + (x % 2 ^ (hi + 1 - lo)) * 2 ^ lo

/-- The fields that a mask selects, with their numbers. -/
def selected (mask : Nat) (fs : List FieldSpec) : List FieldSpec :=
  (fs.zipIdx.filter fun p => mask.testBit p.2).map (·.1)

/-- Word n with the selected fields taken from x (R366). -/
def mergeFields (fs : List FieldSpec) (old x : Nat) : Nat :=
  fs.foldl (fun v f => nset v f.hi f.lo (nbits x f.hi f.lo)) old

/-- The bits of word n that no field holds. -/
def reservedBits (n v : Nat) : Nat := (wordFields n).foldl (fun a f => nset a f.hi f.lo 0) v

/-- The field checks of a word write (R14, R366): a nonzero mask of existing fields, no Q field beside a T or E field,
reserved bits zero, each selected field in its range, and the rules over the whole word. -/
def wordWriteOk (n mask old x : Nat) : Bool :=
  let fs := wordFields n
  let sel := selected mask fs
  mask != 0 && decide (mask < 2 ^ fs.length)
    && !(sel.any (·.latch = .q) && sel.any (·.latch != .q))
    && reservedBits n x == 0
    && sel.all (fun f => decide (f.least ≤ nbits x f.hi f.lo) && decide (nbits x f.hi f.lo ≤ f.most))
    && wordWhole n (mergeFields sel old x)

/-- The slowest latch class among the fields written (R21): effect_kind 1 for T, 2 for E, 0 for Q (R365). -/
def maskKind (n mask : Nat) : Nat :=
  let sel := selected mask (wordFields n)
  if sel.any (·.latch = .e) then 2 else if sel.any (·.latch = .t) then 1 else 0

/-- The live word with the fields of one latch class taken from the committed word (R16, R17). -/
def latchWord (l : Latch) (n i : Nat) (live committed : Words) : Words :=
  live.put n i (mergeFields ((wordFields n).filter (·.latch = l)) (live.get n i) (committed.get n i))

/-- Every T field in force; the words of `late` wait for the epoch (R21). -/
def latchT (late : List Nat) (live committed : Words) : Words :=
  [4, 7, 8, 14].foldl (fun w n => if n ∈ late then w else latchWord .t n 0 w committed) live

/-- Every E field in force, and the T fields that wait with them (R21). -/
def latchE (late : List Nat) (live committed : Words) : Words :=
  let w1 := [2, 3, 8, 9, 10, 13].foldl (fun w n => latchWord .e n 0 w committed) live
  let w2 := late.foldl (fun w n => latchWord .t n 0 w committed) w1
  { w2 with w6 := committed.w6 }

/-- Every Q field in force (R20). -/
def latchQ (live committed : Words) : Words :=
  [1, 2, 5, 11, 12].foldl (fun w n => latchWord .q n 0 w committed) live

end Sys2Proof.Machine
end

