-- ==== Sys2Proof/Machine/Records.lean ====
section
/-! DEFINITION. The records that queries return and notices carry, big-endian as carried, field by field from the most
significant (R7): tide status and slack records (06), load report (R211), comb record (04), link record (05), shelf and
cove records (08), error and suspect records (11), port and correlation records (12), mailbox record (13), layer record
(02), stream status and sampler records (R255, R292), telemetry records (R410, R417, R428). -/

namespace Sys2Proof.Machine

/-- Code of a data-plane state (06). -/
def DpState.code : DpState → Nat
  | .idle => 0 | .loading => 1 | .running => 2 | .stopped => 3 | .halted => 4

/-- Code of a stream state (R250). -/
def StreamState.code : StreamState → Nat
  | .ready => 1 | .prefill => 2 | .decode => 3 | .paused => 4 | .parking => 5 | .parked => 6 | .resuming => 7
  | .closed => 8

/-- Code of a PTP state (R335). -/
def PtpState.code : PtpState → Nat
  | .unlocked => 0 | .locking => 1 | .locked => 2 | .holdover => 3

/-- Tide length of the loaded image; 0 without one. -/
def State.tideLen (s : State) : Nat := match s.img.image with | some i => i.tideCycles | none => 0

/-- P of the loaded image, at least 1 (R164). -/
def State.period (s : State) : Nat := match s.img.image with | some i => max 1 i.stepTides | none => 1

/-- Tide status record (06). -/
def tideStatus (s : State) : Bytes :=
  pack [(64, s.tide.number.toNat), (64, s.tide.runCycles.toNat), (64, s.tide.slackCycles.toNat), (14, s.tideLen),
    (3, match s.img.image with | some i => i.contractLevel | none => 0), (1, flag s.ident.stepping),
    (4, s.tide.throttleK.toNat), (3, s.tide.dp.code), (16, s.tide.contractPerStep.toNat), (23, 0)]

/-- Slack record (06). -/
def slackRecord (r : SlackRecord) : Bytes :=
  pack [(64, r.cyclesTotal.toNat), (32, r.holdsTotal.toNat), (32, r.cyclesLastEpoch.toNat),
    (32, r.holdsLastEpoch.toNat), (32, r.maxCycles.toNat), (16, r.timeoutsTotal.toNat), (48, 0)]

/-- Fixed part of the load report (R211). -/
def loadReport (s : State) : Bytes :=
  let r := s.img.report
  pack [(16, r.status.toNat), (16, r.failures.length), (8, r.goodCombs.toNat), (8, r.spareCount.toNat),
    (16, r.warnings.toNat), (16, r.contractPerStep.toNat), (16, r.remapCount.toNat), (416, r.digest.toNat >>> 96)]

/-- A failure entry of the load report (R211). -/
def failureEntry (f : Failure) : Bytes :=
  pack [(16, f.code.toNat), (16, f.sect.toNat), (32, f.record.toNat), (64, f.offset.toNat)]

/-- Comb record of comb p (04, section Comb counters). -/
def combRecord (s : State) (p : Nat) : Bytes :=
  let c := nth s.combs p Comb.reset
  let r := c.record
  let m := nth s.cfg.repair p ⟨[], []⟩
  pack [(32, r.eccCorrected.toNat), (32, r.eccUncorrectable.toNat), (32, r.poisonRead.toNat),
    (32, r.replayCycles.toNat), (32, r.slackCycles.toNat), (16, r.scrubPassesLast.toNat), (4, m.rows.length),
    (4, m.cols.length), (2, c.quadRot.toNat), (6, 0), (32, r.bankWait.toNat), (32, 0)]

/-- Link counter record (05). -/
def linkRecord (d : LinkDir) : Bytes :=
  pack [(32, d.crcFailTotal.toNat), (32, d.crcFailLast.toNat), (32, d.retriesTotal.toNat), (16, d.groupsActive.toNat),
    (16, d.groupsRetired.toNat), (8, d.state.toNat), (8, d.retryRunMax.toNat), (112, 0)]

/-- Shelf stack record (08), with the MiB that expert slices take of the reserve. -/
def shelfRecord (k : Stack) (slices : Nat) : Bytes :=
  pack [(32, k.eccCorrected.toNat), (32, k.eccUncorrectable.toNat), (32, k.channelsRetired.toNat),
    (16, k.reserveUsed.toNat + slices), (32, k.pageinLast.toNat), (32, k.refetchLast.toNat), (80, 0)]

/-- Cove stack record (08). -/
def coveRecord (k : CoveRecord) : Bytes :=
  pack [(32, k.extentsFree.toNat), (32, k.extentsCommitted.toNat), (32, k.deferrals.toNat),
    (16, k.digestFailures.toNat), (16, k.eccUncorrectable.toNat), (32, k.readMib.toNat), (32, k.writeMib.toNat), (64, 0)]

/-- Error record (R318). -/
def errorRecord (r : ErrorRecord) : Bytes :=
  pack [(32, r.poisonStorageSlot.toNat), (32, r.poisonStorageWeight.toNat), (32, r.poisonTransport.toNat),
    (32, r.mendsTotal.toNat), (32, r.suspectEvents.toNat), (16, r.streamsClosedPoison.toNat),
    (16, r.batchDiscarded.toNat), (16, r.repeatDropped.toNat), (16, r.transient.toNat), (16, r.genuine.toNat),
    (8, r.unresolved.toNat), (8, r.permanent.toNat)]

/-- Suspect record (R310). -/
def suspectRecord (r : Suspect) : Bytes :=
  pack [(32, r.serial.toNat), (64, r.tide.toNat), (64, r.streamId.toNat), (12, r.phase.toNat), (12, r.layer.toNat),
    (3, r.output.toNat), (8, r.slot.toNat), (4, r.cause.toNat), (3, r.outcome.toNat), (8, r.retiredComb.toNat),
    (16, r.groups.toNat), (30, 0)]

/-- Layer record of format counters (02). -/
def layerRecord (r : LayerRecord) : Bytes :=
  pack [(64, r.actFallback.toNat), (64, r.kvFallback.toNat), (64, r.rangeEvents.toNat), (32, r.kvOverflow.toNat),
    (16, r.slackEpochs.toNat), (16, 0)]

/-- Port record (12). -/
def portRecord (s : State) : Bytes :=
  let e := s.eth
  pack [(48, s.ident.macAddress.toNat), (8, e.link.toNat), (8, e.pmd.toNat), (32, e.fecCorrected.toNat),
    (32, e.fecUncorrected.toNat), (64, e.rx.toNat), (64, e.tx.toNat), (32, e.droppedFilter.toNat),
    (32, e.droppedError.toNat), (32, e.pfcRx.toNat), (32, e.pfcTx.toNat), (32, e.cnpTx.toNat), (32, e.cnpRx.toNat),
    (8, e.ptp.state.code), (32, code 32 e.ptp.offsetNs), (8, e.addressFlags.toNat), (16, e.linkDowns.toNat)]

/-- Tide correlation record (R337). -/
def correlationRecord (c : Correlation) : Bytes :=
  pack [(64, c.tide.toNat), (64, c.runCycles.toNat), (96, c.time.toNat), (16, c.ppb.toNat), (8, c.state.toNat), (8, 0)]

/-- Mailbox record (13). -/
def mailboxRecord (r : MailboxRecord) : Bytes :=
  pack [(32, r.msgsAccepted.toNat), (32, r.droppedAuth.toNat), (16, r.duplicates.toNat), (16, r.windowFull.toNat),
    (16, r.staleOrReused.toNat), (16, r.lateResponses.toNat), (32, r.framesInAccepted.toNat), (32, r.framesOut.toNat),
    (16, r.naksReceived.toNat), (16, r.naksSent.toNat), (32, 0)]

/-- Stream status record (R255). -/
def streamStatus (t : Stream) : Bytes :=
  pack [(64, t.id.toNat), (8, t.state.code), (4, match t.resumeTo with | some x => x.code | none => 0),
    (2, t.live.latencyClass.toNat), (1, flag t.live.noShare), (4, t.pauseReason.toNat), (5, t.closeReason.toNat),
    (32, t.committed.length), (32, t.pending.length), (1, flag t.tail.isSome), (22, t.sharedTokens), (9, t.slotCount),
    (32, t.live.parkTtl.toNat), (32, t.generated), (8, 0)]

/-- Sampler fields of a settings block as they stand in the record of R292. -/
def samplerFields (x : Settings) : List (Nat × Nat) :=
  [(64, x.seed.toNat), (32, x.temperature.toNat), (32, x.topP.toNat), (32, x.repPenalty.toNat), (16, x.repWindow.toNat),
    (11, x.topK.toNat), (4, x.draftDepthMax.toNat)]

/-- Sampler record (R292). -/
def samplerRecord (t : Stream) : Bytes :=
  pack (samplerFields t.live ++ [(4, t.draftDepth.toNat), (6, t.probe.toNat), (7, 0), (24, t.verifySteps.toNat),
    (24, t.draftAccepted.toNat)])

/-- Settings block (R376), its HS and reserved fields zero. -/
def settingsBlock (x : Settings) : Bytes :=
  pack ([(2, x.latencyClass.toNat), (1, flag x.noShare), (29, 0), (32, x.parkTtl.toNat), (64, 0)] ++ samplerFields x
    ++ [(65, 0)])

/-- The first 256 bits of a record, as a number (R360). -/
def detail256 (b : Bytes) : Nat := natBE ((b ++ List.replicate 32 0).take 32)

end Sys2Proof.Machine
end

