-- ==== Sys2Proof/Machine/Ops.lean ====
section
/-! DEFINITION. Operations that every family shares: the time at which a change takes effect (R18, R171 to R173), the
module's messages and their tags (R340, R342), notices (R359, R360), stopping the data plane and discarding a step
(R213, R181, R296), holds (R175, R180), schedule faults (R213 to R215), and which units are in use. -/

namespace Sys2Proof.Machine

/-- What a meaning answers. -/
abbrev Out := Host.Outcome State Fault Refusal

/-! ## Time of effect -/

/-- Smallest multiple of P above n. -/
def nextMultiple (p n : Nat) : Nat := (n / p + 1) * p

/-- Tide number of the next tide boundary: while Running the next tide's, else that of the first tide to come, whose
start is a boundary of every kind (R172). -/
def nextTide (s : State) : Nat :=
  if s.tide.dp = .running then (s.tide.number.toNat + 1) % 2 ^ 64 else s.tide.number.toNat

/-- Tide number of the next step boundary (R173). -/
def nextStep (s : State) : Nat :=
  if s.tide.dp = .running then nextMultiple s.period s.tide.number.toNat else s.tide.number.toNat

/-- Number of the next epoch at whose start E fields take effect (R17, R172); while an epoch boundary's actions are due,
that is the epoch that has begun. -/
def nextEpoch (s : State) : Nat :=
  if s.tide.dp = .running ∧ s.tide.epochDue = false then s.tide.number.toNat / 2 ^ 20 + 1 else s.tide.number.toNat / 2 ^ 20

/-- effect_at for an effect_kind (R365). -/
def effectAt (kind : Nat) (s : State) : Nat :=
  match kind with
  | 1 => nextTide s
  | 2 => nextEpoch s
  | 3 => nextStep s
  | _ => 0

/-- The module's clock (R336). -/
def State.now (s : State) : PtpTime := s.eth.ptp.now

/-- Seconds of a timestamp (R336). -/
def seconds (t : PtpTime) : Nat := bits t 95 48

/-- A timestamp in nanoseconds, the fraction dropped. -/
def nanos (t : PtpTime) : Nat := seconds t * 10 ^ 9 + bits t 47 16

/-! ## Messages -/

/-- Key of a mailbox (R339): the owner key of a claimed module, or the enrolled tenant's. -/
def keyOf (mb : Nat) (s : State) : Option Key :=
  if mb = 0 then (if s.cfg.claimed then some s.cfg.ownerKey else none)
  else (s.cfg.tenants.find? (fun t => t.mailbox.toNat = mb)).map (·.key)

/-- The 32 bytes of a mailbox header (R340). -/
def messageHeader (flags : Nat) (mb seq opcode status len stamp : Nat) : Bytes :=
  pack [(32, 0x46524D42), (8, 1), (8, flags), (16, mb), (32, seq), (16, opcode), (16, status), (32, len), (96, stamp)]

/-- The tag of a message: HMAC under the key, or 32 zero bytes where no key exists (R342, R389). -/
def tagOf (k : Option Key) (m : Bytes) : Bytes :=
  match k with
  | some key => hmac key m
  | none => List.replicate 32 0

/-- A message as it leaves, tagged (R342). -/
def message (k : Option Key) (dest : Endpoint) (src : BitVec 128) (flags : BitVec 8) (mb : BitVec 16) (seq : BitVec 32)
    (opcode status : BitVec 16) (stamp : BitVec 96) (payload : Bytes) : Sent :=
  .message dest src flags mb seq opcode status stamp payload
    (tagOf k (messageHeader flags.toNat mb.toNat seq.toNat opcode.toNat status.toNat payload.length stamp.toNat ++ payload))

/-- Priority that a frame's traffic class gives it (R326); PFC frames have none and are never paused. -/
def priorityOf (x : Sent) (s : State) : Option Nat :=
  match x with
  | .message .. | .neighbourReply .. | .echoReply .. | .neighbourProbe .. => some (bits s.live.w11 95 93)
  | .frame .. => some (bits s.live.w11 92 90)
  | .cnp .. | .rdmaRead .. => some (bits s.live.w11 89 87)
  | .delayReq => some (bits s.live.w11 86 84)
  | .pfc .. | .linkFrame .. => none

/-- Whether a received PFC frame holds back a priority (R327). -/
def pausedPriority (p : Option Nat) (s : State) : Bool :=
  match p with
  | some n => s.eth.paused.any fun x => x.1 = n
  | none => false

/-- Where a frame goes, if to a host. -/
def destinationOf : Sent → Option (BitVec 128)
  | .message d .. => some d.addr
  | .frame d .. => some d.addr
  | .neighbourReply _ d => some d.addr
  | .echoReply d _ => some d.addr
  | _ => none

/-- A destination has a next hop: it is link-local, lies in the configured prefix, or goes to the gateway (R325). -/
def routable (a : BitVec 128) (s : State) : Bool :=
  let w := s.live.w11
  if a.toNat >>> 32 = 0xFFFF then
    let n := bits w 215 210
    n != 0 && (a.toNat % 2 ^ 32 >>> (32 - n) == bits w 247 216 >>> (32 - n) || bits w 209 178 != 0)
  else
    let n := bits w 383 376
    bits a 127 118 == 0x3FA || (n != 0 && a.toNat >>> (128 - n) == bits w 511 384 >>> (128 - n)) || bits w 375 248 != 0

/-- s with a frame sent, which the port counts (12, port record). A frame for a down link is discarded (R322), one
without a next hop is dropped and counted (R325), one of a paused priority waits (R327). -/
def send (x : Sent) (s : State) : State :=
  if s.eth.link ≠ 2 then s
  else if (match destinationOf x with | some a => !routable a s | none => false) then
    { s with eth := { s.eth with droppedFilter := satInc s.eth.droppedFilter } }
  else if pausedPriority (priorityOf x s) s then { s with eth := { s.eth with held := s.eth.held ++ [x] } }
  else { s with outbox := s.outbox ++ [x], eth := { s.eth with tx := s.eth.tx + 1 } }

/-- s with a frame received: the port counts it (12, port record). -/
def received (s : State) : State := { s with eth := { s.eth with rx := s.eth.rx + 1 } }

/-- s with one mailbox's record changed. -/
def countMailbox (mb : Nat) (f : MailboxRecord → MailboxRecord) (s : State) : State :=
  { s with mbox := { s.mbox with records := upd s.mbox.records mb f } }

/-! ## Free values -/

/-- A free value of w bits, and the state after the draw (log 6). -/
def draw (w : Nat) (s : State) : BitVec w × State :=
  ((Config.freeValue s.draws).setWidth w, { s with draws := s.draws + 1 })

/-! ## Notices -/

/-- Whether a notice of this category has a destination and is not masked off (R359). -/
def noticeWanted (category : Nat) (s : State) : Bool :=
  bits s.live.w12 255 128 != 0 && bit s.live.w12 (124 + category)

/-- The datagram of a notice (R359). -/
def noticeMessage (n : Notice) (s : State) : Sent :=
  message (keyOf 0 s) ⟨BitVec.ofNat 128 (bits s.live.w12 255 128), BitVec.ofNat 16 (bits s.live.w11 133 118)⟩ 0 0x40 0
    n.serial n.code 0 (BitVec.ofNat 96 (bits n.record 447 352)) (bytesBE 64 n.record.toNat)

/-- Raise a notice: it enters the ring of 1,024, and is sent once the link is up (R359). A severity that the spec does
not state is a free value (log 6). -/
def raiseNotice (code : Nat) (severity : Option Nat) (kind subject related : Nat) (detail : Nat) (s : State) : State :=
  let (sev, s) := match severity with
    | some v => (v, s)
    | none => let (x, s') := draw 2 s; (x.toNat, s')
  let record : BitVec 512 := BitVec.ofNat 512 (natBE (pack [(64, s.tide.number.toNat), (96, s.now.toNat), (8, kind),
    (64, subject), (8, sev), (16, related), (256, detail)]))
  let wanted := noticeWanted (code / 256) s
  let up := decide (s.eth.link = 2)
  let n : Notice := ⟨BitVec.ofNat 16 code, s.mbox.noticeSerial, record, !wanted || up⟩
  let s := { s with mbox := { s.mbox with noticeSerial := s.mbox.noticeSerial + 1,
                                          notices := lastN 1024 (s.mbox.notices ++ [n]) } }
  if wanted && up then send (noticeMessage n s) s else s

/-- Send the notices that wait for the link (R359, R431). -/
def sendWaitingNotices (s : State) : State :=
  let waiting := s.mbox.notices.filter (!·.sent)
  let s := { s with mbox := { s.mbox with notices := s.mbox.notices.map fun n => { n with sent := true } } }
  waiting.foldl (fun s n => if noticeWanted (n.code.toNat / 256) s then send (noticeMessage n s) s else s) s

/-! ## The data plane stops -/

/-- A comb with its part of the phase in flight forgotten. -/
def Comb.clearPhase (c : Comb) : Comb :=
  { c with pending := [], cells := [], shape := [], fallback := [], windowOpen := false, windowAt := 0, slots := [], writes := [],
           accesses := [], busy := [], ended := false, rotations := [], drained := [], receives := [], rowOuts := [], expertRows := [] }

/-- Forget the step in flight (R213, R296, R300): its partial results, its poison reports and violations, its uncounted
format events and its unsettled tokens. -/
def discardStep (s : State) : State :=
  { s with
    combs := s.combs.map Comb.clearPhase
    fabric := { s.fabric with ports := s.fabric.ports.map (fun p => { p with entries := [], staging := [], forwarded := [] })
                              named := [], outs := [], formed := [], inputs := [], index := [], wide := [], heldKv := [], predicted := [], actual := [] }
    err := { s.err with reports := [], layersStep := [], raised := [] }
    str := { s.str with slots := List.replicate 256 none
                        live := s.str.live.map fun p => (p.1, { p.2 with tree := [], rows := 0, slotCount := 0, stepOut := none }) } }

/-- The tide in force has not started: its boundary still waits for actions or for a throttle slack tide (R169, R182). -/
def tideAwaited (s : State) : Bool :=
  s.tide.servingDue || s.tide.epochDue || s.tide.stepDue || s.tide.holds.any fun h => h.cause = 9

/-- The tide number from which the data plane goes on after a halt: the smallest multiple of P above the last tide
started (R173). During the fill prologue the first tide has not started. -/
def resumeNumber (s : State) : BitVec 64 :=
  if s.tide.dp = .running ∧ s.tide.prologue = false then
    BitVec.ofNat 64 (if tideAwaited s then nextMultiple s.period (s.tide.number.toNat - 1) else nextMultiple s.period s.tide.number.toNat)
  else s.tide.number

/-- Enter Halted at the frozen counters, the step in flight discarded (R171, R173, R181, R213). -/
def halt (cause : HaltCause) (s : State) : State :=
  let n := resumeNumber s
  let s := discardStep s
  { s with tide := { s.tide with dp := .halted, halt := cause, number := n, holds := [],
                                 lapsed := if cause = .fault then s.tide.holds else [], prologue := false,
                                 servingDue := false, epochDue := false, stepDue := false, stopPending := false,
                                 startPending := false } }

/-- Enter Idle with no image (R171): what step 6 of a load, an unload or a shutdown leaves. -/
def dropImage (s : State) : State :=
  let s := discardStep s
  { s with
    img := { s.img with image := none, digest := 0, place := [], kvStacks := [], kvReaders := [], gather := List.replicate 24 0,
                        ranges := [], unloading := false }
    tide := { s.tide with dp := .idle, halt := .none, number := 0, tideCycle := 0, holds := [], prologue := false,
                          servingDue := false, epochDue := false, stepDue := false, stopPending := false,
                          startPending := false, contractHolds := [], contractPerStep := 0 }
    str := { s.str with tables := Tables.reset, committedTables := none, fresh := false } }

/-! ## Slack -/

/-- Slack record of a cause changed. -/
def countSlack (cause : Nat) (f : SlackRecord → SlackRecord) (s : State) : State :=
  { s with tide := { s.tide with slack := upd s.tide.slack cause f } }

/-- The hold that is counted: the earliest raised, and among those raised in one cycle the lowest code (R180). -/
def countedHold (hs : List Hold) : Option Hold :=
  hs.foldl (fun b h => match b with
    | none => some h
    | some g => if g.age < h.age ∨ (g.age = h.age ∧ h.cause.toNat < g.cause.toNat) then some h else some g) none

/-- n run cycles of slack pass: they count once, under the cause of the counted hold, and every hold ages (R180, R183). -/
def passSlack (n : Nat) (s : State) : State :=
  match countedHold s.tide.holds with
  | none => s
  | some g =>
    let s := countSlack g.cause.toNat (fun r => { r with cyclesTotal := r.cyclesTotal + BitVec.ofNat 64 n
                                                         cyclesEpoch := satAdd r.cyclesEpoch n }) s
    { s with tide := { s.tide with runCycles := s.tide.runCycles + BitVec.ofNat 64 n
                                   slackCycles := s.tide.slackCycles + BitVec.ofNat 64 n
                                   holds := s.tide.holds.map fun h => { h with age := h.age + n, quiet := h.quiet + n } } }

/-- Raise a hold: it is counted under its cause (06, section Counters). -/
def raiseHold (cause : BitVec 8) (source : Source) (known : Option Nat) (s : State) : State :=
  let s := countSlack cause.toNat (fun r => { r with holdsTotal := satInc r.holdsTotal, holdsEpoch := satInc r.holdsEpoch }) s
  { s with tide := { s.tide with holds := s.tide.holds ++ [⟨cause, source, known, 0, 0⟩] } }

/-- Hold i releases; the longest hold of its cause is kept (slack_max_cycles). -/
def releaseHold (i : Nat) (s : State) : State :=
  match s.tide.holds[i]? with
  | none => s
  | some h =>
    let s := countSlack h.cause.toNat (fun r => { r with maxCycles := BitVec.ofNat 32 (max r.maxCycles.toNat (min h.age (2 ^ 32 - 1))) }) s
    { s with tide := { s.tide with holds := s.tide.holds.eraseIdx i } }

/-- Progress of a source restarts the timeout of its holds (R179). -/
def progress (source : Source) (s : State) : State :=
  { s with tide := { s.tide with holds := s.tide.holds.map fun h => if h.source = source then { h with quiet := 0 } else h } }

/-- Timeout of an open-ended hold, in cycles of 1.25 ns: 16 ms for cove page-in, otherwise 65,536 (R179); a contract hold
and a throttle hold have none. -/
def holdTimeout (cause : Nat) : Option Nat :=
  if cause = 7 then some 12800000 else if cause = 8 ∨ cause = 9 then none else some 65536

/-! ## Schedule faults -/

/-- Where a schedule fault was detected (R214). -/
structure FaultSite where
  rule : Nat
  comb : Option Nat := none
  die : Nat := 0xFF
  pc : Nat := 0xFFFF
  flow : Nat := 0xFFFF
  rowAddress : Nat := 0
  slot : Nat := 0
  unit : Nat := 0
  detail : Nat := 0
  cycle : Nat := 0

/-- Virtual comb on physical comb p, or 0xFF. -/
def vcombOn (p : Nat) (s : State) : Nat :=
  match s.img.place.findIdx? (· = p) with
  | some v => v
  | none => 0xFF

/-- The fault record (R214). -/
def faultRecord (f : FaultSite) (rep : Bool) (serial : Nat) (s : State) : BitVec 1024 :=
  let phase := match s.img.image with
    | some i => (i.place s.tide.number.toNat).1
    | none => 0
  BitVec.ofNat 1024 (natBE (pack [(512, s.img.digest.toNat), (64, s.tide.number.toNat), (64, s.tide.runCycles.toNat),
    (12, phase), (13, f.cycle), (8, f.rule), (7, 0),
    (8, match f.comb with | some p => vcombOn p s | none => 0xFF), (8, f.comb.getD 0xFF), (8, f.die), (16, f.pc),
    (16, f.flow), (22, f.rowAddress), (8, f.slot), (8, f.unit), (1, flag rep), (9, 0), (16, 0), (32, serial),
    (32, f.detail), (160, 0)]))

/-- Put a digest with its fault record on the quarantine list as the newest entry; a 65th entry replaces the oldest,
with a notice (R215). -/
def quarantine (d : Digest) (record : BitVec 1024) (s : State) : State :=
  let rest := s.cfg.quarantine.filter fun e => e.1 ≠ d
  let full := rest ++ [(d, record)]
  let s' := { s with cfg := { s.cfg with quarantine := lastN 64 full }, flash := { s.flash with dirty := true } }
  match full with
  | (old, _) :: _ => if full.length > 64 then raiseNotice 0x0005 none 7 0 0 (old.toNat >>> 256) s' else s'
  | [] => s'

/-- A fault is recorded, the image quarantined, a notice raised (R213 to R215). -/
def recordFault (f : FaultSite) (rep : Bool) (s : State) : State :=
  let serial : BitVec 32 := satInc s.cfg.faultSerial
  let rec_ := faultRecord f rep serial.toNat s
  let s := { s with cfg := { s.cfg with faultSerial := serial }, err := { s.err with fault := rec_ } }
  raiseNotice 0x0101 none 7 0 0 (rec_.toNat >>> 768) (quarantine s.img.digest rec_ s)

/-- The recorded fault as other_faults counts one more, in the quarantine list too (R213, R215). -/
def countOther (s : State) : State :=
  let n := bits s.err.fault 239 224
  let rec_ := setBits s.err.fault 239 224 (min (n + 1) 0xFFFF)
  { s with err := { s.err with fault := rec_ }
           cfg := { s.cfg with quarantine := s.cfg.quarantine.map fun e => if e.1 = s.img.digest then (e.1, rec_) else e } }

/-- A schedule fault (R213 to R215): recorded, the image quarantined, a notice raised, the data plane Halted with the
step discarded. While already Halted by a fault, further faults are only counted in other_faults. -/
def scheduleFault (f : FaultSite) (s : State) : State :=
  if s.tide.dp = .running then halt .fault (recordFault f false s)
  else if s.tide.dp = .halted ∧ s.tide.halt = .fault then countOther s
  else s

/-- A schedule fault in a classification repeat: recorded in the same way, with repeat set; it stops a data plane that runs
(R213, R214). -/
def repeatFault (f : FaultSite) (s : State) : State :=
  let t := recordFault f true s
  if s.tide.dp = .running then halt .fault t else t

/-! ## Poison reports and errors -/

/-- Phase in force and tide within it (R164). -/
def phasePos (s : State) : Nat × Nat :=
  match s.img.image with
  | some i => i.place s.tide.number.toNat
  | none => (0, 0)

/-- Phase cycle at which the tide in force began (06). -/
def tideBase (s : State) : Nat := (phasePos s).2 * s.tideLen

/-- The phase cycle (06). -/
def phaseCycle (s : State) : Nat := tideBase s + s.tide.tideCycle.toNat

/-- A report of a unit: class, operand, slot, comb or die port, row or flow (R298). -/
def poisonOf (transport : Bool) (operand slot comb place : Nat) : PoisonReport :=
  { transport := transport, operand := operand, slot := slot, comb := comb, place := place }

/-- A poison report of the step, with its tide and phase cycle (R298), counted in the error record (R318). -/
def reportPoison (r : PoisonReport) (s : State) : State :=
  let e := s.err.record
  let r := { r with tide := s.tide.number
                    cycle := phaseCycle s }
  let e := if r.transport then { e with poisonTransport := satInc e.poisonTransport }
    else if r.operand = 0 then { e with poisonStorageSlot := satInc e.poisonStorageSlot }
    else { e with poisonStorageWeight := satInc e.poisonStorageWeight }
  { s with err := { s.err with reports := s.err.reports ++ [r], record := e } }

/-! ## Units -/

/-- Die of a physical comb and its quadrant: comb p lies on C(p / 4), quadrant p mod 4 (R23). -/
def dieOf (p : Nat) : Nat := p / 4

/-- Physical combs in use: good ones. -/
def goodCombs (s : State) : List Nat := (List.range 96).filter fun p => (nth s.combs p Comb.reset).good

/-- s with comb p changed. -/
def setComb (p : Nat) (f : Comb → Comb) (s : State) : State := { s with combs := upd s.combs p f }

/-- Comb p. -/
def State.comb (s : State) (p : Nat) : Comb := nth s.combs p Comb.reset

/-- A real quantity in whole units: itself where it is whole, else as the module rounds it (log 13). -/
def inUnits (k : Nat) (x : Rat) : Int := if x.den = 1 then x.num else Config.inUnits k x

/-- Shelf stack n. -/
def State.stack (s : State) (n : Nat) : Stack := nth s.shelf.stk n Stack.reset

/-- s with stack n changed. -/
def setStack (n : Nat) (f : Stack → Stack) (s : State) : State :=
  { s with shelf := { s.shelf with stk := upd s.shelf.stk n f } }

/-- Layer record of the step in flight changed; the counts are kept only if the step is not discarded (R67, R296). -/
def countLayer (l : Nat) (f : LayerRecord → LayerRecord) (s : State) : State :=
  let ls := s.err.layersStep ++ List.replicate (l + 1 - s.err.layersStep.length) ({} : LayerRecord)
  { s with err := { s.err with layersStep := upd ls l f } }

/-- Whether the firmware runs and hears the port: from the boot of R431 step 7 until a power failure, a lid opening or
darkness. -/
def State.awake (s : State) : Bool := s.pow.stage = .booted || s.pow.stage = .ready

/-! ## Hold-up check (R242) -/

/-- E >= 2 * P_hu * (t_rem + t_meta), with C in microfarads, V in hundredths of a volt and t_rem in nanoseconds; C is 24.0
mF until it has been measured (R432). Both sides in units of 0.5e-10 J, times 1,000. -/
def holdupAllows (tRemNs : Nat) (s : State) : Bool :=
  let c : Int := if s.pow.measured then s.pow.capacitanceUf.toNat else 24000
  let v : Int := s.pow.bankCv.toNat
  decide (30000000 * ((tRemNs : Int) + 250000) ≤ 1000 * c * (v * v - 25000000))

/-- The hold-up check of a config block write: 40 ms (R242). -/
def configWriteAllowed (s : State) : Bool := holdupAllows 40000000 s

/-! ## Config flash (R384) -/

/-- Write a config copy to the slot that does not hold the selected copy; it becomes the selected one (R384). -/
def writeConfig (pending : Bool) (press : PtpTime) (content : Cfg) (undo : Option Cfg) (s : State) : State :=
  let top (c : Option ConfigCopy) : Nat := match c with | some x => x.serial.toNat | none => 0
  let serial : BitVec 64 := BitVec.ofNat 64 (max (top s.flash.copyA) (top s.flash.copyB) + 1)
  let copy : ConfigCopy := ⟨pending, serial, press, content, undo⟩
  if s.flash.selectedB then { s with flash := { s.flash with copyA := some copy, selectedB := false } }
  else { s with flash := { s.flash with copyB := some copy, selectedB := true } }

/-- The selected copy. -/
def selectedCopy (s : State) : Option ConfigCopy := if s.flash.selectedB then s.flash.copyB else s.flash.copyA

/-- Rewrite the header page of the selected copy in place as COMMITTED (R384, the press). -/
def commitCopy (press : PtpTime) (content : Cfg) (s : State) : State :=
  let f (c : ConfigCopy) : ConfigCopy := { c with pending := false, pressStamp := press, content := content, undo := none }
  if s.flash.selectedB then { s with flash := { s.flash with copyB := s.flash.copyB.map f, dirty := false } }
  else { s with flash := { s.flash with copyA := s.flash.copyA.map f, dirty := false } }

/-- A value of a PENDING copy's body when the committed value changes: what its command changes keeps its value (R384). -/
def keepPending {α : Type} [DecidableEq α] (was body new : α) : α := if body = was then new else body

/-- The words of a PENDING copy's body, with newly committed values. -/
def mergeWords (was body new : Words) : Words :=
  let f {α : Type} [DecidableEq α] (g : Words → α) : α := keepPending (g was) (g body) (g new)
  ⟨f (·.w1), f (·.w2), f (·.w3), f (·.w4), f (·.w5), f (·.w6), f (·.w7), f (·.w8), f (·.w9), f (·.w10), f (·.w11), f (·.w12),
    f (·.w13), f (·.w14)⟩

/-- The body of a PENDING copy, with newly committed values (R384). -/
def mergeCfg (was body new : Cfg) : Cfg where
  claimed := keepPending was.claimed body.claimed new.claimed
  ownerKey := keepPending was.ownerKey body.ownerKey new.ownerKey
  ownerPrefixes := keepPending was.ownerPrefixes body.ownerPrefixes new.ownerPrefixes
  tenants := keepPending was.tenants body.tenants new.tenants
  words := mergeWords was.words body.words new.words
  imageKeys := keepPending was.imageKeys body.imageKeys new.imageKeys
  coveMasterKey := keepPending was.coveMasterKey body.coveMasterKey new.coveMasterKey
  quarantine := keepPending was.quarantine body.quarantine new.quarantine
  repair := new.repair
  setpoints := new.setpoints
  latched := new.latched
  activeCopyB := keepPending was.activeCopyB body.activeCopyB new.activeCopyB
  rollbackCounter := keepPending was.rollbackCounter body.rollbackCounter new.rollbackCounter
  powerUpCount := new.powerUpCount
  faultSerial := new.faultSerial
  goodCombs := new.goodCombs

/-- A config copy with the configuration as committed: COMMITTED, or PENDING while a presence command waits whose step 2 has
completed (R384). -/
def writeCommitted (s : State) : State :=
  match s.pres.cmd, selectedCopy s with
  | some _, some c =>
    match c.undo with
    | some u => writeConfig true 0 (mergeCfg u c.content s.cfg) (some s.cfg) s
    | none => writeConfig false 0 s.cfg none s
  | _, _ => writeConfig false 0 s.cfg none s

/-- Configuration as committed, durable now (R367, R384). -/
def makeDurable (s : State) : State :=
  let s := writeCommitted s
  { s with flash := { s.flash with dirty := false, writing := false } }

/-- Step 3 of R398: the same COMMITTED copy of an unclaimed module in both slots. -/
def eraseSlots (s : State) : State :=
  let s := writeConfig false 0 s.cfg none s
  let c := selectedCopy s
  { s with flash := { s.flash with copyA := c, copyB := c, dirty := false, writing := false } }

end Sys2Proof.Machine
end

