-- ==== Sys2Proof/Machine/Mailbox.lean ====
section
/-! DEFINITION. The mailbox engine: the drops of R341, the response cache of R343, the checks of R364 in their order,
outcome and effect blocks (R351, R365), change serials (R350), and completion notices (R347). Each opcode is an Op; its
meaning is `serve` of that Op. -/

namespace Sys2Proof.Machine

/-! ## Statuses (R348, R363) -/

abbrev Status := BitVec 16
namespace Status
def ok : Status := 0
def accepted : Status := 1
def pendingPresence : Status := 2
def denied : Status := 0x0101
def badField : Status := 0x0102
def busy : Status := 0x0103
def badState : Status := 0x0104
def badOpcode : Status := 0x0105
def badLength : Status := 0x0106
def windowFull : Status := 0x0107
def stale : Status := 0x0108
def seqReused : Status := 0x0109
def presenceTimeout : Status := 0x010A
def noRecord : Status := 0x0201
def streamLimit : Status := 0x0202
def noImage : Status := 0x0203
def imageMismatch : Status := 0x0204
def tokensMissing : Status := 0x0205
def noStream : Status := 0x0206
def expired : Status := 0x0207
def prefixLimit : Status := 0x0208
def noPrefix : Status := 0x0209
def cancelled : Status := 0x020A
def loadRejected : Status := 0x0301
def storageError : Status := 0x0302
def coveFull : Status := 0x0303
def insufficientSpares : Status := 0x0304
def noEntry : Status := 0x0305
def damaged : Status := 0x0306
def holdupDeferred : Status := 0x0401
def signatureInvalid : Status := 0x0402
def rollback : Status := 0x0403
def keyLimit : Status := 0x0404
def keyUnwrap : Status := 0x0405
end Status

/-! ## Objects -/

/-- The object that a request names (R351). -/
inductive ObjKey where
  | module
  | stream (mailbox : Nat) (id : Nat)
  | prefix_ (index : Nat)
  | tenant (mailbox : Nat)
  | image
  | word (n : Nat)
  | cove (id : Nat)
  deriving DecidableEq, Repr

/-- A stream of a mailbox: live, parked, or closed with its record still kept. -/
def findStream (mb id : Nat) (s : State) : Option Stream :=
  let p (t : Stream) : Bool := t.mailbox.toNat = mb && t.id.toNat = id
  match s.str.live.find? (fun x => p x.2) with
  | some x => some x.2
  | none => match s.str.parked.find? p with
    | some t => some t
    | none => s.str.closed.find? p

/-- The live record of a stream of a mailbox (R254). -/
def liveRecord (mb id : Nat) (s : State) : Option Nat :=
  (s.str.live.find? (fun x => x.2.mailbox.toNat = mb && x.2.id.toNat = id)).map (·.1)

/-- s with every stream record of that identifier changed, wherever it stands. -/
def setStreamById (id : Nat) (f : Stream → Stream) (s : State) : State :=
  let g (t : Stream) : Stream := if t.id.toNat = id then f t else t
  { s with str := { s.str with live := s.str.live.map (fun p => (p.1, g p.2)), parked := s.str.parked.map g,
                               closed := s.str.closed.map g } }

/-- A cove object by its identifier. -/
def findObject (id : Nat) (s : State) : Option CoveObject := s.cove.objects.find? fun o => o.id.toNat = id

/-- object_kind, object_state, object_id and last change of an object (R351); object_state is given for streams and
reads zero for a kind without states (log 16). -/
def objectOf (k : ObjKey) (s : State) : Nat × Nat × Nat × Change :=
  match k with
  | .module => (0, 0, 0, s.mbox.moduleChange)
  | .stream mb id => match findStream mb id s with
    | some t => (1, t.state.code, id, t.lastChange)
    | none => (1, 0, 0, Change.zero)
  | .prefix_ i => match s.str.prefixes.find? (fun p => p.index = i) with
    | some p => (2, 0, i, p.lastChange)
    | none => (2, 0, i, Change.zero)
  | .tenant mb => (3, 0, mb, (lookup s.mbox.tenantChanges (BitVec.ofNat 16 mb)).getD Change.zero)
  | .image => (4, s.tide.dp.code, 0, s.mbox.imageChange)
  | .word n => (5, 0, n, nth s.mbox.wordChanges n Change.zero)
  | .cove id => match findObject id s with
    | some o => (6, 0, id, o.lastChange)
    | none => (6, 0, id, Change.zero)

/-- Record the last change of an object (R350). -/
def noteChange (k : ObjKey) (c : Change) (s : State) : State :=
  match k with
  | .module => { s with mbox := { s.mbox with moduleChange := c } }
  | .stream mb id => setStreamById id (fun t => if t.mailbox.toNat = mb then { t with lastChange := c } else t) s
  | .prefix_ i => { s with str := { s.str with prefixes := s.str.prefixes.map fun p => if p.index = i then { p with lastChange := c } else p } }
  | .tenant mb => { s with mbox := { s.mbox with tenantChanges := assign s.mbox.tenantChanges (BitVec.ofNat 16 mb) c } }
  | .image => { s with mbox := { s.mbox with imageChange := c } }
  | .word n => { s with mbox := { s.mbox with wordChanges := s.mbox.wordChanges.set n c } }
  | .cove id => { s with cove := { s.cove with objects := s.cove.objects.map fun o => if o.id.toNat = id then { o with lastChange := c } else o } }

/-- The change serial of the n-th change of this power-up (R350). -/
def changeSerial (s : State) : BitVec 64 := s.cfg.powerUpCount ++ s.mbox.changes

/-- Commit a change of an object: it takes the next serial (R350). -/
def commitChange (k : ObjKey) (mb : BitVec 16) (s : State) : State :=
  let s := { s with mbox := { s.mbox with changes := s.mbox.changes + 1 } }
  noteChange k ⟨changeSerial s, mb⟩ s

/-- The outcome block (R351). -/
def outcomeBlock (serial : BitVec 64) (k : ObjKey) (s : State) : Bytes :=
  let o := objectOf k s
  pack [(64, serial.toNat), (64, o.2.2.2.serial.toNat), (16, o.2.2.2.mailbox.toNat), (8, o.1), (8, o.2.1), (64, o.2.2.1),
    (32, 0)]

/-- The effect block (R365). -/
def effectBlock (e : Nat × Nat) : Bytes := pack [(64, e.2), (8, e.1), (56, 0)]

/-! ## Opcodes -/

/-- What executing a request gives: the state, the status, the object of the outcome block, whether the keepers committed
a change, the effect, and the opcode's payload. -/
structure Answer where
  state : State
  status : Status := 0
  key : ObjKey
  changed : Bool := false
  effect : Nat × Nat := (0, 0)
  body : Bytes := []

/-- An opcode of the catalogue (R362): its code, the Authority column, its class, and what it checks and does. -/
structure Op where
  code : BitVec 16
  /-- The catalogue defines the opcode. -/
  defined : Bool := true
  /-- Authority U: an unclaimed module accepts it. -/
  unclaimed : Bool := false
  /-- Authority T. -/
  tenant : Bool := false
  /-- Class Query. -/
  query : Bool := false
  /-- The opcode changes something: its responses carry the effect block (R365). -/
  changes : Bool := true
  /-- Answered before the ready point (R434). -/
  early : Bool := false
  /-- Accepted by the recovery firmware (R396). -/
  recovery : Bool := false
  /-- The module refuses the opcode as a whole in this state (check 2 of R364). -/
  blocked : State → Bool := fun _ => false
  /-- The object of the outcome block. -/
  object : Request → ObjKey := fun _ => .module
  /-- Check 3 of R364: OK or the status. -/
  length : Bytes → Status
  /-- Checks 4 to 8 of R364, and the opcode's own statuses. -/
  check : Request → State → Status := fun _ _ => Status.ok
  /-- The effect of a request that passed every check. -/
  run : Request → State → Answer

/-- A payload of exactly n bytes. -/
def exactly (n : Nat) (p : Bytes) : Status := if p.length = n then Status.ok else Status.badLength

/-- The first status that is not OK. -/
def firstBad : List Status → Status
  | [] => Status.ok
  | x :: xs => if x = Status.ok then firstBad xs else x

/-- A status unless a condition holds. -/
def need (c : Bool) (x : Status) : Status := if c then Status.ok else x

/-! ## Arrival -/

/-- Header of a request as bytes (R340). -/
def requestHeader (code : BitVec 16) (r : Request) : Bytes :=
  pack [(32, r.magic.toNat), (8, r.version.toNat), (8, r.flags.toNat), (16, r.mailbox.toNat), (32, r.sequence.toNat),
    (16, code.toNat), (16, r.status.toNat), (32, r.length.toNat), (96, r.stampField.toNat)]

/-- SHA-512 of the datagram: header, payload and tag (R343, R395). -/
def requestDigest (code : BitVec 16) (r : Request) : Digest :=
  digestOf (requestHeader code r ++ r.payload ++ r.tag)

/-- fe80::/10. -/
def linkLocal (a : BitVec 128) : Bool := bits a 127 118 = 0x3FA

/-- Whether a source matches a prefix entry (R391). -/
def prefixMatches (a : BitVec 128) (e : BitVec 256) : Bool :=
  let n := bits e 127 120
  n != 0 && (a.toNat >>> (128 - n) == bits e 255 128 >>> (128 - n))
    && (!linkLocal a || linkLocal (BitVec.ofNat 128 (bits e 255 128)))

/-- Prefix list of a mailbox. -/
def prefixesOf (mb : Nat) (s : State) : List (BitVec 256) :=
  if mb = 0 then s.cfg.ownerPrefixes
  else match s.cfg.tenants.find? (fun t => t.mailbox.toNat = mb) with
    | some t => t.prefixes
    | none => []

/-- How an arriving datagram is treated before R343. -/
inductive Arrival where
  | pass
  /-- Dropped and counted in frames_dropped_filter. -/
  | filter
  /-- Dropped and counted in dropped_auth of the mailbox. -/
  | auth
  deriving DecidableEq, Repr

/-- The source and tag checks of R341, R342, R389 and R391. -/
def authenticate (mb : Nat) (unclaimedOk : Bool) (src : Endpoint) (signed tag : Bytes) (s : State) : Arrival :=
  if mb = 0 ∧ s.cfg.claimed = false then
    if unclaimedOk = false then .filter
    else if tag = List.replicate 32 0 then .pass else .auth
  else match keyOf mb s with
    | none => .filter
    | some key =>
      if (prefixesOf mb s).any (prefixMatches src.addr) = false then .auth
      else if hmac key signed = tag then .pass else .auth

/-- The drops of R341. -/
def arrival (op : Op) (r : Request) (s : State) : Arrival :=
  if r.magic ≠ 0x46524D42 ∨ r.version ≠ 1 ∨ r.payload.length ≠ r.length.toNat ∨ r.tag.length ≠ 32
    ∨ r.length.toNat > 8960 ∨ bits r.flags 7 6 ≠ 0 ∨ r.mailbox.toNat > 256 then .filter
  else authenticate r.mailbox.toNat op.unclaimed r.src (requestHeader op.code r ++ r.payload) r.tag s

/-- Count a drop (R341). -/
def countDrop (a : Arrival) (mb : Nat) (s : State) : State :=
  match a with
  | .pass => s
  | .filter => { s with eth := { s.eth with droppedFilter := satInc s.eth.droppedFilter } }
  | .auth => countMailbox mb (fun m => { m with droppedAuth := satInc m.droppedAuth }) s

/-! ## The response cache -/

/-- A is newer than B (13, section Sequence, window and duplicates). -/
def newer (a b : BitVec 32) : Bool := 1 ≤ (a - b).toNat && (a - b).toNat < 2 ^ 31

/-- Cached entries of a mailbox, the least recently executed first. -/
def cacheOf (mb : BitVec 16) (s : State) : List CacheEntry := s.mbox.cache.filter (·.mailbox = mb)

/-- The newest cached sequence of a mailbox, plus one (R343). -/
def nextSequence (mb : BitVec 16) (s : State) : BitVec 32 :=
  match cacheOf mb s with
  | [] => 0
  | e :: es => es.foldl (fun x y => if newer y.sequence x then y.sequence else x) e.sequence + 1

/-- Keep a response; the 65th entry of a mailbox drops its least recently executed one (R343). -/
def cachePut (e : CacheEntry) (l : List CacheEntry) : List CacheEntry :=
  let l := if (l.filter (·.mailbox = e.mailbox)).length ≥ 64 then
      l.eraseP (·.mailbox = e.mailbox)
    else l
  l ++ [e]

/-- A message to the sender of a request (R329, R340). -/
def reply (k : Option Key) (r : Request) (flags : BitVec 8) (code : BitVec 16) (status : Status) (stamp : PtpTime)
    (payload : Bytes) (s : State) : State :=
  send (message k r.src r.dst flags r.mailbox r.sequence code status stamp payload) s

/-! ## Executing -/

/-- The role check of R362, check 1 of R364. -/
def roleOk (op : Op) (r : Request) (s : State) : Bool :=
  op.defined && (if r.mailbox = 0 then s.cfg.claimed || op.unclaimed else op.tenant)

/-- The module's own state, check 2 of R364 (R373, R396, R434). -/
def moduleOk (op : Op) (r : Request) (s : State) : Bool :=
  (s.pow.stage = .ready || op.early)
    && !op.blocked s
    && (s.mbox.shutdown = .no || op.query)
    && (s.ident.firmware != .recovery || (op.recovery && r.mailbox = 0))

/-- Reserved header fields of a request are zero (R340). -/
def headerOk (r : Request) : Bool := r.flags = 0 && r.status = 0 && r.stampField = 0

/-- The checks of R364, in order. -/
def checks (op : Op) (r : Request) (s : State) : Status :=
  firstBad [need (roleOk op r s) Status.badOpcode, need (moduleOk op r s) Status.badState, op.length r.payload,
    need (headerOk r) Status.badField, op.check r s]

/-- The payload of a response by its status (R365). -/
def payloadOf (changes : Bool) (serial : BitVec 64) (status : Status) (k : ObjKey) (effect : Nat × Nat) (body : Bytes)
    (s : State) : Bytes :=
  let o := outcomeBlock serial k s
  if status = Status.accepted ∨ status = Status.pendingPresence ∨ (0x0101 ≤ status.toNat ∧ status.toNat ≤ 0x010A) then o
  else if changes then o ++ effectBlock effect ++ body
  else o ++ body

/-- Whether a status leaves the message outstanding (R344). -/
def leavesOpen (status : Status) : Bool := status = Status.accepted || status = Status.pendingPresence

/-- Low 64 bits of what an outstanding message is about. -/
def ObjKey.subject : ObjKey → BitVec 64
  | .stream _ id => BitVec.ofNat 64 id
  | .prefix_ i => BitVec.ofNat 64 i
  | .tenant m => BitVec.ofNat 64 m
  | .word n => BitVec.ofNat 64 n
  | .cove id => BitVec.ofNat 64 id
  | _ => 0

/-- Mailbox of the stream that an outstanding message is about, or 0 (R254). -/
def ObjKey.holder : ObjKey → BitVec 16
  | .stream mb _ => BitVec.ofNat 16 mb
  | _ => 0

/-- Answer an executed request: commit its change, cache and send the response, keep it outstanding if it is not final
(R343, R344, R350, R351, R365). -/
def respond (op : Op) (r : Request) (a : Answer) : State :=
  let s := if a.changed then commitChange a.key r.mailbox a.state else a.state
  let serial := if a.changed then changeSerial s else 0
  let payload := payloadOf op.changes serial a.status a.key a.effect a.body s
  let s := { s with mbox := { s.mbox with
    cache := cachePut ⟨r.mailbox, r.sequence, requestDigest op.code r, op.code, a.status, payload, r.stamp.time⟩ s.mbox.cache
    outstanding := if leavesOpen a.status then
        s.mbox.outstanding ++ [⟨r.mailbox, r.sequence, op.code, r.src, r.dst, r.stamp.time, a.key.subject, a.key.holder, serial, BitVec.ofNat 64 a.effect.2⟩]
      else s.mbox.outstanding } }
  reply (keyOf r.mailbox.toNat s) r 0x80 op.code a.status r.stamp.time payload s

/-- Execute a request that passed R341 and R343: the checks, then the effect (R364). -/
def execute (op : Op) (r : Request) (s : State) : State :=
  let s := countMailbox r.mailbox.toNat (fun m => { m with msgsAccepted := satInc m.msgsAccepted }) s
  let st := checks op r s
  if st = Status.ok then respond op r (op.run r s)
  else respond op r ⟨s, st, if roleOk op r s && moduleOk op r s then op.object r else .module, false, (0, 0), []⟩

/-- The treatment of R343, by the first row that matches. -/
def sequenceCheck (op : Op) (r : Request) (s : State) : State :=
  let mb := r.mailbox.toNat
  let k := keyOf mb s
  match (cacheOf r.mailbox s).find? (·.sequence = r.sequence) with
  | some e =>
    if e.digest = requestDigest op.code r then
      reply k r 0xA0 e.opcode e.status e.stamp e.payload
        (countMailbox mb (fun m => { m with duplicates := satInc m.duplicates }) s)
    else
      reply k r 0x80 op.code Status.seqReused r.stamp.time (bytesBE 4 (nextSequence r.mailbox s).toNat)
        (countMailbox mb (fun m => { m with staleOrReused := satInc m.staleOrReused }) s)
  | none =>
    if 64 ≤ (cacheOf r.mailbox s).length ∧
        ((cacheOf r.mailbox s).head?.map fun e => newer r.sequence e.sequence) = some false then
      reply k r 0x80 op.code Status.stale r.stamp.time (bytesBE 4 (nextSequence r.mailbox s).toNat)
        (countMailbox mb (fun m => { m with staleOrReused := satInc m.staleOrReused }) s)
    else if 16 ≤ (s.mbox.outstanding.filter (·.mailbox = r.mailbox)).length then
      reply k r 0x80 op.code Status.windowFull r.stamp.time (outcomeBlock 0 .module s)
        (countMailbox mb (fun m => { m with windowFull := satInc m.windowFull }) s)
    else execute op r s

/-- An authenticated message of the owner that reaches the new addresses confirms a port configuration (R330). -/
def confirmPort (r : Request) (s : State) : State :=
  if r.mailbox = 0 then { s with eth := { s.eth with revert := none } } else s

/-- A mailbox request arrives: nothing hears it while the firmware does not run (R398, R441); then R341, R343, R364. -/
def serve (op : Op) (r : Request) (s : State) : State :=
  if s.awake then
    match arrival op r s with
    | .pass => sequenceCheck op r (confirmPort r (received s))
    | a => countDrop a r.mailbox.toNat (received s)
  else s

/-- Between s and t a request was answered ACCEPTED or PENDING_PRESENCE: its message is outstanding (R344). -/
def leftOpen (s t : State) : Bool := decide (s.mbox.outstanding.length < t.mbox.outstanding.length)

/-! ## Completion -/

/-- End an outstanding message: its completion notice goes to the request's source under key k, and the cached response
becomes the final one (R344, R347). The serial is the one taken at acceptance unless the change commits now. -/
def finish (k : Option Key) (o : Outstanding) (changes changedNow : Bool) (status : Status) (key : ObjKey)
    (effect : Nat × Nat) (body : Bytes) (s : State) : State :=
  let s := if changedNow then commitChange key o.mailbox s else s
  let serial := if changedNow then changeSerial s else o.serial
  let payload := payloadOf changes serial status key effect body s
  let s := { s with mbox := { s.mbox with
    outstanding := s.mbox.outstanding.erase o
    cache := s.mbox.cache.map fun e =>
      if e.mailbox = o.mailbox ∧ e.sequence = o.sequence then { e with status := status, payload := payload } else e } }
  send (message k o.src o.dst 0xC0 o.mailbox o.sequence o.opcode status o.stamp payload) s

/-- End the first outstanding message of one of these opcodes about a subject, if there is one; nothing is sent for a
mailbox without a key (R373, section Tenants). -/
def complete (codes : List Nat) (subject : Nat) (changedNow : Bool) (status : Status) (key : ObjKey) (effect : Nat × Nat)
    (body : Bytes) (s : State) : State :=
  match s.mbox.outstanding.find? (fun o => o.opcode.toNat ∈ codes && o.subject.toNat = subject && o.holder = key.holder) with
  | none => s
  | some o => finish (keyOf o.mailbox.toNat s) o true changedNow status key effect body s

/-! ## Pages (R376) -/

/-- Number of pages, at least one. -/
def pageCount (n per : Nat) : Nat := max 1 ((n + per - 1) / per)

/-- Page header and the entries of a page. -/
def pageBody (entries : List Bytes) (per entryBytes page : Nat) : Bytes :=
  let es := (entries.drop (page * per)).take per
  pack [(16, page), (16, pageCount entries.length per), (16, es.length), (16, entryBytes)] ++ es.flatten

end Sys2Proof.Machine
end

