-- ==== Sys2Proof/Machine/CoveOps.lean ====
section
/-! DEFINITION. The cove as its controllers see it (08): placement of extents (R235), objects, their keys and journal
records (R236 to R241), extent writes under the hold-up check (R240, R242), expiry (R244), and the size of KV records and of
a parked stream (R227, R228, R238). An object is held by its content and its extents, not by ciphertext (log 9). -/

namespace Sys2Proof.Machine

/-- Bytes of a full extent (256 MiB). -/
def extentBytes : Nat := 268435456

/-- Extents of an object of n bytes; every extent but the last is full (R235). -/
def extentsOf (n : Nat) : Nat := (n + extentBytes - 1) / extentBytes

/-- Extents that an object of n extents places on stack j when it starts on stack a (R235). -/
def extentShare (a n j : Nat) : Nat := n / 8 + if (j + 8 - a) % 8 < n % 8 then 1 else 0

/-- Free data extents of stack j that no reservation holds (R247). -/
def freeExtents (j : Nat) (s : State) : Nat :=
  (nth s.cove.records j CoveRecord.reset).extentsFree.toNat - nth s.cove.reserved j 0

/-- The start stack of R235: in descending order of free extents, ascending number on a tie, the first under which every
stack has its share free; none where the cove is too full. -/
def startStack (n : Nat) (s : State) : Option Nat :=
  (sortBy (fun a b => decide (freeExtents b s ≤ freeExtents a s)) (List.range 8)).find? fun a =>
    (List.range 8).all fun j => decide (extentShare a n j ≤ freeExtents j s)

/-- s with cove stack j's record changed. -/
def countCove (j : Nat) (f : CoveRecord → CoveRecord) (s : State) : State :=
  { s with cove := { s.cove with records := upd s.cove.records j f } }

/-- Change the free count of every stack by an object's shares. -/
def moveExtents (back : Bool) (a n : Nat) (s : State) : State :=
  (List.range 8).foldl (fun s j => countCove j (fun r =>
    { r with extentsFree := if back then satAdd r.extentsFree (extentShare a n j)
                            else BitVec.ofNat 32 (r.extentsFree.toNat - extentShare a n j) }) s) s

/-- Reserve the extents of an object that will start on stack a (R247), or give them back. -/
def reserveExtents (back : Bool) (a n : Nat) (s : State) : State :=
  let f (j : Nat) : Nat :=
    if back then nth s.cove.reserved j 0 - extentShare a n j else nth s.cove.reserved j 0 + extentShare a n j
  { s with cove := { s.cove with reserved := (List.range 8).map f } }

/-- A record is appended to the journal: its commit_serial is one higher (R240). -/
def journal (s : State) : State := { s with cove := { s.cove with journalSerial := s.cove.journalSerial + 1 } }

/-- s with one object changed. -/
def setObject (id : Nat) (f : CoveObject → CoveObject) (s : State) : State :=
  { s with cove := { s.cove with objects := s.cove.objects.map fun o => if o.id.toNat = id then f o else o } }

/-- Key destroyed, extents freed by tombstone, object gone (R236, R244). -/
def freeObject (id : Nat) (s : State) : State :=
  match findObject id s with
  | none => s
  | some o =>
    let s := journal (moveExtents true o.startStack o.extents s)
    { s with cove := { s.cove with objects := s.cove.objects.filter fun x => x.id.toNat ≠ id } }

/-- Bytes of extent k of an object. -/
def extentLength (o : CoveObject) (k : Nat) : Nat :=
  if k + 1 < o.extents then extentBytes else o.bytes - k * extentBytes

/-- Write time of an extent at 32 GB/s, in nanoseconds (R242). -/
def writeNs (bytes : Nat) : Nat := (bytes + 31) / 32

/-- Write priority of an object's extents (R239): parking, prefix moves, network load, staging. -/
def writePriority (o : CoveObject) (s : State) : Nat :=
  match o.data with
  | .stream _ => 1
  | .prefix_ _ => 2
  | .image _ => if s.img.staging.isSome && (match s.img.staging with | some g => g.digest = o.digest | none => false) then 4 else 3

/-- Extents of stack j that wait to start, as (priority, object, extent, bytes); a staging that is paused waits (R379). -/
def waitingExtents (j : Nat) (s : State) : List (Nat × Nat × Nat × Nat) :=
  s.cove.objects.flatMap fun o =>
    let paused := match writePriority o s with
      | 4 => (match s.img.staging with | some g => g.paused | none => false)
      | 3 => (match s.img.load with | some l => !l.payload | none => false)
      | _ => false
    if o.committed || o.cancelled || paused then []
    else (o.writes.filter fun w => w.stack = j && !w.started).map fun w => (writePriority o s, o.id.toNat, w.index, extentLength o w.index)

/-- Longest write time among the extents in flight (R242; each in flight is taken at its whole length, log 18). -/
def inFlightNs (s : State) : Nat :=
  (s.cove.objects.flatMap fun o => (o.writes.filter fun w => w.started && !w.durable).map fun w => writeNs (extentLength o w.index)).foldl max 0

/-- Whether stack j writes an extent: each stack writes one at a time (R235). -/
def stackWrites (j : Nat) (s : State) : Bool :=
  s.cove.objects.any fun o => o.writes.any fun w => w.stack = j && w.started && !w.durable

/-- Start the waiting extent of highest priority on an idle stack, if the hold-up check allows it; otherwise the write is
deferred and counted (R239, R240, R242). -/
def startWrite (j : Nat) (s : State) : State :=
  if stackWrites j s then s
  else match sortBy (fun a b => decide (a.1 ≤ b.1)) (waitingExtents j s) with
    | [] => s
    | (_, id, k, bytes) :: _ =>
      if holdupAllows (max (inFlightNs s) (writeNs bytes)) s then
        setObject id (fun o => { o with writes := o.writes.map fun w => if w.index = k then { w with started := true } else w }) s
      else
        let s := countCove j (fun r => { r with deferrals := satInc r.deferrals }) s
        { s with cove := { s.cove with deferred := true } }

/-- Start what can start on every stack. -/
def startWrites (s : State) : State := (List.range 8).foldl (fun s j => startWrite j s) s

/-- An object identifier drawn from the generator. -/
def drawId (s : State) : BitVec 128 × State :=
  (Config.drbg s.draws ++ Config.drbg (s.draws + 1), { s with draws := s.draws + 2 })

/-- expires_at for a TTL, 0 for none: dated once PTP time is valid, otherwise bit 63 and the TTL (R240, R244). -/
def expiresAt (ttl : Nat) (s : State) : BitVec 64 :=
  if ttl = 0 then 0
  else if s.eth.ptp.valid then BitVec.ofNat 64 (seconds s.now + ttl)
  else BitVec.ofNat 64 (2 ^ 63 + ttl % 2 ^ 48)

/-- Create an object of n bytes (R240, step 1): its key record is appended, its extents are taken and wait to be written.
None where too few extents are free. -/
def createObject (data : CoveData) (holder : BitVec 16) (bytes : Nat) (digest address : Digest) (s : State) :
    Option (BitVec 128 × State) :=
  match startStack (extentsOf bytes) s with
  | none => none
  | some a =>
    let n := extentsOf bytes
    let d := drawId s
    let o : CoveObject :=
      { id := d.1, data := data, holder := holder, startStack := a, extents := n, bytes := bytes, expiresAt := 0,
        digest := digest, contentAddress := address, keyAlive := true, committed := false, cancelled := false,
        damaged := false, readers := 0, serial := 0,
        writes := (List.range n).map fun k => ⟨k, (a + k) % 8, false, false⟩, lastChange := Change.zero, dated := 0 }
    let s := journal (moveExtents false a n d.2)
    some (d.1, startWrites { s with cove := { s.cove with objects := s.cove.objects ++ [o] } })

/-- Append an object's record: from here on it exists (R240, step 6), under a TTL. -/
def commitObject (id ttl : Nat) (s : State) : State :=
  let s := journal s
  setObject id (fun o => { o with committed := true, serial := s.cove.journalSerial, expiresAt := expiresAt ttl s, writes := [],
                                  dated := seconds s.now }) s

/-- Every extent of an object is durable. -/
def allDurable (o : CoveObject) : Bool := o.writes.all (·.durable)

/-- Kind of an object (R237). -/
def CoveObject.kind (o : CoveObject) : Nat :=
  match o.data with | .image _ => 1 | .stream _ => 2 | .prefix_ _ => 3

/-- The committed, readable image object of a digest, damaged or not. -/
def imageObject (d : Digest) (s : State) : Option CoveObject :=
  s.cove.objects.find? fun o => o.committed && o.keyAlive && o.kind = 1 && o.digest = d

/-! ## KV records (R227, R228, R443) -/

/-- Bits of an element of a narrow format (R133 codes). -/
def formatBits : Nat → Nat
  | 0 => 2 | 1 => 2 | 2 => 4 | 3 => 4 | 4 => 6 | 5 => 8 | 6 => 8 | 7 => 8 | 8 => 16
  | _ => 0

/-- Layers that keep KV. -/
def kvLayers (i : Image) : List (BitVec 1536) := i.layers.filter fun l => Layer.kvFormat l ≠ 0xFF

/-- Size of a KV record without padding (R227). -/
def kvRecordBytes (i : Image) : Nat :=
  match kvLayers i with
  | [] => 0
  | l :: _ =>
    let w := formatBits (Layer.kvFormat l)
    let ne := if w = 0 then 0 else i.kvBytes * 8 / w
    64 * i.kvBytes + 64 * ((ne + 31) / 32) + 64 + 64 * Layer.kvEntries l + 256

/-- Size of a KV record in the shelf: padded to a multiple of 1,536 B (R227). -/
def kvRecordPadded (i : Image) : Nat := (kvRecordBytes i + 1535) / 1536 * 1536

/-- n_s stacks hold KV (R228). -/
def kvStackCount (s : State) : Nat := max 1 s.img.kvStacks.length

/-- KV records of one layer that fit a page of 2 MiB per stack (R228). -/
def recordsPerPage (i : Image) (s : State) : Nat :=
  let share := (kvRecordPadded i / 64 + kvStackCount s - 1) / kvStackCount s * 64
  if share = 0 then 0 else 2097152 / share

/-- Bytes to the next data unit of 4,096 B. -/
def toUnit (n : Nat) : Nat := (n + 4095) / 4096 * 4096

/-- Bytes of a parked-stream object for a history of n tokens (R238). -/
def parkBytes (i : Image) (n : Nat) : Nat :=
  toUnit ((kvLayers i).length * ((n + 63) / 64) * kvRecordBytes i) + toUnit ((n + 16383) / 16384 * 65536) + 4096

end Sys2Proof.Machine
end

