-- ==== Sys2Proof/Machine/Memory.lean ====
section
/-! DEFINITION. The addressed memories, scratchpad and shelf, as lists of cells in one canonical form (addresses strictly
rising, no zero byte listed; an unlisted byte reads zero: R117 for the scratchpad, log 5 for the shelf), and the SEC-DED
code over their words (R122 to R124). Word w of scratchpad row RA stands at physical byte (RA * 64 + w) * 9, its check
byte last; word w of shelf unit u at (u * 8 + w) * 9. -/

namespace Sys2Proof.Machine

/-- A memory of physical bytes. -/
abbrev Memory := List Host.Cell

/-- The canonical form. -/
def Memory.wf (m : Memory) : Bool :=
  decide (m.Pairwise fun a b => a.1 < b.1) && m.all fun c => c.2 != 0

/-- The byte at an address. -/
def Memory.read (m : Memory) (a : Nat) : Byte := (lookup m a).getD 0

/-- Cells for bytes from an address, zero bytes left out. -/
def cellsFrom : Nat → Bytes → Memory
  | _, [] => []
  | a, b :: bs => if b = 0 then cellsFrom (a + 1) bs else (a, b) :: cellsFrom (a + 1) bs

/-- Bytes stored from an address up. -/
def Memory.write (m : Memory) (a : Nat) (bs : Bytes) : Memory :=
  m.filter (fun c => c.1 < a) ++ cellsFrom a bs ++ m.filter (fun c => a + bs.length ≤ c.1)

/-- n bytes from an address up. -/
def Memory.readBytes (m : Memory) (a n : Nat) : Bytes :=
  let w := m.filter fun c => a ≤ c.1 && c.1 < a + n
  (List.range n).map fun i => Memory.read w (a + i)

/-! ## SEC-DED (R122 to R124) -/

/-- Number of set bits of an 8-bit value. -/
def weight8 (x : Nat) : Nat := (List.range 8).countP fun i => x.testBit i

/-- The columns h_0 to h_63 of the data bits (R122). -/
def columns : List Nat :=
  (List.range 256).filter (fun x => weight8 x = 3) ++ ((List.range 256).filter (fun x => weight8 x = 5)).take 8

/-- The check byte of a word (R122). -/
def checkByte (d : BitVec 64) : Nat :=
  (columns.zipIdx).foldl (fun a p => if d.toNat.testBit p.2 then Nat.xor a p.1 else a) 0

/-- What a read of a word gives (R123). -/
structure WordRead where
  data : BitVec 64
  poison : Bool
  corrected : Bool
  uncorrectable : Bool
  deriving DecidableEq, Repr

/-- Decode of stored data and check byte by the syndrome (R123, R124). -/
def decodeWord (d : BitVec 64) (c : Nat) : WordRead :=
  let y := Nat.xor c (checkByte d)
  if y = 0 then ⟨d, false, false, false⟩
  else if weight8 y = 1 then ⟨d, false, true, false⟩
  else match columns.findIdx? (· = y) with
    | some i => ⟨d ^^^ BitVec.ofNat 64 (2 ^ i), false, true, false⟩
    | none => if y = 0xFF then ⟨0, true, false, false⟩ else ⟨0, true, false, true⟩

/-- Physical bytes of a word: data little-endian, then the check byte; a poisoned word is the poison word (R124). -/
def encodeWord (d : BitVec 64) (poison : Bool) : Bytes :=
  if poison then List.replicate 8 0 ++ [0xFF] else bytesLE 8 d.toNat ++ [BitVec.ofNat 8 (checkByte d)]

/-- A word with its poison marker, as data paths carry it (R125). -/
abbrev Word64 := BitVec 64 × Bool

/-- Bytes of one word slot of a memory at physical byte 9 * i. -/
def readSlot (m : Memory) (i : Nat) : WordRead :=
  let bs := m.readBytes (9 * i) 9
  decodeWord (BitVec.ofNat 64 (natLE (bs.take 8))) (natLE (bs.drop 8))

/-- n words from slot i on. -/
def readSlots (m : Memory) (i n : Nat) : List WordRead :=
  let w := m.filter fun c => 9 * i ≤ c.1 && c.1 < 9 * (i + n)
  (List.range n).map fun k => readSlot w (i + k)

/-- Words stored from slot i on. -/
def writeSlots (m : Memory) (i : Nat) (ws : List Word64) : Memory :=
  m.write (9 * i) (ws.flatMap fun w => encodeWord w.1 w.2)

/-- The words of bytes, eight to a word, little-endian, unpoisoned. -/
def wordsOf (bs : Bytes) : List Word64 :=
  (List.range ((bs.length + 7) / 8)).map fun i => (BitVec.ofNat 64 (natLE ((bs.drop (8 * i)).take 8)), false)

/-- The bytes that words carry; a poisoned word carries zeros. -/
def bytesOf (ws : List Word64) : Bytes := ws.flatMap fun w => bytesLE 8 w.1.toNat

/-- What a consumer gets from reads. -/
def carried (rs : List WordRead) : List Word64 := rs.map fun r => (r.data, r.poison)

/-- Word slots of instruction pc and of operand descriptor n in a comb's program memory: 65,536 instructions of two words,
then 1,024 descriptors of four (R130). -/
def instructionSlot (pc : Nat) : Nat := 2 * pc
def descriptorSlot (n : Nat) : Nat := 131072 + 4 * n

/-- Rows of a scratchpad: 10,240 in each of 256 banks (R112). -/
def rowCount : Nat := 2621440

/-- Bank of a row address (R112). -/
def bankOf (ra : Nat) : Nat := ra % 256

/-- Row index within the bank (R112). -/
def rowIndex (ra : Nat) : Nat := ra / 256

/-- The 64 words of a row. -/
def readRow (m : Memory) (ra : Nat) : List WordRead := readSlots m (ra * 64) 64

/-- A row stored. -/
def writeRow (m : Memory) (ra : Nat) (ws : List Word64) : Memory := writeSlots m (ra * 64) ws

/-- Units of a shelf stack: 96 GiB of 64 B (R217). -/
def unitCount : Nat := 1610612736

/-- The eight words of a shelf unit. -/
def readUnit (m : Memory) (u : Nat) : List WordRead := readSlots m (u * 8) 8

/-- Channel of a shelf unit: consecutive units on consecutive channels (R217; log 32). -/
def channelOf (u : Nat) : Nat := u % 32

/-- Words stored from a shelf unit on. -/
def writeUnits (m : Memory) (u : Nat) (ws : List Word64) : Memory := writeSlots m (u * 8) ws

/-- The units of a channel in its copy: those that cannot be read become poison (R234). -/
def copyChannel (m : Memory) (c : Nat) : Memory :=
  (((m.map fun x => x.1 / 72).filter fun u => channelOf u = c).dedup).foldl (fun m u =>
    let rs := readUnit m u
    if rs.any (fun w => w.poison || w.corrected) then writeUnits m u (carried rs) else m) m

end Sys2Proof.Machine
end

