-- ==== Sys2Proof/Machine/Kv.lean ====
section
/-! DEFINITION. KV records in the shelf (R227, R228, R313): where a record and its units stand, reading and writing its bytes,
the fallback pool of a block (R63), and the copies that cove objects hold (R268, R276, R278). -/

namespace Sys2Proof.Machine

/-! ## Layout of a record (R227) -/

/-- Elements of a token in a layer. -/
def kvElements (i : Image) (l : BitVec 1536) : Nat :=
  let w := formatBits (Layer.kvFormat l)
  if w = 0 then 0 else i.kvBytes * 8 / w

/-- Scale bytes of a token in a layer. -/
def kvScaleBytes (i : Image) (l : BitVec 1536) : Nat := (kvElements i l + 31) / 32

/-- First byte of the scales, the pool header, the pool and the summary of a record. -/
def kvScaleAt (i : Image) : Nat := 64 * i.kvBytes
def kvHeaderAt (i : Image) (l : BitVec 1536) : Nat := kvScaleAt i + 64 * kvScaleBytes i l
def kvPoolAt (i : Image) (l : BitVec 1536) : Nat := kvHeaderAt i l + 64
def kvSummaryAt (i : Image) (l : BitVec 1536) : Nat := kvPoolAt i l + 64 * Layer.kvEntries l

/-- Units of a record that a stack of the KV stack set holds at most (R228). -/
def kvShare (i : Image) (s : State) : Nat := (kvRecordPadded i / 64 + kvStackCount s - 1) / kvStackCount s

/-! ## Place of a record (R228, R313) -/

/-- Blocks that a stream reads from its prefix (R277). -/
def prefixBlocks (t : Stream) : Nat := if t.prefixIndex.isSome ∧ t.waitPrefix = false then t.sharedTokens / 64 else 0

/-- Pages in which the record of block b stands, and the ordinal of b among their blocks. -/
def blockPages (t : Stream) (b : Nat) (s : State) : List KvPage × Nat :=
  if b < prefixBlocks t then
    ((match s.str.prefixes.find? fun p => some p.index = t.prefixIndex with | some p => p.pages | none => []), b)
  else (t.pages, b - prefixBlocks t)

/-- Page of the record of layer l with ordinal b among the blocks of these pages, and its index in the page. -/
def placeIn (i : Image) (ps : List KvPage) (l b : Nat) (s : State) : Option (Nat × Nat) :=
  let per := recordsPerPage i s
  if per = 0 then none else (ps.find? fun x => x.layer = l && x.ordinal = b / per).map fun x => (x.page, b % per)

/-- Page and index of the record of layer l and block b of a stream. -/
def recordAt (i : Image) (t : Stream) (l b : Nat) (s : State) : Option (Nat × Nat) :=
  let x := blockPages t b s
  placeIn i x.1 l x.2 s

/-- Virtual comb whose gathers read unit u of every record (log 39). -/
def kvReader (i : Image) (u : Nat) (s : State) : Nat :=
  let rs := nth s.img.kvReaders (u % kvStackCount s) []
  nth rs (u / kvStackCount s * rs.length / max 1 (kvShare i s)) 0

/-- Stack and unit of unit u of a record: the (u mod n_s)-th stack of the set, or where a remap took it (R228, R313). -/
def kvUnit (i : Image) (page idx u : Nat) (s : State) : Nat × Nat :=
  let off := idx * kvShare i s + u / kvStackCount s
  match s.shelf.moved.find? fun m => m.vcomb = kvReader i u s && m.page = page with
  | some m => (m.stack, m.toPage * 32768 + off)
  | none => (nth s.img.kvStacks (u % kvStackCount s) 0, page * 32768 + off)

/-- A unit of a page belongs to virtual comb v, one of the readers of the stack in place k of the set. -/
def readsUnit (i : Image) (k v off : Nat) (s : State) : Bool :=
  kvReader i (off % max 1 (kvShare i s) * kvStackCount s + k) s = v

/-- The physical bytes of a page's units that virtual comb v's gathers read go to another page (R313). -/
def copyPage (i : Image) (k v : Nat) (src dst : Nat × Nat) (s : State) : State :=
  let lo := src.2 * 32768
  let cells := ((s.stack src.1).mem.filter fun c => decide (72 * lo ≤ c.1) && decide (c.1 < 72 * (lo + 32768)) && readsUnit i k v (c.1 / 72 - lo) s).map
    fun c => (c.1 - 72 * lo + 72 * (dst.2 * 32768), c.2)
  let low (m : Memory) : Memory := m.filter fun c => decide (c.1 < 72 * (dst.2 * 32768))
  let high (m : Memory) : Memory := m.filter fun c => decide (72 * (dst.2 * 32768 + 32768) ≤ c.1)
  setStack dst.1 (fun x => { x with mem := low x.mem ++ cells ++ high x.mem }) s

/-! ## Bytes of a record -/

/-- The eight bytes of word w of a record, with the poison of its word. -/
def kvWord (i : Image) (page idx w : Nat) (s : State) : List (Byte × Bool) :=
  let p := kvUnit i page idx (w / 8) s
  let r := readSlot (s.stack p.1).mem (p.2 * 8 + w % 8)
  (bytesLE 8 r.data.toNat).map fun b => (b, r.poison)

/-- n bytes of a record from byte `first` on. -/
def readKv (i : Image) (page idx first n : Nat) (s : State) : List (Byte × Bool) :=
  let w := first / 8
  (((List.range ((first + n + 7) / 8 - w)).flatMap fun k => kvWord i page idx (w + k) s).drop (first % 8)).take n

/-- One word of a record written. -/
def writeKvWord (i : Image) (page idx w : Nat) (bs : List (Byte × Bool)) (s : State) : State :=
  let p := kvUnit i page idx (w / 8) s
  let x : Word64 := (BitVec.ofNat 64 (natLE (bs.map (·.1))), bs.any (·.2))
  setStack p.1 (fun k => { k with mem := writeSlots k.mem (p.2 * 8 + w % 8) [x] }) s

/-- Bytes of a record written from byte `first` on, word by word under the word masks (R225). -/
def writeKv (i : Image) (page idx first : Nat) (bs : List (Byte × Bool)) (s : State) : State :=
  let w := first / 8
  (List.range ((first + bs.length + 7) / 8 - w)).foldl (fun s k =>
    let old := kvWord i page idx (w + k) s
    let word := (List.range 8).map fun b =>
      let n := 8 * (w + k) + b
      if first ≤ n ∧ n < first + bs.length then nth bs (n - first) (0, false) else nth old b (0, false)
    writeKvWord i page idx (w + k) word s) s

/-! ## The fallback pool (R63, R227) -/

/-- Entries that tokens before position p have taken from the pool of p's block in layer l. -/
def poolUsed (t : Stream) (l p : Nat) : Nat :=
  ((t.taken.filter fun x => x.1 = l && decide (p / 64 * 64 ≤ x.2.1) && decide (x.2.1 < p)).map (·.2.2)).sum

/-- A token has taken n entries. -/
def takeEntriesOf (l p n : Nat) (t : Stream) : Stream :=
  { t with taken := (t.taken.filter fun x => !(x.1 = l && x.2.1 = p)) ++ (if n = 0 then [] else [(l, p, n)]) }

/-! ## Token history (R256) -/

/-- Stack and word slot of two token IDs from token n on, in the history pages of a stream: segments of 16,384 IDs over the
stacks of the set. -/
def historySlot (t : Stream) (n : Nat) (s : State) : Option (Nat × Nat) :=
  let m := kvStackCount s
  let seg := n / 16384
  let k := seg % (32 * m)
  (t.pages.find? fun x => x.layer = 4096 && x.ordinal = seg / (32 * m)).map fun x =>
    (nth s.img.kvStacks (k % m) 0, (x.page * 2097152 + k / m * 65536) / 8 + n % 16384 / 2)

/-- The token IDs of a history from token `first` on stand in its pages, four bytes each, little-endian (log 39). -/
def storeHistory (t : Stream) (first : Nat) (s : State) : State :=
  (List.range ((t.committed.length + 1) / 2 - first / 2)).foldl (fun s k =>
    let n := 2 * (first / 2 + k)
    match historySlot t n s with
    | some p =>
      let word : Word64 := (BitVec.ofNat 64 ((nth t.committed n 0).toNat + 2 ^ 32 * (nth t.committed (n + 1) 0).toNat), false)
      setStack p.1 (fun x => { x with mem := writeSlots x.mem p.2 [word] }) s
    | none => s) s

/-! ## Copies in cove objects (R268, R276, R278, R279) -/

/-- Layers of an image that keep KV, by number. -/
def kvLayerNumbers (i : Image) : List Nat := (List.range i.layers.length).filter fun l => Layer.kvFormat (i.layer l) ≠ 0xFF

/-- The records of a stream's first m blocks in every layer. -/
def copyRecords (i : Image) (t : Stream) (m : Nat) (s : State) : List KvCopy :=
  (kvLayerNumbers i).flatMap fun l => (List.range m).filterMap fun b =>
    (recordAt i t l b s).map fun x => ⟨l, b, readKv i x.1 x.2 0 (kvRecordBytes i) s⟩

/-- Copies written into pages. -/
def restoreRecords (i : Image) (ps : List KvPage) (cs : List KvCopy) (s : State) : State :=
  cs.foldl (fun s c => match placeIn i ps c.layer c.block s with
    | some x => writeKv i x.1 x.2 0 c.bytes s
    | none => s) s

end Sys2Proof.Machine
end

