-- ==== Sys2Proof/Machine/StreamOps.lean ====
section
/-! DEFINITION. What the families share about streams (09): stream frames and state frames (R353, R357), KV pages (R228),
closing, parking and resuming (R252), and shared prefixes (R275 to R278). -/

namespace Sys2Proof.Machine

/-! ## Frames -/

/-- Header of a stream frame (R353). -/
def frameHeader (kind flags reason mb count first id aux : Nat) : Bytes :=
  pack [(32, 0x46525346), (8, 1), (8, kind), (8, flags), (8, reason), (16, mb), (16, count), (32, first), (64, id),
    (32, aux), (32, 0)]

/-- An entry of a TOKENS frame (R355). -/
def tokenEntry (e : TokenEntry) : BitVec 128 := e.position ++ e.token ++ e.tide ++ e.flags

/-- A frame of a stream's mailbox, tagged under its key; without a key there is none (R342, R353). -/
def streamFrame (dest : Endpoint) (kind flags reason : Nat) (mb : BitVec 16) (first : BitVec 32) (id : BitVec 64)
    (aux : Nat) (entries : List (BitVec 128)) (s : State) : Option Sent :=
  (keyOf mb.toNat s).map fun k =>
    let body := frameHeader kind flags reason mb.toNat entries.length first.toNat id.toNat aux
      ++ entries.flatMap fun e => bytesBE 16 e.toNat
    .frame dest (BitVec.ofNat 8 kind) (BitVec.ofNat 8 flags) (BitVec.ofNat 8 reason) mb first id
      (BitVec.ofNat 32 aux) entries (hmac k body)

/-- Send a frame of a stream's mailbox. -/
def sendFrame (dest : Endpoint) (kind flags reason : Nat) (mb : BitVec 16) (first : BitVec 32) (id : BitVec 64)
    (aux : Nat) (entries : List (BitVec 128)) (s : State) : State :=
  match streamFrame dest kind flags reason mb first id aux entries s with
  | none => s
  | some x => send x s

/-- Count TOKENS frames sent (13, mailbox record): none goes to a mailbox without a key. -/
def countFrames (mb n : Nat) (s : State) : State :=
  if (keyOf mb s).isNone then s else countMailbox mb (fun m => { m with framesOut := satAdd m.framesOut n }) s

/-- A frame will be repeated once, 10 ms later (R357). -/
def repeatLater (x : Option Sent) (s : State) : State := { s with str := { s.str with repeats := s.str.repeats ++ x.toList } }

/-- A state frame for a stream in the state it has just entered; it is repeated once (R357). -/
def stateFrame (t : Stream) (st : StreamState) (aux : Nat) (s : State) : State :=
  repeatLater (streamFrame t.out 2 4 st.code t.mailbox 0 t.id aux [] s)
    (countFrames t.mailbox.toNat 1 (sendFrame t.out 2 4 st.code t.mailbox 0 t.id aux [] s))

/-! ## Pages -/

/-- MiB of the backing region of stack j under a mapping: the kind-0 and kind-3 ranges of its die's virtual combs with a
copy of each one's program memory and descriptors, in whole MiB (08, stack map). -/
def backingMib (i : Image) (place : List Nat) (j : Nat) : Nat :=
  let mine := (List.range place.length).filter fun v => dieOf (nth place v 0) = j
  let ranges := (i.shards.filter fun e => Shard.vcomb e ∈ mine && (Shard.kind e = 0 || Shard.kind e = 3)).map Shard.length
  let code := mine.map fun v => 16 * Vgrid.instructions (nth i.vgrid v 0) + 32 * Vgrid.descriptors (nth i.vgrid v 0)
  ((ranges ++ code).sum + 1048575) / 1048576

/-- expert_area_mib in force (08). -/
def expertAreaMib (s : State) : Nat := bits s.live.w2 63 47

/-- The page numbers of the KV area that every stack of the KV stack set has, under an expert area of so many MiB: from the
first one to before the last (08, stack map; R228, R234). Page a takes MiB 2a and 2a + 1 (log 39). -/
def pageRange (area : Nat) (s : State) : Nat × Nat :=
  match s.img.image with
  | none => (0, 0)
  | some i =>
    (s.img.kvStacks.foldl (fun a j => max a ((65 + backingMib i s.img.place j + area) / 2)) 0,
      s.img.kvStacks.foldl (fun a j => min a ((95354 - (s.stack j).kvCut) / 2)) 47677)

/-- The pages that may be allocated: none in the part that a committed growth of the expert area takes (R221). -/
def openPages (s : State) : Nat × Nat := pageRange (max (expertAreaMib s) (bits s.cfg.words.w2 63 47)) s

/-- The page stays in the KV area. -/
def pageStays (range : Nat × Nat) (p : Nat) : Bool := decide (range.1 ≤ p) && decide (p < range.2)

/-- Numbers of the pages in use: those of the live streams, of the prefixes, and those that a remap has filled. -/
def heldPages (s : State) : List Nat :=
  (s.str.live.flatMap fun p => p.2.pages.map (·.page)) ++ (s.str.prefixes.flatMap fun p => p.pages.map (·.page))
    ++ s.shelf.moved.map (·.toPage)

/-- The first n pages, or fewer, that are free for allocation, lowest number first (log 39). -/
def freePages (n : Nat) (s : State) : List Nat :=
  let range := openPages s
  let held := heldPages s
  (((List.range (n + held.length)).map (range.1 + ·)).filter fun p => decide (p < range.2) && !held.contains p).take n

/-- Free pages for layers and ordinals, none unless all are there. -/
def takePages (want : List (Nat × Nat)) (s : State) : Option (List KvPage) :=
  let free := freePages want.length s
  if free.length = want.length then some ((want.zip free).map fun x => ⟨x.1.1, x.1.2, x.2⟩) else none

/-- Layers and ordinals of the pages that m blocks of records take (R228). -/
def blockPageKeys (i : Image) (m : Nat) (s : State) : List (Nat × Nat) :=
  let per := recordsPerPage i s
  if per = 0 then []
  else (kvLayerNumbers i).flatMap fun l => (List.range ((m + per - 1) / per)).map fun k => (l, k)

/-- Ordinals of the pages that a token history of n tokens takes (R256). -/
def historyPageKeys (n : Nat) (s : State) : List (Nat × Nat) :=
  (List.range (((n + 16383) / 16384 + 32 * kvStackCount s - 1) / (32 * kvStackCount s))).map fun k => (4096, k)

/-! ## The page map (R313) -/

/-- Virtual combs whose KV units stand, by the load, in another stack than that of the die they run on now, with that die. -/
def displacedReaders (s : State) : List (Nat × Nat) :=
  (s.img.kvStacks.zip s.img.kvReaders).flatMap fun x =>
    (x.2.map fun v => (v, dieOf (nth s.img.place v 0))).filter fun y => y.2 ≠ x.1

/-- Pages of KV records in use. -/
def recordPages (s : State) : List Nat :=
  ((s.str.live.flatMap fun p => p.2.pages) ++ s.str.prefixes.flatMap fun p => p.pages).filterMap fun x =>
    if x.layer = 4096 then none else some x.page

/-- The place of a page's units that a virtual comb's gathers read: a free page in the stack of its die. -/
def mapPage (v j page : Nat) (s : State) : State :=
  if s.shelf.moved.any fun m => m.vcomb = v && m.page = page && m.stack = j then s
  else match freePages 1 s with
    | [] => s
    | a :: _ =>
      let rest := s.shelf.moved.filter fun m => !(m.vcomb = v && m.page = page)
      { s with shelf := { s.shelf with moved := rest ++ [⟨v, page, j, a⟩] } }

/-- Every page in use has its places under the mapping in force; places of pages that are free again are free too. -/
def extendMap (s : State) : State :=
  let pages := recordPages s
  let kept := s.shelf.moved.filter fun m => pages.contains m.page && (displacedReaders s).contains (m.vcomb, m.stack)
  let s := { s with shelf := { s.shelf with moved := kept } }
  (displacedReaders s).foldl (fun s x => pages.foldl (fun s p => mapPage x.1 x.2 p s) s) s

/-! ## The prefill queue (R263, R422) -/

/-- n times the prefill factor f in force, rounded down: 1, 1/2, 1/4, 1/8, 0 (R422). -/
def timesF (f : BitVec 4) (n : Nat) : Nat := if 4 ≤ f.toNat then 0 else n / 2 ^ f.toNat

/-- The prefill queue in force: the committed rows_max scaled by f, at least 1; empty under f = 0 (R422). -/
def prefillQueue (s : State) : List (Nat × Nat) :=
  if 4 ≤ s.cool.f.toNat then [] else s.str.tables.queue.map fun q => (q.1, max 1 (timesF s.cool.f q.2))

/-! ## Records -/

/-- s with live record n changed. -/
def setLive (n : Nat) (f : Stream → Stream) (s : State) : State :=
  { s with str := { s.str with live := s.str.live.map fun p => if p.1 = n then (n, f p.2) else p } }

/-- Live record n. -/
def liveAt (n : Nat) (s : State) : Option Stream := lookup s.str.live n

/-- The lowest free live record (R251). -/
def freeRecord (s : State) : Option Nat := (List.range 4096).find? fun n => (liveAt n s).isNone

/-- tenant_streams_max in force (R270). -/
def streamsMax (s : State) : Nat := bits s.live.w4 223 211

/-- Why a mailbox may take no further live record (R251). -/
def recordStatus (mb : Nat) (s : State) : Status :=
  if (freeRecord s).isNone then Status.noRecord
  else if streamsMax s ≤ s.str.live.countP (fun p => p.2.mailbox.toNat = mb) then Status.streamLimit
  else Status.ok

/-- Where a stream stands in its history: the next position the stream expects (R354). -/
def historyLength (t : Stream) : Nat := t.committed.length + t.tail.toList.length + t.pending.length

/-- The whole token history in position order (R256). -/
def history (t : Stream) : List Token := t.committed ++ t.tail.toList ++ t.pending

/-- A stream as its record is kept once it holds no live record: nothing of a step remains. -/
def Stream.atRest (t : Stream) : Stream :=
  { t with tree := [], rows := 0, slotCount := 0, stepOut := none, event := {}, pages := [], kept := [], chain := none,
           chainHead := none, prefixIndex := none, waitPrefix := false }

/-- Effect of a completed park or resumption: the boundary that the park was given, or the one at which the resumption
ends (R253, R365; log 22). -/
def streamEffect (o : Outstanding) (s : State) : Nat × Nat :=
  (3, if o.opcode = 0x0406 then s.tide.number.toNat else o.effectAt.toNat)

/-- Complete every outstanding message of one of these opcodes about a stream. -/
def completeAll (codes : List Nat) (subject : Nat) (status : Status) (key : ObjKey) (body : Bytes) (s : State) : State :=
  (s.mbox.outstanding.filter fun o => o.opcode.toNat ∈ codes && o.subject.toNat = subject && o.holder = key.holder).foldl
    (fun s o => match keyOf o.mailbox.toNat s with
      | none => { s with mbox := { s.mbox with outstanding := s.mbox.outstanding.erase o } }
      | some k => finish (some k) o true false status key (streamEffect o s) body s) s

/-- Opcodes of STREAM_PARK and its owner form, and of STREAM_RESUME. -/
def parkCodes : List Nat := [0x0405, 0x0485]
def resumeCodes : List Nat := [0x0406]

/-- The stream in its record is closed for a reason: its status record is kept, poison closures are counted, a
resumption under way ends with the status given (R252, R255, R318, R377). -/
def closeStream (t : Stream) (reason : BitVec 5) (own : Bool) (resumeStatus : Status) (s : State) : State :=
  let c := { t.atRest with state := .closed, closeReason := reason, resumeTo := none, pauseReason := 0 }
  let s := { s with str := { s.str with live := s.str.live.filter (fun p => !(p.2.id = t.id && p.2.mailbox = t.mailbox))
                                        parked := s.str.parked.filter (fun x => !(x.id = t.id && x.mailbox = t.mailbox))
                                        closed := s.str.closed ++ [c] } }
  let s := if reason = 5 then
      { s with err := { s.err with record := { s.err.record with streamsClosedPoison := satInc s.err.record.streamsClosedPoison } } }
    else s
  let s := if own then s else stateFrame t .closed reason.toNat s
  let key : ObjKey := .stream t.mailbox.toNat t.id.toNat
  completeAll resumeCodes t.id.toNat resumeStatus key (streamStatus c)
    (completeAll parkCodes t.id.toNat Status.ok key (streamStatus c) s)

/-- Free the object of a parked stream and close it (R244, R252). -/
def closeParked (t : Stream) (reason : BitVec 5) (own : Bool) (s : State) : State :=
  let s := match t.parkObject with
    | some o => freeObject o.toNat s
    | none => s
  closeStream t reason own Status.cancelled s

/-- Begin to park live record n (R252, R268): its object is created and its extents wait to be written; with too few
free extents the park ends with COVE_FULL and the stream goes back to resume_to (R377). Returns whether it began. -/
def beginPark (n : Nat) (own : Bool) (s : State) : Bool × State :=
  match liveAt n s, s.img.image with
  | some t, some i =>
    let back : StreamState := if t.state = .paused then .decode else t.state
    let p := { t with state := .parking, resumeTo := some back, pauseReason := 0, event := { t.event with park := false, own := own },
                      copies := copyRecords i t ((t.committed.length + 63) / 64) s
                      slotCount := 0, rows := 0, tree := [] }
    match createObject (.stream p.atRest) t.mailbox (parkBytes i (historyLength t)) t.digest 0 s with
    | some (o, s) =>
      let s := setLive n (fun _ => { p with parkObject := some o }) s
      (true, if own then s else stateFrame p .parking 0 s)
    | none =>
      let u := { t with state := back, event := { t.event with park := false }, pauseReason := 0 }
      let s := setLive n (fun _ => u) s
      (false, completeAll parkCodes t.id.toNat Status.coveFull (.stream t.mailbox.toNat t.id.toNat)
        (streamStatus u) s)
  | _, _ => (false, s)

/-! ## Shared prefixes -/

/-- H_m over the first m blocks (R275). -/
def contentAddress (image : Digest) (tokens : List Token) : Nat → Digest
  | 0 => image
  | m + 1 =>
    let h := contentAddress image tokens m
    digestOf (bytesBE 64 h.toNat ++ ((tokens.drop (64 * m)).take 64).flatMap fun t => bytesLE 4 t.toNat)

/-- prefix_scope in force (R270). -/
def prefixScope (s : State) : Nat := bits s.live.w4 210 209

/-- Whether a stream of this mailbox sees a prefix in lookup (R277); a withdrawn prefix is not found (R278). -/
def prefixVisible (mb : BitVec 16) (p : Prefix) (s : State) : Bool :=
  p.place != 2 && !p.copying && (prefixScope s = 2 || (prefixScope s = 1 && p.publisher = mb))

/-- Streams that reference a prefix (R278). -/
def references (index : Nat) (s : State) : Nat := s.str.live.countP fun p => p.2.prefixIndex = some index

/-- The longest prefix a stream entering PREFILL can use (R277). -/
def findPrefix (t : Stream) (s : State) : Option Prefix :=
  (s.str.prefixes.filter fun p =>
      prefixVisible t.mailbox p s && decide (64 * p.blocks + 1 ≤ t.pending.length)
        && p.tokens = t.pending.take (64 * p.blocks) && p.address = contentAddress t.digest t.pending p.blocks).foldl
    (fun b p => match b with
      | none => some p
      | some q => if q.blocks < p.blocks then some p else b) none

/-- s with one prefix changed. -/
def setPrefix (index : Nat) (f : Prefix → Prefix) (s : State) : State :=
  { s with str := { s.str with prefixes := s.str.prefixes.map fun p => if p.index = index then f p else p } }

/-- Map a stream's leading blocks onto a prefix in the shelf: its tokens count as committed at once (R277). -/
def mapPrefix (p : Prefix) (t : Stream) : Stream :=
  { t with committed := t.pending.take (64 * p.blocks), pending := t.pending.drop (64 * p.blocks),
           sharedTokens := 64 * p.blocks, prefixIndex := some p.index, waitPrefix := false, chosen := t.chosen ++ p.chosen }

/-- The cove object of a prefix. -/
def prefixObject (index : Nat) (s : State) : Option CoveObject :=
  s.cove.objects.find? fun o => match o.data with | .prefix_ n => n = index | _ => false

/-- A prefix is destroyed: its pages and its cove object are freed (R276, R278). -/
def destroyPrefix (index : Nat) (s : State) : State :=
  let s := match prefixObject index s with
    | some o => freeObject o.id.toNat s
    | none => s
  { s with str := { s.str with prefixes := s.str.prefixes.filter fun p => p.index ≠ index } }

/-- Withdraw a prefix from lookup at once, and destroy it when no stream references it (R278, R303). -/
def withdrawPrefix (index : Nat) (s : State) : State :=
  if references index s = 0 then destroyPrefix index s
  else setPrefix index (fun p => { p with place := 2 }) s

/-- Withdrawn prefixes that no stream references any more are destroyed (R278). -/
def sweepPrefixes (s : State) : State :=
  (s.str.prefixes.filter fun p => p.place = 2 && references p.index s = 0).foldl (fun s p => destroyPrefix p.index s) s

/-- Whether a stream may use or publish prefixes: a committed no_share counts at once (R377). -/
def sharing (t : Stream) : Bool := !t.live.noShare && !t.shadow.noShare

/-! ## Pages for a prefix and for a resumption (R252, R276, R278) -/

/-- The records of a prefix in the shelf. -/
def prefixRecords (i : Image) (p : Prefix) (s : State) : List KvCopy :=
  (kvLayerNumbers i).flatMap fun l => (List.range p.blocks).filterMap fun b =>
    (placeIn i p.pages l b s).map fun x => ⟨l, b, readKv i x.1 x.2 0 (kvRecordBytes i) s⟩

/-- An unreferenced prefix goes to the cove: at once where its object stands, else once it is written (R278). -/
def movePrefix (p : Prefix) (s : State) : State :=
  match prefixObject p.index s, s.img.image with
  | some o, _ => if o.committed then setPrefix p.index (fun q => { q with place := 1, pages := [] }) s else s
  | none, some i =>
    match createObject (.prefix_ p.index) p.publisher (toUnit ((kvLayers i).length * p.blocks * kvRecordBytes i)) s.img.digest p.address s with
    | some o => setPrefix p.index (fun q => { q with copies := prefixRecords i p o.2 }) o.2
    | none => s
  | none, none => s

/-- The least recently used unreferenced prefixes move out until enough pages are free (R278). -/
def movePrefixes (need : Nat) (s : State) : State :=
  let idle := s.str.prefixes.filter fun p => p.place = 0 && !p.copying && references p.index s = 0
  (sortBy (fun (a b : Prefix) => decide (a.lastUse ≤ b.lastUse)) idle).foldl
    (fun s p => if (freePages need s).length = need then s else movePrefix p s) s

/-- Free pages for layers and ordinals, for which unreferenced prefixes move out (R278). -/
def pagesFor (want : List (Nat × Nat)) (s : State) : Option (List KvPage) × State :=
  let s := movePrefixes want.length s
  (takePages want s, s)

/-- The pages that a resumed stream with a history of n tokens takes (R228, R252, R256). -/
def resumePages (i : Image) (n : Nat) (s : State) : Option (List KvPage) × State :=
  pagesFor (blockPageKeys i ((n + 63) / 64) s ++ historyPageKeys n s) s

/-- The pages of a prefix's records: those that it has, or free ones (R276, R278). -/
def prefixPages (i : Image) (p : Prefix) (s : State) : Option (List KvPage) × State :=
  if p.pages = [] then pagesFor (blockPageKeys i p.blocks s) s else (some p.pages, s)

end Sys2Proof.Machine
end

