-- ==== Sys2Proof/Machine/Frames.lean ====
section
/-! DEFINITION. Stream frames: PROMPT (R353, R354), host NAKs and resends (R356, R358), the emission of a step's tokens
(R355) and the repeats of R357. -/

namespace Sys2Proof.Machine

/-! ## Arrival -/

/-- Header of a received frame as bytes (R353). -/
def receivedHeader (kind : Nat) (f : Frame) : Bytes :=
  pack [(32, f.magic.toNat), (8, f.version.toNat), (8, kind), (8, f.frameFlags.toNat), (8, f.reason.toNat),
    (16, f.mailbox.toNat), (16, f.entryCount.toNat), (32, f.firstPosition.toNat), (64, f.streamId.toNat),
    (32, f.aux.toNat), (32, f.reserved.toNat)]

/-- Header and length checks of a frame of a kind: 1 PROMPT, 3 NAK (R341, R353; log 25). -/
def frameWellFormed (kind : Nat) (f : Frame) : Bool :=
  f.magic = 0x46525346 && f.version = 1 && f.frameFlags = 0 && f.reason = 0 && f.reserved = 0 && f.tag.length = 32
    && decide (f.mailbox.toNat ≤ 256)
    && (if kind = 1 then f.aux = 0 && 1 ≤ f.entryCount.toNat && decide (f.entryCount.toNat ≤ 2048)
          && f.entries.length = 4 * f.entryCount.toNat
        else f.entryCount = 0 && f.entries.isEmpty && 1 ≤ f.aux.toNat && decide (f.aux.toNat ≤ 65536))

/-- A stream frame arrives: the drops of R341 and R353, or what `act` does with the stream it names. -/
def receiveFrame (kind : Nat) (f : Frame) (act : Stream → State → State) (s : State) : State :=
  if s.awake then
    let s := received s
    let mb := f.mailbox.toNat
    if frameWellFormed kind f then
      match authenticate mb false f.src (receivedHeader kind f ++ f.entries) f.tag s with
      | .pass => match findStream mb f.streamId.toNat s with
        | none => countDrop .filter mb s
        | some t => act t s
      | a => countDrop a mb s
    else countDrop .filter mb s
  else s

/-- A NAK has gone to the stream within the millisecond before a stamp (R354). -/
def nakTooSoon (t : Stream) (now : PtpTime) : Bool :=
  t.nakAt != 0 && decide (nanos t.nakAt ≤ nanos now) && decide (nanos now < nanos t.nakAt + 1000000)

/-- Answer a frame with a module NAK: aux carries the next position expected; at most one per stream and millisecond
(R354). -/
def moduleNak (reason : Nat) (f : Frame) (t : Stream) (s : State) : State :=
  if nakTooSoon t f.stamp.time then s
  else
    let s := setStreamById t.id.toNat (fun u => if u.mailbox = t.mailbox then { u with nakAt := f.stamp.time } else u) s
    countMailbox t.mailbox.toNat (fun m => { m with naksSent := satInc m.naksSent })
      (sendFrame f.src 3 0 reason t.mailbox 0 t.id (historyLength t) [] s)

/-! ## PROMPT -/

/-- Token IDs of a PROMPT frame. -/
def promptTokens (f : Frame) : List Token :=
  (List.range f.entryCount.toNat).map fun k => BitVec.ofNat 32 (field f.entries (4 * k) 4)

/-- max_context_tokens and vocab_size of the loaded image. -/
def contextLimit (s : State) : Nat := match s.img.image with | some i => i.maxContext | none => 0
def vocabSize (s : State) : Nat := match s.img.image with | some i => i.vocab | none => 0

/-- What the module does with a PROMPT frame (R354): a NAK's reason, nothing, or acceptance. -/
inductive PromptTreatment where
  | refuse (reason : Nat)
  | ignore
  | accept
  deriving DecidableEq, Repr

/-- The table of R354, row by row. -/
def promptTreatment (f : Frame) (t : Stream) (s : State) : PromptTreatment :=
  let e := historyLength t
  let first := f.firstPosition.toNat
  let n := f.entryCount.toNat
  if t.state ≠ .ready then .refuse 1
  else if first + n ≤ e then .ignore
  else if first ≠ e then .refuse 0
  else if contextLimit s < e + n then .refuse 2
  else if (promptTokens f).any (fun x => decide (vocabSize s ≤ x.toNat)) then .refuse 3
  else .accept

/-- PROMPT (R354). -/
def acceptPrompt (f : Frame) (t : Stream) (s : State) : State :=
  match promptTreatment f t s with
  | .refuse reason => moduleNak reason f t s
  | .ignore => s
  | .accept =>
    countMailbox t.mailbox.toNat (fun m => { m with framesInAccepted := satInc m.framesInAccepted })
      (setStreamById t.id.toNat (fun u =>
        if u.mailbox = t.mailbox then { u with pending := u.pending ++ promptTokens f } else u) s)

/-- PROMPT (R353, R354). -/
def execPrompt (f : Frame) (s : State) : Out := .next (receiveFrame 1 f (acceptPrompt f) s)

/-! ## TOKENS -/

/-- Entries that a frame to a destination carries at most (R356). -/
def frameCapacity (dest : Endpoint) (s : State) : Nat :=
  let h := if dest.addr.toNat >>> 32 = 0xFFFF then 20 else 40
  min 2048 ((bits s.live.w11 117 104 - h - 72) / 16)

/-- Send entries of a stream in one TOKENS frame (R355). -/
def sendTokens (t : Stream) (flags : Nat) (es : List TokenEntry) (s : State) : State :=
  match es with
  | [] => s
  | e :: _ => countFrames t.mailbox.toNat 1 (sendFrame t.out 2 flags 0 t.mailbox e.position t.id 0 (es.map tokenEntry) s)

/-- Runs of entries with no gap, each of at most n (R355, R356). -/
def frameRuns (n : Nat) (es : List TokenEntry) : List (List TokenEntry) :=
  es.foldr (fun e rs => match rs with
    | (x :: xs) :: rest =>
      if x.position = e.position + 1 ∧ xs.length + 2 ≤ n then (e :: x :: xs) :: rest else [e] :: (x :: xs) :: rest
    | _ => [[e]]) []

/-- Queued entries of a live stream that have not been emitted yet. -/
def queuedEntries (t : Stream) (s : State) : List TokenEntry :=
  match liveRecord t.mailbox.toNat t.id.toNat s with
  | none => []
  | some n => (s.str.emit.filter (·.1 = n)).flatMap (·.2)

/-- One above the last position that a stream has emitted. -/
def emittedEnd (t : Stream) (s : State) : Nat :=
  match t.kept.getLast? with
  | some e => e.position.toNat + 1
  | none => historyLength t - (queuedEntries t s).length

/-- Resend what was emitted of the named range, or refuse it (R358). -/
def resend (f : Frame) (t : Stream) (s : State) : State :=
  let p := f.firstPosition.toNat
  let s := countMailbox t.mailbox.toNat (fun m => { m with naksReceived := satInc m.naksReceived }) s
  if (liveRecord t.mailbox.toNat t.id.toNat s).isNone then moduleNak 5 f t s
  else
    let stop := min (p + f.aux.toNat) (emittedEnd t s)
    let least := match t.kept with | e :: _ => e.position.toNat | [] => stop
    if p < least ∧ p < stop then moduleNak 4 f t s
    else
      let es := t.kept.filter fun e => p ≤ e.position.toNat && decide (e.position.toNat < stop)
      (frameRuns (frameCapacity t.out s) es).foldl (fun s run => sendTokens t 1 run s) s

/-- HOST_NAK (R353, R358). -/
def execHostNak (f : Frame) (s : State) : Out := .next (receiveFrame 3 f (resend f) s)

/-- A frame that carries a generation's last token: end, truncated or limit (R355, R357). -/
def lastToken (es : List TokenEntry) : Bool := es.any fun e => bit e.flags 2 || bit e.flags 3 || bit e.flags 4

/-- Emit one step's tokens of live record n (R355): one frame, kept for resends (R358), repeated if it carries the last
token of a generation (R357). -/
def emitEntries (n : Nat) (es : List TokenEntry) (s : State) : State :=
  match liveAt n s with
  | none => s
  | some t =>
    let s := sendTokens t 0 es s
    let s := if lastToken es then
        repeatLater (match es with
          | e :: _ => streamFrame t.out 2 2 0 t.mailbox e.position t.id 0 (es.map tokenEntry) s
          | [] => none) s
      else s
    setLive n (fun u => { u with kept := lastN 65536 (u.kept ++ es) }) s

/-- Emit the first queued entries of live record n. -/
def emitFirst (n : Nat) (s : State) : State :=
  match s.str.emit.find? (·.1 = n) with
  | none => s
  | some p => emitEntries n p.2 { s with str := { s.str with emit := s.str.emit.erase p } }

/-- Emit everything that live record n has queued. -/
def emitAll (n : Nat) (s : State) : State := (s.str.emit.filter (·.1 = n)).foldl (fun s _ => emitFirst n s) s

/-- TOKEN_EMISSION (R28, R355): a step's tokens leave once its poison reports have settled. -/
def execTokenEmission (record : Nat) (s : State) : Out := .next (if s.awake then emitFirst record s else s)

/-- A frame with its flags replaced, tagged again. -/
def reflag (flags : Nat) (x : Sent) (s : State) : Option Sent :=
  match x with
  | .frame dest kind _ reason mb first id aux entries _ =>
    streamFrame dest kind.toNat flags reason.toNat mb first id aux.toNat entries s
  | _ => none

/-- Flags of a frame that is repeated (R353, R357). -/
def repeatFlags : Sent → Nat
  | .frame _ _ flags _ _ _ _ _ _ _ => setBits flags 1 1 1 |>.toNat
  | _ => 2

/-- Mailbox of a stream frame. -/
def Sent.mailbox : Sent → Nat
  | .frame _ _ _ _ mb _ _ _ _ _ => mb.toNat
  | _ => 0

/-- STATE_FRAME_REPEAT (R357): the oldest frame that waits for its repeat is sent again with the repeat flag. -/
def execStateFrameRepeat (s : State) : Out :=
  .next (if s.awake then
    match s.str.repeats with
    | [] => s
    | x :: rest =>
      let s := { s with str := { s.str with repeats := rest } }
      match reflag (repeatFlags x) x s with
      | none => s
      | some y => countFrames x.mailbox 1 (send y s)
  else s)

end Sys2Proof.Machine
end

