-- ==== Sys2Proof/Machine/Operands.lean ====
section
/-! DEFINITION. The number formats (R36 to R41, R50 to R64) and the operand forms of the combs (R69 to R75): element
decoding, rounding, quantisation, lane digits and serial parts. Format codes are those of R133; 9 is FP32 (R195). -/

namespace Sys2Proof.Machine

/-! ## Exact values -/

/-- An exact value m * 2^e. -/
structure Dyadic where
  m : Int
  e : Int
  deriving DecidableEq, Repr

/-- x / 2^n rounded to nearest, ties to even (R54). -/
def roundShift (x : Int) (n : Nat) : Int :=
  let d : Int := 2 ^ n
  let q := x.fdiv d
  let r := x.fmod d
  if 2 * r < d then q else if d < 2 * r then q + 1 else if q % 2 = 0 then q else q + 1

/-- The integer nearest to m * 2^e, ties to even (R54). -/
def nearest (v : Dyadic) : Int := if 0 ≤ v.e then v.m * 2 ^ v.e.toNat else roundShift v.m (-v.e).toNat

/-- Whether |a| <= |b|. -/
def Dyadic.absLe (a b : Dyadic) : Bool :=
  let e := min a.e b.e
  decide (a.m.natAbs * 2 ^ (a.e - e).toNat ≤ b.m.natAbs * 2 ^ (b.e - e).toNat)

/-- Number of bits of a natural number. -/
def bitLength (n : Nat) : Nat := if n = 0 then 0 else Nat.log2 n + 1

/-- floor(log2 |v|) of a nonzero value. -/
def Dyadic.log2 (v : Dyadic) : Int := (bitLength v.m.natAbs : Int) - 1 + v.e

/-- Sum of exact values. -/
def Dyadic.add (a b : Dyadic) : Dyadic :=
  let e := min a.e b.e
  ⟨a.m * 2 ^ (a.e - e).toNat + b.m * 2 ^ (b.e - e).toNat, e⟩

/-- Product of exact values. -/
def Dyadic.mul (a b : Dyadic) : Dyadic := ⟨a.m * b.m, a.e + b.e⟩

/-- Whether a < b. -/
def Dyadic.lt (a b : Dyadic) : Bool :=
  let e := min a.e b.e
  decide (a.m * 2 ^ (a.e - e).toNat < b.m * 2 ^ (b.e - e).toNat)

/-! ## Binary floating formats -/

/-- Layout of a float format with an all-ones exponent for infinities and NaNs: exponent bits, mantissa bits. -/
structure FloatFormat where
  expBits : Nat
  manBits : Nat

def bf16 : FloatFormat := ⟨8, 7⟩
def fp32 : FloatFormat := ⟨8, 23⟩

/-- What a code of such a format stands for. -/
inductive FloatValue where
  | finite (v : Dyadic)
  | infinite (negative : Bool)
  | nan
  deriving DecidableEq, Repr

/-- Decoding, subnormals included (R40). -/
def FloatFormat.decode (f : FloatFormat) (c : Nat) : FloatValue :=
  let man := c % 2 ^ f.manBits
  let ex := c / 2 ^ f.manBits % 2 ^ f.expBits
  let neg := c / 2 ^ (f.manBits + f.expBits) % 2 = 1
  let bias : Int := 2 ^ (f.expBits - 1) - 1
  if ex = 2 ^ f.expBits - 1 then (if man = 0 then .infinite neg else .nan)
  else
    let m : Int := if ex = 0 then man else 2 ^ f.manBits + man
    .finite ⟨if neg then -m else m, (if ex = 0 then 1 else (ex : Int)) - bias - f.manBits⟩

/-- Largest finite value. -/
def FloatFormat.max (f : FloatFormat) : Dyadic := ⟨2 ^ (f.manBits + 1) - 1, 2 ^ (f.expBits - 1) - 1 - (f.manBits : Int)⟩

/-- Code of a magnitude on the grid of a float format of bias b and m mantissa bits, rounded to nearest, ties to the even
code (R54): exponent and mantissa as one number, so that a carry moves into the exponent. -/
def floatCode (b : Int) (m : Nat) (v : Dyadic) : Nat :=
  if v.m = 0 then 0
  else
    let ex := max v.log2 (1 - b)
    let n := (nearest ⟨v.m.natAbs, v.e - (ex - m)⟩).toNat
    if ex = 1 - b then n else (ex + b - 1).toNat * 2 ^ m + n

/-- Rounding into BF16 or FP32 (R54, R55): the code, and whether it saturated. A zero result is +0 (R40). -/
def FloatFormat.round (f : FloatFormat) (v : Dyadic) : Nat × Bool :=
  let bias : Int := 2 ^ (f.expBits - 1) - 1
  let sign (c : Nat) : Nat := if v.m < 0 ∧ c ≠ 0 then c + 2 ^ (f.expBits + f.manBits) else c
  if v.absLe f.max then (sign (floatCode bias f.manBits v), false)
  else (sign ((2 ^ f.expBits - 1) * 2 ^ f.manBits - 1), true)

/-- An input of a conversion: NaN becomes 0, an infinity the largest value of its sign, each with a range event (R50,
R57). -/
def FloatFormat.input (f : FloatFormat) (c : Nat) : Dyadic × Bool :=
  match f.decode c with
  | .finite v => (v, false)
  | .infinite neg => (if neg then ⟨-f.max.m, f.max.e⟩ else f.max, true)
  | .nan => (⟨0, 0⟩, true)

/-- FP32 value of a code; not a number and infinities as R50 substitutes them. -/
def f32 (c : F32) : Dyadic := (fp32.input c.toNat).1

/-- An exact value rounded once into FP32 (R94). -/
def toF32 (v : Dyadic) : F32 := BitVec.ofNat 32 (fp32.round v).1

/-! ## Narrow formats -/

/-- Bias and mantissa bits of a narrow float format. -/
def narrowFloat : Nat → Option (Int × Nat)
  | 3 => some (1, 1) | 4 => some (3, 2) | 6 => some (7, 3) | 7 => some (15, 2)
  | _ => none

/-- Width of a format in bits (R36; 8 is BF16, 9 FP32). -/
def formatWidth : Nat → Nat
  | 0 => 2 | 1 => 2 | 2 => 4 | 3 => 4 | 4 => 6 | 5 => 8 | 6 => 8 | 7 => 8 | 8 => 16 | 9 => 32
  | _ => 0

/-- Offset o of a format (R39). -/
def formatOffset : Nat → Int
  | 3 => -1 | 4 => -4 | 6 => -9 | 7 => -16
  | _ => 0

/-- Target maximum M (R50). -/
def formatMax : Nat → Nat
  | 0 => 1 | 1 => 1 | 2 => 7 | 3 => 6 | 4 => 28 | 5 => 127 | 6 => 480 | 7 => 114688
  | _ => 0

/-- Integer form of an element code (R36, R39). -/
def integerForm (fmt c : Nat) : Int :=
  let w := formatWidth fmt
  match narrowFloat fmt with
  | none => if 2 * c < 2 ^ w then c else (c : Int) - 2 ^ w
  | some (_, m) =>
    let man := c % 2 ^ m
    let ex := c / 2 ^ m % 2 ^ (w - 1 - m)
    let n : Nat := if ex = 0 then man else (2 ^ m + man) * 2 ^ (ex - 1)
    if c / 2 ^ (w - 1) = 0 then n else -(n : Int)

/-- round_to_format of R50: a code, and whether it saturated (R54, R55). -/
def roundNarrow (fmt : Nat) (v : Dyadic) : Nat × Bool :=
  let w := formatWidth fmt
  let most : Dyadic := ⟨formatMax fmt, 0⟩
  let sat := !v.absLe most
  let x : Dyadic := if sat then ⟨if v.m < 0 then -most.m else most.m, 0⟩ else v
  match narrowFloat fmt with
  | none => ((BitVec.ofInt w (nearest x)).toNat, sat)
  | some (b, m) =>
    let c := floatCode b m x
    (if x.m < 0 ∧ c ≠ 0 then c + 2 ^ (w - 1) else c, sat)

/-! ## Quantisation (R50 to R53) -/

/-- The smallest integer s with v * 2^(-s) <= M, for v > 0. -/
def blockExponent (v : Dyadic) (most : Nat) : Int :=
  let s := v.log2 - (bitLength most - 1 : Nat)
  if Dyadic.absLe ⟨v.m, v.e - s⟩ ⟨most, 0⟩ then s else s + 1

/-- The value of largest magnitude. -/
def largest (xs : List Dyadic) : Dyadic := xs.foldl (fun a x => if x.absLe a then a else ⟨x.m.natAbs, x.e⟩) ⟨0, 0⟩

/-- x * 2^(-s). -/
def Dyadic.scale (x : Dyadic) (s : Int) : Dyadic := ⟨x.m, x.e - s⟩

/-- What quantisation gives: skS8 code, element codes, fallback entry, range event. -/
structure Quantised where
  scale : Nat
  codes : List Nat
  entry : Option Bytes
  event : Bool
  deriving DecidableEq, Repr

/-- quantise_fallback of R50, as the 64 bytes of R61. -/
def quantiseFallback (xs : List Dyadic) (wide : Bool) : Bytes × Bool :=
  if wide then
    let rs := xs.map bf16.round
    (rs.flatMap (fun r => bytesLE 2 r.1), rs.any (·.2))
  else
    let amax := largest xs
    let s0 := if amax.m = 0 then -126 else blockExponent amax 480
    let s := if s0 > 127 then 127 else if s0 < -126 then -126 else s0
    let rs := xs.map fun x => roundNarrow 6 (x.scale s)
    let code := if rs.all (·.1 = 0) then 0 else (s + 127).toNat
    (rs.map (fun r => BitVec.ofNat 8 r.1) ++ [BitVec.ofNat 8 code] ++ List.replicate 31 0, rs.any (·.2))

/-- quantise_block of R50 over exact inputs; the substitutions of NaN and infinities stand in `event`. -/
def quantiseBlock (xs : List Dyadic) (event : Bool) (fmt : Nat) (lo hi : Int) (wideFallback : Bool) : Quantised :=
  let amax := largest xs
  if amax.m = 0 then ⟨0, List.replicate 32 0, none, event⟩
  else
    let s := blockExponent amax (formatMax fmt)
    if s < lo ∨ hi < s then
      let f := quantiseFallback xs wideFallback
      ⟨0xFF, [], some f.1, event || f.2⟩
    else
      let rs := xs.map fun x => roundNarrow fmt (x.scale s)
      ⟨(s + 127).toNat, rs.map (·.1), none, event || rs.any (·.2)⟩

/-- A KV block whose pool is full: the exponent clamped to the nearer window edge, one range event (R64). -/
def quantiseClamped (xs : List Dyadic) (fmt : Nat) (lo hi : Int) : Quantised :=
  let s0 := blockExponent (largest xs) (formatMax fmt)
  let s := if s0 < lo then lo else hi
  ⟨(s + 127).toNat, xs.map (fun x => (roundNarrow fmt (x.scale s)).1), none, true⟩

/-! ## Operand blocks as the cells take them -/

/-- A block of 32 elements read for a cell. -/
inductive OperandBlock where
  /-- A zero block: gated. -/
  | zero
  /-- Scale code 0xFF with the entry index (R44, R60). -/
  | fallback (index : Nat)
  /-- A narrow block: format, presentation exponent s + o, integer forms. -/
  | narrow (fmt : Nat) (t : Int) (codes : List Nat)
  /-- A BF16 block, by its codes. -/
  | wide (codes : List Nat)
  deriving DecidableEq, Repr

/-- Elements of a block of w-bit codes: element i in bits w*i + w-1 .. w*i, little-endian (R59). -/
def blockCodes (w : Nat) (bs : Bytes) : List Nat :=
  let v := natLE bs
  (List.range 32).map fun i => v / 2 ^ (w * i) % 2 ^ w

/-- The largest unbiased exponent of the elements of a BF16 block, a subnormal counting as -126 (R71); none for an all-zero
block. An infinite or NaN code, which the spec leaves open here, counts with exponent 128, takes the value that R57 substitutes,
and raises no event of its own (DESIGN CHOICE, log 38). -/
def bf16Max (codes : List Nat) : Option Int :=
  let es := (codes.filter fun c => c % 2 ^ 15 ≠ 0).map fun c => max ((c / 128 % 256 : Nat) : Int) 1 - 127
  match es with
  | [] => none
  | e :: rest => some (rest.foldl max e)

/-- Block base and aligned integers of a BF16 block, with k = 31 for the lane side and 14 for the serial side (R71, R74). -/
def bf16Aligned (k : Int) (codes : List Nat) : Option (Int × List Int) :=
  (bf16Max codes).map fun e =>
    let t := e - k
    (t, codes.map fun c => nearest ((bf16.input c).1.scale t))

/-- Digit passes P of a lane format (R70). -/
def digitPasses : Nat → Nat
  | 4 => 2 | 6 => 3 | 7 => 5 | 8 => 4
  | _ => 1

/-- Digit j of an integer form split into p digits: bits 8j+7..8j unsigned, the top digit signed (R70). -/
def laneDigit (p j : Nat) (n : Int) : Int :=
  if j + 1 = p then n.fdiv (2 ^ (8 * j)) else (n.fdiv (2 ^ (8 * j))).fmod 256

/-- Exponent beats and significand beats of a serial format (R73). -/
def serialBeats : Nat → Nat × Nat
  | 0 => (0, 2) | 1 => (0, 2) | 2 => (0, 4) | 3 => (2, 2) | 4 => (3, 3) | 5 => (0, 8) | 6 => (4, 8) | 7 => (5, 12) | 8 => (0, 16)
  | _ => (0, 0)

/-- Cycles of one lane group (R99). -/
def groupCycles (lane serial : Nat) : Nat := (serialBeats serial).1 + digitPasses lane * (serialBeats serial).2

/-- Bytes of a block of 32 elements (R59). -/
def blockBytes (fmt : Nat) : Nat := 4 * formatWidth fmt

/-- R, C, s of a DOT (R105). -/
def dotShape (o : DotOp) : Nat × Nat × Nat :=
  let r := 2 ^ o.a.toNat
  let sl := 2 ^ o.b.toNat
  (r, (if o.quadMode then 4096 else 16384) / (r * sl), sl)

/-- Blocks of each lane vector or serial column of a DOT. -/
def dotBlocks (o : DotOp) : Nat := (dotShape o).2.2 * o.laneGroups.toNat * 2

/-! ## Rows of a tensor (R59, R133, R222; logs 12 and 32) -/

/-- Vectors and blocks per vector of the tensors that a program takes from descriptor n. -/
def tensorsOf (ops : List TideOp) (n : Nat) : List (Nat × Nat) :=
  ops.flatMap fun
    | .dot o =>
      (if o.laneDesc.toNat = n then [((dotShape o).1, dotBlocks o)] else [])
        ++ (if o.serialDesc.toNat = n then [((dotShape o).2.1, dotBlocks o)] else [])
    | _ => []

/-- Rows of the block part and of the scale part of a tensor (R59). -/
def tensorRows (d : BitVec 256) (t : Nat × Nat) : Nat × Nat :=
  let b := blockBytes (Desc.format d)
  let blocks := if Desc.stride d = 0 then (t.1 * t.2 * b + 511) / 512 else (t.1 - 1) * Desc.stride d + (t.2 * b + 511) / 512
  (blocks, if Desc.format d = 8 then 0 else (t.1 * t.2 + 511) / 512)

/-- Rows of the block part and of the scale part that the largest tensor of a descriptor needs. -/
def partRows (d : BitVec 256) (ts : List (Nat × Nat)) : Nat × Nat :=
  (ts.map (tensorRows d)).foldl (fun a b => (max a.1 b.1, max a.2 b.2)) (0, 0)

/-- Row k of a stream: block rows, then scale rows, then fallback rows; contiguous where no tensor stands in the
descriptor (R222). -/
def partRow (d : BitVec 256) (ts : List (Nat × Nat)) (k : Nat) : Nat :=
  let m := partRows d ts
  if ts = [] ∨ k < m.1 then Desc.blockRow d + k
  else if k < m.1 + m.2 then Desc.scaleRow d + (k - m.1)
  else Desc.fallbackRow d + (k - m.1 - m.2)

/-- Ranges of rows, as first row and count, that a stream of n rows writes. -/
def partRanges (d : BitVec 256) (ts : List (Nat × Nat)) (n : Nat) : List (Nat × Nat) :=
  let m := partRows d ts
  if ts = [] then [(Desc.blockRow d, n)]
  else [(Desc.blockRow d, min n m.1), (Desc.scaleRow d, min (n - m.1) m.2), (Desc.fallbackRow d, n - m.1 - m.2)].filter (·.2 ≠ 0)

/-- Blocks that a run holds at most (R77). -/
def runLimit : Nat → Nat
  | 6 => 4 | 7 => 8
  | _ => 16

/-- Classes of a narrow float serial format (R73). -/
def serialClasses : Nat → Nat
  | 6 => 2 | 7 => 4
  | _ => 1

/-- Part of a narrow float element in class c: its signed significand shifted by its lane shift, or 0 (R73). -/
def classPart (fmt c code : Nat) : Int :=
  match narrowFloat fmt with
  | none => integerForm fmt code
  | some (_, m) =>
    let ex := code / 2 ^ m % 2 ^ (formatWidth fmt - 1 - m)
    let x := ex - 1
    if x / 8 = c then
      let sig : Nat := if ex = 0 then code % 2 ^ m else 2 ^ m + code % 2 ^ m
      let v : Int := sig * 2 ^ (x % 8)
      if code / 2 ^ (formatWidth fmt - 1) = 0 then v else -v
    else 0

/-- A block on the lane side: presentation exponent, digit passes, integers (R70, R71). -/
def presentLane : OperandBlock → Option (Int × Nat × List Int)
  | .narrow fmt t cs => some (t, digitPasses fmt, cs.map (integerForm fmt))
  | .wide cs => (bf16Aligned 31 cs).map fun a => (a.1, 4, a.2)
  | _ => none

/-- A block on the serial side: presentation exponent, and its segments as extra weight and parts (R72 to R74). -/
def presentSerial : OperandBlock → Option (Int × List (Int × List Int))
  | .narrow fmt t cs => some (t, (List.range (serialClasses fmt)).map fun (c : Nat) => ((8 * c : Nat), cs.map (classPart fmt c)))
  | .wide cs => (bf16Aligned 14 cs).map fun a => (a.1, [(0, a.2.map fun n => n.fmod 256), (8, a.2.map fun n => n.fdiv 256)])
  | _ => none

/-- A fallback entry as a block of its format (R61). -/
def entryBlock (wide : Bool) (bs : Bytes) : OperandBlock :=
  if wide then .wide (blockCodes 16 bs)
  else
    let scale := ((bs.drop 32).headD 0).toNat
    if scale = 0 then .zero else .narrow 6 ((scale : Int) - 127 + formatOffset 6) (blockCodes 8 (bs.take 32))

/-- A block of the block array with its scale code (R44, R59); a BF16 block that is all zero is a zero block (R71). -/
def plainBlock (fmt scale : Nat) (bs : Bytes) : OperandBlock :=
  if fmt = 8 then (let cs := blockCodes 16 bs; if cs.all (fun c => c % 2 ^ 15 = 0) then .zero else .wide cs)
  else if scale = 0 then .zero
  else if scale = 0xFF then .fallback (natLE (bs.take 4))
  else .narrow fmt ((scale : Int) - 127 + formatOffset fmt) (blockCodes (formatWidth fmt) bs)

/-- Whether a scale code breaks the window rule (R85, R134). -/
def outsideWindow (fmt scale : Nat) (lo hi : Int) : Bool :=
  fmt != 8 && scale != 0 && scale != 0xFF && (decide ((scale : Int) - 127 < lo) || decide (hi < (scale : Int) - 127))

/-! ## Runs and accumulators (R76 to R79) -/

/-- Promote a run into the wide accumulator (R78). -/
def Cell.promote (x : Cell) (u r : Int) : Cell :=
  let v := x.a + nearest ⟨u, r - x.b⟩
  let most : Int := 2 ^ 95 - 1
  if v > most then { x with a := most, overflow := true }
  else if v < -most then { x with a := -most, overflow := true }
  else { x with a := v }

/-- Close the main run (R77). -/
def Cell.close (x : Cell) : Cell :=
  match x.main with
  | none => x
  | some run => { x.promote run.u run.r with main := none }

/-- Beats of n blocks at run exponent r enter the main run (R76, R77). -/
def Cell.feed (x : Cell) (limit : Nat) (r u : Int) (n : Nat) : Cell :=
  let y := match x.main with
    | some run => if run.r = r ∧ run.blocks + n ≤ limit then x else x.close
    | none => x
  match y.main with
  | some run => { y with main := some ⟨r, run.u + u, run.blocks + n⟩ }
  | none => { y with main := some ⟨r, u, n⟩ }

/-- One run segment of a lane group: each half, if active, with its run exponent and sum (R76). -/
def Cell.segment (x : Cell) (limit : Nat) (lo hi : Option (Int × Int)) : Cell :=
  match lo, hi with
  | none, none => x
  | some h, none => x.feed limit h.1 h.2 1
  | none, some h => x.feed limit h.1 h.2 1
  | some g, some h =>
    if g.1 = h.1 then x.feed limit g.1 (g.2 + h.2) 2
    else (x.feed limit g.1 g.2 1).promote h.2 h.1

/-- Sum of products of two lists. -/
def dotSum (xs ys : List Int) : Int := (List.zipWith (· * ·) xs ys).foldl (· + ·) 0

/-- The run segments of one half: for each digit pass and each class or digit of the serial side, run exponent and sum;
none for a gated half (R73, R75, R100). -/
def halfSegments (lane serial : OperandBlock) : List (Int × Int) :=
  match presentLane lane, presentSerial serial with
  | some (tl, p, ns), some (ts, parts) =>
    (List.range p).flatMap fun j =>
      let digits := ns.map (laneDigit p j)
      parts.map fun c => (tl + ts + 8 * (j : Int) + c.1, dotSum digits c.2)
  | _, _ => []

/-- One lane group of a cell: the segments of both halves in their order (R76, R99). -/
def Cell.group (x : Cell) (limit : Nat) (lo hi : List (Int × Int)) : Cell :=
  (List.range (max lo.length hi.length)).foldl (fun x k => x.segment limit lo[k]? hi[k]?) x

/-- W of an element's cells: the sum of their accumulators, rounded to the skW grid; saturation sets the overflow flag
(R79). -/
def emitSum (cells : List Cell) : Int × Bool × Bool :=
  let cs := cells.map Cell.close
  let w := roundShift (cs.foldl (fun a c => a + c.a) 0) 32
  let ov := cs.any (·.overflow)
  let po := cs.any (·.poison)
  if w > 2 ^ 63 - 1 then (2 ^ 63 - 1, true, po)
  else if w < -(2 ^ 63) then (-(2 ^ 63), true, po)
  else (w, ov, po)

/-! ## skW (R80, R120, R148) -/

/-- A skW entry: 72-bit sum, overflow flag, poison flag. -/
structure SkW where
  sum : Int
  overflow : Bool
  poison : Bool
  deriving DecidableEq, Repr

/-- Bytes of a skW entry, ten of them (R120, R148). -/
def SkW.bytes (x : SkW) : Bytes :=
  bytesLE 9 (BitVec.ofInt 72 x.sum).toNat ++ [BitVec.ofNat 8 (flag x.overflow + 2 * flag x.poison)]

/-- A skW entry from its bytes. -/
def skwOf (bs : Bytes) : SkW :=
  let f := ((bs.drop 9).headD 0).toNat
  ⟨(BitVec.ofNat 72 (natLE (bs.take 9))).toInt, f.testBit 0, f.testBit 1⟩

/-- Addition of skW entries, saturating beyond 72 bits with the overflow flag (R80, R120). -/
def SkW.add (x y : SkW) : SkW :=
  let v := x.sum + y.sum
  let ov := x.overflow || y.overflow
  if v > 2 ^ 71 - 1 then ⟨2 ^ 71 - 1, true, x.poison || y.poison⟩
  else if v < -(2 ^ 71) then ⟨-(2 ^ 71), true, x.poison || y.poison⟩
  else ⟨v, ov, x.poison || y.poison⟩

/-- The single rounding at the root (R81): output code and range event. -/
def rootRound (fmt : Nat) (q : Int) (x : SkW) : Nat × Bool :=
  let f := if fmt = 9 then fp32 else bf16
  let r := f.round ⟨x.sum, q⟩
  (r.1, r.2 || x.overflow || decide (x.sum > 2 ^ 63 - 1) || decide (x.sum < -(2 ^ 63)))

/-! ## Rotations (R88 to R91) -/

/-- d_i of the generator of R89: whether element i is negated. -/
def rotationNegates (seed i : Nat) : Bool :=
  let z := (seed + (i + 1) * 0x9E3779B97F4A7C15) % 2 ^ 64
  let z := (Nat.xor z (z >>> 30) * 0xBF58476D1CE4E5B9) % 2 ^ 64
  let z := (Nat.xor z (z >>> 27) * 0x94D049BB133111EB) % 2 ^ 64
  (Nat.xor z (z >>> 31)).testBit 63

/-- The unnormalised Walsh-Hadamard transform of 2^k integers (R88). -/
def hadamard : Nat → List Int → List Int
  | 0, xs => xs
  | k + 1, xs =>
    let lo := hadamard k (xs.take (2 ^ k))
    let hi := hadamard k (xs.drop (2 ^ k))
    List.zipWith (· + ·) lo hi ++ List.zipWith (· - ·) lo hi

/-- H_k D of the segment that starts at element `first` (R88). -/
def rotate (seed k first : Nat) (xs : List Int) : List Int :=
  hadamard k (xs.zipIdx.map fun p => if rotationNegates seed (first + p.2) then -p.1 else p.1)

/-- The wide datapath's rotation of one segment (R90): the integers Y with the exponent f; zeros for an all-zero segment. -/
def wideRotate (seed k first : Nat) (xs : List Dyadic) : List Dyadic :=
  let top := largest xs
  if top.m = 0 then xs.map fun _ => ⟨0, 0⟩
  else
    let f := top.log2 - 46
    (rotate seed k first (xs.map fun x => nearest (x.scale f))).map fun y => ⟨y, f⟩

end Sys2Proof.Machine
end

