-- ==== Sys2Proof/Machine/Blocks.lean ====
section
/-! DEFINITION. Blocks of an operand as they stand in scratchpad rows (R44, R59 to R61, R133). -/

namespace Sys2Proof.Machine

/-! ## Operand blocks in the scratchpad (R59, R133; log 12) -/

/-- n bytes of a scratchpad from a byte address, with whether a word they touch is poisoned. -/
def operandBytes (m : Memory) (a n : Nat) : Bytes × Bool :=
  let rs := readSlots m (a / 8) ((a + n + 7) / 8 - a / 8)
  (((bytesOf (carried rs)).drop (a % 8)).take n, rs.any (·.poison))

/-- First byte of vector v of an operand of nb blocks a vector. -/
def vectorByte (d : BitVec 256) (off nb v : Nat) : Nat :=
  (Desc.blockRow d + off) * 512 + (if Desc.stride d = 0 then v * nb * blockBytes (Desc.format d) else v * Desc.stride d * 512)

/-- Byte of the scale of block k of vector v. -/
def scaleByte (d : BitVec 256) (off nb v k : Nat) : Nat := (Desc.scaleRow d + off) * 512 + v * nb + k

/-- Rows from the one of byte a to the one of byte a + n - 1. -/
def rowsOfBytes (a n : Nat) : List Nat := (List.range ((a + n + 511) / 512 - a / 512)).map (a / 512 + ·)

/-- Rows that vector v takes. -/
def vectorRows (d : BitVec 256) (off nb v : Nat) : List Nat :=
  rowsOfBytes (vectorByte d off nb v) (nb * blockBytes (Desc.format d))
    ++ (if Desc.format d = 8 then [] else rowsOfBytes (scaleByte d off nb v 0) nb)

/-- An operand block as read: the block, its scale code, and poison. -/
structure BlockRead where
  block : OperandBlock
  scale : Nat
  poison : Bool

/-- Block k of vector v; the payload of a zero block is not read (R44). -/
def readBlock (m : Memory) (d : BitVec 256) (off nb v k : Nat) : BlockRead :=
  let fmt := Desc.format d
  let body := operandBytes m (vectorByte d off nb v + k * blockBytes fmt) (blockBytes fmt)
  if fmt = 8 then ⟨plainBlock 8 0 body.1, 0, body.2⟩
  else
    let sc := operandBytes m (scaleByte d off nb v k) 1
    let code := natLE sc.1
    if code = 0 then ⟨plainBlock fmt 0 [], 0, sc.2⟩
    else ⟨plainBlock fmt code body.1, code, body.2 || sc.2⟩

/-- The fallback entry of a block, where it has fallen back, in its fallback format (R60, R61). -/
def replaced (m : Memory) (d : BitVec 256) (off : Nat) (b : BlockRead) : BlockRead :=
  match b.block with
  | .fallback n =>
    let e := operandBytes m ((Desc.fallbackRow d + off) * 512 + 64 * n) 64
    ⟨entryBlock (Desc.fallbackBf16 d) e.1, b.scale, b.poison || e.2⟩
  | _ => b

end Sys2Proof.Machine
end

