-- ==== Sys2Proof/Machine/Crypto.lean ====
section
/-! DEFINITION. RSASSA-PSS verification with RSA-4096, SHA-512, MGF1 with SHA-512 and a 64-byte salt, in its standard
meaning (00, section Names; R191, R385). -/

namespace Sys2Proof.Machine

/-- b to the power e modulo m, over the n low bits of e, the highest first. -/
def powMod (b e m : Nat) : Nat → Nat
  | 0 => 1 % m
  | n + 1 =>
    let r := powMod b (e / 2) m n
    let q := r * r % m
    if e % 2 = 1 then q * b % m else q

/-- MGF1: n blocks of SHA-512 over the seed and a counter that starts at c. -/
def mgf1 (seed : Bytes) : Nat → Nat → Bytes
  | 0, _ => []
  | n + 1, c => sha512 (seed ++ bytesBE 4 c) ++ mgf1 seed n (c + 1)

/-- Byte strings combined bit by bit. -/
def xorBytes (a b : Bytes) : Bytes := List.zipWith (fun x y => x ^^^ y) a b

/-- EMSA-PSS-VERIFY of a 512-byte encoded message, whose leading bit is zero, over a message. -/
def pssEncoded (message em : Bytes) : Bool :=
  let masked := em.take 447
  let h := (em.drop 447).take 64
  let db := xorBytes masked (mgf1 h 7 0)
  let first := match db with | x :: _ => x.toNat % 128 | [] => 1
  let salt := db.drop 383
  (match em with | x :: _ => decide (x.toNat < 128) | [] => false)
    && em.drop 511 = [0xBC#8]
    && first = 0 && (db.drop 1).take 381 = List.replicate 381 0 && (db.drop 382).take 1 = [1#8]
    && h = sha512 (List.replicate 8 0 ++ sha512 message ++ salt)

/-- RSASSA-PSS verification; the signature is an octet string, its first octet the most significant. -/
def pssVerify (modulus exponent : Nat) (message signature : Bytes) : Bool :=
  let s := natBE signature
  signature.length = 512 && decide (s < modulus) && pssEncoded message (bytesBE 512 (powMod s exponent modulus 32))

end Sys2Proof.Machine
end

