-- ==== Sys2Proof/Machine/Tree.lean ====
section
/-! DEFINITION. The grid, the links and the reduction tree (R136, R153, R154), and the placement of virtual combs (R193,
R207, R208). Grid positions are 5 * y + x, the hive die at 12; directions are 0 north, 1 east, 2 south, 3 west. -/

namespace Sys2Proof.Machine

/-- Grid position of comb die n (24 is the hive die). -/
def positionOf (n : Nat) : Nat := if n = 24 then 12 else if n < 12 then n else n + 1

/-- Die at a grid position. -/
def dieAt (p : Nat) : Nat := if p = 12 then 24 else if p < 12 then p else p - 1

/-- Neighbouring die in a direction. -/
def neighbour (n d : Nat) : Option Nat :=
  let p := positionOf n
  match d with
  | 0 => if 5 ≤ p then some (dieAt (p - 5)) else none
  | 1 => if p % 5 < 4 then some (dieAt (p + 1)) else none
  | 2 => if p < 20 then some (dieAt (p + 5)) else none
  | 3 => if 0 < p % 5 then some (dieAt (p - 1)) else none
  | _ => none

/-- The link in a direction, and the link direction in which a frame leaves through it (R136). -/
def linkTowards (n d : Nat) : Nat × Bool :=
  let p := positionOf n
  let x := p % 5
  let y := p / 5
  match d with
  | 0 => (20 + 5 * (y - 1) + x, true)
  | 1 => (4 * y + x, false)
  | 2 => (20 + 5 * y + x, false)
  | _ => (4 * y + (x - 1), true)

/-- The die that a link direction runs from and the die it runs to (R136). -/
def linkEnds (link : Nat) (dir : Bool) : Nat × Nat :=
  let a := if link < 20 then 5 * (link / 4) + link % 4 else 5 * ((link - 20) / 5) + (link - 20) % 5
  let b := if link < 20 then a + 1 else a + 5
  if dir then (dieAt b, dieAt a) else (dieAt a, dieAt b)

/-- Index of a link direction in the counter query: 2 * link + direction (R378). -/
def linkIndex (link : Nat) (dir : Bool) : Nat := 2 * link + flag dir

/-- A link direction. -/
def State.link (s : State) (link : Nat) (dir : Bool) : LinkDir := nth s.fabric.links (linkIndex link dir) LinkDir.reset

/-- s with a link direction changed. -/
def setLink (link : Nat) (dir : Bool) (f : LinkDir → LinkDir) (s : State) : State :=
  { s with fabric := { s.fabric with links := upd s.fabric.links (linkIndex link dir) f } }

/-- State of a domain (R410). -/
def domainState (d : Nat) (s : State) : BitVec 4 := (nth s.pow.domains d Domain.reset).state

/-- The die's link domain is powered: its port forwards (R154). -/
def portServes (n : Nat) (s : State) : Bool :=
  if n = 24 then domainState 194 s = 0 else domainState (96 + 4 * n + 2) s = 0

/-- Active lane groups of a link direction. -/
def activeGroups (d : LinkDir) : Nat := (List.range 16).countP fun g => bit d.groupsActive g

/-- A link has not failed, and neither direction has fewer than 16 - margin active lane groups (R159). -/
def linkServes (margin n d : Nat) (s : State) : Bool :=
  let l := (linkTowards n d).1
  [s.link l false, s.link l true].all fun x => x.state != 2 && decide (16 ≤ activeGroups x + margin)

/-- Parent of die n in a tree; none for a byte that is no direction. -/
def parentOf (tree : List (BitVec 8)) (n : Nat) : Option Nat :=
  if n = 24 then none else neighbour n (nth tree n 0xFF).toNat

/-- Dies from n up to the hive die, n first; none where the root is not reached. -/
def pathUp (tree : List (BitVec 8)) : Nat → Nat → Option (List Nat)
  | 0, _ => none
  | k + 1, n => if n = 24 then some [24] else match parentOf tree n with
    | none => none
    | some m => (pathUp tree k m).map fun l => n :: l

/-- Dies on the way from die n to the root. -/
def pathToRoot (tree : List (BitVec 8)) (n : Nat) : Option (List Nat) := pathUp tree 26 n

/-- Hop count of a die; none where it is cut off. -/
def hops (tree : List (BitVec 8)) (n : Nat) : Option Nat := (pathToRoot tree n).map fun l => l.length - 1

/-- Path latency L between a comb of die n and the root (R155, R156). -/
def pathLatency (tree : List (BitVec 8)) (n : Nat) : Option Nat :=
  (pathToRoot tree n).map fun l =>
    let h := l.length - 1
    let dirs := (l.take h).map fun m => (nth tree m 0).toNat
    let straight := (dirs.zip (dirs.drop 1)).countP fun x => x.1 = x.2
    9 + 40 * h + 6 * straight + 4 * (h - 1 - straight) + 10

/-- The path of a comb goes up through die n. -/
def throughDie (tree : List (BitVec 8)) (n p : Nat) : Bool :=
  match pathToRoot tree (dieOf p) with
  | some l => l.contains n
  | none => false

/-- Tree distance of two dies (R193). -/
def treeDistance (tree : List (BitVec 8)) (a b : Nat) : Nat :=
  match pathToRoot tree a, pathToRoot tree b with
  | some p, some q =>
    let common := (p.reverse.zip q.reverse).takeWhile (fun x => x.1 = x.2)
    p.length + q.length - 2 * common.length
  | _, _ => 99

/-- A tree declaration is legal: the default tree, or directions towards neighbours from which every die reaches the hive
die (R153). -/
def treeLegal (decl : List (BitVec 8)) : Bool :=
  decl.all (· = 0xFF) || (List.range 24).all fun n => (nth decl n 0xFF).toNat < 4 && (hops decl n).isSome

/-- The declared tree (R153). -/
def declaredTree (decl : List (BitVec 8)) : List (BitVec 8) := if decl.all (· = 0xFF) then defaultTree else decl

/-- A die's parent link serves, with powered ports at both ends (R154). -/
def parentServes (margin : Nat) (tree : List (BitVec 8)) (n : Nat) (s : State) : Bool :=
  match parentOf tree n with
  | none => false
  | some m => portServes m s && linkServes margin n (nth tree n 0xFF).toNat s

/-- Dies that reach the root through parents in service (R154, step 1). -/
def settledDies (margin : Nat) (tree : List (BitVec 8)) (s : State) : List Nat :=
  (List.range 24).filter fun n =>
    portServes n s && match pathToRoot tree n with
      | none => false
      | some l => (l.filter (· ≠ 24)).all fun m => portServes m s && parentServes margin tree m s

/-- The first neighbour, in the order north, east, south, west, that is settled, in service and joined by a link in service
(R154, step 3). -/
def newParent (margin : Nat) (settled : List Nat) (n : Nat) (s : State) : Option Nat :=
  (List.range 4).find? fun d => match neighbour n d with
    | none => false
    | some m => (m = 24 || settled.contains m) && portServes m s && linkServes margin n d s

/-- One pass over the dies that need a parent (R154, step 4). -/
def reparentPass (margin : Nat) (order : List Nat) (s : State) (acc : List (BitVec 8) × List Nat) : List (BitVec 8) × List Nat :=
  order.foldl (fun (a : List (BitVec 8) × List Nat) n =>
    if a.2.contains n ∨ portServes n s = false then a
    else match newParent margin a.2 n s with
      | none => a
      | some d => (a.1.set n (BitVec.ofNat 8 d), a.2 ++ [n])) acc

/-- Passes until none settles a die; 24 suffice. -/
def reparentPasses (margin : Nat) (order : List Nat) (s : State) : Nat → List (BitVec 8) × List Nat → List (BitVec 8) × List Nat
  | 0, a => a
  | k + 1, a => reparentPasses margin order s k (reparentPass margin order s a)

/-- The tree in force from a declared tree, with 0xFF for a die that is cut off (R154); a link that has lost more than
`margin` lane groups of a direction is below margin. -/
def formTree (margin : Nat) (tree : List (BitVec 8)) (s : State) : List (BitVec 8) :=
  let settled := settledDies margin tree s
  let depth (n : Nat) : Nat := (hops tree n).getD 99
  let order := sortBy (fun a b => decide (depth a < depth b) || (depth a = depth b && decide (a ≤ b)))
    ((List.range 24).filter fun n => !settled.contains n)
  let r := reparentPasses margin order s 24 (tree, settled)
  (List.range 24).map fun n => if r.2.contains n then nth r.1 n 0xFF else 0xFF

/-- Hop count of a comb. -/
def combHops (tree : List (BitVec 8)) (p : Nat) : Nat := (hops tree (dieOf p)).getD 99

/-- Good combs whose die is not cut off. -/
def usableCombs (tree : List (BitVec 8)) (s : State) : List Nat :=
  (goodCombs s).filter fun p => (hops tree (dieOf p)).isSome

/-- Reach and peers of virtual comb v on comb p, against the placements made so far (R193, R207). -/
def reaches (i : Image) (tree : List (BitVec 8)) (v p : Nat) (placed : List (Nat × Nat)) : Bool :=
  let g := nth i.vgrid v 0
  decide (combHops tree p ≤ Vgrid.rootReach g) && placed.all fun x =>
    !(Vgrid.peers g).contains x.1 || decide (treeDistance tree (dieOf p) (dieOf x.2) ≤ min (Vgrid.peerReach g) (Vgrid.peerReach (nth i.vgrid x.1 0)))

/-- Candidate order: farthest first, then die, then quadrant (R207). -/
def candidateOrder (tree : List (BitVec 8)) (a b : Nat) : Bool :=
  decide (combHops tree b < combHops tree a) || (combHops tree a = combHops tree b && decide (a ≤ b))

/-- map_image of R207: the placement, or the virtual comb and code of the rejection. `unfit` gives the code that keeps a
virtual comb off a comb beside the placements made so far (links_and_paths_fit). Where candidates fail partly on link time
and partly on path timing the code is 0x0603 (DESIGN CHOICE, log 38). -/
def mapImage (i : Image) (tree : List (BitVec 8)) (good : List Nat) (unfit : List (Nat × Nat) → Nat → Nat → Option (BitVec 16)) :
    (List Nat) ⊕ (Option Nat × BitVec 16) :=
  let g (v : Nat) : BitVec 256 := nth i.vgrid v 0
  let order := sortBy (fun a b =>
    decide (Vgrid.rootReach (g a) < Vgrid.rootReach (g b)) || (Vgrid.rootReach (g a) = Vgrid.rootReach (g b) &&
      (decide ((Vgrid.peers (g b)).length < (Vgrid.peers (g a)).length) ||
        ((Vgrid.peers (g a)).length = (Vgrid.peers (g b)).length && decide (a ≤ b))))) (List.range i.vCount)
  if good.length < i.vCount then .inr (none, 0x0601)
  else
    let r := order.foldl (fun (acc : List (Nat × Nat) ⊕ (Option Nat × BitVec 16)) v =>
      match acc with
      | .inr e => .inr e
      | .inl placed =>
        let free := good.filter fun p => placed.all fun x => x.2 ≠ p
        let cand := sortBy (candidateOrder tree) (free.filter fun p => reaches i tree v p placed)
        match cand.find? fun p => (unfit placed v p).isNone with
        | some p => .inl (placed ++ [(v, p)])
        | none =>
          let codes := cand.filterMap (unfit placed v)
          .inr (some v, match codes with
            | [] => 0x0603
            | c :: cs => if cs.all (· = c) then c else 0x0603)) (.inl [])
    match r with
    | .inr e => .inr e
    | .inl placed => .inl ((List.range i.vCount).map fun v => (lookup placed v).getD 0)

/-- One step of remap of R208: a place for displaced virtual comb v, directly or by one swap; `fit` is
links_and_paths_fit with SHELF_FIT. -/
def remapOne (i : Image) (tree : List (BitVec 8)) (fit : List (Nat × Nat) → Bool) (displaced : List Nat) (v : Nat)
    (place spares : List Nat) : Option (List Nat × List Nat) :=
  let others (u : Nat) : List (Nat × Nat) :=
    ((List.range place.length).filter fun w => w ≠ u && !displaced.contains w).map fun w => (w, nth place w 0)
  let near (u : Nat) (a b : Nat) : Bool :=
    let h := dieOf (nth place u 0)
    if (dieOf a = h) ≠ (dieOf b = h) then decide (dieOf a = h) else candidateOrder tree a b
  let cand (u : Nat) : List Nat := sortBy (near u) (spares.filter fun p => reaches i tree u p (others u))
  match (cand v).find? fun p => fit [(v, p)] with
  | some p => some (place.set v p, spares.filter (· ≠ p))
  | none =>
    let swaps := ((List.range place.length).filter fun u => u ≠ v && !displaced.contains u && reaches i tree v (nth place u 0) ((others v).filter (·.1 ≠ u))).filterMap fun u =>
      ((cand u).find? fun p => fit [(u, p), (v, nth place u 0)]).map fun p => (u, p)
    match swaps with
    | [] => none
    | (u, p) :: _ => some ((place.set v (nth place u 0)).set u p, spares.filter (· ≠ p))

end Sys2Proof.Machine
end

