-- ==== Sys2Proof/Machine/Checks.lean ====
section
/-! DEFINITION. The loader's checks of an image (R187 to R206, R46, R47, R86, R105, R131 to R133, R142, R143, R151, R163 to
R165, R443, R444). Each failure names code, section, record and the byte offset of the field at fault (R211). -/

namespace Sys2Proof.Machine

/-- A failure unless a condition holds. -/
def require (ok : Bool) (code sect record offset : Nat) : List Failure :=
  if ok then [] else [⟨BitVec.ofNat 16 code, BitVec.ofNat 16 sect, BitVec.ofNat 32 record, BitVec.ofNat 64 offset⟩]

/-- Failures in ascending code and location, at most 16 (R205). -/
def reportOrder (l : List Failure) : List Failure :=
  let key (f : Failure) : Nat := ((f.code.toNat * 2 ^ 16 + f.sect.toNat) * 2 ^ 32 + f.record.toNat) * 2 ^ 64 + f.offset.toNat
  (sortBy (fun a b => decide (key a ≤ key b)) l).take 16

/-- A check of every record of a list. -/
def forEach {α : Type} (l : List α) (f : Nat → α → List Failure) : List Failure := l.zipIdx.flatMap fun p => f p.2 p.1

/-! ## Steps 1 and 2 (R187 to R191, R206) -/

/-- Size of a section's records; 0 for payload, programs and wide parameters (R188). -/
def recordSize : Nat → Nat
  | 1 => 32 | 2 => 32 | 3 => 32 | 4 => 192 | 5 => 16 | 7 => 96 | 10 => 64 | 11 => 64 | 12 => 32 | 13 => 528
  | _ => 0

/-- Records that the image holds of a section. -/
def recordCount (i : Image) : Nat → Nat
  | 1 => i.vgrid.length | 2 => i.phases.length | 3 => i.flows.length | 4 => i.layers.length | 5 => i.envelopes.length
  | 7 => i.shards.length | 10 => 1 | 11 => i.draft.toList.length | 12 => 1 | 13 => i.signature.toList.length
  | _ => 0

/-- Directory entry of a section type. -/
def sectionEntry (i : Image) (t : Nat) : Option (BitVec 256) := i.directory.find? fun d => Dir.sect d = t

/-- A directory entry against R189. -/
def entryOk (i : Image) (d : BitVec 256) : Bool :=
  let t := Dir.sect d
  1 ≤ t && t ≤ 13 && Dir.offset d % 4096 = 0 && 256 + 32 * i.directory.length ≤ Dir.offset d
    && Dir.offset d + Dir.length d ≤ rfield i.header 15 8
    && (if recordSize t = 0 || Dir.count d = 0 then Dir.count d = 0 && Dir.entryBytes d = 0
        else Dir.entryBytes d = recordSize t && Dir.length d = Dir.count d * Dir.entryBytes d)
    && Dir.count d = recordCount i t
    && i.directory.all fun e => e = d || decide (Dir.offset d + Dir.length d ≤ Dir.offset e) || decide (Dir.offset e + Dir.length e ≤ Dir.offset d)

/-- entry_count of a section, 0 for one that the directory does not list. -/
def entryCount (i : Image) (t : Nat) : Nat := match sectionEntry i t with | some d => Dir.count d | none => 0

/-- Header counts in range and equal to their sections' counts (R188, R189). -/
def countsOk (i : Image) : Bool :=
  1 ≤ i.vCount && i.vCount ≤ 96 && i.vCount = entryCount i 1
    && 1 ≤ i.phaseCount && i.phaseCount ≤ 4096 && i.phaseCount = entryCount i 2
    && 1 ≤ i.layerCount && i.layerCount ≤ 4096 && i.layerCount = entryCount i 4
    && i.flowCount ≤ 4096 && i.flowCount = entryCount i 3

/-- The rules of R187 and R189 on the directory as a whole: the sections marked with a count of 1 stand, and the image holds
no records of a section that is not listed. -/
def directoryOk (i : Image) : Bool :=
  (i.directory.map Dir.sect).Pairwise (· < ·)
    && [8, 9, 10, 12].all (fun t => (sectionEntry i t).isSome)
    && (List.range 14).all (fun t => (sectionEntry i t).isSome || recordCount i t = 0) && ((sectionEntry i 6).isSome || i.programs.isEmpty)
    && rfield i.header 31 30 = i.directory.length
    && (match sectionEntry i 8 with
        | some p => i.directory.all fun d => Dir.sect d = 8 || decide (Dir.offset d ≤ Dir.offset p)
        | none => false)
    && (i.flags.testBit 1 == (sectionEntry i 13).isSome)
    && countsOk i

/-- Step 1 (R202): magic, version, directory. -/
def checkHeader (i : Image) : List Failure :=
  let h := require (rfield i.header 3 0 = 0x3149574C && rfield i.header 7 6 = 256) 0x0101 0 0 0
  if h ≠ [] then h
  else
    let v := require (rbyte i.header 4 = 1 && rbyte i.header 5 ≤ 2) 0x0102 0 0 4
    if v ≠ [] then v
    else require (directoryOk i) 0x0103 0 0 30 ++ forEach i.directory fun n d => require (entryOk i d) 0x0103 0 n 0

/-- Reserved bits of the bytes hi..lo of a record are zero. -/
def zeroBytes {w : Nat} (x : BitVec w) (hi lo : Nat) : Bool := rfield x hi lo = 0

/-- Reserved fields and codes outside the tide programs (R187, 0x0108); derived_from_digest is zero outside wide mode, and
the counts of a layer record lie in their ranges, whose code the spec does not give (R188, R195; DESIGN CHOICE, log 38). -/
def checkReserved (i : Image) : List Failure :=
  require (zeroBytes i.header 255 192) 0x0108 0 0 192
    ++ require (i.flags < 4) 0x0108 0 0 29
    ++ require (i.flags.testBit 0 || zeroBytes i.header 191 128) 0x0108 0 0 128
    ++ (forEach i.directory fun n d => require (zeroBytes d 3 2 && zeroBytes d 15 12) 0x0108 0 n 2)
    ++ (forEach i.vgrid fun n g => require (bits g 155 96 = 0) 0x0108 1 n 12)
    ++ (forEach i.phases fun n p => require (bits p 144 0 = 0) 0x0108 2 n 0)
    ++ (forEach i.flows fun n f => require (bits f 193 192 = 0 && bits f 71 0 = 0) 0x0108 3 n 0)
    ++ (forEach i.layers fun n l =>
        require (Layer.index l = n && 1 ≤ Layer.outputs l && Layer.outputs l ≤ 8 && Layer.rotations l ≤ 4
            && Layer.expertsPerToken l ≤ 64 && (Layer.routed l || Layer.expertsPerToken l = 0)) 0x0108 4 n 0
          ++ require (Layer.kind l ≤ 2 && Layer.flags l < 8) 0x0108 4 n 2
          ++ require ((List.range 4).all fun p => decide (p < Layer.rotations l) || zeroBytes l (33 + 10 * p) (24 + 10 * p)) 0x0108 4 n 24
          ++ require ((List.range 8).all fun o => decide (o < Layer.outputs l) || zeroBytes l (79 + 16 * o) (64 + 16 * o)) 0x0108 4 n 64
          ++ require ((List.range (min 8 (Layer.outputs l))).all fun o =>
              Layer.pair l o = 0 || (Layer.pair l o = 1 && Layer.kind l = 0)) 0x0108 4 n 67)
    ++ (forEach i.envelopes fun n e => require (bits e 127 96 = 0) 0x0108 5 n 12)
    ++ (forEach i.shards fun n e => require (rbyte e 3 = 0 && zeroBytes e 7 4) 0x0108 7 n 3)
    ++ require (zeroBytes i.slotLayout 63 14) 0x0108 10 0 14
    ++ (forEach i.draft.toList fun n d => require (zeroBytes d 63 6) 0x0108 11 n 6)
    ++ require (zeroBytes i.sampler 31 24) 0x0108 12 0 24

/-- The signature section names an enrolled key and holds that key's signature of image_digest (R191). Both stand as the
byte strings that carry them (log 10). -/
def signatureValid (i : Image) (s : State) : Bool :=
  match i.signature with
  | none => false
  | some g => match s.cfg.imageKeys.find? fun k => bytesBE 16 k.keyId.toNat = bytesLE 16 (rfield g 15 0) with
    | some k => pssVerify k.modulus.toNat k.exponent.toNat (bytesBE 64 i.digestField.toNat) (bytesLE 512 (rfield g 527 16))
    | none => false

/-- Step 2 (R202): digest, quarantine, signature, reserved fields. -/
def checkDigest (i : Image) (expected : Option Digest) (s : State) : List Failure :=
  let d := i.computedDigest
  require (i.digestField = d && (expected.all fun e => e = 0 || e = d)) 0x0104 0 0 64
    ++ require (i.signature.isSome || bits s.live.w1 0 0 = 0) 0x0105 0 0 29
    ++ require (i.signature.isNone || signatureValid i s) 0x0106 13 0 0
    ++ require (s.cfg.quarantine.all fun q => q.1 ≠ d) 0x0107 0 0 64
    ++ checkReserved i

/-! ## Step 3: tides, phases, layers -/

/-- The tide programs of a virtual comb. -/
def programWords (i : Image) (v : Nat) : List (BitVec 128) :=
  let g := nth i.vgrid v 0
  (i.programs.drop (Vgrid.programOffset g)).take (Vgrid.instructions g)

/-- The operand descriptors of a virtual comb. -/
def descriptorWords (i : Image) (v : Nat) : List (BitVec 256) :=
  let g := nth i.vgrid v 0
  (List.range (Vgrid.descriptors g)).map fun k =>
    let at_ := 2 * (Vgrid.descriptorOffset g + k)
    nth i.programs (at_ + 1) 0 ++ nth i.programs at_ 0

/-- A phase program: instructions with their cycles and program counters. -/
abbrev Program := List ((BitVec 13 × TideOp) × Nat)

/-- The phase programs of a virtual comb, each up to its END, with program counters (R130). -/
def phasePrograms : List ((BitVec 13 × TideOp) × Nat) → List ((BitVec 13 × TideOp) × Nat) →
    List (List ((BitVec 13 × TideOp) × Nat))
  | [], acc => if acc = [] then [] else [acc.reverse]
  | x :: xs, acc => if x.1.2 = .done then (x :: acc).reverse :: phasePrograms xs [] else phasePrograms xs (x :: acc)

/-- The phase programs of virtual comb v; words that do not decode are left out. -/
def programsOf (i : Image) (v : Nat) : List (List ((BitVec 13 × TideOp) × Nat)) :=
  phasePrograms ((programWords i v).zipIdx.filterMap fun p => (decodeTide p.1).map fun o => (o, p.2)) []

/-- Layers that a phase program drains. -/
def programLayers (p : List ((BitVec 13 × TideOp) × Nat)) : List Nat :=
  p.filterMap fun x => match x.1.2 with | .emit o => some o.layer.toNat | _ => none

/-- The layers of the window check (R165): the phase's layer and those that its programs compute. -/
def phaseLayers (i : Image) (k : Nat) : List Nat :=
  let p := i.phase k
  let own := if Phase.kind p = 1 ∨ Phase.kind p = 2 then [Phase.layer p] else []
  own ++ (List.range i.vCount).flatMap fun v => programLayers (nth (programsOf i v) k [])

/-- h of the window check: their largest headroom (R165). -/
def phaseHeadroom (i : Image) (k : Nat) : Nat := ((phaseLayers i k).map fun l => Layer.headroom (i.layer l)).foldl max 0

/-- A phase record (R163, R165). -/
def checkPhase (i : Image) (k : Nat) (p : BitVec 256) : List Failure :=
  let cycles := Phase.tides p * i.tideCycles
  let least := (i.tideCycles + 511) / 512 * 64
  let flows := Phase.firstFlow p
  let kindOk := match Phase.kind p with
    | 1 => decide (Phase.layer p < i.layerCount) && Layer.kind (i.layer (Phase.layer p)) = 0
    | 2 => decide (Phase.layer p < i.layerCount) && Layer.kind (i.layer (Phase.layer p)) = 1
    | n => decide (n ≤ 5) && Phase.layer p = 0
  require (1 ≤ Phase.tides p && Phase.tides p ≤ 8 && cycles ≤ 8192) 0x0202 2 k 28
    ++ require kindOk 0x0204 2 k 30
    ++ require (Phase.decodeCycles p + Phase.prefillCycles p + Phase.window p + 64 ≤ cycles) 0x0205 2 k 26
    ++ require (Phase.window p = phaseHeadroom i k * cycles / 100) 0x0206 2 k 24
    ++ require (Phase.refreshCycles p % 64 = 0 && least ≤ Phase.refreshCycles p
        && Phase.refreshStart p + Phase.refreshCycles p ≤ i.tideCycles) 0x0207 2 k 21
    ++ require (flows + Phase.flowCount p ≤ i.flowCount && i.flows.zipIdx.all fun f =>
        if flows ≤ f.2 ∧ f.2 < flows + Phase.flowCount p then (Flow.kind f.1 = 1 || Flow.kind f.1 = 2) && Flow.phase f.1 = k
        else Flow.kind f.1 = 0 || Flow.phase f.1 ≠ k) 0x0208 2 k 18

/-- Roles of R46: 0 weight, 1 activation, 2 KV, 3 output. -/
def formatRoleOk (role fmt : Nat) : Bool :=
  match role with
  | 0 => fmt ∈ [0, 1, 2, 3, 4, 5, 6, 8]
  | 1 => fmt ∈ [2, 3, 4, 5, 6, 7, 8]
  | 2 => fmt ∈ [2, 4, 5, 6, 7, 8, 0xFF]
  | _ => fmt = 8 || fmt = 9

/-- Fallback format of a role (R47). -/
def fallbackOk (fmt fb : Nat) : Bool :=
  if fmt = 8 ∨ fmt = 0xFF then fb = 0xFF else if fmt ≤ 4 then fb = 6 || fb = 8 else fb = 8

/-- A window (R195). -/
def windowOk (lo hi : Int) : Bool := decide (-126 ≤ lo) && decide (lo ≤ hi) && decide (hi ≤ 127)

/-- Largest magnitude of the presented integer, on the lane or the serial side (R39, R86). -/
def presentedMax (serial : Bool) : Nat → Nat
  | 0 => 1 | 1 => 2 | 2 => 8 | 3 => 12 | 4 => 448 | 5 => 128 | 6 => 245760 | 7 => 7516192768
  | _ => if serial then 2 ^ 15 else 2 ^ 32

/-- The grid and range conditions of R86 for one assignment of formats and windows. -/
def exactOk (l b : Nat) (lw bw : Int × Int) (k rot : Nat) (q : Int) : Bool × Bool :=
  let ol := formatOffset l
  let ob := formatOffset b
  let e := lw.2 + ol + bw.2 + ob - q + rot
  (decide (q ≤ lw.1 + ol + bw.1 + ob), Dyadic.lt ⟨(k * presentedMax false l * presentedMax true b : Nat), e⟩ ⟨1, 63⟩)

/-- The layer of the EMIT that drains a region next (R131). -/
def nextDrain (quad : Bool) (q : BitVec 2) : List TideOp → Option Nat
  | [] => none
  | .emit e :: rest => if e.quadMode = quad ∧ (!quad || e.quad = q) then some e.layer.toNat else nextDrain quad q rest
  | _ :: rest => nextDrain quad q rest

/-- The DOTs of a program, each with the layer that its partials drain into. -/
def layerDots : List TideOp → List (Nat × DotOp)
  | [] => []
  | .dot o :: rest => ((nextDrain o.quadMode o.quad rest).map fun l => (l, o)).toList ++ layerDots rest
  | _ :: rest => layerDots rest

/-- Where the programs place KV in layer n's products: on the lane side, on the serial side, and the largest reduction
length of such a product. In an attention layer the operand that a shelf buffer holds is KV (R69, R222, R444; log 10). -/
def kvSides (i : Image) (n : Nat) : Bool × Bool × Nat :=
  (List.range i.vCount).foldl (fun a v =>
    let ds := descriptorWords i v
    ((programsOf i v).flatMap fun p => layerDots (p.map (·.1.2))).foldl (fun a x =>
      let lane := x.1 = n && Desc.shelfBuffer (nth ds x.2.laneDesc.toNat 0)
      let serial := x.1 = n && Desc.shelfBuffer (nth ds x.2.serialDesc.toNat 0)
      (a.1 || lane, a.2.1 || serial, if lane || serial then max a.2.2 (32 * dotBlocks x.2) else a.2.2)) a) (false, false, 0)

/-- K of an output (R444): the declared one, of operand pair 1 at least the largest product that the programs form; the
pair-1 outputs of a layer after the first are score-value products, whose K reaches over the context (log 10). -/
def reductionLength (i : Image) (l : BitVec 1536) (o largest : Nat) : Nat :=
  let k := Layer.reduction l o
  if Layer.pair l o = 0 then k
  else
    let scoreValue := (List.range o).any fun x => Layer.pair l x = 1
    let context := if Layer.fullAttention l then i.maxContext else (i.selectBlocks + 1) * 64
    max (max k largest) (if scoreValue then context else 0)

/-- Output o of a layer is a score: the first of operand pair 1, to which the root applies the softmax (R93, R444; log 10). -/
def isScore (l : BitVec 1536) (o : Nat) : Bool := Layer.pair l o = 1 && (List.range o).all fun x => Layer.pair l x ≠ 1

/-- One output of a layer (R86, R91, R195, R196, R444); `sides`: what kvSides finds. -/
def checkOutput (i : Image) (sides : Bool × Bool × Nat) (n : Nat) (l : BitVec 1536) (o : Nat) : List Failure :=
  let off := 64 + 16 * o
  let q := Layer.q l o
  let rp := Layer.outRotation l o
  let rot := if rp < Layer.rotations l then Layer.rotK l rp else 0
  let act := (Layer.actLo l, Layer.actHi l)
  let kv := (Layer.kvLo l, Layer.kvHi l)
  let k := reductionLength i l o sides.2.2
  let rs := if Layer.pair l o = 0 then [exactOk (Layer.actFormat l) (Layer.weightFormat l) act (Layer.weightLo l, Layer.weightHi l) k rot q]
    else (if sides.2.1 then [exactOk (Layer.actFormat l) (Layer.kvFormat l) act kv k rot q] else [])
      ++ (if sides.1 then [exactOk (Layer.kvFormat l) (Layer.actFormat l) kv act k rot q] else [])
  require (rs.all (·.1)) 0x0303 4 n off
    ++ require (rs.all (·.2)) 0x0304 4 n off
    ++ require (decide (-1024 ≤ q) && decide (q ≤ 1023)) 0x0305 4 n off
    ++ require (rp = 0xFF || (decide (rp < Layer.rotations l) && Layer.rotSite l rp = 2 && Layer.elements l o % 2 ^ rot = 0 && !isScore l o)) 0x0306 4 n (off + 2)
    ++ require (Layer.envelope l o + (Layer.elements l o + 255) / 256 ≤ i.envelopes.length) 0x0309 4 n (off + 12)

/-- A layer record (R46, R47, R195). -/
def checkLayer (i : Image) (n : Nat) (l : BitVec 1536) : List Failure :=
  require (formatRoleOk 0 (Layer.weightFormat l) && formatRoleOk 1 (Layer.actFormat l) && formatRoleOk 2 (Layer.kvFormat l) && formatRoleOk 3 (Layer.outFormat l)) 0x0301 4 n 4
    ++ require (fallbackOk (Layer.weightFormat l) (Layer.weightFallback l) && fallbackOk (Layer.actFormat l) (Layer.actFallback l)
        && fallbackOk (Layer.kvFormat l) (Layer.kvFallback l)) 0x0301 4 n 8
    ++ require (windowOk (Layer.weightLo l) (Layer.weightHi l) && windowOk (Layer.actLo l) (Layer.actHi l)
        && (if Layer.kvFormat l = 0xFF then Layer.kvLo l = 0 && Layer.kvHi l = 0 else windowOk (Layer.kvLo l) (Layer.kvHi l))) 0x0302 4 n 12
    ++ require (Layer.headroom l ≤ 50 && Layer.kvEntries l ≤ 64) 0x030A 4 n 11
    ++ require ((List.range (min 4 (Layer.rotations l))).all fun p =>
        6 ≤ Layer.rotK l p && Layer.rotK l p ≤ 14 && Layer.rotSite l p ≤ 2) 0x0306 4 n 24
    ++ (List.range (min 8 (Layer.outputs l))).flatMap (checkOutput i (kvSides i n) n l)

/-- An envelope entry (R196): finite values, 0 <= rms_lo <= rms_hi <= max_abs. -/
def checkEnvelope (n : Nat) (e : BitVec 128) : List Failure :=
  let v (lo : Nat) : FloatValue := fp32.decode (bits e (lo + 31) lo)
  require (match v 0, v 32, v 64 with
    | .finite m, .finite lo, .finite hi => decide (0 ≤ lo.m) && lo.absLe hi && decide (0 ≤ hi.m) && hi.absLe m && decide (0 ≤ m.m)
    | _, _, _ => false) 0x0309 5 n 0

/-- Layers that keep KV share one record geometry (R443). -/
def checkGeometry (i : Image) : List Failure :=
  let ls := i.layers.zipIdx.filter fun p => Layer.kvFormat p.1 ≠ 0xFF
  match ls with
  | [] => []
  | (a, _) :: _ => ls.flatMap fun p =>
      let w := formatWidth (Layer.kvFormat p.1)
      require (w = formatWidth (Layer.kvFormat a) && Layer.kvEntries p.1 = Layer.kvEntries a && w ≠ 0 && i.kvBytes * 8 % w = 0) 0x030B 4 p.2 6

end Sys2Proof.Machine
end

