-- ==== Sys2Proof/Machine/Schedule.lean ====
section
/-! DEFINITION. The schedule of tide programs as the loader plans it (R42, R99, R105, R107, R113 to R115, R127, R131 to R133,
R135, R142 to R148, R156, R157, R165, R176, R185, R186, R194, R199, R218, R222 to R224). Cycles of an access, of a transfer and
of a unit's occupancy that the spec does not fix are a choice (log 37). -/

namespace Sys2Proof.Machine

/-! ## Regions and shapes (R105, R107) -/

/-- Legal shapes (R105). -/
def shapeOk (o : DotOp) : Bool :=
  let cells := if o.quadMode then 4096 else 16384
  let r := 2 ^ o.a.toNat
  let sl := 2 ^ o.b.toNat
  let c := cells / (r * sl)
  8 ≤ r && r ≤ (if o.quadMode then 128 else 512) && 32 ≤ c && c ≤ (if o.quadMode then 512 else 2048) && sl ≤ 16

/-- Region of an instruction: a logical quadrant, or 4 for the full array (R105). The full array's accumulators and a
quadrant's stand apart (DESIGN CHOICE, log 38). -/
def regionOf (quadMode : Bool) (quad : BitVec 2) : Nat := if quadMode then quad.toNat else 4

/-- Regions that share cells (R107). -/
def regionsMeet (a b : Nat) : Bool := a = 4 || b = 4 || a = b

/-- Region that an instruction drives or drains. -/
def opRegion : TideOp → Option Nat
  | .dot o => some (regionOf o.quadMode o.quad)
  | .emit o => some (regionOf o.quadMode o.quad)
  | .fbwin => some 4
  | _ => none

/-- Elements of a DOT's region: R * C (R105). -/
def shapeElements (quad : Bool) (b : Nat) : Nat := (if quad then 4096 else 16384) / 2 ^ b

/-! ## Planned instructions -/

/-- An instruction in its place: program counter, issue cycle on a scale on which the phase under check begins at
stepCycles, the elements of its region's last DOT, and the slot class declared for it (R134). -/
structure Planned where
  pc : Nat
  cycle : Nat
  op : TideOp
  elements : Nat
  cls : Nat
  deriving DecidableEq, Repr

/-- Phase cycles of phase k. -/
def phaseCycles (i : Image) (k : Nat) : Nat := Phase.tides (i.phase k) * i.tideCycles

/-- Cycles of a step: where the phase under check begins on the scale of Planned. -/
def stepCycles (i : Image) : Nat := ((List.range i.phaseCount).map (phaseCycles i)).sum

/-- The instructions of a phase program in order, that begins at `start`; shapes by region and class as declared before. -/
def planFrom (start : Nat) : List (Nat × Nat) → Nat → Program → List Planned
  | _, _, [] => []
  | shapes, cls, x :: xs =>
    let y : Planned := ⟨x.2, start + x.1.1.toNat, x.1.2, 0, cls⟩
    match x.1.2 with
    | .dot o => y :: planFrom start ((regionOf o.quadMode o.quad, shapeElements o.quadMode o.b.toNat) :: shapes) cls xs
    | .emit o => { y with elements := (lookup shapes (regionOf o.quadMode o.quad)).getD 0 } :: planFrom start shapes cls xs
    | .slot o => y :: planFrom start shapes o.cls.toNat xs
    | _ => y :: planFrom start shapes cls xs

/-- The instructions of a phase program in order; without a SLOT every class may be there. -/
def planOf (start : Nat) (p : Program) : List Planned := planFrom start [] 2 p

/-- The instructions of the step before phase k, the latest first: the phases that precede it, around the step. -/
def historyOf (i : Image) (ps : List Program) (k : Nat) : List Planned :=
  let n := ps.length
  ((List.range n).foldl (fun (a : Nat × List Planned) d =>
    let j := (k + n - 1 - d) % n
    let start := a.1 - phaseCycles i j
    (start, a.2 ++ (planOf start (nth ps j [])).reverse)) (stepCycles i, [])).2

/-! ## Rows that are read and written (R59, R133, R199, R222, R223; logs 12 and 32) -/

/-- Row-set offsets that a shelf-buffer descriptor may have in phase k (R223). -/
def setOffsets (i : Image) (d : BitVec 256) (k : Nat) : List Nat :=
  if !Desc.shelfBuffer d then [0]
  else if i.phaseCount % 2 = 1 then [0, 0x140000]
  else if k % 2 = 1 then [0x140000] else [0]

/-- Ranges of rows that n vectors of nb blocks take through a descriptor. -/
def operandRanges (i : Image) (d : BitVec 256) (k n nb : Nat) : List (Nat × Nat) :=
  let bytes := nb * blockBytes (Desc.format d)
  (setOffsets i d k).flatMap fun off =>
    (if Desc.stride d = 0 then [(Desc.blockRow d + off, (n * bytes + 511) / 512)]
      else (List.range n).map fun v => (Desc.blockRow d + off + v * Desc.stride d, (bytes + 511) / 512))
    ++ (if Desc.format d = 8 then [] else [(Desc.scaleRow d + off, (n * nb + 511) / 512)])

/-- Rows of a list of ranges. -/
def rangeRows (rs : List (Nat × Nat)) : List Nat := rs.flatMap fun r => (List.range r.2).map (r.1 + ·)

/-- Ranges of rows of a DOT's lane side and serial side. -/
def dotRanges (i : Image) (ds : List (BitVec 256)) (k : Nat) (o : DotOp) : List (Nat × Nat) × List (Nat × Nat) :=
  (operandRanges i (nth ds o.laneDesc.toNat 0) k (dotShape o).1 (dotBlocks o),
    operandRanges i (nth ds o.serialDesc.toNat 0) k (dotShape o).2.1 (dotBlocks o))

/-- Beats of a DOT between two descriptors (R99). -/
def beatsOf (lane serial : BitVec 256) (o : DotOp) : Nat := o.laneGroups.toNat * groupCycles (Desc.format lane) (Desc.format serial)

/-- Beats of a DOT (R99). -/
def dotBeats (ds : List (BitVec 256)) (o : DotOp) : Nat := beatsOf (nth ds o.laneDesc.toNat 0) (nth ds o.serialDesc.toNat 0) o

/-- Rows of a side with their access cycles: row k of n is read k * beats / n cycles after the DOT issues (log 37). -/
def spreadRows (c beats : Nat) (rows : List Nat) : List (Nat × Nat) :=
  let n := rows.length
  rows.zipIdx.map fun x => (x.1, c + x.2 * beats / n)

/-- Consecutive rows with their access cycles, one a cycle (log 37). -/
def rowStream (first n c : Nat) : List (Nat × Nat) := (List.range n).map fun k => (first + k, c + k)

/-- Rows that an instruction of phase k reads, with the cycles of the accesses (log 37). -/
def readTimes (i : Image) (ds : List (BitVec 256)) (k : Nat) (x : Planned) : List (Nat × Nat) :=
  match x.op with
  | .dot o =>
    let r := dotRanges i ds k o
    let beats := dotBeats ds o
    spreadRows x.cycle beats (rangeRows r.1) ++ spreadRows x.cycle beats (rangeRows r.2)
  | .row o => if o.mode = 3 then [] else rowStream o.src.toNat o.count.toNat x.cycle
  | .shelf o => if o.gather then [(o.indexRow.toNat, x.cycle)] else []
  | .fabric o =>
    let d := nth ds o.desc.toNat 0
    if o.send then (setOffsets i d k).flatMap fun off => rowStream (Desc.blockRow d + off) o.count.toNat x.cycle else []
  | _ => []

/-- Drain latency, EMIT issue to the comb's edge or its rows (R135). -/
def drainLatency : Nat := 18

/-- Rows that an instruction writes at a planned cycle, with that cycle: destinations of ROW and of EMIT into rows. Rows that
become pending have none (R116). -/
def writeTimes (x : Planned) : List (Nat × Nat) :=
  match x.op with
  | .row o => rowStream o.dst.toNat o.count.toNat x.cycle
  | .emit o => if o.toRow then rowStream o.firstRow.toNat ((x.elements + 31) / 32) (x.cycle + drainLatency) else []
  | _ => []

/-- An instruction writes by accumulating: two bank cycles a row (R113, R118). -/
def accumulates : TideOp → Bool
  | .row o => o.mode = 1 || o.mode = 2
  | .emit o => o.toRow
  | _ => false

/-- Rows that an instruction writes, as first row and count (R145, R199, R222, R223); a receive takes consecutive rows, and
the rows at its descriptor's row_stride count as its own too. `ops`: the comb's tide program. -/
def writtenRows (i : Image) (ds : List (BitVec 256)) (ops : List TideOp) (x : Planned) : List (Nat × Nat) :=
  match x.op with
  | .row o => [(o.dst.toNat, o.count.toNat)]
  | .shelf o =>
    let d := nth ds o.desc.toNat 0
    let rs := partRanges d (if o.gather then [] else tensorsOf ops o.desc.toNat) o.count.toNat
    if Desc.shelfBuffer d then rs ++ rs.map (fun r => (r.1 + 0x140000, r.2)) else rs
  | .fabric o =>
    let d := nth ds o.desc.toNat 0
    let rs := [(Desc.blockRow d, o.count.toNat), (Desc.fallbackRow d, Flow.tailRows (i.flow o.flow.toNat))].filter (·.2 ≠ 0)
      ++ (if Desc.stride d ≤ 1 then [] else (List.range o.count.toNat).map fun k => (Desc.blockRow d + k * Desc.stride d, 1))
    if o.send then []
    else if Desc.shelfBuffer d then rs ++ rs.map (fun r => (r.1 + 0x140000, r.2)) else rs
  | .emit o => if o.toRow then [(o.firstRow.toNat, (x.elements + 31) / 32)] else []
  | _ => []

/-- Row r lies in one of the ranges. -/
def inRanges (r : Nat) (rs : List (Nat × Nat)) : Bool := rs.any fun x => decide (x.1 ≤ r) && decide (r < x.1 + x.2)

/-- Two lists of ranges share a row. -/
def rangesMeet (xs ys : List (Nat × Nat)) : Bool :=
  xs.any fun x => ys.any fun y => decide (x.1 < y.1 + y.2) && decide (y.1 < x.1 + x.2)

/-- Bank and cycle of every planned access (R113): an accumulate holds its bank for two cycles. -/
def bankTimes (i : Image) (ds : List (BitVec 256)) (k : Nat) (x : Planned) : List (Nat × Nat) :=
  let w := writeTimes x
  (readTimes i ds k x ++ w ++ (if accumulates x.op then w.map (fun (a : Nat × Nat) => (a.1, a.2 + 1)) else [])).map
    fun (a : Nat × Nat) => (bankOf a.1, a.2)

/-- Visibility latency of what an instruction writes under the contract (R115, R185); none for rows that become pending. -/
def writeLatency (i : Image) : TideOp → Option Nat
  | .row o => some (if o.mode = 1 ∨ o.mode = 2 then (if i.contractLevel = 1 then 5 else 6) else 3)
  | .emit _ => some (if i.contractLevel = 1 then 5 else 6)
  | _ => none

/-- An instruction leaves skW entries in its rows (R42). -/
def writesSkw : TideOp → Bool
  | .row o => o.mode = 2
  | .emit o => o.toRow
  | _ => false

/-! ## Units (R107, R131, R132, R135) -/

/-- The unit of an instruction (R131); WAIT has none. -/
def unitOf : TideOp → Option Nat
  | .wait => none
  | .dot _ => some 0
  | .fbwin => some 0
  | .emit _ => some 1
  | .row _ => some 2
  | .shelf _ => some 3
  | .fabric _ => some 4
  | .rotate _ => some 5
  | .slot _ => some 6
  | .done => some 7

/-- Scratchpad read and array fill of the contract: DOT or FBWIN issue to the first beat (R135, R185). -/
def fillLead (level : Nat) : Nat := if level = 2 then 14 else 16

/-- Cycles for which the rotation unit takes n elements in segments of 2^k (R135). -/
def rotationCycles (k n : Nat) : Nat := n / 2 ^ k * 2 ^ (k - 6)

/-- Cycles after its issue at which the unit of an instruction takes another one: after a DOT's last beat, a replay window of
at least 64 cycles, a drain at 32 flits of 12 entries or one row a cycle, a row stream at one row a cycle, a rotation; the
shelf interface queues (R99, R103, R132, R135, R151, R177; log 37). -/
def busyFor (i : Image) (beats window elements : Nat) : TideOp → Nat
  | .dot _ => fillLead i.contractLevel + beats
  | .fbwin => max 64 window
  | .emit o => max 1 (if o.toRow then (elements + 31) / 32 + 1 else (elements + 383) / 384)
  | .row o => o.count.toNat + flag (o.mode = 1 ∨ o.mode = 2)
  | .fabric o => if o.send then o.count.toNat else 1
  | .rotate o => max 1 (rotationCycles o.k.toNat (Flow.elements (i.flow o.flow.toNat)))
  | _ => 1

/-- First cycle at which the unit of a planned instruction takes another one. -/
def busyUntil (i : Image) (ds : List (BitVec 256)) (window : Nat) (x : Planned) : Nat :=
  x.cycle + busyFor i (match x.op with | .dot o => dotBeats ds o | _ => 0) window x.elements x.op

/-- x cannot issue while the unit of y is busy: they share a unit, or x drives or drains cells in which y has beats or a
replay window ahead (R107, R132). -/
def opsClash (y x : TideOp) : Bool :=
  match opRegion y, opRegion x with
  | some a, some b => (regionsMeet a b && unitOf y = some 0) || (unitOf y = some 1 && unitOf x = some 1)
  | _, _ => (unitOf y).isSome && unitOf y = unitOf x

/-- Instruction y keeps x, which follows it, from issuing (R107, R132). -/
def keepsOff (i : Image) (ds : List (BitVec 256)) (window : Nat) (y x : Planned) : Bool :=
  decide (x.cycle < busyUntil i ds window y) && opsClash y.op x.op

/-! ## Shelf transfers and broadcasts (R145, R157, R165, R176, R194, R218) -/

/-- Bytes that a shelf interface moves in the first t cycles of a phase: 10,000 a cycle, 1,250 in a refresh window
(R218). -/
def shelfCapacity (i : Image) (k t : Nat) : Nat :=
  let p := i.phase k
  let a := Phase.refreshStart p
  let b := a + Phase.refreshCycles p
  let part (n : Nat) : Nat := 10000 * n - 8750 * (min n b - min n a)
  t / max 1 i.tideCycles * part i.tideCycles + part (t % max 1 i.tideCycles)

/-- Bytes of a SHELF transfer. -/
def shelfBytes (x : Planned) : Nat := match x.op with | .shelf o => 512 * o.count.toNat | _ => 0

/-- Transfers of one interface, in order, of which the last moves `last` bytes, are done by phase cycle t: no stretch of
them is more than the interface moves (R218). -/
def shelfDone (i : Image) (k : Nat) (xs : List Planned) (last t : Nat) : Bool :=
  let base := stepCycles i
  (List.range xs.length).all fun n =>
    let tail := xs.drop n
    let bytes := ((tail.take (tail.length - 1)).map shelfBytes).sum + last
    let c := match tail with | x :: _ => x.cycle - base | [] => 0
    decide (bytes ≤ shelfCapacity i k t - shelfCapacity i k c)

/-- Planning latency of a reach class (R194). -/
def planningLatency : Nat → Nat
  | 0 => 59 | 1 => 59 | 2 => 105 | 3 => 149
  | r => 193 + 46 * (r - 4)

/-- Flits of a flow on a link (R145, R148). -/
def flowFlits (f : BitVec 256) : Nat :=
  if Flow.kind f = 2 then (Flow.elements f + 11) / 12 else 4 * (Flow.rows f + Flow.tailRows f)

/-- Flits that the loader plans a link direction to carry in a cycle (R157). -/
def plannedRate (i : Image) : Nat := 2 * (16 - i.linkMargin)

/-- Cycles for n flits at the planned rate. -/
def flitCycles (i : Image) (n : Nat) : Nat := (n + plannedRate i - 1) / plannedRate i

/-- Place of row r in the rows of a broadcast that lands through descriptor d (R145). -/
def landingPlace (d : BitVec 256) (fixed r : Nat) : Nat :=
  if Desc.blockRow d ≤ r ∧ r < Desc.blockRow d + fixed then r - Desc.blockRow d else fixed + (r - Desc.fallbackRow d)

/-- Row r, which `y` makes pending in phase k, has landed by phase cycle t as planned: a shelf row at the rates of R218
behind the transfers before it, a broadcast row over a path of latency l, the flow starting with its phase (R144, R157;
log 37). -/
def landsBy (i : Image) (ds : List (BitVec 256)) (ops : List TideOp) (k l : Nat) (before : List Planned) (y : Planned) (r t : Nat) :
    Bool :=
  let base := stepCycles i
  match y.op with
  | .shelf o =>
    let d := nth ds o.desc.toNat 0
    let rows := rangeRows (partRanges d (if o.gather then [] else tensorsOf ops o.desc.toNat) o.count.toNat)
    let n := rows.findIdx fun x => x = r ∨ x + 0x140000 = r
    let queue := (before.filter fun z => decide (base ≤ z.cycle) && unitOf z.op = some 3 && decide (z.pc < y.pc)).reverse
    shelfDone i k (queue ++ [y]) (512 * (n + 1)) t
  | .fabric o =>
    let d := nth ds o.desc.toNat 0
    let r' := if Desc.shelfBuffer d ∧ 0x140000 ≤ r then r - 0x140000 else r
    let n := landingPlace d (Flow.rows (i.flow o.flow.toNat)) r'
    decide (y.cycle - base ≤ t) && decide (l + flitCycles i (4 * (n + 1)) ≤ t)
  | _ => true

/-- An instruction makes rows pending (R116). -/
def pends : TideOp → Bool
  | .shelf _ => true
  | .fabric o => !o.send
  | _ => false

/-- Every row that x reads and that an instruction of its own phase makes pending has landed 64 cycles before, as planned
(R176). -/
def holdLead (i : Image) (ds : List (BitVec 256)) (ops : List TideOp) (k l : Nat) (before : List Planned) (x : Planned) : Bool :=
  let base := stepCycles i
  (readTimes i ds k x).all fun a =>
    match before.find? fun y => inRanges a.1 (writtenRows i ds ops y) with
    | some y =>
      if pends y.op ∧ base ≤ y.cycle then decide (base + 64 ≤ a.2) && landsBy i ds ops k l before y a.1 (a.2 - base - 64) else true
    | none => true

/-! ## Failures of an instruction (R42, R114, R115, R132, R165, R176, R205) -/

/-- x reads a row sooner after its write than the contract lets it see it (R115). -/
def readsEarly (i : Image) (ds : List (BitVec 256)) (k : Nat) (before : List Planned) (x : Planned) : Bool :=
  let reads := readTimes i ds k x
  before.any fun y => match writeLatency i y.op with
    | some l => (writeTimes y).any fun w => decide (x.cycle < w.2 + l) && reads.any fun r => r.1 = w.1 && decide (r.2 < w.2 + l)
    | none => false

/-- Two instructions access one bank in one cycle (R114). -/
def banksMeet (i : Image) (ds : List (BitVec 256)) (k : Nat) (before : List Planned) (x : Planned) : Bool :=
  let a := bankTimes i ds k x
  !a.isEmpty && before.any fun y => (bankTimes i ds k y).any a.contains

/-- A DOT names a row that its latest writer left as skW entries (R42). -/
def readsSkw (i : Image) (ds : List (BitVec 256)) (ops : List TideOp) (k : Nat) (before : List Planned) (x : Planned) : Bool :=
  match x.op with
  | .dot _ => (readTimes i ds k x).any fun a => match before.find? fun y => inRanges a.1 (writtenRows i ds ops y) with
    | some y => writesSkw y.op
    | none => false
  | _ => false

/-- z must come before y, which follows it: they share rows that one of them writes, or cells. -/
def dependsOn (i : Image) (ds : List (BitVec 256)) (ops : List TideOp) (k : Nat) (z y : Planned) : Bool :=
  let reads (x : Planned) : List (Nat × Nat) := (readTimes i ds k x).map fun a => (a.1, 1)
  rangesMeet (writtenRows i ds ops z) (reads y ++ writtenRows i ds ops y) || rangesMeet (reads z) (writtenRows i ds ops y)
    || (match opRegion z.op, opRegion y.op with | some a, some b => regionsMeet a b | _, _ => false)

/-- A decode instruction of `later` could have issued in the cycle of the prefill instruction x of the same unit, which
stands ahead of it (R165): nothing before it keeps it off, nothing in between must come first, and its rows are there. -/
def decodeWaits (i : Image) (ds : List (BitVec 256)) (ops : List TideOp) (k window l : Nat) (before : List Planned) (x : Planned) :
    List Planned → List Planned → Bool
  | _, [] => false
  | between, y :: later =>
    let y' := { y with cycle := x.cycle }
    (x.cls = 1 && y.cls = 0 && (unitOf x.op).isSome && unitOf x.op = unitOf y.op
      && (x :: between).all (fun z => !dependsOn i ds ops k z y)
      && before.all (fun z => !keepsOff i ds window z y') && !readsEarly i ds k before y' && holdLead i ds ops k l before y')
    || decodeWaits i ds ops k window l before x (y :: between) later

/-- The failures of one instruction against those before it, the latest first, and those that follow in its phase. -/
def scheduleFailures (i : Image) (ds : List (BitVec 256)) (ops : List TideOp) (k l : Nat) (before : List Planned) (x : Planned)
    (later : List Planned) : List Failure :=
  let window := Phase.window (i.phase k)
  require (before.all fun y => !keepsOff i ds window y x) 0x0405 6 x.pc 0
    ++ require (!banksMeet i ds k before x) 0x0406 6 x.pc 0
    ++ require (!readsEarly i ds k before x) 0x0407 6 x.pc 0
    ++ require (!readsSkw i ds ops k before x) 0x0409 6 x.pc 0
    ++ require (holdLead i ds ops k l before x) 0x040A 6 x.pc 0
    ++ require (!decodeWaits i ds ops k window l before x [] later) 0x0209 2 k 27
    ++ (match x.op with
      | .fabric o => require (o.send || 2 ≤ Desc.format (nth ds o.desc.toNat 0)) 0x0502 3 o.flow.toNat 0
      | _ => [])

/-- The failures of a phase program in order. -/
def programFailures (i : Image) (ds : List (BitVec 256)) (ops : List TideOp) (k l : Nat) : List Planned → List Planned → List Failure
  | _, [] => []
  | before, x :: xs => scheduleFailures i ds ops k l before x xs ++ programFailures i ds ops k l (x :: before) xs

/-- Every bank has a free cycle in phase k (R127). -/
def banksFree (i : Image) (ds : List (BitVec 256)) (k : Nat) (p : List Planned) : Bool :=
  let used := p.flatMap (bankTimes i ds k)
  let base := stepCycles i
  (List.range 256).all fun b => (List.range (phaseCycles i k)).any fun c => !used.contains (b, base + c)

/-! ## The gate and the paths (R156, R157, R165, R168, R176, R207) -/

/-- Reductions that a phase program sends: the phase cycle from which partials can leave the comb, the flow, and the cycles
that its rotation takes (R135, R147). -/
def sentFlows (i : Image) (p : Program) : List (Nat × Nat × Nat) :=
  p.filterMap fun x =>
    let rotated (flow c : Nat) : Nat × Nat × Nat :=
      match p.findSome? fun y => match y.1.2 with
          | .rotate o => if o.flow.toNat = flow then some (y.1.1.toNat, o.k.toNat) else none
          | _ => none with
      | some r => (max c r.1 + 2 ^ (r.2 - 6) + 2 * r.2 + 8, flow, rotationCycles r.2 (Flow.elements (i.flow flow)))
      | none => (c, flow, 0)
    match x.1.2 with
    | .emit o => if o.toRow then none else some (rotated o.flow.toNat (x.1.1.toNat + drainLatency))
    | .fabric o => if o.send then some (rotated o.flow.toNat x.1.1.toNat) else none
    | _ => none

/-- Every reduction of a phase program reaches the root, over a path of latency l, by the deadline of the phase's gate
(R156, R165, R168, R176). -/
def reductionsReach (i : Image) (p : Program) (k l : Nat) : Bool :=
  (sentFlows i p).all fun x => decide (x.1 + l + max x.2.2 (flitCycles i (flowFlits (i.flow x.2.1))) + 64 ≤ phaseCycles i k)

/-- Every broadcast that a phase program receives has landed, over a path of latency l, by that deadline. -/
def broadcastsReach (i : Image) (p : Program) (k l : Nat) : Bool :=
  p.all fun x => match x.1.2 with
    | .fabric o => o.send || (decide (x.1.1.toNat + 64 ≤ phaseCycles i k)
        && decide (l + flitCycles i (flowFlits (i.flow o.flow.toNat)) + 64 ≤ phaseCycles i k))
    | _ => true

/-- Every drain into rows and every shelf transfer of a phase program is done by that deadline (R165, R218). -/
def localsReach (i : Image) (p : Program) (k : Nat) : Bool :=
  let xs := planOf (stepCycles i) p
  let shelf := xs.filter fun x => unitOf x.op = some 3
  xs.all (fun x => match x.op with
    | .emit o => !o.toRow || decide (x.cycle - stepCycles i + drainLatency + (x.elements + 31) / 32 + 64 ≤ phaseCycles i k)
    | _ => true)
    && (match shelf.getLast? with
      | some x => decide (64 ≤ phaseCycles i k) && shelfDone i k shelf (shelfBytes x) (phaseCycles i k - 64)
      | none => true)

/-- The gate check of phase k (R165), every path under its planning latency. -/
def checkGate (i : Image) (k : Nat) : List Failure :=
  require ((List.range i.vCount).all fun v =>
    let p := nth (programsOf i v) k []
    let l := planningLatency (Vgrid.rootReach (nth i.vgrid v 0))
    reductionsReach i p k l && broadcastsReach i p k l && localsReach i p k) 0x020A 2 k 0

/-- The phase programs of virtual comb v hold their consumption points over a path of latency l (R176). -/
def pathHolds (i : Image) (v l : Nat) : Bool :=
  let ps := programsOf i v
  let ds := descriptorWords i v
  let ops := ps.flatten.map (·.1.2)
  ps.zipIdx.all fun q =>
    let xs := planOf (stepCycles i) q.1
    let old := historyOf i ps q.2
    reductionsReach i q.1 q.2 l && broadcastsReach i q.1 q.2 l
      && (List.range xs.length).all fun n =>
        holdLead i ds ops q.2 l ((xs.take n).reverse ++ old) (nth xs n ⟨0, 0, .wait, 0, 2⟩)

/-- A path of virtual comb v from comb p is too long for a flow of some phase (R176, R194). -/
def pathMisses (i : Image) (tree : List (BitVec 8)) (v p : Nat) : Bool :=
  match pathLatency tree (dieOf p) with
  | some l => !pathHolds i v l
  | none => false

/-- A flow on a link: the earliest its flits can pass and the latest they must, both as seen at the root, and its flits
(R157). -/
structure LinkLoad where
  release : Nat
  need : Nat
  flits : Nat

/-- Phase cycle by which virtual comb v needs broadcast f of phase k whole: 64 cycles before its first read of a row of it,
else the gate's deadline (R168, R176). -/
def broadcastNeed (i : Image) (v k f : Nat) : Nat :=
  let ps := programsOf i v
  let ds := descriptorWords i v
  let ops := ps.flatten.map (·.1.2)
  let base := stepCycles i
  let xs := planOf base (nth ps k [])
  let rows := xs.flatMap fun y => match y.op with
    | .fabric o => if !o.send ∧ o.flow.toNat = f then writtenRows i ds ops y else []
    | _ => []
  let times := xs.flatMap fun x => ((readTimes i ds k x).filter fun a => inRanges a.1 rows).map fun a => a.2 - base
  times.foldl min (phaseCycles i k) - 64

/-- The flows of a kind in phase k that the link between die n and its parent carries (R144, R149). -/
def linkLoads (i : Image) (tree : List (BitVec 8)) (placed : List (Nat × Nat)) (n kind k : Nat) : List LinkLoad :=
  (i.flows.zipIdx.filter fun f => Flow.kind f.1 = kind && Flow.phase f.1 = k).filterMap fun f =>
    let below := placed.filter fun x => bit f.1 (96 + x.1) && throughDie tree n x.2
    if below = [] then none
    else
      let path (x : Nat × Nat) : Nat := (pathLatency tree (dieOf x.2)).getD 0
      let sent (x : Nat × Nat) : Nat := match (sentFlows i (nth (programsOf i x.1) k [])).find? fun y => y.2.1 = f.2 with
        | some y => y.1 + path x
        | none => path x
      some (if kind = 2 then ⟨(below.map sent).foldl max 0, phaseCycles i k - 64, flowFlits f.1⟩
        else ⟨0, (below.map fun x => broadcastNeed i x.1 k f.2 - path x).foldl min (phaseCycles i k - 64), flowFlits f.1⟩)

/-- Flows of a link direction pass in their time at the planned rate: between any release and any need, no more flits than
the direction carries (R157). -/
def loadsFit (i : Image) (ls : List LinkLoad) : Bool :=
  ls.all fun a => ls.all fun b =>
    decide (((ls.filter fun x => decide (a.release ≤ x.release) && decide (x.need ≤ b.need)).map (·.flits)).sum
      ≤ plannedRate i * (b.need - a.release))

/-- A link direction on the path of comb p does not carry its flows of some phase in their time (R157). -/
def linkMisses (i : Image) (tree : List (BitVec 8)) (placed : List (Nat × Nat)) (p : Nat) : Bool :=
  match pathToRoot tree (dieOf p) with
  | some l => (l.filter (· ≠ 24)).any fun n => (List.range i.phaseCount).any fun k =>
      !loadsFit i (linkLoads i tree placed n 2 k) || !loadsFit i (linkLoads i tree placed n 1 k)
  | none => false

/-- The rejection code that keeps v off p beside the placements made, if any: link time or path timing (R207). -/
def unfitCode (i : Image) (tree : List (BitVec 8)) (placed : List (Nat × Nat)) (v p : Nat) : Option (BitVec 16) :=
  if linkMisses i tree ((v, p) :: placed) p then some 0x0604
  else if pathMisses i tree v p then some 0x0605
  else none

/-! ## Contract holds (R186) -/

/-- Consumption points of a phase that the stepping reaches late, with the shortfall: on B0 under level 1 a read one
accumulate latency of A1 after the write; on A1 under level 2 every DOT's first beat. -/
def shortfalls (i : Image) (b0 : Bool) (v k : Nat) : List (Nat × Nat) :=
  let ps := programsOf i v
  let ds := descriptorWords i v
  let base := stepCycles i
  let xs := planOf base (nth ps k [])
  if i.contractLevel = 1 ∧ b0 then
    let writers := (xs ++ historyOf i ps k).filter fun y => accumulates y.op
    let ws := writers.flatMap writeTimes
    if ws = [] then []
    else xs.flatMap fun x => ((readTimes i ds k x).filter fun r => ws.contains (r.1, r.2 - 5)).map fun r => (r.2 - base, 1)
  else if i.contractLevel = 2 ∧ !b0 then
    xs.filterMap fun x => match x.op with
      | .dot _ => some (x.cycle - base + fillLead 2, 2)
      | _ => none
  else []

/-- Shortfalls at one phase cycle run side by side: the largest stands (R186). -/
def mergeHolds (xs : List (Nat × Nat)) : List (Nat × Nat) :=
  xs.foldl (fun a x => assign a x.1 (max x.2 ((lookup a x.1).getD 0))) []

/-- The contract hold table: phase, phase cycle and duration, in order (R186). -/
def contractTable (i : Image) (b0 : Bool) : List (Nat × Nat × Nat) :=
  (List.range i.phaseCount).flatMap fun k =>
    let hs := mergeHolds ((List.range i.vCount).flatMap fun v => shortfalls i b0 v k)
    (sortBy (fun a b => decide (a.1 ≤ b.1)) (hs.filter fun h => decide (h.1 < phaseCycles i k))).map fun h => (k, h.1, h.2)

end Sys2Proof.Machine
end

