-- ==== Sys2Proof/Machine/Sections.lean ====
section
/-! DEFINITION. Step 3 of the loader: tide programs, flows, virtual grid, shard ranges, slot layout and limits (R131 to R133,
R142, R143, R151, R163 to R165, R192, R193, R197 to R200, R205, R206). -/

namespace Sys2Proof.Machine

/-! ## Programs -/

/-- A flow named by an instruction: in the table, of the right kind, of the phase (R142, R152). -/
def flowNamed (i : Image) (k flow kind : Nat) : Bool :=
  decide (flow < i.flowCount) && Flow.kind (i.flow flow) = kind && Flow.phase (i.flow flow) = k

/-- One instruction of phase k (R105, R142). -/
def checkInstruction (i : Image) (k : Nat) (x : (BitVec 13 × TideOp) × Nat) : List Failure :=
  match x.1.2 with
  | .dot o => require (shapeOk o) 0x0404 6 x.2 0
  | .emit o => require (o.toRow || flowNamed i k o.flow.toNat 2) 0x0501 6 x.2 0
  | .fabric o => require (flowNamed i k o.flow.toNat (if o.send then 2 else 1)) 0x0501 6 x.2 0
  | .rotate o => require (flowNamed i k o.flow.toNat 2) 0x0501 6 x.2 0
  | .fbwin => require (phaseLayers i k ≠ []) 0x0206 2 k 24
  | _ => []

/-- An operand descriptor (R133); the even set of a shelf buffer, as far as its tensors and the instructions that fill it
reach, lies below row index 5,120 (R223). The record index of the failure is 2,048 * v + n (DESIGN CHOICE, log 38). -/
def checkDescriptor (i : Image) (ops : List TideOp) (v n : Nat) (d : BitVec 256) : List Failure :=
  let shelf := Desc.shelfBuffer d
  let m := partRows d (tensorsOf ops n)
  let row (r : Nat) : Bool := decide (r < 2 ^ 22) && decide (rowIndex r < if shelf then 5120 else 10240)
  let filled := ops.flatMap fun o => match o with
    | .shelf x => if x.desc.toNat = n then partRanges d (if x.gather then [] else tensorsOf ops n) x.count.toNat else []
    | .fabric x =>
      if x.desc.toNat = n ∧ !x.send then [(Desc.blockRow d, x.count.toNat), (Desc.fallbackRow d, Flow.tailRows (i.flow x.flow.toNat))]
      else []
    | _ => []
  require (Desc.format d ≤ 8 && rbyte d 15 < 8 && zeroBytes d 31 20 && row (Desc.blockRow d) && row (Desc.scaleRow d) && row (Desc.fallbackRow d)
      && (!shelf || (row (Desc.blockRow d + (m.1 - 1)) && row (Desc.scaleRow d + (m.2 - 1)) && filled.all fun r => row (r.1 + (r.2 - 1)))))
    0x040B 6 (v * 2048 + n) 0

/-- The tide program of virtual comb v (R127, R131, R132); a failure's record is the instruction's program counter
(DESIGN CHOICE, log 38). -/
def checkProgram (i : Image) (v : Nat) : List Failure :=
  let g := nth i.vgrid v 0
  let ps := programsOf i v
  let ds := descriptorWords i v
  let ops := ps.flatten.map (·.1.2)
  let l := planningLatency (Vgrid.rootReach g)
  require (1 ≤ Vgrid.instructions g && Vgrid.instructions g ≤ 65536 && Vgrid.descriptors g ≤ 1024
      && Vgrid.programOffset g + Vgrid.instructions g ≤ i.programs.length
      && 2 * (Vgrid.descriptorOffset g + Vgrid.descriptors g) ≤ i.programs.length) 0x0401 1 v 0
    ++ ((programWords i v).zipIdx.flatMap fun p => require (decodeTide p.1).isSome 0x0402 6 p.2 0)
    ++ (ps.zipIdx.flatMap fun q =>
        let cycles := Phase.tides (i.phase q.2) * i.tideCycles
        require ((q.1.map fun x => x.1.1.toNat).Pairwise (· ≤ ·) && q.1.all (fun x => decide (x.1.1.toNat < cycles))
          && q.1.getLast?.map (fun x => x.1.2) = some .done) 0x0403 6 v 0
          ++ q.1.flatMap (checkInstruction i q.2)
          ++ programFailures i ds ops q.2 l (historyOf i ps q.2) (planOf (stepCycles i) q.1)
          ++ require (banksFree i ds q.2 (planOf (stepCycles i) q.1)) 0x0408 6 v 0)
    ++ require (ps.length = i.phaseCount) 0x0403 6 v 0
    ++ ds.zipIdx.flatMap fun p => checkDescriptor i ops v p.2 p.1

/-- A flow record (R142, R143, R151). -/
def checkFlow (i : Image) (n : Nat) (f : BitVec 256) : List Failure :=
  let used := Flow.phase f < i.phaseCount && (List.range 96).all fun v => !bit f (96 + v) || decide (v < i.vCount)
  require (match Flow.kind f with
    | 0 => true
    | 1 => used && Flow.elements f = 0 && 1 ≤ Flow.rows f
    | 2 => used && 1 ≤ Flow.elements f && Flow.rows f = 0 && Flow.tailRows f = 0
    | _ => false) 0x0501 3 n 0
    ++ require (Flow.kind f = 0 || Flow.allowance f ≤ (if Flow.kind f = 1 then 2048 else 131072)) 0x0503 3 n 9

/-- Allowances summed over the flows of a phase (R151). -/
def checkCapacity (i : Image) : List Failure :=
  (List.range i.phaseCount).flatMap fun k =>
    let sum (kind : Nat) : Nat := ((i.flows.filter fun f => Flow.kind f = kind && Flow.phase f = k).map Flow.allowance).sum
    require (sum 2 ≤ 131072 && sum 1 ≤ 2048) 0x0503 2 k 0

/-- The virtual grid (R192, R193). -/
def checkGrid (i : Image) (v : Nat) (g : BitVec 256) : List Failure :=
  require (1 ≤ Vgrid.rootReach g && Vgrid.rootReach g ≤ 8 && Vgrid.peerReach g ≤ 8 && !bit g v
    && (Vgrid.peers g).all fun u => decide (u < i.vCount) && bit (nth i.vgrid u 0) v) 0x0602 1 v 31

/-- Length of the payload section. -/
def payloadBytes (i : Image) : Nat := match sectionEntry i 8 with | some d => Dir.length d | none => 0

/-- Shard ranges (R197, R199); a reserved range_kind breaks R197 (DESIGN CHOICE between 0x0108 and 0x0702, log 38). -/
def checkShards (i : Image) : List Failure :=
  let p := payloadBytes i
  (forEach i.shards fun n e =>
    let resident := Shard.kind e = 0 || Shard.kind e = 3
    require (Shard.vcomb e < i.vCount && Shard.kind e ≤ 3 && Shard.offset e % 64 = 0 && Shard.length e % (if resident then 512 else 64) = 0
      && Shard.offset e + Shard.length e ≤ p
      && i.shards.zipIdx.all fun f => f.2 = n || decide (Shard.offset e + Shard.length e ≤ Shard.offset f.1)
          || decide (Shard.offset f.1 + Shard.length f.1 ≤ Shard.offset e)) 0x0702 7 n 0)
    ++ require ((i.shards.map Shard.length).sum = p) 0x0702 7 0 0

/-- Rows that the tide program of virtual comb v writes. -/
def programRows (i : Image) (v : Nat) : List (Nat × Nat) :=
  let p := (programsOf i v).flatten
  (planOf 0 p).flatMap (writtenRows i (descriptorWords i v) (p.map (·.1.2)))

/-- Resident rows fit the scratchpad and meet no row that the program writes (R199). -/
def checkResident (i : Image) : List Failure :=
  forEach i.shards fun n e =>
    if Shard.kind e = 0 ∨ Shard.kind e = 3 then
      let first := Shard.dest e
      let count := Shard.length e / 512
      let rows := programRows i (Shard.vcomb e)
      require (first + count ≤ rowCount && rows.all fun r => decide (first + count ≤ r.1) || decide (r.1 + r.2 ≤ first)) 0x0703 7 n 8
    else []

/-- Slot layout, draft model, sampler limits (R200). -/
def checkLimits (i : Image) : List Failure :=
  let att := i.layers.filter fun l => Layer.kind l = 0
  require (16 ≤ i.decodeSlots && i.decodeSlots ≤ 256 && i.decodeSlots % 8 = 0 && i.prefillSlots ≤ 240 && i.decodeSlots + i.prefillSlots ≤ 256
      && 64 ≤ i.chunkTokens && i.chunkTokens ≤ 8192 && i.chunkTokens % 64 = 0
      && (if att.all Layer.fullAttention then i.selectBlocks = 0 else 1 ≤ i.selectBlocks && i.selectBlocks ≤ 256)
      && 1 ≤ i.maxContext && i.maxContext ≤ 2097152) 0x0701 10 0 0
    ++ require (i.draft.isNone || (1 ≤ i.candidatesMax && i.candidatesMax ≤ 16 && 1 ≤ i.depthMax && i.depthMax ≤ 8
      && i.draftFirst ≤ i.draftLast && i.draftLast < i.layerCount
      && (List.range (i.draftLast + 1 - i.draftFirst)).all fun k => Layer.isDraft (i.layer (i.draftFirst + k)))) 0x0705 11 0 0
    ++ require (2 ≤ i.vocab && i.vocab ≤ 16777216 && 1 ≤ i.topKMax && i.topKMax ≤ 1024 && i.topKMax ≤ i.vocab
      && rfield i.sampler 7 6 ≤ 4 && (i.endTokens.take 4).all fun t => decide (t.toNat < i.vocab)) 0x0706 12 0 0

/-- Step 3 (R202). -/
def checkSections (i : Image) : List Failure :=
  require (1024 ≤ i.tideCycles && i.tideCycles ≤ 8192 && i.tideCycles % 64 = 0) 0x0201 0 0 16
    ++ require (i.stepTides = (i.phases.map Phase.tides).sum) 0x0202 0 0 22
    ++ require (1 ≤ i.contractLevel && i.contractLevel ≤ 3) 0x0203 0 0 18
    ++ require (Phase.kind (i.phase 0) = 0) 0x0204 2 0 31
    ++ forEach i.phases (checkPhase i)
    ++ (List.range i.phaseCount).flatMap (checkGate i)
    ++ forEach i.layers (checkLayer i)
    ++ forEach i.envelopes checkEnvelope
    ++ checkGeometry i
    ++ (List.range i.vCount).flatMap (checkProgram i)
    ++ forEach i.flows (checkFlow i)
    ++ checkCapacity i
    ++ require (treeLegal i.treeParent) 0x0504 0 0 32
    ++ require (i.linkMargin ≤ 8) 0x0505 0 0 28
    ++ checkLimits i
    ++ checkShards i
    ++ checkResident i

/-- Steps 1 to 3: the failures of the first step that fails (R202, R205). -/
def checkImage (i : Image) (expected : Option Digest) (s : State) : List Failure :=
  let a := checkHeader i
  if a ≠ [] then a
  else
    let b := checkDigest i expected s
    if b ≠ [] then b else checkSections i

end Sys2Proof.Machine
end

