-- ==== Sys2Proof/Machine/Service.lean ====
section
/-! DEFINITION. What ends service as a whole: parking every live stream for IMAGE_UNLOAD, MODULE_SHUTDOWN and the loss of
bus converters (R375, R402, R438), the steps of MODULE_SHUTDOWN, and the status LED (R434). -/

namespace Sys2Proof.Machine

/-- The status LED outside the presence display (R434, R398). -/
def baseLed (s : State) : Led :=
  if s.pow.lidOpen then .redBlink
  else if s.mbox.shutdown = .complete then .greenBlink
  else match s.pow.stage with
    | .dark => .off
    | .nothing => .red
    | .holdup => .off
    | .booted => .amber
    | .ready => if s.pow.noStart then .amberBlink else .green

/-- A resuming stream stays PARKED: its copy in the shelf is dropped and its STREAM_RESUME completes with CANCELLED
(R377, R438). -/
def dropResume (n : Nat) (t : Stream) (s : State) : State :=
  let u := { t.atRest with state := .parked }
  let s := match t.parkObject with
    | some o => setObject o.toNat (fun x => { x with readers := x.readers - 1 }) s
    | none => s
  let s := { s with str := { s.str with live := s.str.live.filter (·.1 ≠ n), parked := s.str.parked ++ [u] } }
  completeAll resumeCodes t.id.toNat Status.cancelled (.stream t.mailbox.toNat t.id.toNat)
    (streamStatus u) s

/-- A stream in PARKING goes on parking; a cancellation that waits for a step boundary is dropped, its STREAM_RESUME
completing with CANCELLED (log 22). -/
def dropCancel (n : Nat) (t : Stream) (s : State) : State :=
  if t.event.cancelPark then
    let u := { t with event := { t.event with cancelPark := false } }
    completeAll resumeCodes t.id.toNat Status.cancelled (.stream t.mailbox.toNat t.id.toNat) (streamStatus u)
      (setLive n (fun _ => u) s)
  else s

/-- Park live record n with the data plane at rest. A committed close takes its place; a stream already PARKING goes on.
Where the cove is too full, `onFull` decides (R375, R438). -/
def parkOne (onFull : Stream → State → State) (n : Nat) (s : State) : State :=
  match liveAt n s with
  | none => s
  | some t =>
    match t.event.close with
    | some r => if t.state = .parking then dropCancel n t s else closeStream t r t.event.own Status.cancelled s
    | none =>
      if t.state = .parking then dropCancel n t s
      else if t.state = .resuming then dropResume n t s
      else
        let p := beginPark n false s
        if p.1 then p.2
        else onFull t (setLive n (fun u => { u with state := t.state, pauseReason := t.pauseReason }) p.2)

/-- Park every live stream, as long as `go` holds. -/
def parkAll (go : State → Bool) (onFull : Stream → State → State) (s : State) : State :=
  (s.str.live.map (·.1)).foldl (fun s n => if go s then parkOne onFull n s else s) s

/-- A stream that finds too few free extents at a shutdown is closed with close_reason 3, with a state frame (R438). -/
def closeFull (t : Stream) (s : State) : State := closeStream t 3 false Status.cancelled s

/-- IMAGE_UNLOAD ends with COVE_FULL; what is parked stays parked, and the image stays loaded (R375). -/
def unloadFull (_ : Stream) (s : State) : State :=
  let s := { s with img := { s.img with unloading := false } }
  complete [0x0306] 0 true Status.coveFull .image (0, 0) (tideStatus s) s

/-- The comb-die domains, with the shelf rails that their memory-interface domains switch, off by the keepers (R403,
R406, R438). A latched or failed domain keeps its state. -/
def combDomainsOff (s : State) : State :=
  let off (d : Domain) : Domain := if d.state = 0 ∨ d.state = 4 then { d with state := 3 } else d
  { s with pow := { s.pow with domains := s.pow.domains.zipIdx.map fun p => if p.2 < 192 then off p.1 else p.1 } }

/-- IMAGE_UNLOAD completes once no live stream is left: the data plane is Idle (R375). -/
def advanceUnload (s : State) : State :=
  if s.img.unloading ∧ s.str.live = [] then
    let s := dropImage s
    complete [0x0306] 0 true Status.ok .image (0, 0) (tideStatus s) s
  else s

/-- Effect of the shutdown: the step boundary that its request was given (R362, R365). -/
def shutdownEffect (s : State) : Nat × Nat :=
  (3, match s.mbox.outstanding.find? (fun o => o.opcode = 0x0106) with | some o => o.effectAt.toNat | none => 0)

/-- Steps 4 to 6 of MODULE_SHUTDOWN, once the data plane rests, no stream is live and no other long operation is
outstanding (R438). -/
def endShutdown (s : State) : State :=
  if s.str.live = [] ∧ s.mbox.outstanding.all (·.opcode = 0x0106) ∧ (s.flash.dirty = false ∨ configWriteAllowed s) then
    let s := if s.flash.dirty then makeDurable s else s
    let s := combDomainsOff (dropImage s)
    let s := { s with mbox := { s.mbox with shutdown := .complete } }
    let s := complete [0x0106] 0 true Status.ok .module (shutdownEffect s) (tideStatus s) s
    { s with pres := { s.pres with led := baseLed s } }
  else s

/-- The load in progress ends without an image: its reservation and its uncommitted object go, its source is no longer
read, a staging that it paused goes on, and step 6 leaves the data plane Idle (R203, R247, R379). The completion carries
the load report. -/
def endLoad (status : Status) (s : State) : State :=
  match s.img.load with
  | none => s
  | some l =>
    let s := match l.reserve with
      | some r => reserveExtents true r.1 r.2 s
      | none => s
    let s := if l.network then
        (s.cove.objects.filter fun o => !o.committed && o.kind = 1 && o.digest = l.digest && writePriority o s = 3).foldl
          (fun s o => freeObject o.id.toNat s) s
      else match imageObject l.digest s with
        | some o => if l.waiting then s else setObject o.id.toNat (fun x => { x with readers := x.readers - 1 }) s
        | none => s
    let s := if l.payload then dropImage s else s
    let s := { s with img := { s.img with load := none, staging := s.img.staging.map fun g => { g with paused := false } } }
    complete [0x0302] 0 false status .image (0, 0) (loadReport s) s

/-- A load that waits for a staging which ends without an object finds none (R379, log 22). -/
def orphanLoad (s : State) : State :=
  match s.img.load with
  | some l => if l.waiting then endLoad Status.noEntry s else s
  | none => s

/-- A replacement that finds the cove too full ends with COVE_FULL: the old image stays loaded (R248). -/
def loadFull (_ : Stream) (s : State) : State := endLoad Status.coveFull s

/-- A load that has done steps 1 to 5 and waits for the live streams to be parked (R203, R248). -/
def loadParks (s : State) : Bool :=
  (s.tide.dp = .stopped || s.tide.dp = .halted) && (match s.img.load with | some l => !l.payload && !l.waiting | none => false)

/-- Park what a load in progress replaces. -/
def advanceLoad (s : State) : State := if loadParks s then parkAll loadParks loadFull s else s

/-- Go on with an unload, a load or a shutdown as far as it can go now; streams park only while the data plane is not
Running (R438, R375, R248). -/
def advanceService (s : State) : State :=
  let s := advanceLoad (advanceUnload s)
  if s.mbox.shutdown = .accepted ∧ s.tide.dp ≠ .running then endShutdown (parkAll (fun _ => true) closeFull s) else s

end Sys2Proof.Machine
end

