-- ==== Sys2Proof/Machine/Layout.lean ====
section
/-! DEFINITION. Where a mapping puts an image in the shelf stacks (08, section Stack map; R197, R220, R229), what a comb
gets from it (R130, R198, R202), the KV stack set and gather capacities (R228, R271), and the load report (R211). The
order of ranges inside the backing region and the expert areas is a choice (log 21). -/

namespace Sys2Proof.Machine

/-- Units of 64 B in a MiB. -/
def mibUnits : Nat := 16384

/-- First unit of the reserve of a stack, and the first after it (08, section Stack map). -/
def reserveStart : Nat := 95354 * mibUnits
def reserveEnd : Nat := 98304 * mibUnits

/-- Virtual combs on comb die j, ascending. -/
def vcombsOn (place : List Nat) (j : Nat) : List Nat := (List.range place.length).filter fun v => dieOf (nth place v 0) = j

/-- Shard entries of kinds 0 and 3 of a virtual comb. -/
def residentEntries (i : Image) (v : Nat) : List Nat :=
  (List.range i.shards.length).filter fun n =>
    let e := nth i.shards n 0
    Shard.vcomb e = v && (Shard.kind e = 0 || Shard.kind e = 3)

/-- Shard entries of kinds 0 and 3 in stack j, in the order of the backing region. -/
def backingEntries (i : Image) (place : List Nat) (j : Nat) : List Nat := (vcombsOn place j).flatMap (residentEntries i)

/-- Units of a shard range. -/
def rangeUnits (i : Image) (n : Nat) : Nat := Shard.length (nth i.shards n 0) / 64

/-- First unit of the copy of program memories and descriptors in stack j. -/
def codeUnit (i : Image) (place : List Nat) (j : Nat) : Nat := 64 * mibUnits + ((backingEntries i place j).map (rangeUnits i)).sum

/-- Bytes of a virtual comb's program memory and descriptors. -/
def codeBytes (i : Image) (v : Nat) : Bytes := rawBytes (programWords i v) ++ rawBytes (descriptorWords i v)

/-- Byte offset of virtual comb v's part in the copy of its stack. -/
def codeOffset (i : Image) (place : List Nat) (v : Nat) : Nat :=
  ((vcombsOn place (dieOf (nth place v 0))).takeWhile (· ≠ v)).foldl (fun a u => a + (codeBytes i u).length) 0

/-- First unit after the backing region of stack j. -/
def expertStart (i : Image) (place : List Nat) (j : Nat) : Nat := (64 + backingMib i place j) * mibUnits

/-- Units of a virtual comb's expert area: up to the end of its last kind-1 range. -/
def expertUnits (i : Image) (v : Nat) : Nat :=
  (i.shards.filter fun e => Shard.vcomb e = v && Shard.kind e = 1).foldl (fun a e => max a (Shard.dest e + Shard.length e / 64)) 0

/-- First unit of virtual comb v's expert area. -/
def expertBase (i : Image) (place : List Nat) (v : Nat) : Nat :=
  let j := dieOf (nth place v 0)
  expertStart i place j + (((vcombsOn place j).takeWhile (· ≠ v)).map (expertUnits i)).sum

/-- First unit of shard entry n in the stack of its virtual comb's die; none for a cold range (R198). -/
def shardUnit (i : Image) (place : List Nat) (n : Nat) : Option Nat :=
  let e := nth i.shards n 0
  let j := dieOf (nth place (Shard.vcomb e) 0)
  match Shard.kind e with
  | 1 => some (expertBase i place (Shard.vcomb e) + Shard.dest e)
  | 2 => none
  | _ => some (64 * mibUnits + (((backingEntries i place j).takeWhile (· ≠ n)).map (rangeUnits i)).sum)

/-- MiB of a stack that its map, backing and expert regions may take (08, section Stack map; R234). -/
def usableMib (j : Nat) (s : State) : Nat := 95354 - (s.stack j).kvCut

/-- The SHELF_FIT failures of stack j under a mapping, each with the lowest-numbered shard entry of the kind that causes it
(R220, R211). -/
def stackFailures (i : Image) (place : List Nat) (area j : Nat) (s : State) : List Failure :=
  let lowest (kinds : List Nat) : Nat :=
    ((List.range i.shards.length).find? fun n =>
      let e := nth i.shards n 0
      (vcombsOn place j).contains (Shard.vcomb e) && kinds.contains (Shard.kind e)).getD 0
  require (64 + backingMib i place j + area ≤ usableMib j s) 0x0704 7 (lowest [0, 3]) 0
    ++ require (((vcombsOn place j).map (expertUnits i)).sum ≤ area * mibUnits) 0x0704 7 (lowest [1]) 0

/-- The SHELF_FIT failures of a mapping (R220). -/
def shelfFit (i : Image) (place : List Nat) (area : Nat) (s : State) : List Failure :=
  (List.range 24).flatMap fun j => stackFailures i place area j s

/-- Routed experts of an image in ascending layer and expert. -/
def routedExperts (i : Image) : List (Nat × Nat) :=
  (i.layers.zipIdx.filter fun p => Layer.routed p.1).flatMap fun p => (List.range (Layer.experts p.1)).map fun e => (p.2, e)

/-- Shard entries of kinds 1 and 2 of virtual comb v: the slices of the routed experts in ascending layer and expert (R229;
log 21). -/
def sliceEntries (i : Image) (v : Nat) : List (Nat × (Nat × Nat)) :=
  ((List.range i.shards.length).filter fun n =>
    let e := nth i.shards n 0
    Shard.vcomb e = v && (Shard.kind e = 1 || Shard.kind e = 2)).zip (routedExperts i)

/-- Shard entry that holds the slice of an expert for virtual comb v. -/
def sliceEntry (i : Image) (v layer expert : Nat) : Option Nat := ((sliceEntries i v).find? fun p => p.2 = (layer, expert)).map (·.1)

/-- Units of the slice of an expert for virtual comb v (R229). -/
def sliceUnits (i : Image) (v layer expert : Nat) : Nat :=
  match sliceEntry i v layer expert with
  | some n => Shard.length (nth i.shards n 0) / 64
  | none => 0

/-- The words of an expert's slice, from the image object in the cove (R198, R247). -/
def sliceWords (i : Image) (v layer expert : Nat) (s : State) : List Word64 :=
  match (sliceEntry i v layer expert).bind (lookup s.img.ranges) with
  | some bs => wordsOf bs
  | none => List.replicate (8 * sliceUnits i v layer expert) (0, false)

/-- The expert map entries of virtual comb v (R229). -/
def expertEntries (i : Image) (place : List Nat) (v : Nat) : List ExpertEntry :=
  (sliceEntries i v).map fun p =>
    let e := nth i.shards p.1 0
    let shelf := Shard.kind e = 1
    ⟨v, p.2.1, p.2.2, shelf, false, false, if shelf then BitVec.ofNat 38 (expertBase i place v + Shard.dest e) else 0⟩

/-- Ranges of resident rows of virtual comb v in a scratchpad, from its stack's backing region, every other row zero (R117,
R202). -/
def scratchpadOf (i : Image) (place : List Nat) (entries : List Nat) (stack : Memory) : Memory :=
  entries.foldl (fun m n =>
    let e := nth i.shards n 0
    match shardUnit i place n with
    | some u => writeSlots m (Shard.dest e * 64) (carried (readSlots stack (u * 8) (Shard.length e / 8)))
    | none => m) []

/-- The scratchpad of virtual comb v as a load or remap fills it. -/
def filledScratchpad (i : Image) (place : List Nat) (v : Nat) (stack : Memory) : Memory :=
  scratchpadOf i place (residentEntries i v) stack

/-- Program memory and descriptors of virtual comb v with their check bytes (R130). -/
def codeMemory (i : Image) (v : Nat) : Memory :=
  writeSlots (writeSlots [] 0 (wordsOf (rawBytes (programWords i v)))) (descriptorSlot 0) (wordsOf (rawBytes (descriptorWords i v)))

/-- A comb that takes over virtual comb v: program memory, descriptors, scratchpad (R202, step 7; R312, stage 5). -/
def fillComb (i : Image) (place : List Nat) (v : Nat) (s : State) : State :=
  let p := nth place v 0
  setComb p (fun c => { c.clearPhase with
    code := codeMemory i v
    pc := 0
    mendQueue := []
    mem := filledScratchpad i place v (s.stack (dieOf p)).mem }) s

/-- Stacks whose dies host a virtual comb (R228). -/
def kvStackSet (place : List Nat) : List Nat := (List.range 24).filter fun j => !(vcombsOn place j).isEmpty

/-- Units of the gathers of a phase program. -/
def gatherUnits (p : List ((BitVec 13 × TideOp) × Nat)) : Nat :=
  (p.map fun x => match x.1.2 with | .shelf o => if o.gather then 8 * o.count.toNat else 0 | _ => 0).sum

/-- G_j of R271: a KV gather stands in the phase before the attention phase that uses it (R222); the first attention phase
counts (log 21). -/
def gatherCapacity (i : Image) (place : List Nat) (j : Nat) : Nat :=
  match i.phases.findIdx? fun p => Phase.kind p = 1 with
  | none => 0
  | some k =>
    let k' := (k + i.phaseCount - 1) % max 1 i.phaseCount
    ((vcombsOn place j).map fun v => gatherUnits (nth (programsOf i v) k' [])).sum

/-! ## Placement and report -/

/-- Step 4 (R202): the reach classes, the tree in force and the mapping, or the failures (R193, R206). -/
def placeImage (i : Image) (s : State) : (List Nat × List (BitVec 8)) ⊕ List Failure :=
  let tree := formTree i.linkMargin (declaredTree i.treeParent) s
  let grid := (List.range i.vCount).flatMap fun v => checkGrid i v (nth i.vgrid v 0)
  if grid ≠ [] then .inr grid
  else match mapImage i tree (usableCombs tree s) (unfitCode i tree) with
  | .inl place => .inl (place, tree)
  | .inr (some v, c) => .inr [⟨c, 1, BitVec.ofNat 32 v, 0⟩]
  | .inr (none, c) => .inr [⟨c, 0, 0, 0⟩]

/-- The mapping table (R211). -/
def mappingTable (place : List Nat) (tree : List (BitVec 8)) (s : State) : List (BitVec 8) :=
  let good := usableCombs tree s
  (List.range 96).map fun p => match place.findIdx? (· = p) with
    | some v => BitVec.ofNat 8 v
    | none => if good.contains p then 0xFE else 0xFF

/-- Spares of a mapping. -/
def sparesOf (place : List Nat) (tree : List (BitVec 8)) (s : State) : List Nat :=
  (usableCombs tree s).filter fun p => !place.contains p

/-- A virtual comb has a spare within reach. -/
def spareInReach (i : Image) (place : List Nat) (tree : List (BitVec 8)) (spares : List Nat) (v : Nat) : Bool :=
  let others := ((List.range place.length).filter (· ≠ v)).map fun u => (u, nth place u 0)
  spares.any fun p => reaches i tree v p others

/-- Total of the contract holds of a step, saturating (06, tide status record). -/
def contractTotal (h : List (Nat × Nat × Nat)) : BitVec 16 := BitVec.ofNat 16 (min (h.map (·.2.2)).sum 0xFFFF)

/-- A link below margin lies on the tree in force. -/
def marginInUse (tree : List (BitVec 8)) (s : State) : Bool :=
  (List.range 24).any fun n =>
    let d := (nth tree n 0xFF).toNat
    decide (d < 4) && (let l := (linkTowards n d).1; decide ((s.link l false).state = 1) || decide ((s.link l true).state = 1))

/-- warning_flags (R211). -/
def warningFlags (i : Image) (place : List Nat) (tree : List (BitVec 8)) (holds : List (Nat × Nat × Nat))
    (layerCounts : List (BitVec 64 × BitVec 64)) (s : State) : Nat :=
  let spares := sparesOf place tree s
  flag (contractTotal holds ≠ 0) + 2 * flag (layerCounts.any fun c => c.1 != 0) + 4 * flag (layerCounts.any fun c => c.2 != 0)
    + 8 * flag (marginInUse tree s) + 16 * flag ((List.range place.length).any fun v => !spareInReach i place tree spares v)

/-- Virtual combs that stand beyond their reach or a peer's on a tree: they stay in place (R208), and the failure is reported
(R154, step 5; R206; log 34). -/
def reachFailures (i : Image) (place : List Nat) (tree : List (BitVec 8)) : List Failure :=
  (List.range place.length).flatMap fun v =>
    let others := ((List.range place.length).filter (· ≠ v)).map fun u => (u, nth place u 0)
    require (reaches i tree v (nth place v 0) others) 0x0603 1 v 0

/-- The load report of a mapping that holds (R211). -/
def goodReport (i : Image) (digest : Digest) (place : List Nat) (tree : List (BitVec 8)) (holds : List (Nat × Nat × Nat))
    (layerCounts : List (BitVec 64 × BitVec 64)) (remaps : BitVec 16) (s : State) : LoadReport where
  status := 0
  failures := reportOrder (reachFailures i place tree)
  goodCombs := BitVec.ofNat 8 (usableCombs tree s).length
  spareCount := BitVec.ofNat 8 (sparesOf place tree s).length
  warnings := BitVec.ofNat 16 (warningFlags i place tree holds layerCounts s)
  contractPerStep := contractTotal holds
  remapCount := remaps
  digest := digest
  mapping := mappingTable place tree s
  layerCounts := layerCounts

/-- The load report of a rejection: the lowest code of the failing step and its failures (R205, R211). What it says of a
mapping stays that of the mapping in force (log 22). -/
def failedReport (status : BitVec 16) (digest : Digest) (failures : List Failure) (s : State) : LoadReport :=
  { s.img.report with status := status, failures := reportOrder failures, digest := digest,
                      goodCombs := BitVec.ofNat 8 (usableCombs s.img.parents s).length,
                      contractPerStep := s.tide.contractPerStep }

end Sys2Proof.Machine
end

