-- ==== Sys2Proof/Machine/Payload.lean ====
section
/-! DEFINITION. What the loader finds in the weights that have landed (R38, R57, R59, R74, R199, R202, R211): skT codes,
non-finite values, and the per-layer counts of the load report. -/

namespace Sys2Proof.Machine

/-! ## Weight tensors in resident rows -/

/-- A weight tensor of a tide program: layer, whether it is the serial operand, descriptor, vectors, blocks a vector. -/
structure WeightTensor where
  layer : Nat
  serial : Bool
  d : BitVec 256
  vectors : Nat
  blocks : Nat
  deriving DecidableEq, Repr

/-- Ranges of scratchpad rows that shard entries fill. -/
def residentRanges (i : Image) (entries : List Nat) : List (Nat × Nat) :=
  entries.map fun n => (Shard.dest (nth i.shards n 0), Shard.length (nth i.shards n 0) / 512)

/-- Rows of a tensor. -/
def WeightTensor.rows (i : Image) (t : WeightTensor) : List Nat := rangeRows (operandRanges i t.d 0 t.vectors t.blocks)

/-- The weight tensors of virtual comb v: the operands of its DOTs that stand in resident rows, each once (R197; log 10). -/
def weightTensors (i : Image) (v : Nat) : List WeightTensor :=
  let ds := descriptorWords i v
  let resident := residentRanges i (residentEntries i v)
  let sides := (programsOf i v).flatMap fun p => (layerDots (p.map (·.1.2))).flatMap fun x =>
    let shape := dotShape x.2
    [(⟨x.1, false, nth ds x.2.laneDesc.toNat 0, shape.1, dotBlocks x.2⟩ : WeightTensor),
      ⟨x.1, true, nth ds x.2.serialDesc.toNat 0, shape.2.1, dotBlocks x.2⟩]
  (sides.filter fun t => !Desc.slotIndexed t.d && !Desc.shelfBuffer t.d && (t.rows i).all fun r => inRanges r resident).dedup

/-- The blocks of a tensor as they stand in a scratchpad. -/
def WeightTensor.read (m : Memory) (t : WeightTensor) : List BlockRead :=
  (List.range t.vectors).flatMap fun v => (List.range t.blocks).map fun k => readBlock m t.d 0 t.blocks v k

/-! ## Codes and values (R38, R57) -/

/-- An element is the skT code 0b10 (R38). -/
def sktReserved (d : BitVec 256) : OperandBlock → Bool
  | .narrow _ _ codes => Desc.format d = 0 && codes.contains 2
  | _ => false

/-- A BF16 element is a NaN or an infinity (R57). -/
def nonFinite : OperandBlock → Bool
  | .wide codes => codes.any fun c => c / 128 % 256 = 255
  | _ => false

/-- What is wrong with range n of the shard table once it has landed: its digest, and the codes of the tensors that it
completes (R38, R57, R199, R205). `landed`: the ranges of its virtual comb that have landed; m: the rows they fill. -/
def rangeFailures (i : Image) (n : Nat) (data : Bytes) (landed : List Nat) (m : Memory) : List Failure :=
  let e := nth i.shards n 0
  let bad := require (digestOf data = Shard.digest e) 0x0109 7 n 32
  if bad ≠ [] then bad
  else
    let all := residentRanges i (n :: landed)
    let mine := residentRanges i [n]
    let done := (weightTensors i (Shard.vcomb e)).filter fun t =>
      let rows := t.rows i
      rows.any (inRanges · mine) && rows.all (inRanges · all)
    let blocks (t : WeightTensor) : List OperandBlock := (t.read m).flatMap fun b => [b.block, (replaced m t.d 0 b).block]
    require (done.all fun t => (blocks t).all fun b => !sktReserved t.d b) 0x0307 7 n 0
      ++ require (done.all fun t => (blocks t).all fun b => !nonFinite b) 0x0308 7 n 0

/-! ## The report's counts (R74, R211) -/

/-- Elements of a BF16 serial block that the alignment of R74 changes. -/
def alignmentChanges : OperandBlock → Nat
  | .wide codes => match bf16Aligned 14 codes with
    | some a => (codes.zip a.2).countP fun x =>
        let y := (bf16.input x.1).1
        Dyadic.lt y ⟨x.2, a.1⟩ || Dyadic.lt ⟨x.2, a.1⟩ y
    | none => 0
  | _ => 0

/-- Weight fallback blocks, and weights that the alignment changed, of each layer (R211), over the scratchpads `mem` as the
load fills them. -/
def layerCountsOf (i : Image) (mem : Nat → Memory) : List (BitVec 64 × BitVec 64) :=
  let found := (List.range i.vCount).flatMap fun v => (weightTensors i v).map fun t =>
    let blocks := t.read (mem v)
    (t.layer, blocks.countP fun b => match b.block with | .fallback _ => true | _ => false,
      if t.serial then (blocks.map fun b => alignmentChanges (replaced (mem v) t.d 0 b).block).sum else 0)
  (List.range i.layerCount).map fun l =>
    let mine := found.filter fun x => x.1 = l
    (BitVec.ofNat 64 (mine.map (·.2.1)).sum, BitVec.ofNat 64 (mine.map (·.2.2)).sum)

end Sys2Proof.Machine
end

