-- ==== Sys2Proof/Machine/Queries.lean ====
section
/-! DEFINITION. The queries that read module-wide records: MODULE_INFO, IDENTITY_CERT, TENANT_QUERY, IMAGE_QUERY,
POLICY_QUERY, COUNTER_QUERY, FAULT_QUERY, SERVING_QUERY, with ATTEST_QUOTE and the answer to an undefined opcode. -/

namespace Sys2Proof.Machine

/-- The answer of a query. -/
def answered (s : State) (k : ObjKey) (body : Bytes) : Answer := ⟨s, Status.ok, k, false, (0, 0), body⟩

/-- Module record (R372). -/
def moduleRecord (s : State) : Bytes :=
  pack [(8, s.ident.grade.toNat), (8, flag s.ident.stepping), (48, s.ident.welentVersion.toNat),
    (8, s.ident.protocolVersion.toNat), (8, flag s.cfg.claimed), (8, s.cfg.goodCombs.count true), (8, s.tide.dp.code),
    (48, s.ident.macAddress.toNat), (24, s.cfg.powerUpCount.toNat), (1, flag s.ident.strapInstalled),
    (1, flag s.pres.cmd.isSome), (86, 0)]

def opModuleInfo : Op where
  code := 0x0101
  unclaimed := true
  tenant := true
  query := true
  changes := false
  early := true
  recovery := true
  length := exactly 0
  run := fun _ s => answered s .module (moduleRecord s)

/-- MODULE_INFO (R372). -/
def execModuleInfo (r : Request) (s : State) : Out := .next (serve opModuleInfo r s)

/-- The certificate, at most 4,096 bytes (R382). -/
def certificate : Bytes := Config.certificate.take 4096

/-- IDENTITY_CERT: pages of 1,024 B; an entry of the page header is one byte (log 17). -/
def opIdentityCert : Op where
  code := 0x0102
  unclaimed := true
  tenant := true
  query := true
  changes := false
  early := true
  recovery := true
  length := exactly 4
  check := fun r _ => need (field r.payload 2 2 = 0 && field r.payload 0 2 < pageCount certificate.length 1024) Status.badField
  run := fun r s => answered s .module (pageBody (certificate.map fun b => [b]) 1024 1 (field r.payload 0 2))

/-- IDENTITY_CERT (R382). -/
def execIdentityCert (r : Request) (s : State) : Out := .next (serve opIdentityCert r s)

/-- Whether a tenant is enrolled on a mailbox. -/
def enrolled (mb : Nat) (s : State) : Bool := s.cfg.tenants.any (·.mailbox.toNat = mb)

/-- A prefix list as carried: eight entries of 32 B (R371). -/
def prefixBytes (l : List (BitVec 256)) : Bytes :=
  ((l ++ List.replicate 8 (0 : BitVec 256)).take 8).flatMap fun e => bytesBE 32 e.toNat

/-- Tenant summary (14, section Tenants). -/
def tenantSummary (mb : Nat) (s : State) : Bytes :=
  pack [(8, flag (enrolled mb s)), (16, s.str.live.countP fun p => p.2.mailbox.toNat = mb),
    (32, s.str.parked.countP fun t => t.mailbox.toNat = mb), (8, 0)] ++ prefixBytes (prefixesOf mb s)

def opTenantQuery : Op where
  code := 0x0203
  tenant := true
  query := true
  changes := false
  recovery := true
  object := fun r => .tenant (field r.payload 0 2)
  length := exactly 4
  check := fun r s =>
    let mb := field r.payload 0 2
    firstBad [need (1 ≤ mb && mb ≤ 256 && field r.payload 2 2 = 0) Status.badField,
      need (enrolled mb s) Status.noEntry, need (r.mailbox = 0 || r.mailbox.toNat = mb) Status.denied]
  run := fun r s => answered s (.tenant (field r.payload 0 2)) (tenantSummary (field r.payload 0 2) s)

/-- TENANT_QUERY. -/
def execTenantQuery (r : Request) (s : State) : Out := .next (serve opTenantQuery r s)

/-- Per-layer entries of the load report: two 64-bit counts of 16 B (R211). -/
def layerEntries (s : State) : List Bytes :=
  s.img.report.layerCounts.map fun c => pack [(64, c.1.toNat), (64, c.2.toNat)]

/-- Body of an IMAGE_QUERY by selector. -/
def imageBody (sel page : Nat) (s : State) : Bytes :=
  match sel with
  | 0 =>
    let f (g : Image → Nat) : Nat := match s.img.image with | some i => g i | none => 0
    pack [(8, s.tide.dp.code), (8, 0), (16, f Image.tideCycles), (16, f Image.stepTides), (8, f Image.vCount), (8, 0),
      (512, s.img.digest.toNat)]
  | 1 => loadReport s
  | 2 => s.img.report.mapping
  | 3 => s.img.report.failures.flatMap failureEntry
  | _ => pageBody (layerEntries s) 64 16 page

def opImageQuery : Op where
  code := 0x0307
  tenant := true
  query := true
  changes := false
  object := fun _ => .image
  length := exactly 4
  check := fun r s =>
    let sel := field r.payload 0 1
    firstBad [need (sel ≤ 4 && field r.payload 1 1 = 0 &&
        (sel != 4 || decide (field r.payload 2 2 < pageCount (layerEntries s).length 64))) Status.badField,
      need (r.mailbox = 0 || sel = 0) Status.denied]
  run := fun r s => answered s .image (imageBody (field r.payload 0 1) (field r.payload 2 2) s)

/-- IMAGE_QUERY (R375). -/
def execImageQuery (r : Request) (s : State) : Out := .next (serve opImageQuery r s)

/-- A word as POLICY_QUERY carries it. -/
def wordBytes (n i : Nat) (w : Words) : Bytes := bytesBE ((wordBits n + 7) / 8) (w.get n i)

def opPolicyQuery : Op where
  code := 0x0602
  tenant := true
  query := true
  changes := false
  recovery := true
  object := fun r => .word (field r.payload 0 2)
  length := exactly 4
  check := fun r _ =>
    let n := field r.payload 0 2
    let i := field r.payload 2 2
    firstBad [need (wordBits n != 0 && (if n = 6 then decide (i < 96) else i = 0)) Status.badField,
      need (r.mailbox = 0 || n = 4) Status.denied]
  run := fun r s => answered s (.word (field r.payload 0 2)) (wordBytes (field r.payload 0 2) (field r.payload 2 2) s.live)

/-- POLICY_QUERY (R368): the values in force (R18). -/
def execPolicyQuery (r : Request) (s : State) : Out := .next (serve opPolicyQuery r s)

/-- First index and number of indices of a counter kind (R378). -/
def counterRange (kind : Nat) (s : State) : Nat × Nat :=
  match kind with
  | 1 => (0, match s.img.image with | some i => i.layerCount | none => 0)
  | 2 => (0, 96)
  | 3 => (0, 80)
  | 4 => (1, 9)
  | 5 => (0, 1)
  | 6 => (0, 24)
  | 7 => (0, 8)
  | 8 => (0, 1)
  | 9 => (0, 1)
  | 10 => (0, 1)
  | 11 => (0, 257)
  | _ => (0, 0)

/-- MiB that expert slices take of the reserve of stack j (R316). -/
def reserveSliceMib (j : Nat) (s : State) : Nat :=
  match s.img.image with
  | none => 0
  | some i =>
    let mine := (s.stack j).experts.filter fun e => e.inShelf && decide (reserveStart ≤ e.offset.toNat)
    (inUnits 20 ((mine.map fun e => (sliceUnits i e.vcomb e.layer e.expert : Rat) / mibUnits).sum)).toNat

/-- One record of a counter kind (R378). -/
def counterRecord (kind i : Nat) (s : State) : Bytes :=
  match kind with
  | 1 => layerRecord (nth s.err.layers i {})
  | 2 => combRecord s i
  | 3 => linkRecord (nth s.fabric.links i LinkDir.reset)
  | 4 => slackRecord (nth s.tide.slack i {})
  | 5 => tideStatus s
  | 6 => shelfRecord (s.stack i) (reserveSliceMib i s)
  | 7 => coveRecord (nth s.cove.records i CoveRecord.reset)
  | 8 => errorRecord s.err.record
  | 9 => correlationRecord s.eth.corr
  | 10 => portRecord s
  | _ => mailboxRecord (nth s.mbox.records i {})

/-- What a tenant may read: tide status, tide correlation, its own mailbox record (R378). -/
def counterAllowed (mb kind first count : Nat) : Bool :=
  mb = 0 || kind = 5 || kind = 9 || (kind = 11 && first = mb && count = 1)

def opCounterQuery : Op where
  code := 0x0801
  tenant := true
  query := true
  changes := false
  early := true
  recovery := true
  length := exactly 8
  check := fun r s =>
    let k := field r.payload 0 1
    let f := field r.payload 2 2
    let n := field r.payload 4 1
    let g := counterRange k s
    firstBad [need (field r.payload 1 1 = 0 && field r.payload 5 3 = 0 && 1 ≤ n && n ≤ 32 && g.2 != 0 &&
        decide (g.1 ≤ f) && decide (f + n ≤ g.1 + g.2)) Status.badField,
      need (counterAllowed r.mailbox.toNat k f n) Status.denied]
  run := fun r s =>
    let f := field r.payload 2 2
    answered s .module ((List.range (field r.payload 4 1)).flatMap fun i => counterRecord (field r.payload 0 1) (f + i) s)

/-- COUNTER_QUERY (R378). -/
def execCounterQuery (r : Request) (s : State) : Out := .next (serve opCounterQuery r s)

/-- Paged entries of FAULT_QUERY by selector, with entries per page and entry size. -/
def faultEntries (sel : Nat) (s : State) : List Bytes × Nat × Nat :=
  match sel with
  | 1 => (s.cfg.quarantine.map fun e => bytesBE 64 e.1.toNat ++ bytesBE 128 e.2.toNat, 5, 192)
  | 2 => (s.err.suspects.reverse.map suspectRecord, 32, 32)
  | _ => (s.mbox.notices.reverse.map fun n =>
      pack [(16, n.code.toNat), (16, 0), (32, n.serial.toNat), (512, n.record.toNat)], 15, 72)

def opFaultQuery : Op where
  code := 0x0802
  query := true
  changes := false
  early := true
  recovery := true
  length := exactly 4
  check := fun r s =>
    let sel := field r.payload 0 1
    let e := faultEntries sel s
    need (sel ≤ 3 && field r.payload 1 1 = 0 && (sel = 0 || decide (field r.payload 2 2 < pageCount e.1.length e.2.1)))
      Status.badField
  run := fun r s =>
    let sel := field r.payload 0 1
    let e := faultEntries sel s
    answered s .module (if sel = 0 then bytesBE 128 s.err.fault.toNat else pageBody e.1 e.2.1 e.2.2 (field r.payload 2 2))

/-- FAULT_QUERY. -/
def execFaultQuery (r : Request) (s : State) : Out := .next (serve opFaultQuery r s)

/-- Class record of SERVING_QUERY. -/
def classRecord (k : Nat) (s : State) : Bytes :=
  let c := nth s.str.classes k {}
  let mine := s.str.live.filter fun p => p.2.live.latencyClass.toNat = k
  pack [(16, mine.length), (16, mine.countP fun p => p.2.state = .paused), (32, c.intervalsLast.toNat),
    (32, c.missesLast.toNat), (32, 0)]

def opServingQuery : Op where
  code := 0x0804
  query := true
  changes := false
  length := exactly 0
  run := fun _ s => answered s .module (wordBytes 4 0 s.live ++ (List.range 4).flatMap fun k => classRecord k s)

/-- SERVING_QUERY (R270). -/
def execServingQuery (r : Request) (s : State) : Out := .next (serve opServingQuery r s)

/-- config_measurement (R388). -/
def configMeasurement (s : State) : Bytes :=
  let words := [1, 2, 3, 4, 5].flatMap (fun n => wordBytes n 0 s.live) ++ s.live.w6.map (fun b => b)
    ++ [7, 8, 9, 10, 11, 12, 13, 14].flatMap fun n => wordBytes n 0 s.live
  let keys := sortBy (fun a b => decide (a.keyId.toNat ≤ b.keyId.toNat)) s.cfg.imageKeys
  sha512 (words ++ keys.flatMap (fun k => bytesBE 16 k.keyId.toNat ++ bytesBE 4 k.exponent.toNat ++ bytesBE 512 k.modulus.toNat)
    ++ prefixBytes s.cfg.ownerPrefixes)

/-- tenant_measurement (R388). -/
def tenantMeasurement (s : State) : Bytes :=
  sha512 ((List.range 256).flatMap fun i =>
    match s.cfg.tenants.find? (fun t => t.mailbox.toNat = i + 1) with
    | some t => [1#8] ++ prefixBytes t.prefixes ++ sha512 (bytesBE 64 t.key.toNat)
    | none => List.replicate 321 0)

/-- Bytes 0 to 399 of a quote (R387). -/
def quoteBody (nonce : Bytes) (s : State) : Bytes :=
  pack [(32, 0x46515554), (8, 1), (3, 0), (1, flag s.img.image.isSome), (1, flag (s.ident.firmware = .recovery)),
    (1, flag s.ident.standingPresence), (1, flag s.ident.strapInstalled), (1, flag s.cfg.claimed), (16, 0),
    (32, s.cfg.powerUpCount.toNat), (32, s.cfg.rollbackCounter.toNat)] ++ nonce
    ++ bytesBE 64 (Config.bootMeasurement s.ident.stepping).toNat ++ bytesBE 64 s.ident.measurement.toNat
    ++ configMeasurement s ++ bytesBE 64 s.img.digest.toNat ++ tenantMeasurement s

/-- The 512 bytes of a signature by the identity key (log 6). -/
def identitySignature (m : Bytes) : Bytes := (Config.identitySign m ++ List.replicate 512 0).take 512

def opAttestQuote : Op where
  code := 0x0901
  tenant := true
  changes := false
  early := true
  recovery := true
  length := exactly 64
  run := fun r s => answered s .module (quoteBody r.payload s ++ identitySignature (quoteBody r.payload s))

/-- ATTEST_QUOTE (R387, R388). -/
def execAttestQuote (r : Request) (s : State) : Out := .next (serve opAttestQuote r s)

/-- An opcode outside the catalogue: BAD_OPCODE (R362). -/
def opUndefined (code : BitVec 16) : Op where
  code := code
  defined := false
  length := fun _ => Status.ok
  run := fun _ s => ⟨s, Status.badOpcode, .module, false, (0, 0), []⟩

/-- UNDEFINED_OPCODE_REQUEST (R362). -/
def execUndefinedOpcodeRequest (r : Request) (opcode : BitVec 16) (s : State) : Out := .next (serve (opUndefined opcode) r s)

end Sys2Proof.Machine
end

