-- ==== Sys2Proof/Machine/Policy.lean ====
section
/-! DEFINITION. The writes of the words of R368 by command-class opcodes and PORT_CONFIG_SET (R366 to R370, R330). -/

namespace Sys2Proof.Machine

/-- The length check of a word write, which reads the word number first (14, section Writing a word). -/
def wordLength (words : List Nat) (p : Bytes) : Status :=
  if p.length < 8 then Status.badLength
  else if field p 0 2 ∉ words then Status.badField
  else if p.length = 8 + (wordBits (field p 0 2) + 7) / 8 then Status.ok
  else Status.badLength

/-- The combs that an index names: one, or all (R368). -/
def wordIndices (n i : Nat) : List Nat := if n = 6 ∧ i = 0xFFFF then List.range 96 else [i]

/-- The value field of a word write. -/
def wordValue (p : Bytes) : Nat := natBE (p.drop 8)

/-- Index and field checks of a word write (R14, R366). -/
def wordCheck (p : Bytes) (s : State) : Status :=
  let n := field p 0 2
  let i := field p 2 2
  need ((if n = 6 then decide (i < 96 ∨ i = 0xFFFF) else i = 0) &&
    (wordIndices n i).all fun j => wordWriteOk n (field p 4 4) (s.cfg.words.get n j) (wordValue p)) Status.badField

/-- Commit a word write: the shadow takes the selected fields; Q fields are in force at once; a T field written beside an
E field waits with it (R17, R20, R21, R366). -/
def applyWord (n i mask x : Nat) (s : State) : State :=
  let sel := selected mask (wordFields n)
  let words := (wordIndices n i).foldl (fun w j => w.put n j (mergeFields sel (w.get n j) x)) s.cfg.words
  let live := if maskKind n mask = 0 then latchWord .q n i s.live words else s.live
  let late := if sel.any (·.latch = .t) then
      (if sel.any (·.latch = .e) then (if n ∈ s.mbox.lateT then s.mbox.lateT else s.mbox.lateT ++ [n])
        else s.mbox.lateT.filter (· ≠ n))
    else s.mbox.lateT
  { s with cfg := { s.cfg with words := words }, live := live, mbox := { s.mbox with lateT := late },
           flash := { s.flash with dirty := true } }

/-- What a word write answers: its effect and the word as it will stand (R18, R365). -/
def wordAnswer (p : Bytes) (s : State) : Answer :=
  let n := field p 0 2
  let i := field p 2 2
  let kind := maskKind n (field p 4 4)
  let t := applyWord n i (field p 4 4) (wordValue p) s
  ⟨t, Status.ok, .word n, true, (kind, effectAt kind s), wordBytes n i t.cfg.words⟩

/-- A command-class word write. -/
def wordOp (code : BitVec 16) (words : List Nat) (recovery : Bool) : Op where
  code := code
  recovery := recovery
  object := fun r => .word (field r.payload 0 2)
  length := wordLength words
  check := fun r s => wordCheck r.payload s
  run := fun r s => wordAnswer r.payload s

def opThermalPolicySet : Op := wordOp 0x0603 [6, 7, 8] false
def opFaultPolicySet : Op := wordOp 0x0604 [9, 10] false
def opNoticeConfigSet : Op := wordOp 0x0606 [12] true
def opTelemetrySelect : Op := wordOp 0x0607 [13] false
def opPowerPolicySet : Op := wordOp 0x0608 [14] false

/-- THERMAL_POLICY_SET: words 6 to 8 (R368). -/
def execThermalPolicySet (r : Request) (s : State) : Out := .next (serve opThermalPolicySet r s)

/-- FAULT_POLICY_SET: words 9 and 10 (R368). -/
def execFaultPolicySet (r : Request) (s : State) : Out := .next (serve opFaultPolicySet r s)

/-- NOTICE_CONFIG_SET: word 12; the notice sender stops, takes the fields and restarts, so the write is never BUSY, and
notices that waited are sent (R359). -/
def execNoticeConfigSet (r : Request) (s : State) : Out :=
  let t := serve opNoticeConfigSet r s
  .next (if t.mbox.changes ≠ s.mbox.changes ∧ t.eth.link = 2 then sendWaitingNotices t else t)

/-- TELEMETRY_SELECT: word 13 (R369). -/
def execTelemetrySelect (r : Request) (s : State) : Out := .next (serve opTelemetrySelect r s)

/-- POWER_POLICY_SET: word 14 (R370). -/
def execPowerPolicySet (r : Request) (s : State) : Out := .next (serve opPowerPolicySet r s)

/-! ## The port configuration (R330) -/

/-- Whether a network load or a staging pull uses the RoCEv2 engine. -/
def pullRuns (s : State) : Bool :=
  s.img.staging.isSome || (match s.img.load with | some l => l.network | none => false)

/-- A remap is under way: its loader and RoCEv2 engine refuse Q writes (R314). The stages of a remap run in one command, so
that the time from the failure to it stands for them all (log 36). -/
def remapRuns (s : State) : Bool := s.tide.dp = .halted && !s.err.failed.isEmpty

/-- The address that answers after the change where `a` answered before it (R330, step 5). -/
def newAddress (old new : BitVec 512) (a : BitVec 128) : BitVec 128 :=
  let v4 (w : BitVec 512) : BitVec 128 := BitVec.ofNat 128 (0xFFFF * 2 ^ 32 + bits w 247 216)
  if bits old 383 376 ≠ 0 ∧ a = BitVec.ofNat 128 (bits old 511 384) then BitVec.ofNat 128 (bits new 511 384)
  else if bits old 215 210 ≠ 0 ∧ a = v4 old then v4 new
  else a

/-- The module's IPv6 link-local address: modified EUI-64 of the MAC address (R328). -/
def linkLocalAddress (mac : BitVec 48) : BitVec 128 :=
  let top := Nat.xor (mac.toNat >>> 24) 0x020000
  BitVec.ofNat 128 (0xFE80 * 2 ^ 112 + top * 2 ^ 40 + 0xFFFE * 2 ^ 24 + mac.toNat % 2 ^ 24)

/-- Duplicate address detection and ARP probes of the addresses set; earlier conflicts are forgotten (R328). -/
def probeAddresses (s : State) : State :=
  let w := s.live.w11
  let s := { s with eth := { s.eth with addressFlags := 0 } }
  let s := send (.neighbourProbe 6 (linkLocalAddress s.ident.macAddress)) s
  let s := if bits w 383 376 ≠ 0 then send (.neighbourProbe 6 (BitVec.ofNat 128 (bits w 511 384))) s else s
  if bits w 215 210 ≠ 0 then send (.neighbourProbe 4 (BitVec.ofNat 128 (bits w 247 216))) s else s

/-- Put a port configuration in force and make it durable (R330, steps 2 to 4). -/
def setPort (w : BitVec 512) (s : State) : State :=
  let s := { s with cfg := { s.cfg with words := { s.cfg.words with w11 := w } }, live := { s.live with w11 := w } }
  probeAddresses (makeDurable s)

def opPortConfigSet : Op where
  code := 0x0605
  recovery := true
  object := fun r => .word (field r.payload 0 2)
  length := wordLength [11]
  check := fun r s => firstBad [wordCheck r.payload s, need (!pullRuns s && s.eth.portWrite.isNone) Status.busy]
  run := fun _ s => ⟨s, Status.accepted, .word 11, false, (0, 0), []⟩

/-- The waiting port configuration takes effect, if the hold-up check lets it be written (R330, steps 2 to 5): a
PORT_CONFIG_SET arms its reversion and completes from the new address; a reversion raises notice 0x0003. -/
def applyPort (s : State) : State :=
  match s.eth.portWrite with
  | none => s
  | some new =>
    if configWriteAllowed s then
      let old := s.live.w11
      let s := setPort new { s with eth := { s.eth with portWrite := none } }
      match s.mbox.outstanding.find? (fun o => o.opcode = 0x0605) with
      | none => raiseNotice 0x0003 none 9 0 0 0 { s with eth := { s.eth with revert := none } }
      | some o =>
        let moved (x : Outstanding) : Outstanding := if x = o then { x with dst := newAddress old new x.dst } else x
        let s := { s with eth := { s.eth with revert := some old }
                          mbox := { s.mbox with outstanding := s.mbox.outstanding.map moved } }
        finish (keyOf 0 s) (moved o) true true Status.ok (.word 11) (0, 0) (wordBytes 11 0 s.cfg.words) s
    else { s with cove := { s.cove with deferred := true } }

/-- After ACCEPTED: the new values wait to be written (R330). -/
def beginPortConfig (r : Request) (s : State) : State :=
  let old := s.live.w11
  let new := BitVec.ofNat 512 (mergeFields (selected (field r.payload 4 4) (wordFields 11)) old.toNat (wordValue r.payload))
  applyPort { s with eth := { s.eth with portWrite := some new } }

/-- PORT_CONFIG_SET (R330): from ACCEPTED to the completion notice. -/
def execPortConfigSet (r : Request) (s : State) : Out :=
  let t := serve opPortConfigSet r s
  .next (if leftOpen s t then beginPortConfig r t else t)

end Sys2Proof.Machine
end

