-- ==== Sys2Proof/Machine/Loader.lean ====
section
/-! DEFINITION. The image opcodes IMAGE_SOURCE_SET, IMAGE_LOAD, IMAGE_STOP, IMAGE_START, IMAGE_UNLOAD and QUARANTINE_CLEAR
(R375, R216, R246 to R248), and the loader's steps (R202 to R204). -/

namespace Sys2Proof.Machine

/-! ## IMAGE_SOURCE_SET -/

/-- The storage source record of a request. -/
def sourceRecord (r : Request) : BitVec 512 := BitVec.ofNat 512 (field r.payload 4 64)

def opImageSourceSet : Op where
  code := 0x0301
  object := fun _ => .image
  length := exactly 68
  check := fun r s =>
    let n := field r.payload 0 1
    let x := sourceRecord r
    firstBad [need (n ≤ 63 && field r.payload 1 3 = 0 && bits x 209 0 = 0 && 1 ≤ bits x 215 211 && bits x 215 211 ≤ 16)
        Status.badField,
      need (!pullRuns s && !remapRuns s) Status.busy]
  run := fun r s =>
    let x := sourceRecord r
    let q : QueuePair := { QueuePair.reset with record := x, psn := BitVec.ofNat 24 (bits x 359 336) }
    ⟨{ s with cove := { s.cove with qps := upd s.cove.qps (field r.payload 0 1) (fun _ => q) } }, Status.ok, .image, true,
      (0, 0), bytesBE 64 x.toNat⟩

/-- IMAGE_SOURCE_SET (08, section Weight pull and staging; R314, R330, R379): the queue pair starts afresh at
local_psn_start. -/
def execImageSourceSet (r : Request) (s : State) : Out := .next (serve opImageSourceSet r s)

/-- Whether a storage source record is enabled (R246). -/
def sourceEnabled (s : State) : Bool := s.cove.qps.any fun q => bit q.record 210

/-- The engine takes up the enabled queue pairs and asks for a first read on each (R246; log 23). -/
def startPull (s : State) : State :=
  (List.range 64).foldl (fun s n =>
    let q := nth s.cove.qps n QueuePair.reset
    let f (q : QueuePair) : QueuePair :=
      { q with outstanding := 1, window := bits q.record 215 211, retries := 0, error := false, psn := q.psn + 256 }
    if bit q.record 210 then send (.rdmaRead n q.psn) { s with cove := { s.cove with qps := upd s.cove.qps n f } } else s)
    { s with cove := { s.cove with pullRetries := 0 } }

/-! ## IMAGE_LOAD -/

/-- Notice 0x0002: image loaded or load rejected (R360). -/
def loadNotice (s : State) : State := raiseNotice 0x0002 none 7 0 0 (detail256 (loadReport s)) s

/-- A load ends rejected: the report names the failures, the lowest code first (R205, R211). -/
def rejectLoad (failures : List Failure) (s : State) : State :=
  match s.img.load with
  | none => s
  | some l =>
    let fs := reportOrder failures
    let s := { s with img := { s.img with report := failedReport (match fs with | f :: _ => f.code | [] => 0) l.digest fs s } }
    let s := loadNotice s
    endLoad Status.loadRejected s

/-- Steps 1 to 5 of the load in progress (R202, R203). -/
def loaderChecks (expected : Option Digest) (s : State) : State :=
  match s.img.load with
  | none => s
  | some l =>
    let fs := checkImage l.image expected s
    if fs ≠ [] then rejectLoad fs s
    else match placeImage l.image s with
      | .inr fs => rejectLoad fs s
      | .inl p => advanceService { s with img := { s.img with load := some { l with place := p.1, parents := p.2 } } }

/-- Source and expected digest of IMAGE_LOAD. -/
def loadSource (r : Request) : Nat := field r.payload 0 1
def loadDigest (r : Request) : Digest := BitVec.ofNat 512 (field r.payload 4 64)

/-- Whether the digest's staging runs (R379). -/
def stagingOf (d : Digest) (s : State) : Bool := match s.img.staging with | some g => g.digest = d | none => false

/-- Bytes of an image (R188). -/
def imageBytes (i : Image) : Nat := rfield i.header 15 8

/-- What a pull finds: nothing readable or no valid header is none (R246). -/
def pulled (network : Option Image) : Option Image :=
  match network with
  | some i => if (checkHeader i).any (fun f => f.code = 0x0101) then none else some i
  | none => none

/-- A network load writes its image through unless an undamaged object of its digest exists (R237, R247; log 22). -/
def writesThrough (i : Image) (s : State) : Bool :=
  match imageObject i.digestField s with
  | some o => o.damaged
  | none => true

/-- The extents of an object can be placed now (R247). -/
def roomFor (bytes : Nat) (s : State) : Bool := (startStack (extentsOf bytes) s).isSome

/-- Check of IMAGE_LOAD in the order of R364. -/
def loadCheck (x : Option Image) (r : Request) (s : State) : Status :=
  let cove := loadSource r = 0
  let d := loadDigest r
  firstBad [need (loadSource r ≤ 1 && field r.payload 1 3 = 0) Status.badField,
    need (!cove || (imageObject d s).isSome || stagingOf d s) Status.noEntry,
    need (!cove || !(match imageObject d s with | some o => o.damaged | none => false)) Status.damaged,
    need s.img.load.isNone Status.busy,
    need (cove || sourceEnabled s) Status.storageError,
    need (cove || (match pulled x with | some i => !writesThrough i s || roomFor (imageBytes i) s | none => true)) Status.coveFull]

/-- The load that an accepted request starts; nothing where the source returns no image. -/
def newLoad (x : Option Image) (r : Request) (s : State) : Option Load :=
  let d := loadDigest r
  if loadSource r = 0 then
    match imageObject d s with
    | some o => (match o.data with
      | .image i => some ⟨i, d, false, false, [], [], [], [], false, none⟩
      | _ => none)
    | none => s.img.staging.map fun g => ⟨g.image, d, false, true, [], [], [], [], false, none⟩
  else (pulled x).map fun i =>
    let n := extentsOf (imageBytes i)
    ⟨i, i.digestField, true, false, [], [], [], [], false,
      if writesThrough i s then (startStack n s).map fun a => (a, n) else none⟩

/-- The load begins: its extents are reserved or its object is held, and a staging pauses for a pull (R203, R245, R247). -/
def holdSource (l : Load) (s : State) : State :=
  let s := match l.reserve with
    | some a => reserveExtents false a.1 a.2 s
    | none => s
  let s := if l.network ∨ l.waiting then s
    else match imageObject l.digest s with
      | some o => setObject o.id.toNat (fun y => { y with readers := y.readers + 1 }) s
      | none => s
  let staging := if l.network then s.img.staging.map fun g => { g with paused := true } else s.img.staging
  { s with img := { s.img with load := some l, staging := staging } }

/-- After ACCEPTED: the source is held and pulled, and steps 1 to 5 run unless the load waits for its staging (R203, R245 to
R247, R379). -/
def beginLoad (x : Option Image) (r : Request) (s : State) : State :=
  match newLoad x r s with
  | none => complete [0x0302] 0 false Status.storageError .image (0, 0) (loadReport s) s
  | some l =>
    let s := holdSource l s
    if l.waiting then s
    else loaderChecks (if loadDigest r = 0 then none else some (loadDigest r)) (if l.network then startPull s else s)

def opImageLoad (x : Option Image) : Op where
  code := 0x0302
  blocked := fun s => s.pow.noStart
  object := fun _ => .image
  length := exactly 68
  check := loadCheck x
  run := fun _ s => ⟨s, Status.accepted, .image, false, (0, 0), []⟩

/-- IMAGE_LOAD (R202, R203, R246, R247, R375): steps 1 to 5. -/
def execImageLoad (r : Request) (x : Option Image) (s : State) : Out :=
  let t := serve (opImageLoad x) r s
  .next (if leftOpen s t then beginLoad x r t else t)

/-! ## Step 6 -/

/-- Step 6 may begin: the mapping stands, the data plane rests, every stream is parked and no prefix is being copied
(R203, R248). -/
def payloadReady (s : State) : Bool :=
  s.awake && s.tide.dp != .running && s.tide.dp != .loading && s.str.live.isEmpty && s.err.failed.isEmpty
    && s.str.prefixes.all (fun p => !p.copying)
    && (match s.img.load with | some l => !l.waiting && !l.payload | none => false)

/-- Shared prefixes that lie in the shelf are lost when it is filled (log 22). -/
def dropShelfPrefixes (s : State) : State :=
  { s with str := { s.str with prefixes := s.str.prefixes.filter fun p => p.place = 1 } }

/-- The write-through object of a network load is created in the extents reserved for it (R247). -/
def writeThrough (l : Load) (s : State) : State :=
  match l.reserve with
  | none => s
  | some a =>
    let s := reserveExtents true a.1 a.2 s
    match createObject (.image l.image) 0 (imageBytes l.image) l.digest 0 s with
    | some o => o.2
    | none => s

/-- The load's mapping is formed again and checked against the shelf (R204, R220): the load goes on with `landed`, or is
rejected. -/
def mapPayload (keep : List Nat → List Nat → List Nat → List Nat) (s : State) : State :=
  match s.img.load with
  | none => s
  | some l =>
    match placeImage l.image s with
    | .inr fs => rejectLoad fs s
    | .inl p =>
      let fs := shelfFit l.image p.1 (bits s.cfg.words.w2 63 47) s
      if fs ≠ [] then rejectLoad fs s
      else { s with img := { s.img with load := some { l with place := p.1, parents := p.2, landed := keep l.place p.1 l.landed } } }

/-- A digest is on the quarantine list (R215, R216). -/
def quarantined (d : Digest) (s : State) : Bool := s.cfg.quarantine.any fun q => q.1 = d

/-- The failure of a quarantined image (R205, R211). -/
def quarantineFailure : Failure := ⟨0x0107, 0, 0, 64⟩

/-- LOAD_PAYLOAD_START (R202, R203): the data plane is Loading and the old image is gone; SHELF_FIT is checked (R220). An
image that has been quarantined since step 2 is rejected (R216). -/
def execLoadPayloadStart (s : State) : Out :=
  .next (if payloadReady s then
    match s.img.load with
    | none => s
    | some l =>
      if quarantined l.digest s then rejectLoad [quarantineFailure] s
      else
      let s := dropShelfPrefixes (dropImage s)
      let s := writeThrough l { s with img := { s.img with load := some { l with payload := true } }, tide := { s.tide with dp := .loading } }
      let s := { s with img := { s.img with load := some { l with payload := true, reserve := none } } }
      startWrites (mapPayload (fun _ _ landed => landed) s)
  else s)

/-- Comb dies whose shard a new mapping leaves as it was keep what has landed (R204). -/
def keptRanges (i : Image) (old new landed : List Nat) : List Nat :=
  landed.filter fun n =>
    let v := Shard.vcomb (nth i.shards n 0)
    let j := dieOf (nth old v 0)
    dieOf (nth new v 0) = j && vcombsOn old j = vcombsOn new j

/-- A comb failed during Loading: back to step 4 (R204). -/
def remapLoad (s : State) : State :=
  match s.img.load with
  | none => s
  | some l => if l.payload then mapPayload (keptRanges l.image) s else s

/-- Ranges of virtual comb v's resident rows that have landed. -/
def landedOf (l : Load) (v : Nat) : List Nat := l.landed.filter fun m => (residentEntries l.image v).contains m

/-- SHARD_RANGE_LANDED (R38, R57, R198, R199, R205): a range goes into its stack, a cold one stays in the cove, whose image
object holds them all, or the image is rejected. -/
def execShardRangeLanded (n : Nat) (data : Bytes) (s : State) : Out :=
  .next (match s.img.load with
    | none => s
    | some l =>
      let e := nth l.image.shards n 0
      if s.awake ∧ l.payload ∧ n < l.image.shards.length ∧ n ∉ l.landed ∧ data.length = Shard.length e then
        let v := Shard.vcomb e
        let j := dieOf (nth l.place v 0)
        let slice := Shard.kind e = 1 ∨ Shard.kind e = 2
        let t := match shardUnit l.image l.place n with
          | some u => setStack j (fun k => { k with mem := writeUnits k.mem u (wordsOf data) }) s
          | none => s
        let fs := rangeFailures l.image n data (landedOf l v)
          (scratchpadOf l.image l.place (if slice then [] else n :: landedOf l v) (t.stack j).mem)
        if fs ≠ [] then rejectLoad fs s
        else
          { t with img := { t.img with load := some { l with landed := l.landed ++ [n]
                                                             ranges := assign l.ranges n data } } }
      else s)

/-! ## Steps 7 and 8 -/

/-- The copy of program memories and descriptors goes into every stack's backing region (08, section Stack map). -/
def writeCode (i : Image) (place : List Nat) (s : State) : State :=
  (List.range 24).foldl (fun s j =>
    let bs := (vcombsOn place j).flatMap (codeBytes i)
    if bs = [] then s else setStack j (fun k => { k with mem := writeUnits k.mem (codeUnit i place j) (wordsOf bs) }) s) s

/-- Counters that count from the start of an image (R67, R183; R10). -/
def startCounters (i : Image) (s : State) : State :=
  let clear (r : SlackRecord) : SlackRecord := { timeoutsTotal := r.timeoutsTotal }
  { s with combs := s.combs.map fun c => { c with record := { c.record with replayCycles := 0, slackCycles := 0 } }
           tide := { s.tide with number := 0, runCycles := 0, slackCycles := 0, tideCycle := 0, slack := s.tide.slack.map clear }
           err := { s.err with layers := List.replicate i.layerCount {}, layersStep := [] } }

/-- The expert maps and heat of a new image (R229, R233). -/
def loadExperts (i : Image) (place : List Nat) (s : State) : State :=
  let s := (List.range 24).foldl (fun s j => setStack j (fun k => { k with experts := (vcombsOn place j).flatMap (expertEntries i place) }) s) s
  { s with shelf := { s.shelf with promotions := [], heat := (routedExperts i).map fun x => ⟨x.1, x.2, 0, 0⟩ } }

/-- link_state under an image's margin: a link that has not failed is below margin or in service (R159). -/
def markLinks (i : Image) (s : State) : State :=
  let f (d : LinkDir) : LinkDir := if d.state = 2 then d else { d with state := if activeGroups d + i.linkMargin < 16 then 1 else 0 }
  { s with fabric := { s.fabric with links := s.fabric.links.map f } }

/-- The image is in place: mapping, KV stack set, gather capacities, contract hold table, link states, load report (R159,
R186, R211, R228, R271). -/
def installImage (l : Load) (s : State) : State :=
  let i := l.image
  let holds := contractTable i s.ident.stepping
  let s := markLinks i s
  let counts := layerCountsOf i fun v => (s.comb (nth l.place v 0)).mem
  let img : Img :=
    { s.img with
      image := some i
      digest := l.digest
      place := l.place
      parents := l.parents
      kvStacks := kvStackSet l.place
      kvReaders := (kvStackSet l.place).map (vcombsOn l.place)
      gather := (List.range 24).map (gatherCapacity i l.place)
      report := goodReport i l.digest l.place l.parents holds counts 0 s
      load := none
      ranges := l.ranges
      staging := s.img.staging.map fun g => { g with paused := false } }
  let s := { s with img := img, shelf := { s.shelf with moved := [] } }
  { s with tide := { s.tide with contractHolds := holds, contractPerStep := contractTotal holds, startPending := true } }

/-- Every comb that stays without a virtual comb is written with zeros (R117). -/
def clearSpares (place : List Nat) (s : State) : State :=
  { s with combs := s.combs.zipIdx.map fun c => if place.contains c.2 then c.1 else { c.1.clearPhase with mem := [] } }

/-- Steps 5, 7 and 8 of a load (R202): the combs are filled, the image is in place and the load ends with OK. -/
def finishLoad (l : Load) (s : State) : State :=
  let s := clearSpares l.place (writeCode l.image l.place s)
  let s := (List.range l.place.length).foldl (fun s v => fillComb l.image l.place v s) s
  let s := loadExperts l.image l.place (startCounters l.image s)
  let s := if l.network then s
    else match imageObject l.digest s with
      | some o => setObject o.id.toNat (fun x => { x with readers := x.readers - 1 }) s
      | none => s
  let s := installImage l s
  advanceService (loadNotice (complete [0x0302] 0 true Status.ok .image (0, 0) (loadReport s) s))

/-- LOAD_COMPLETE (R202): every range has landed. The data plane enters Running next (R172). An image that has been
quarantined meanwhile is rejected (R216). -/
def execLoadComplete (s : State) : Out :=
  .next (match s.img.load with
    | none => s
    | some l =>
      if s.awake ∧ l.payload ∧ (List.range l.image.shards.length).all (fun n => l.landed.contains n) then
        if quarantined l.digest s then rejectLoad [quarantineFailure] s else finishLoad l s
      else s)

/-! ## Stop, start, unload -/

/-- IMAGE_STOP: in Running the stop waits for the step boundary; in Stopped nothing changes (R375). A start that has not
yet come about is withdrawn (log 20). -/
def opImageStop : Op where
  code := 0x0304
  object := fun _ => .image
  length := exactly 0
  check := fun _ s => need (s.tide.dp = .running || s.tide.dp = .stopped) Status.badState
  run := fun _ s =>
    if s.tide.dp = .running then
      ⟨{ s with tide := { s.tide with stopPending := true } }, Status.ok, .image, true, (3, nextStep s), tideStatus s⟩
    else
      ⟨{ s with tide := { s.tide with startPending := false } }, Status.ok, .image, false, (0, 0), tideStatus s⟩

/-- IMAGE_STOP (R375). -/
def execImageStop (r : Request) (s : State) : Out := .next (serve opImageStop r s)

/-- Halted for a cause that IMAGE_START does not overcome (R210, R216, R375). -/
def haltBlocks (s : State) : Bool := s.tide.halt = .fault || s.tide.halt = .insufficientSpares

def opImageStart : Op where
  code := 0x0305
  object := fun _ => .image
  length := exactly 0
  check := fun _ s => need (s.tide.dp = .stopped || (s.tide.dp = .halted && !haltBlocks s)) Status.badState
  run := fun _ s =>
    ⟨{ s with tide := { s.tide with startPending := true } }, Status.ok, .image, true, (0, 0), tideStatus s⟩

/-- IMAGE_START (R375): the data plane enters Running next (R172). -/
def execImageStart (r : Request) (s : State) : Out := .next (serve opImageStart r s)

def opImageUnload : Op where
  code := 0x0306
  object := fun _ => .image
  length := exactly 0
  check := fun _ s => firstBad [need (s.tide.dp = .stopped || s.tide.dp = .halted) Status.badState,
    need (!s.img.unloading) Status.busy]
  run := fun _ s =>
    ⟨{ s with img := { s.img with unloading := true }, tide := { s.tide with startPending := false } }, Status.accepted, .image,
      true, (0, 0), []⟩

/-- IMAGE_UNLOAD (R375): every live stream is parked; then the data plane is Idle. -/
def execImageUnload (r : Request) (s : State) : Out :=
  let t := serve opImageUnload r s
  .next (if !s.img.unloading && t.img.unloading then advanceService (parkAll (·.img.unloading) unloadFull t) else t)

/-! ## QUARANTINE_CLEAR -/

def opQuarantineClear : Op where
  code := 0x0308
  object := fun _ => .image
  length := exactly 64
  check := fun r s => need (s.cfg.quarantine.any fun e => e.1 = BitVec.ofNat 512 (field r.payload 0 64)) Status.noEntry
  run := fun r s =>
    let d : Digest := BitVec.ofNat 512 (field r.payload 0 64)
    let s := { s with cfg := { s.cfg with quarantine := s.cfg.quarantine.filter fun e => e.1 ≠ d }, flash := { s.flash with dirty := true } }
    let s := if s.tide.dp = .halted ∧ s.tide.halt = .fault ∧ s.img.digest = d then
        { s with tide := { s.tide with halt := .none, startPending := true } }
      else s
    ⟨s, Status.ok, .image, true, (0, 0), []⟩

/-- QUARANTINE_CLEAR (R216): an entry is cleared; the image it names, if still loaded and Halted, resumes. -/
def execQuarantineClear (r : Request) (s : State) : Out := .next (serve opQuarantineClear r s)

end Sys2Proof.Machine
end

