-- ==== Sys2Proof/Machine/Owner.lean ====
section
/-! DEFINITION. Presence-pending commands (R374, R384, R394 to R396): ownership, tenants, image keys, COVE_ERASE,
POLICY_SET and FIRMWARE_ACTIVATE (R373, R390 to R393, R375, R386); FIRMWARE_CHUNK and MODULE_SHUTDOWN (R438). -/

namespace Sys2Proof.Machine

/-! ## Fields -/

/-- A prefix list in a payload: eight entries of 32 B (R371). -/
def prefixList (p : Bytes) (off : Nat) : List (BitVec 256) :=
  (List.range 8).map fun k => BitVec.ofNat 256 (field p (off + 32 * k) 32)

/-- Whether an entry of a prefix list is legal: unused, or with a length of its address family, reserved bits zero
(R371). -/
def prefixEntryOk (e : BitVec 256) : Bool :=
  let n := bits e 127 120
  bits e 119 0 = 0 && n ≤ 128 && (n = 0 || bits e 255 160 != 0xFFFF || 97 ≤ n)

/-- A legal list with at least one entry used (R371). -/
def prefixListOk (l : List (BitVec 256)) : Bool := l.all prefixEntryOk && l.any fun e => bits e 127 120 != 0

/-- The key that a command brings (R371). -/
def givenKey (c : PresenceCmd) : Key := c.key.getD 0

/-- The data plane is Idle. -/
def idle (s : State) : Bool := s.tide.dp = .idle

/-- No long operation is outstanding on any mailbox (R379). -/
def noLongOperation (s : State) : Bool :=
  s.mbox.outstanding.all fun o => o.opcode.toNat ∉ [0x0106, 0x0302, 0x0303, 0x0306, 0x0405, 0x0485, 0x0406, 0x0501, 0x0605]

/-! ## Presence operations -/

/-- A presence-class opcode: its checks of R364 but the one button's, and what the press does (R373, R374). -/
structure PresenceOp where
  code : BitVec 16
  unclaimed : Bool := false
  recovery : Bool := true
  object : Request → ObjKey := fun _ => .module
  length : Bytes → Status
  check : PresenceCmd → State → Status
  commit : PresenceCmd → State → Answer

/-- The command as it waits: its presence code is byte 0 of the datagram's digest (R395). -/
def waitingCmd (code : BitVec 16) (key : Option Key) (r : Request) : PresenceCmd :=
  ⟨r, code, key, BitVec.ofNat 8 (bits (requestDigest code r) 511 504), false, none⟩

/-- The opcode of a presence-class command: PENDING_PRESENCE where every check passes and no other command waits (R374,
R379, R395). -/
def PresenceOp.op (p : PresenceOp) (key : Option Key) : Op where
  code := p.code
  unclaimed := p.unclaimed
  recovery := p.recovery
  object := p.object
  length := p.length
  check := fun r s => firstBad [p.check (waitingCmd p.code key r) s, need s.pres.cmd.isNone Status.busy]
  run := fun r s =>
    let c := waitingCmd p.code key r
    ⟨{ s with pres := ⟨some c, .presenceCycle, BitVec.ofNat 4 (bits c.code 7 4)⟩ }, Status.pendingPresence, p.object r,
      false, (0, 0), []⟩

/-- An answer of a press. -/
def pressed (s : State) (k : ObjKey) (effect : Nat × Nat) (body : Bytes) : Answer :=
  ⟨s, Status.ok, k, true, effect, body⟩

/-! ### Ownership (R373, R390) -/

/-- Length of OWNER_CLAIM and OWNER_TRANSFER, and their field checks (R371). -/
def ownerFields (c : PresenceCmd) : Status :=
  firstBad [need (prefixListOk (prefixList c.request.payload 512)) Status.badField, need c.key.isSome Status.keyUnwrap]

/-- Close every stream record without state frames: close_reason 4, or 3 for a stream of mailbox 0 (R373, R390). The
objects of parked streams stay where `keep` is set. -/
def closeSilently (keep : Bool) (t : Stream) (s : State) : State :=
  let reason : BitVec 5 := if t.mailbox = 0 then 3 else 4
  if keep then closeStream t reason true Status.cancelled s else closeParked t reason true s

/-- Free every cove object by tombstone, and with it its parked stream or prefix (R390). -/
def freeCove (s : State) : State :=
  let s := s.str.parked.foldl (fun s t => closeSilently false t s) s
  let s := (s.str.prefixes.filter (·.place = 1)).foldl (fun s p => destroyPrefix p.index s) s
  s.cove.objects.foldl (fun s o => freeObject o.id.toNat s) s

/-- A cove master key drawn from the generator (R380). -/
def drawMasterKey (s : State) : State :=
  let n := s.draws
  { s with cfg := { s.cfg with coveMasterKey := some (Config.drbg n ++ Config.drbg (n + 1) ++ Config.drbg (n + 2) ++ Config.drbg (n + 3)) }
           draws := n + 4 }

def ownerClaim : PresenceOp where
  code := 0x0103
  unclaimed := true
  length := exactly 768
  check := fun c s => firstBad [ownerFields c, need (!s.cfg.claimed && idle s && !s.pow.lidOpen) Status.badState]
  commit := fun c s =>
    let s := drawMasterKey (freeCove s)
    pressed { s with cfg := { s.cfg with claimed := true, ownerKey := givenKey c, ownerPrefixes := prefixList c.request.payload 512 } }
      .module (0, 0) []

def ownerTransfer : PresenceOp where
  code := 0x0104
  length := exactly 768
  check := fun c _ => ownerFields c
  commit := fun c s =>
    pressed { s with cfg := { s.cfg with ownerKey := givenKey c, ownerPrefixes := prefixList c.request.payload 512 } }
      .module (0, 0) []

/-- The effects of OWNER_RELEASE (R373), at its commit, of every latch class (R21, R362): every stream record closes; objects stay until the next claim, unreadable. -/
def releaseOwner (s : State) : State :=
  let s := (s.str.live.map (·.2) ++ s.str.parked).foldl (fun s t => closeSilently true t s) s
  let dead (o : CoveObject) : CoveObject := { o with keyAlive := false }
  let s := s.cfg.tenants.foldl (fun s t => countMailbox t.mailbox.toNat (fun _ => {}) s) s
  { s with
    str := { s.str with prefixes := [] }
    cove := { s.cove with objects := s.cove.objects.map dead }
    mbox := { s.mbox with tenantChanges := [], cache := s.mbox.cache.filter (·.mailbox = 0), lateT := [] }
    cfg := { s.cfg with claimed := false, ownerKey := 0, ownerPrefixes := [], tenants := [], imageKeys := [],
                        coveMasterKey := none, quarantine := [], words := Words.shipped }
    live := Words.shipped }

def ownerRelease : PresenceOp where
  code := 0x0105
  length := exactly 0
  check := fun _ s => firstBad [need (idle s) Status.badState, need (noLongOperation s) Status.busy]
  commit := fun _ s => pressed (releaseOwner s) .module (0, 0) []

/-! ### Tenants (R392) -/

/-- Clear a mailbox's record and response cache (R361, section Tenants). -/
def clearMailbox (mb : BitVec 16) (s : State) : State :=
  let s := countMailbox mb.toNat (fun _ => {}) s
  { s with mbox := { s.mbox with cache := s.mbox.cache.filter (·.mailbox ≠ mb) } }

def tenantEnrol : PresenceOp where
  code := 0x0201
  object := fun r => .tenant (field r.payload 0 2)
  length := exactly 772
  check := fun c s =>
    let p := c.request.payload
    firstBad [need (1 ≤ field p 0 2 && field p 0 2 ≤ 256 && field p 2 2 = 0 && prefixListOk (prefixList p 516)) Status.badField,
      need c.key.isSome Status.keyUnwrap, need (!enrolled (field p 0 2) s) Status.badState]
  commit := fun c s =>
    let p := c.request.payload
    let t : Tenant := ⟨BitVec.ofNat 16 (field p 0 2), givenKey c, prefixList p 516⟩
    let s := clearMailbox t.mailbox s
    pressed { s with cfg := { s.cfg with tenants := s.cfg.tenants ++ [t] } } (.tenant (field p 0 2)) (0, 0) []

/-- The effects of TENANT_REMOVE (section Tenants): live streams close at the next step boundary, parked objects are
destroyed, prefixes withdrawn, the record and cache cleared, and long operations end without a notice. The state frames of
the parked streams go out under the tenant's key (R357); at the step boundary no key remains to tag one (R342, log 22). -/
def removeTenant (mb : BitVec 16) (s : State) : State :=
  let shut (p : Nat × Stream) : Nat × Stream :=
    if p.2.mailbox = mb ∧ p.2.event.close = none then
      (p.1, { p.2 with event := { p.2.event with close := some 4, own := false } })
    else p
  let s := { s with str := { s.str with live := s.str.live.map shut } }
  let s := (s.str.parked.filter (·.mailbox = mb)).foldl (fun s t => closeParked t 4 false s) s
  let s := (s.str.prefixes.filter (·.publisher = mb)).foldl (fun s p => withdrawPrefix p.index s) s
  let s := clearMailbox mb s
  { s with cfg := { s.cfg with tenants := s.cfg.tenants.filter (·.mailbox ≠ mb) }
           mbox := { s.mbox with outstanding := s.mbox.outstanding.filter (·.mailbox ≠ mb) } }

def tenantRemove : PresenceOp where
  code := 0x0202
  object := fun r => .tenant (field r.payload 0 2)
  length := exactly 4
  check := fun c s =>
    let mb := field c.request.payload 0 2
    firstBad [need (1 ≤ mb && mb ≤ 256 && field c.request.payload 2 2 = 0) Status.badField, need (enrolled mb s) Status.noEntry]
  commit := fun c s =>
    let mb := field c.request.payload 0 2
    pressed (removeTenant (BitVec.ofNat 16 mb) s) (.tenant mb) (3, nextStep s) []

/-! ### Cove, image keys, policies -/

/-- extents_free of every stack (R375), 32 bits each. -/
def extentsFreeBody (s : State) : Bytes :=
  (List.range 8).flatMap fun j => bytesBE 4 (nth s.cove.records j CoveRecord.reset).extentsFree.toNat

/-- COVE_ERASE (R375): every object is destroyed, parked streams close with close_reason 3, a new master key is drawn. -/
def eraseCove (s : State) : State :=
  let s := s.str.parked.foldl (fun s t => closeParked t 3 false s) s
  let s := (s.str.prefixes.filter (·.place = 1)).foldl (fun s p => destroyPrefix p.index s) s
  drawMasterKey (s.cove.objects.foldl (fun s o => freeObject o.id.toNat s) s)

def coveErase : PresenceOp where
  code := 0x030B
  length := exactly 0
  check := fun _ s => firstBad [need (idle s) Status.badState, need (noLongOperation s) Status.busy]
  commit := fun _ s =>
    let t := eraseCove s
    pressed t .module (0, 0) (extentsFreeBody t)

/-- Key identifier of a payload. -/
def keyIdOf (p : Bytes) : BitVec 128 := BitVec.ofNat 128 (field p 0 16)

/-- The field rules of R393. -/
def imageKeyOk (p : Bytes) : Bool :=
  keyIdOf p != 0 && 0x80 ≤ field p 20 1 && field p 531 1 % 2 = 1 && field p 16 4 % 2 = 1 && 3 ≤ field p 16 4

def imageKeyEnrol : PresenceOp where
  code := 0x030C
  length := exactly 532
  check := fun c s =>
    let p := c.request.payload
    firstBad [need (imageKeyOk p) Status.badField, need (s.cfg.imageKeys.all (·.keyId ≠ keyIdOf p)) Status.badState,
      need (decide (s.cfg.imageKeys.length < 8)) Status.keyLimit]
  commit := fun c s =>
    let p := c.request.payload
    let k : ImageKey := ⟨keyIdOf p, BitVec.ofNat 32 (field p 16 4), BitVec.ofNat 4096 (field p 20 512)⟩
    pressed { s with cfg := { s.cfg with imageKeys := s.cfg.imageKeys ++ [k] } } .module (0, 0) []

def imageKeyRemove : PresenceOp where
  code := 0x030D
  length := exactly 16
  check := fun c s => need (s.cfg.imageKeys.any (·.keyId = keyIdOf c.request.payload)) Status.noEntry
  commit := fun c s =>
    pressed { s with cfg := { s.cfg with imageKeys := s.cfg.imageKeys.filter (·.keyId ≠ keyIdOf c.request.payload) } }
      .module (0, 0) []

/-- The owning block of a Q field that is at work: the loader for word 1, the staging engine for word 2 (R20, R314, R379). -/
def ownerBusy (p : Bytes) (s : State) : Bool :=
  match field p 0 2 with
  | 1 => s.img.load.isSome || remapRuns s
  | 2 => (field p 4 4).testBit 2 && s.img.staging.isSome
  | _ => false

def policySet : PresenceOp where
  code := 0x0601
  object := fun r => .word (field r.payload 0 2)
  length := wordLength [1, 2, 3, 4, 5]
  check := fun c s => firstBad [wordCheck c.request.payload s, need (!ownerBusy c.request.payload s) Status.busy]
  commit := fun c s => wordAnswer c.request.payload s

/-! ### Firmware (R385, R386) -/

/-- n bytes of a copy from its start: the chunks over what stood there (R385). -/
def firmwareBytes (b : Bool) (c : FirmwareCopy) (n : Nat) : Bytes :=
  let old := (List.range n).map fun k => match c.head[k]? with
    | some x => x
    | none => Config.flashByte b k
  (c.chunks.foldl (fun (m : Bytes) k => m.take k.1 ++ k.2 ++ m.drop (k.1 + k.2.length)) old).take n

/-- A little-endian field of a copy's header (R385). -/
def firmwareField (b : Bool) (c : FirmwareCopy) (lo len : Nat) : Nat := natLE (((firmwareBytes b c (lo + len)).drop lo).take len)

def firmwareVersion (b : Bool) (c : FirmwareCopy) : Nat := firmwareField b c 4 6
def firmwareSecurity (b : Bool) (c : FirmwareCopy) : Nat := firmwareField b c 10 4
def firmwareFloor (b : Bool) (c : FirmwareCopy) : Nat := firmwareField b c 14 4

/-- A copy verifies (R385): magic and role, the digest of its key, its signature, its body digest and its length. A copy
that nothing was written over verifies where it is the one of manufacture (log 30). -/
def firmwareValid (b : Bool) (c : FirmwareCopy) (s : State) : Bool :=
  if c.chunks = [] then c.head = FirmwareCopy.shipped.head
  else
    let h := firmwareBytes b c 2048
    let body := firmwareField b c 18 4
    let modulus := (h.drop 88).take 512
    firmwareField b c 0 4 = 0x57464C57 && firmwareField b c 23 1 = 0 && decide (body ≤ 33552384)
      && firmwareField b c 22 1 < 4 && s.ident.bootKeys[firmwareField b c 22 1]? = some (digestOf modulus)
      && pssVerify (natLE modulus) 65537 (h.take 600) ((h.drop 600).take 512)
      && sha512 ((firmwareBytes b c (2048 + body)).drop 2048) = (h.drop 24).take 64

/-- SHA-512 of header and body (R387); a copy that nothing was written over is the one of manufacture. -/
def firmwareDigest (b : Bool) (c : FirmwareCopy) : Digest :=
  if c.chunks = [] then Config.firmwareMeasurement false
  else digestOf (firmwareBytes b c (2048 + firmwareField b c 18 4))

/-- The inactive copy, with the flag of copy B. -/
def stagedCopy (s : State) : Bool × FirmwareCopy :=
  if s.cfg.activeCopyB then (false, s.flash.firmwareA) else (true, s.flash.firmwareB)

def opFirmwareChunk : Op where
  code := 0x0902
  recovery := true
  length := fun p => need (8 ≤ p.length && p.length = 8 + field p 4 2) Status.badLength
  check := fun r s =>
    let p := r.payload
    firstBad [need (field p 0 4 % 8192 = 0 && field p 0 4 < 33554432 && 1 ≤ field p 4 2 && field p 4 2 ≤ 8192 && field p 6 2 = 0) Status.badField,
      need (!(match s.pres.cmd with | some c => c.opcode = 0x0903 | none => false)) Status.busy,
      need (configWriteAllowed s) Status.holdupDeferred]
  run := fun r s =>
    let off := field r.payload 0 4
    let f (c : FirmwareCopy) : FirmwareCopy :=
      { c with chunks := c.chunks ++ [(off, r.payload.drop 8)], written := max c.written (off + field r.payload 4 2) }
    let t := if s.cfg.activeCopyB then { s with flash := { s.flash with firmwareA := f s.flash.firmwareA } }
      else { s with flash := { s.flash with firmwareB := f s.flash.firmwareB } }
    ⟨t, Status.ok, .module, true, (0, 0), bytesBE 4 (stagedCopy t).2.written⟩

/-- FIRMWARE_CHUNK: a chunk of the inactive copy, under the hold-up check of a config block write. -/
def execFirmwareChunk (r : Request) (s : State) : Out := .next (serve opFirmwareChunk r s)

/-- The staged copy's digest, signature and rollback checks (R385, R386). -/
def activateStatus (c : PresenceCmd) (s : State) : Status :=
  let p := c.request.payload
  let k := stagedCopy s
  firstBad [need (field p 0 4 ≤ 33554432 && field p 4 4 = 0) Status.badField,
    need (firmwareValid k.1 k.2 s && digestOf (firmwareBytes k.1 k.2 (field p 0 4)) = BitVec.ofNat 512 (field p 8 64)) Status.signatureInvalid,
    need (decide (s.cfg.rollbackCounter.toNat ≤ firmwareSecurity k.1 k.2)) Status.rollback]

def firmwareActivate : PresenceOp where
  code := 0x0903
  length := exactly 72
  check := activateStatus
  commit := fun _ s =>
    let k := stagedCopy s
    let counter := max s.cfg.rollbackCounter.toNat (firmwareFloor k.1 k.2)
    pressed { s with cfg := { s.cfg with activeCopyB := k.1, rollbackCounter := BitVec.ofNat 32 counter } } .module (0, 0)
      (pack [(48, firmwareVersion k.1 k.2), (32, counter)])

/-! ## The commands arrive -/

/-- OWNER_CLAIM arrives (R389, R390). -/
def execOwnerClaim (r : Request) (key : Option Key) (s : State) : Out := .next (serve (ownerClaim.op key) r s)
/-- OWNER_TRANSFER arrives (R390). -/
def execOwnerTransfer (r : Request) (key : Option Key) (s : State) : Out := .next (serve (ownerTransfer.op key) r s)
/-- OWNER_RELEASE arrives (R390, R379). -/
def execOwnerRelease (r : Request) (s : State) : Out := .next (serve (ownerRelease.op none) r s)
/-- TENANT_ENROL arrives (R392). -/
def execTenantEnrol (r : Request) (key : Option Key) (s : State) : Out := .next (serve (tenantEnrol.op key) r s)
/-- TENANT_REMOVE arrives (R392). -/
def execTenantRemove (r : Request) (s : State) : Out := .next (serve (tenantRemove.op none) r s)
/-- COVE_ERASE arrives (R375, R379). -/
def execCoveErase (r : Request) (s : State) : Out := .next (serve (coveErase.op none) r s)
/-- IMAGE_KEY_ENROL arrives (R393, R375). -/
def execImageKeyEnrol (r : Request) (s : State) : Out := .next (serve (imageKeyEnrol.op none) r s)
/-- IMAGE_KEY_REMOVE arrives (R393). -/
def execImageKeyRemove (r : Request) (s : State) : Out := .next (serve (imageKeyRemove.op none) r s)
/-- POLICY_SET arrives (R366, R368). -/
def execPolicySet (r : Request) (s : State) : Out := .next (serve (policySet.op none) r s)
/-- FIRMWARE_ACTIVATE arrives (R386). -/
def execFirmwareActivate (r : Request) (s : State) : Out :=
  .next (serve (firmwareActivate.op none) r s)

/-! ## The press (R374, R384, R394) -/

/-- The presence-class opcode of a waiting command. -/
def presenceOps : List PresenceOp :=
  [ownerClaim, ownerTransfer, ownerRelease, tenantEnrol, tenantRemove, coveErase, imageKeyEnrol, imageKeyRemove, policySet,
    firmwareActivate]

def presenceOp (code : BitVec 16) : Option PresenceOp := presenceOps.find? (·.code = code)

/-- The outstanding message of a waiting command. -/
def presenceMessage (c : PresenceCmd) (s : State) : Option Outstanding :=
  s.mbox.outstanding.find? fun o => o.mailbox = c.request.mailbox && o.sequence = c.request.sequence && o.opcode = c.opcode

/-- End a waiting command: its completion under key k, and the LEDs at its end (R374, R395). -/
def endPresence (c : PresenceCmd) (k : Option Key) (a : Answer) (s : State) : State :=
  let s := match presenceMessage c s with
    | some o => finish k o true a.changed a.status a.key a.effect a.body s
    | none => s
  if a.status = Status.ok then { s with pres := ⟨none, baseLed s, 0xF⟩ } else { s with pres := ⟨none, .redThrice, 0⟩ }

/-- The PENDING copy is replaced by the configuration as committed (R384). Where the hold-up check defers the write, it
follows as a durability write. -/
def dropPending (s : State) : State :=
  match selectedCopy s with
  | some c => if c.pending then (if configWriteAllowed s then makeDurable s else { s with flash := { s.flash with dirty := true } }) else s
  | none => s

/-- A waiting command ends without its effect (R374, R384, R394). -/
def abandonPresence (status : Status) (s : State) : State :=
  match s.pres.cmd with
  | none => s
  | some c =>
    let key := match presenceOp c.opcode with | some p => p.object c.request | none => .module
    dropPending (endPresence c (keyOf c.request.mailbox.toNat s) ⟨s, status, key, false, (0, 0), []⟩ s)

/-- The checks of R364, made again at the press with the command itself out of the way (R374). -/
def pressChecks (p : PresenceOp) (c : PresenceCmd) (s : State) : Status :=
  checks (p.op c.key) c.request s

/-- The key that tags the completion notice: the new owner key after a claim, otherwise the key of the request (R373). -/
def completionKey (c : PresenceCmd) (before after : State) : Option Key :=
  if c.opcode = 0x0103 then keyOf 0 after else keyOf c.request.mailbox.toNat before

/-- Step 3 of R374, once step 2 has completed and a press stands: the checks again, the effect, the header page
COMMITTED; the completion notice carries the status. -/
def commitPress (s : State) : State :=
  match s.pres.cmd with
  | none => s
  | some c =>
    match presenceOp c.opcode, c.press with
    | some p, some t =>
      if c.written ∧ configWriteAllowed s then
        let s0 := { s with pres := { s.pres with cmd := none } }
        let st := pressChecks p c s0
        if st = Status.ok then
          let a := p.commit c s0
          let s1 := commitCopy t a.state.cfg a.state
          let s2 := endPresence c (completionKey c s0 s1) a s1
          if c.opcode = 0x0104 then
            { s2 with mbox := { s2.mbox with cache := s2.mbox.cache.filter (·.mailbox ≠ 0) } }
          else s2
        else dropPending (endPresence c (keyOf c.request.mailbox.toNat s0) ⟨s0, st, p.object c.request, false, (0, 0), []⟩ s0)
      else s
    | _, _ => s

/-- PRESENCE_PENDING_WRITE_DONE (R374 step 2, R384): the PENDING copy stands in the inactive slot. With standing presence
the command completes as if pressed now (R396). Where the hold-up check defers the write, nothing happens. -/
def execPresencePendingWriteDone (s : State) : Out :=
  .next (match s.pres.cmd with
    | none => s
    | some c =>
      match presenceOp c.opcode with
      | none => s
      | some p =>
        if s.awake ∧ c.written = false ∧ configWriteAllowed s then
          let press := if s.ident.standingPresence then some s.now else c.press
          let s := writeConfig true 0 (p.commit c s).state.cfg (some s.cfg) s
          commitPress { s with pres := { s.pres with cmd := some { c with written := true, press := press } } }
        else s)

/-- PRESENCE_PRESS (R394): a closure of 100 ms to 5 s, released within 30 s of the command's arrival; anything else is
ignored, and so is a press during hold-up (R442). -/
def execPresencePress (closureMs : Nat) (stamp : Stamp) (s : State) : Out :=
  .next (match s.pres.cmd with
    | none => s
    | some c =>
      if s.awake ∧ 100 ≤ closureMs ∧ closureMs < 5000 ∧ c.press = none
          ∧ nanos stamp.time ≤ nanos c.request.stamp.time + 30 * 10 ^ 9 then
        commitPress { s with pres := { s.pres with cmd := some { c with press := some stamp.time } } }
      else s)

/-- PRESENCE_REFUSAL (R394): a closure that reaches 5 s ends the command and changes nothing. -/
def execPresenceRefusal (s : State) : Out :=
  .next (if s.awake then abandonPresence Status.presenceTimeout s else s)

/-- PRESENCE_WINDOW_EXPIRY (R374, R384): without a press PRESENCE_TIMEOUT; HOLDUP_DEFERRED where step 2 has not
completed or the header page of a press could not be written. -/
def execPresenceWindowExpiry (s : State) : Out :=
  .next (match s.pres.cmd with
    | none => s
    | some c =>
      if s.awake then
        abandonPresence (if c.written ∧ c.press = none then Status.presenceTimeout else Status.holdupDeferred) s
      else s)

/-! ## MODULE_SHUTDOWN (R373, R438) -/

/-- The staging ends with BAD_STATE, and its uncommitted object is freed (R438). -/
def endStaging (status : Status) (s : State) : State :=
  match s.img.staging with
  | none => s
  | some g =>
    let s := (s.cove.objects.filter fun o => !o.committed && o.kind = 1 && o.digest = g.digest).foldl
      (fun s o => freeObject o.id.toNat s) s
    let s := { s with img := { s.img with staging := none } }
    orphanLoad (complete [0x0303] 0 false status .image (0, 0) (bytesBE 64 g.digest.toNat) s)

def opModuleShutdown : Op where
  code := 0x0106
  recovery := true
  length := exactly 0
  check := fun _ s => need (s.tide.dp ≠ .loading) Status.badState
  run := fun _ s =>
    ⟨{ s with mbox := { s.mbox with shutdown := .accepted }
              tide := { s.tide with stopPending := s.tide.stopPending || s.tide.dp = .running } },
      Status.accepted, .module, true, (3, nextStep s), []⟩

/-- MODULE_SHUTDOWN: accepted, then steps 1 and 2 of R438, and step 3 onwards as far as the data plane rests already. -/
def execModuleShutdown (r : Request) (s : State) : Out :=
  let t := serve opModuleShutdown r s
  .next (if s.mbox.shutdown = .no ∧ t.mbox.shutdown = .accepted then
      advanceService (endStaging Status.badState (abandonPresence Status.presenceTimeout t))
    else t)

end Sys2Proof.Machine
end

