-- ==== Sys2Proof/Machine/Streams.lean ====
section
/-! DEFINITION. The stream and prefix opcodes with their owner forms (R252 to R258, R275 to R278, R352, R376, R377),
STREAM_QUERY, STREAM_LIST, SLOT_QUERY and PREFIX_QUERY. -/

namespace Sys2Proof.Machine

/-! ## Forms -/

/-- Mailbox whose streams a request acts on, and the tenant form's payload (R376). -/
def target (owner : Bool) (r : Request) : Nat × Bytes :=
  if owner then (field r.payload 0 2, r.payload.drop 8) else (r.mailbox.toNat, r.payload)

/-- The first 8 B of an owner form (R376). -/
def formOk (owner : Bool) (r : Request) : Bool :=
  !owner || (decide (field r.payload 0 2 ≤ 256) && field r.payload 2 6 = 0)

/-- Code and authority of a form (R376). -/
def formCode (owner : Bool) (c : Nat) : BitVec 16 := BitVec.ofNat 16 (if owner then c + 0x80 else c)

/-- A payload of n bytes after an owner form's 8. -/
def formLength (owner : Bool) (n : Nat) : Bytes → Status := exactly (if owner then n + 8 else n)

/-- The stream a request names. -/
def named (owner : Bool) (r : Request) : ObjKey := .stream (target owner r).1 (field (target owner r).2 0 8)

/-- The stream a request names, if its mailbox holds it. -/
def namedStream (owner : Bool) (r : Request) (s : State) : Option Stream :=
  findStream (target owner r).1 (field (target owner r).2 0 8) s

/-- Check the named stream: NO_STREAM, then a status of its own (R364). -/
def withStream (owner : Bool) (r : Request) (s : State) (f : Stream → Status) : Status :=
  match namedStream owner r s with
  | none => Status.noStream
  | some t => f t

/-- A close has been committed, or the stream is closed (R352). -/
def closing (t : Stream) : Bool := t.state = .closed || t.event.close.isSome

/-- Answer a stream command with the status record as it stands after it. -/
def streamAnswer (mb id : Nat) (effect : Nat × Nat) (status : Status) (s : State) : Answer :=
  ⟨s, status, .stream mb id, true, effect, match findStream mb id s with | some t => streamStatus t | none => []⟩

/-! ## Settings (R376, R292) -/

/-- The settings block at an offset of a payload. -/
def settingsAt (p : Bytes) (off : Nat) : Nat := field p off 48

/-- Settings from a block. -/
def settingsOf (v : Nat) : Settings where
  latencyClass := BitVec.ofNat 2 (nbits v 383 382)
  noShare := nbits v 381 381 = 1
  parkTtl := BitVec.ofNat 32 (nbits v 351 320)
  seed := BitVec.ofNat 64 (nbits v 255 192)
  temperature := BitVec.ofNat 32 (nbits v 191 160)
  topP := BitVec.ofNat 32 (nbits v 159 128)
  repPenalty := BitVec.ofNat 32 (nbits v 127 96)
  repWindow := BitVec.ofNat 16 (nbits v 95 80)
  topK := BitVec.ofNat 11 (nbits v 79 69)
  draftDepthMax := BitVec.ofNat 4 (nbits v 68 65)

/-- Reserved and HS bits of a settings block are zero (R376). -/
def settingsReserved (v : Nat) : Bool := nbits v 380 352 = 0 && nbits v 319 256 = 0 && nbits v 64 0 = 0

/-- Range of set-field n (R255, R292, R377); FP32 ranges over positive codes are ranges of the codes. -/
def settingOk (n : Nat) (x : Settings) (s : State) : Bool :=
  match n with
  | 2 => 1 ≤ x.parkTtl.toNat && decide (x.parkTtl.toNat ≤ bits s.live.w3 63 32)
  | 4 => x.temperature = 0 || (0x3A800000 ≤ x.temperature.toNat && x.temperature.toNat ≤ 0x44800000)
  | 5 => 1 ≤ x.topP.toNat && x.topP.toNat ≤ 0x3F800000
  | 6 => 0x3F800000 ≤ x.repPenalty.toNat && x.repPenalty.toNat ≤ 0x41800000
  | 8 => 1 ≤ x.topK.toNat && (match s.img.image with | some i => decide (x.topK.toNat ≤ i.topKMax) | none => decide (x.topK.toNat ≤ 1024))
  | 9 => match s.img.image with | some i => decide (x.draftDepthMax.toNat ≤ i.depthMax) | none => decide (x.draftDepthMax.toNat ≤ 8)
  | _ => true

/-- The fields of a settings block that a mask selects taken from x (R366). -/
def mergeSettings (mask : Nat) (old x : Settings) : Settings where
  latencyClass := if mask.testBit 0 then x.latencyClass else old.latencyClass
  noShare := if mask.testBit 1 then x.noShare else old.noShare
  parkTtl := if mask.testBit 2 then x.parkTtl else old.parkTtl
  seed := if mask.testBit 3 then x.seed else old.seed
  temperature := if mask.testBit 4 then x.temperature else old.temperature
  topP := if mask.testBit 5 then x.topP else old.topP
  repPenalty := if mask.testBit 6 then x.repPenalty else old.repPenalty
  repWindow := if mask.testBit 7 then x.repWindow else old.repWindow
  topK := if mask.testBit 8 then x.topK else old.topK
  draftDepthMax := if mask.testBit 9 then x.draftDepthMax else old.draftDepthMax

/-! ## STREAM_OPEN -/

/-- An image is Running or Stopped (R254). -/
def imageServes (s : State) : Bool := s.img.image.isSome && (s.tide.dp = .running || s.tide.dp = .stopped)

/-- Draws until a stream_id is new to the mailbox (R254); n bounds the search, after which the least unused number stands
in (log 19). -/
def drawStreamId (used : List (BitVec 64)) : Nat → Nat → BitVec 64 × Nat
  | 0, k => (((List.range (used.length + 1)).map (BitVec.ofNat 64)).find? (fun x => !used.contains x) |>.getD 0, k)
  | n + 1, k => if used.contains (Config.drbg k) then drawStreamId used n (k + 1) else (Config.drbg k, k + 1)

/-- Depth with which drafting starts (R289, STREAM_OPEN). -/
def openDepth (x : Settings) : BitVec 4 := x.draftDepthMax

/-- Check of STREAM_OPEN: settings, then NO_IMAGE, NO_RECORD, STREAM_LIMIT (R251, R254). -/
def openCheck (r : Request) (s : State) : Status :=
  let v := settingsAt r.payload 0
  firstBad [need (settingsReserved v && (List.range 10).all fun n => settingOk n (settingsOf v) s) Status.badField,
    need (imageServes s) Status.noImage, recordStatus r.mailbox.toNat s]

/-- A new stream in READY (R252, R254, R255). -/
def newStream (id : BitVec 64) (r : Request) (x : Settings) (s : State) : Stream where
  id := id
  mailbox := r.mailbox
  digest := s.img.digest
  state := .ready
  resumeTo := none
  live := x
  shadow := x
  pauseReason := 0
  closeReason := 0
  committed := []
  tail := none
  pending := []
  sharedTokens := 0
  maxNew := 0
  generated := 0
  draftDepth := openDepth x
  probe := 0
  depthWritten := false
  verifySteps := 0
  draftAccepted := 0
  out := r.src
  kept := []
  chain := none
  chainHead := none
  tree := []
  rows := 0
  slotCount := 0
  stepOut := none
  event := {}
  suspectMark := false
  admission := 0
  pages := []
  taken := []
  chosen := []
  copies := []
  prefixIndex := none
  waitPrefix := false
  lastChange := Change.zero
  nakAt := 0
  parkObject := none

def opStreamOpen : Op where
  code := 0x0401
  tenant := true
  length := exactly 48
  check := openCheck
  object := fun _ => .stream 0 0
  run := fun r s =>
    let used := ((s.str.live.map (·.2)) ++ s.str.parked).filter (·.mailbox = r.mailbox) |>.map (·.id)
    let d := drawStreamId used (used.length + 1) s.draws
    let t := newStream d.1 r (settingsOf (settingsAt r.payload 0)) s
    match freeRecord s with
    | none => ⟨s, Status.noRecord, .stream 0 0, false, (0, 0), []⟩
    | some n => streamAnswer r.mailbox.toNat d.1.toNat (0, 0) Status.ok
        { s with draws := d.2, str := { s.str with live := s.str.live ++ [(n, t)] } }

/-- STREAM_OPEN (R254). -/
def execStreamOpen (r : Request) (s : State) : Out := .next (serve opStreamOpen r s)

/-! ## STREAM_GENERATE -/

/-- Check of STREAM_GENERATE (R252, R258, R352). -/
def generateCheck (r : Request) (s : State) : Status :=
  firstBad [need (decide (field r.payload 12 4 ≤ 2097151)) Status.badField,
    withStream false r s fun t =>
      firstBad [need (t.state = .ready && !closing t) Status.badState,
        need (field r.payload 8 4 = historyLength t && decide (t.committed.length < historyLength t)) Status.tokensMissing]]

/-- A stream enters PREFILL (R252, R258, R267); without committed tokens it looks for a shared prefix (R277). -/
def enterPrefill (t : Stream) (s : State) : Stream × Option Nat :=
  if t.committed = [] ∧ t.tail = none ∧ sharing t then
    match findPrefix t s with
    | none => (t, none)
    | some p => if p.place = 0 then (mapPrefix p t, some p.index)
      else ({ t with prefixIndex := some p.index, waitPrefix := true }, some p.index)
  else (t, none)

def opStreamGenerate : Op where
  code := 0x0402
  tenant := true
  length := exactly 16
  check := generateCheck
  object := named false
  run := fun r s =>
    match namedStream false r s with
    | none => ⟨s, Status.noStream, named false r, false, (0, 0), []⟩
    | some t =>
      let t' := { t with state := .prefill, maxNew := field r.payload 12 4, generated := 0, out := r.src,
                         admission := s.cfg.powerUpCount ++ (s.mbox.changes + 1), pauseReason := 0 }
      let e := enterPrefill t' s
      let s := match e.2 with
        | some p => { setPrefix p (fun x => { x with lastUse := s.str.useCount + 1 }) s with
                        str := { (setPrefix p (fun x => { x with lastUse := s.str.useCount + 1 }) s).str with useCount := s.str.useCount + 1 } }
        | none => s
      streamAnswer r.mailbox.toNat t.id.toNat (0, 0) Status.ok (setStreamById t.id.toNat (fun x =>
        if x.mailbox = t.mailbox then e.1 else x) s)

/-- STREAM_GENERATE (R258). -/
def execStreamGenerate (r : Request) (s : State) : Out := .next (serve opStreamGenerate r s)

/-! ## STREAM_STOP, STREAM_CLOSE and their owner forms -/

/-- s with the named stream's events changed. -/
def setEvent (mb id : Nat) (f : StreamEvent → StreamEvent) (s : State) : State :=
  setStreamById id (fun t => if t.mailbox.toNat = mb then { t with event := f t.event } else t) s

def stopOp (owner : Bool) : Op where
  code := formCode owner 0x0403
  tenant := !owner
  length := formLength owner 8
  object := named owner
  check := fun r s => firstBad [need (formOk owner r) Status.badField,
    withStream owner r s fun t => need ((t.state = .decode || t.state = .paused) && !closing t) Status.badState]
  run := fun r s =>
    let mb := (target owner r).1
    let id := field (target owner r).2 0 8
    streamAnswer mb id (3, nextStep s) Status.ok (setEvent mb id (fun e => { e with stop := true }) s)

/-- STREAM_STOP (R252): READY at the next step boundary. -/
def execStreamStop (r : Request) (s : State) : Out := .next (serve (stopOp false) r s)

/-- OWNER_STREAM_STOP (R376). -/
def execOwnerStreamStop (r : Request) (s : State) : Out := .next (serve (stopOp true) r s)

def closeOp (owner : Bool) : Op where
  code := formCode owner 0x0404
  tenant := !owner
  length := formLength owner 8
  object := named owner
  check := fun r s => firstBad [need (formOk owner r) Status.badField,
    withStream owner r s fun t => need (!closing t) Status.badState]
  run := fun r s =>
    let mb := (target owner r).1
    let id := field (target owner r).2 0 8
    let reason : BitVec 5 := if owner then 3 else 1
    let own : Bool := r.mailbox.toNat = mb
    match namedStream owner r s with
    | none => ⟨s, Status.noStream, named owner r, false, (0, 0), []⟩
    | some t =>
      if t.state = .parked then streamAnswer mb id (0, 0) Status.ok (closeParked t reason own s)
      else streamAnswer mb id (3, nextStep s) Status.ok
        (setEvent mb id (fun e => { e with close := some reason, own := own }) s)

/-- STREAM_CLOSE (R252): CLOSED at the next step boundary; from PARKED once the tombstone has committed. -/
def execStreamClose (r : Request) (s : State) : Out := .next (serve (closeOp false) r s)

/-- OWNER_CLOSE (R376). -/
def execOwnerClose (r : Request) (s : State) : Out := .next (serve (closeOp true) r s)

/-! ## Parking and resuming -/

/-- Live states from which a stream may be parked (R252). -/
def parkable (t : Stream) : Bool :=
  t.state = .ready || t.state = .prefill || t.state = .decode || t.state = .paused

def parkOp (owner : Bool) : Op where
  code := formCode owner 0x0405
  tenant := !owner
  length := formLength owner 8
  object := named owner
  check := fun r s => firstBad [need (formOk owner r) Status.badField,
    withStream owner r s fun t => need (parkable t && !closing t) Status.badState]
  run := fun r s =>
    let mb := (target owner r).1
    let id := field (target owner r).2 0 8
    streamAnswer mb id (3, nextStep s) Status.accepted
      (setEvent mb id (fun e => { e with park := true, own := r.mailbox.toNat = mb }) s)

/-- STREAM_PARK (R252, R377): PARKING at the next step boundary; the completion follows the object record. -/
def execStreamPark (r : Request) (s : State) : Out := .next (serve (parkOp false) r s)

/-- OWNER_PARK (R376). -/
def execOwnerPark (r : Request) (s : State) : Out := .next (serve (parkOp true) r s)

/-- Status of a resumption of a parked stream (R251, R254, R363, R377). -/
def resumeStatus (t : Stream) (s : State) : Status :=
  firstBad [need (imageServes s && s.img.digest = t.digest) Status.imageMismatch,
    need (!(match t.parkObject with
      | some o => (match findObject o.toNat s with | some x => x.damaged | none => true)
      | none => true)) Status.damaged,
    recordStatus t.mailbox.toNat s]

/-- Check of STREAM_RESUME. -/
def resumeCheck (r : Request) (s : State) : Status :=
  withStream false r s fun t =>
    match t.state with
    | .parking => need (!closing t) Status.badState
    | .parked => resumeStatus t s
    | .closed => if t.closeReason = 2 then Status.expired else Status.badState
    | _ => Status.badState

def opStreamResume : Op where
  code := 0x0406
  tenant := true
  length := exactly 8
  object := named false
  check := resumeCheck
  run := fun r s =>
    let mb := r.mailbox.toNat
    let id := field r.payload 0 8
    match namedStream false r s with
    | none => ⟨s, Status.noStream, named false r, false, (0, 0), []⟩
    | some t =>
      let serial : BitVec 64 := s.cfg.powerUpCount ++ (s.mbox.changes + 1)
      let admission := if t.resumeTo = some .prefill ∨ t.resumeTo = some .decode then serial else t.admission
      if t.state = .parking then
        streamAnswer mb id (3, nextStep s) Status.accepted (setStreamById id (fun x =>
          if x.mailbox = t.mailbox then
            { x with out := r.src, admission := admission, event := { x.event with cancelPark := true, own := true } }
          else x) s)
      else match freeRecord s with
        | none => ⟨s, Status.noRecord, named false r, false, (0, 0), []⟩
        | some n =>
          let u := { t with state := .resuming, out := r.src, admission := admission }
          let s := match t.parkObject with
            | some o => setObject o.toNat (fun x => { x with readers := x.readers + 1 }) s
            | none => s
          streamAnswer mb id (3, nextStep s) Status.accepted
            { s with str := { s.str with live := s.str.live ++ [(n, u)]
                                         parked := s.str.parked.filter fun x => !(x.id = t.id && x.mailbox = t.mailbox) } }

/-- STREAM_RESUME (R252, R377). -/
def execStreamResume (r : Request) (s : State) : Out := .next (serve opStreamResume r s)

/-! ## STREAM_SET -/

/-- Check of STREAM_SET (R366, R377). -/
def setCheck (owner : Bool) (r : Request) (s : State) : Status :=
  let p := (target owner r).2
  let mask := field p 8 4
  let v := settingsAt p 16
  firstBad [need (formOk owner r && mask != 0 && decide (mask < 2 ^ 10) && field p 12 4 = 0 && settingsReserved v &&
      (List.range 10).all fun n => !mask.testBit n || settingOk n (settingsOf v) s) Status.badField,
    withStream owner r s fun t =>
      need (!closing t && (t.state != .parked || mask = 4)) Status.badState]

def setOp (owner : Bool) : Op where
  code := formCode owner 0x0407
  tenant := !owner
  length := formLength owner 64
  object := named owner
  check := setCheck owner
  run := fun r s =>
    let p := (target owner r).2
    let id := field p 0 8
    let x := settingsOf (settingsAt p 16)
    let mask := field p 8 4
    match namedStream owner r s with
    | none => ⟨s, Status.noStream, named owner r, false, (0, 0), []⟩
    | some t =>
      let y := mergeSettings mask t.shadow x
      if t.state = .parked then
        let s := setStreamById id (fun u => if u.mailbox = t.mailbox then { u with live := y, shadow := y } else u) s
        let s := match t.parkObject with
          | some o =>
            let s := journal s
            setObject o.toNat (fun c => { c with expiresAt := expiresAt y.parkTtl.toNat s, serial := s.cove.journalSerial, dated := seconds s.now }) s
          | none => s
        ⟨s, Status.ok, named owner r, true, (0, 0), settingsBlock y⟩
      else
        ⟨setStreamById id (fun u => if u.mailbox = t.mailbox then { u with shadow := y, depthWritten := u.depthWritten || mask.testBit 9 } else u) s, Status.ok,
          named owner r, true, (1, nextTide s), settingsBlock y⟩

/-- STREAM_SET (R377): T fields of a live stream; the TTL of a parked one at its commit. -/
def execStreamSet (r : Request) (s : State) : Out := .next (serve (setOp false) r s)

/-- OWNER_STREAM_SET (R376). -/
def execOwnerStreamSet (r : Request) (s : State) : Out := .next (serve (setOp true) r s)

/-! ## Queries -/

/-- Paged entries of STREAM_QUERY selectors 2 and 3: suspect records newest first, token history. -/
def streamEntries (sel : Nat) (t : Stream) (s : State) : List Bytes × Nat × Nat :=
  if sel = 2 then ((s.err.suspects.filter fun x => x.streamId = t.id && x.mailbox = t.mailbox).reverse.map suspectRecord, 32, 32)
  else ((history t).map fun x => bytesBE 4 x.toNat, 256, 4)

def queryOp (owner : Bool) : Op where
  code := formCode owner 0x0408
  tenant := !owner
  query := true
  changes := false
  length := formLength owner 12
  object := named owner
  check := fun r s =>
    let p := (target owner r).2
    let sel := field p 8 1
    firstBad [need (formOk owner r && sel ≤ 3 && field p 9 1 = 0) Status.badField,
      withStream owner r s fun t =>
        let e := streamEntries sel t s
        need (sel ≤ 1 || decide (field p 10 2 < pageCount e.1.length e.2.1)) Status.badField]
  run := fun r s =>
    let p := (target owner r).2
    let sel := field p 8 1
    match namedStream owner r s with
    | none => ⟨s, Status.noStream, named owner r, false, (0, 0), []⟩
    | some t =>
      let e := streamEntries sel t s
      answered s (named owner r) (match sel with
        | 0 => streamStatus t
        | 1 => samplerRecord t
        | _ => pageBody e.1 e.2.1 e.2.2 (field p 10 2))

/-- STREAM_QUERY (R376). -/
def execStreamQuery (r : Request) (s : State) : Out := .next (serve (queryOp false) r s)

/-- OWNER_STREAM_QUERY (R376). -/
def execOwnerStreamQuery (r : Request) (s : State) : Out := .next (serve (queryOp true) r s)

/-- Identifiers of a mailbox's live and parked streams, ascending. -/
def streamIds (mb : Nat) (s : State) : List Bytes :=
  (sortBy (fun a b => decide (a ≤ b)) (((s.str.live.map (·.2) ++ s.str.parked).filter (·.mailbox.toNat = mb)).map (·.id.toNat))).map
    (bytesBE 8)

def listOp (owner : Bool) : Op where
  code := formCode owner 0x0409
  tenant := !owner
  query := true
  changes := false
  length := formLength owner 4
  check := fun r s =>
    let p := (target owner r).2
    need (formOk owner r && field p 2 2 = 0 &&
      decide (field p 0 2 < pageCount (streamIds (target owner r).1 s).length 128)) Status.badField
  run := fun r s => answered s .module (pageBody (streamIds (target owner r).1 s) 128 8 (field (target owner r).2 0 2))

/-- STREAM_LIST (R376). -/
def execStreamList (r : Request) (s : State) : Out := .next (serve (listOp false) r s)

/-- OWNER_STREAM_LIST (R376). -/
def execOwnerStreamList (r : Request) (s : State) : Out := .next (serve (listOp true) r s)

/-- Entry of the slot table (R263). -/
def slotEntry (e : Option (Nat × Nat)) : Bytes :=
  match e with
  | some (rec_, pos) => pack [(1, 1), (12, rec_), (4, pos), (47, 0)]
  | none => pack [(64, 0)]

/-- The prefill queue as 64 entries (R263). -/
def queueEntries (s : State) : List Bytes :=
  (List.range 64).map fun k => match (prefillQueue s)[k]? with
    | some (rec_, rows) => pack [(1, 1), (12, rec_), (9, rows), (10, 0)]
    | none => pack [(32, 0)]

def opSlotQuery : Op where
  code := 0x0803
  query := true
  changes := false
  length := exactly 4
  check := fun r _ =>
    let sel := field r.payload 0 1
    need (sel ≤ 1 && field r.payload 1 1 = 0 && decide (field r.payload 2 2 < if sel = 0 then 4 else 1)) Status.badField
  run := fun r s =>
    if field r.payload 0 1 = 0 then
      answered s .module (pageBody (s.str.tables.slots.map slotEntry) 64 8 (field r.payload 2 2))
    else answered s .module (pageBody (queueEntries s) 64 4 0)

/-- SLOT_QUERY (R263). -/
def execSlotQuery (r : Request) (s : State) : Out := .next (serve opSlotQuery r s)

/-! ## Prefixes -/

/-- A slot for a new prefix: a free index, or that of the least recently used prefix without references, which is then
destroyed (R276); none: PREFIX_LIMIT. -/
def prefixRoom (s : State) : Option (Nat × State) :=
  if s.str.prefixes.length < 1024 then
    ((List.range 1024).find? fun n => s.str.prefixes.all fun p => p.index ≠ n).map fun n => (n, s)
  else
    match sortBy (fun (a b : Prefix) => decide (a.lastUse ≤ b.lastUse)) (s.str.prefixes.filter fun p => references p.index s = 0 && !p.copying) with
    | [] => none
    | p :: _ => some (p.index, destroyPrefix p.index s)

/-- Check of PREFIX_PUBLISH (14, section Prefixes; R276). -/
def publishCheck (r : Request) (s : State) : Status :=
  let n := field r.payload 8 4
  firstBad [need (n != 0 && n % 64 = 0 && field r.payload 12 4 = 0) Status.badField,
    withStream false r s fun t =>
      firstBad [need (decide (n ≤ t.committed.length)) Status.badField,
        need (prefixScope s != 0) Status.denied,
        need (sharing t && !closing t && t.state != .parked && t.state != .resuming) Status.badState,
        need ((s.str.prefixes.any fun p => p.publisher = t.mailbox && p.address = contentAddress t.digest t.committed (n / 64))
          || (prefixRoom s).isSome) Status.prefixLimit]]

/-- Completion payload of a publication: prefix_index, m and H_m. -/
def publishBody (p : Prefix) : Bytes := pack [(16, p.index), (16, 0), (32, p.blocks), (512, p.address.toNat)]

/-- Pages for the records of a published prefix (R276). -/
def publishPages (m : Nat) (s : State) : List KvPage :=
  match s.img.image with
  | some i => (takePages (blockPageKeys i m s) s).getD []
  | none => []

def opPrefixPublish : Op where
  code := 0x0501
  tenant := true
  length := exactly 16
  object := named false
  check := publishCheck
  run := fun r s =>
    match namedStream false r s with
    | none => ⟨s, Status.noStream, named false r, false, (0, 0), []⟩
    | some t =>
      let m := field r.payload 8 4 / 64
      let h := contentAddress t.digest t.committed m
      match s.str.prefixes.find? (fun p => p.publisher = t.mailbox && p.address = h) with
      | some p => ⟨s, Status.accepted, .prefix_ p.index, false, (0, 0), []⟩
      | none => match prefixRoom s with
        | none => ⟨s, Status.prefixLimit, named false r, false, (0, 0), []⟩
        | some (n, s) =>
          let p : Prefix := ⟨n, h, t.mailbox, m, t.committed.take (64 * m), 0, s.str.useCount + 1, true, publishPages m s,
            t.chosen.filter fun x => x.2.1 = m, [], Change.zero⟩
          ⟨extendMap { s with str := { s.str with prefixes := s.str.prefixes ++ [p], useCount := s.str.useCount + 1 } },
            Status.accepted, .prefix_ n, true, (0, 0), []⟩

/-- A publication that exists already completes at once: it copies nothing (R276). -/
def finishPublish (s : State) : State :=
  match s.mbox.outstanding.getLast? with
  | none => s
  | some o =>
    if o.opcode = 0x0501 then
      match s.str.prefixes.find? (fun p => p.index = o.subject.toNat) with
      | some p => if p.copying then s
        else finish (keyOf o.mailbox.toNat s) o true false Status.ok (.prefix_ p.index) (0, 0) (publishBody p) s
      | none => s
    else s

/-- PREFIX_PUBLISH (R276). -/
def execPrefixPublish (r : Request) (s : State) : Out :=
  let t := serve opPrefixPublish r s
  .next (if leftOpen s t then finishPublish t else t)

/-- The prefix that a request may drop: the publisher's own, or any for the owner (R278). -/
def droppable (r : Request) (s : State) : Option Prefix :=
  s.str.prefixes.find? fun p => p.index = field r.payload 0 2 && (r.mailbox = 0 || p.publisher = r.mailbox) && p.place != 2
    && !p.copying

def opPrefixDrop : Op where
  code := 0x0502
  tenant := true
  length := exactly 4
  object := fun r => .prefix_ (field r.payload 0 2)
  check := fun r s => firstBad [need (field r.payload 2 2 = 0) Status.badField, need (droppable r s).isSome Status.noPrefix]
  run := fun r s => ⟨withdrawPrefix (field r.payload 0 2) s, Status.ok, .prefix_ (field r.payload 0 2), true, (0, 0), []⟩

/-- PREFIX_DROP (R278). -/
def execPrefixDrop (r : Request) (s : State) : Out := .next (serve opPrefixDrop r s)

/-- Prefixes that a mailbox lists: the owner all, a tenant those visible to it (R277). -/
def listedPrefixes (mb : BitVec 16) (s : State) : List Bytes :=
  (s.str.prefixes.filter fun p => mb = 0 || p.publisher = mb || prefixVisible mb p s).map fun p =>
    pack [(16, p.index), (16, p.blocks), (16, p.publisher.toNat), (8, p.place.toNat), (8, 0), (32, references p.index s),
      (160, p.address.toNat >>> 352)]

def opPrefixQuery : Op where
  code := 0x0503
  tenant := true
  query := true
  changes := false
  length := exactly 4
  check := fun r s => need (field r.payload 2 2 = 0 &&
    decide (field r.payload 0 2 < pageCount (listedPrefixes r.mailbox s).length 32)) Status.badField
  run := fun r s => answered s .module (pageBody (listedPrefixes r.mailbox s) 32 32 (field r.payload 0 2))

/-- PREFIX_QUERY. -/
def execPrefixQuery (r : Request) (s : State) : Out := .next (serve opPrefixQuery r s)

end Sys2Proof.Machine
end

