-- ==== Sys2Proof/Machine/CoveEvents.lean ====
section
/-! DEFINITION. The cove's opcodes and events: COVE_STAGE and STAGE_COMMIT (R246, R247, R379), COVE_OBJECT_QUERY and
COVE_OBJECT_SET (R375), extents becoming durable and writes tried again (R240, R242), parks and resumptions ending (R252,
R268), prefixes (R276 to R278), expiry (R244, R245), chunk reads and damage (R304), scrub, journal compaction, mount
(R241), and config writes (R367). -/

namespace Sys2Proof.Machine

/-! ## COVE_STAGE -/

/-- Digest and TTL of COVE_STAGE. -/
def stageTtl (r : Request) : BitVec 32 := BitVec.ofNat 32 (field r.payload 0 4)
def stageDigest (r : Request) : Digest := BitVec.ofNat 512 (field r.payload 4 64)

def stageCheck (x : Option Image) (r : Request) (s : State) : Status :=
  firstBad [need (!pullRuns s) Status.busy,
    need (sourceEnabled s) Status.storageError,
    need ((imageObject (stageDigest r) s).isSome || (match pulled x with
      | some i => !writesThrough i s || roomFor (imageBytes i) s
      | none => true)) Status.coveFull]

def opCoveStage (x : Option Image) : Op where
  code := 0x0303
  object := fun _ => .image
  length := exactly 68
  check := stageCheck x
  run := fun _ s => ⟨s, Status.accepted, .image, true, (0, 0), []⟩

/-- COVE_STAGE ends with a rejection code: its completion carries a load report that names it; the module's own report
stays (R363). -/
def rejectStage (digest : Digest) (c : BitVec 16) (s : State) : State :=
  let rep := { s with img := { s.img with report := failedReport c digest [⟨c, 0, 0, 64⟩] s } }
  complete [0x0303] 0 false Status.loadRejected .image (0, 0) (loadReport rep) s

/-- After ACCEPTED: an object that exists completes at once; otherwise the object is created and written in the background
(R247). -/
def beginStage (x : Option Image) (r : Request) (s : State) : State :=
  let done (d : Digest) : State := complete [0x0303] 0 false Status.ok .image (0, 0) (bytesBE 64 d.toNat) s
  if (imageObject (stageDigest r) s).isSome then done (stageDigest r)
  else match pulled x with
    | none => complete [0x0303] 0 false Status.storageError .image (0, 0) (bytesBE 64 (stageDigest r).toNat) s
    | some i =>
      if stageDigest r ≠ 0 ∧ stageDigest r ≠ i.digestField then rejectStage i.digestField 0x0104 s
      else if writesThrough i s = false then done i.digestField
      else
        let s := { s with img := { s.img with staging := some ⟨i, i.digestField, stageTtl r, false⟩ } }
        match createObject (.image i) 0 (imageBytes i) i.digestField 0 s with
        | some o => startPull o.2
        | none => endStaging Status.coveFull s

/-- COVE_STAGE (R246, R247, R379). -/
def execCoveStage (r : Request) (x : Option Image) (s : State) : Out :=
  let t := serve (opCoveStage x) r s
  .next (if leftOpen s t then beginStage x r t else t)

/-- Objects of a digest other than a new one are freed: one object per digest (R237). -/
def replaceImageObjects (id : Nat) (d : Digest) (s : State) : State :=
  (s.cove.objects.filter fun o => o.kind = 1 && o.digest = d && o.id.toNat ≠ id && o.committed).foldl
    (fun s o => freeObject o.id.toNat s) s

/-- A load that waited for the staging of its digest goes on from the object (R379). -/
def resumeLoad (id : Nat) (s : State) : State :=
  match s.img.load with
  | none => s
  | some l =>
    if l.waiting then
      let s := setObject id (fun o => { o with readers := o.readers + 1 }) s
      loaderChecks (some l.digest) { s with img := { s.img with load := some { l with waiting := false } } }
    else s

/-- STAGE_COMMIT (R247): every extent is durable; the object commits under its TTL if every digest matches. -/
def execStageCommit (digestsMatch : Bool) (s : State) : Out :=
  .next (match s.img.staging with
    | none => s
    | some g =>
      match s.cove.objects.find? (fun o => !o.committed && o.kind = 1 && o.digest = g.digest) with
      | none => s
      | some o =>
        if s.awake ∧ g.paused = false ∧ allDurable o ∧ holdupAllows (inFlightNs s) s then
          let s := { s with img := { s.img with staging := none } }
          if digestsMatch ∧ g.image.computedDigest = g.digest then
            let s := replaceImageObjects o.id.toNat g.digest (commitObject o.id.toNat g.ttl.toNat s)
            resumeLoad o.id.toNat (complete [0x0303] 0 false Status.ok .image (0, 0) (bytesBE 64 g.digest.toNat) s)
          else
            let s := freeObject o.id.toNat s
            orphanLoad (rejectStage g.digest (if digestsMatch then 0x0104 else 0x0109) s)
        else s)

/-! ## Objects -/

/-- Summary of an object (14, section Images and the cove). -/
def objectSummary (o : CoveObject) : Bytes :=
  pack [(128, o.id.toNat), (8, o.kind), (16, o.holder.toNat), (8, 0), (32, o.extents), (64, o.bytes), (64, o.expiresAt.toNat),
    (192, o.digest.toNat >>> 320)]

/-- Committed objects of a kind, 0 for all. -/
def listedObjects (kind : Nat) (s : State) : List CoveObject :=
  s.cove.objects.filter fun o => o.committed && (kind = 0 || o.kind = kind)

def opCoveObjectQuery : Op where
  code := 0x0309
  query := true
  changes := false
  length := exactly 4
  check := fun r s => need (field r.payload 0 1 ≤ 3 && field r.payload 1 1 = 0 &&
    decide (field r.payload 2 2 < pageCount (listedObjects (field r.payload 0 1) s).length 16)) Status.badField
  run := fun r s => answered s .module (pageBody ((listedObjects (field r.payload 0 1) s).map objectSummary) 16 64 (field r.payload 2 2))

/-- COVE_OBJECT_QUERY. -/
def execCoveObjectQuery (r : Request) (s : State) : Out := .next (serve opCoveObjectQuery r s)

/-- Object that COVE_OBJECT_SET names. -/
def setObjectId (r : Request) : Nat := field r.payload 0 16

/-- The committed object that a request names. -/
def namedObject (r : Request) (s : State) : Option CoveObject := (findObject (setObjectId r) s).filter (·.committed)

/-- The object of the loaded image, or one that is being read (R245, R375). -/
def objectInUse (o : CoveObject) (s : State) : Bool := (s.img.image.isSome && o.digest = s.img.digest) || o.readers != 0

def opCoveObjectSet : Op where
  code := 0x030A
  object := fun r => .cove (setObjectId r)
  length := exactly 24
  check := fun r s =>
    firstBad [need (field r.payload 16 1 ≤ 1 && field r.payload 17 3 = 0) Status.badField,
      match namedObject r s with
      | none => Status.noEntry
      | some o => firstBad [need (o.kind = 1) Status.denied,
          need (field r.payload 16 1 = 0 || !objectInUse o s) Status.badState]]
  run := fun r s =>
    match namedObject r s with
    | none => ⟨s, Status.noEntry, .module, false, (0, 0), []⟩
    | some o =>
      if field r.payload 16 1 = 1 then ⟨freeObject o.id.toNat s, Status.ok, .cove o.id.toNat, true, (0, 0), objectSummary o⟩
      else
        let s := journal s
        let y := { o with expiresAt := expiresAt (field r.payload 20 4) s, serial := s.cove.journalSerial, dated := seconds s.now }
        ⟨setObject o.id.toNat (fun _ => y) s, Status.ok, .cove o.id.toNat, true, (0, 0), objectSummary y⟩

/-- COVE_OBJECT_SET (R240, R245, R375): a new TTL counts from its commit. -/
def execCoveObjectSet (r : Request) (s : State) : Out := .next (serve opCoveObjectSet r s)

/-! ## Extents -/

/-- MiB of n bytes. -/
def mibOf (n : Nat) : Nat := n / 1048576

/-- What commits an object by itself once its last extent is durable: the write-through of a network load, without expiry
(R247), and a prefix moved to the cove (R278). A record that the hold-up check defers is tried again (R242). -/
def commitReady (s : State) : State :=
  s.cove.objects.foldl (fun s o =>
    let own := match o.data with
      | .image _ => !(match s.img.staging with | some g => g.digest = o.digest | none => false)
      | .prefix_ _ => true
      | .stream _ => false
    if o.committed || o.cancelled || !own || !allDurable o || o.writes.isEmpty then s
    else if holdupAllows (inFlightNs s) s then
      match o.data with
      | .prefix_ n =>
        let s := commitObject o.id.toNat (bits s.live.w4 191 160) s
        setPrefix n (fun p => if references n s = 0 ∧ p.place = 0 then { p with place := 1 } else p) s
      | _ => replaceImageObjects o.id.toNat o.digest (commitObject o.id.toNat 0 s)
    else
      let s := countCove o.startStack (fun r => { r with deferrals := satInc r.deferrals }) s
      { s with cove := { s.cove with deferred := true } }) s

/-- An object whose park was cancelled is freed once no extent of it is in flight (R252). -/
def freeCancelled (s : State) : State :=
  (s.cove.objects.filter fun o => o.cancelled && o.writes.all fun w => !w.started || w.durable).foldl
    (fun s o => freeObject o.id.toNat s) s

/-- EXTENT_DURABLE (R240, steps 4 to 6): the extent's record is appended and counted, and the next write starts. During
hold-up extents in flight complete and nothing starts (R243, R441). -/
def execExtentDurable (object : BitVec 128) (extent : Nat) (s : State) : Out :=
  .next (match findObject object.toNat s with
    | none => s
    | some o =>
      match o.writes.find? (fun w => w.index = extent) with
      | none => s
      | some w =>
        if (s.awake ∨ s.pow.stage = .holdup) ∧ w.started ∧ w.durable = false then
          let s := setObject o.id.toNat (fun x => { x with writes := x.writes.map fun y => if y.index = extent then { y with durable := true } else y }) s
          let s := journal (countCove w.stack (fun r =>
            { r with extentsCommitted := satInc r.extentsCommitted, writeEpoch := satAdd r.writeEpoch (mibOf (extentLength o extent)) }) s)
          if s.awake then advanceService (startWrites (commitReady (freeCancelled s))) else s
        else s)

/-- HOLDUP_RETRY (R242): what was deferred is checked again, 1 ms later; with the lid open, the erasure of the config
(R398). -/
def execHoldupRetry (s : State) : Out :=
  .next (if s.awake then
    let s := { s with cove := { s.cove with deferred := false } }
    advanceService (applyPort (commitPress (startWrites (commitReady s))))
  else if s.pow.stage = .nothing ∧ s.pow.lidOpen ∧ s.flash.dirty ∧ configWriteAllowed s then eraseSlots s
  else s)

/-- CONFIG_DURABILITY_WRITE (R367): command-class writes become durable, under the hold-up check. -/
def execConfigDurabilityWrite (s : State) : Out :=
  .next (if s.awake ∧ s.flash.dirty ∧ configWriteAllowed s then advanceService (makeDurable s) else s)

/-! ## Parks and resumptions -/

/-- The stream enters PARKED at its object record's commit; its shelf pages are free (R252, R268). -/
def enterParked (n : Nat) (t : Stream) (s : State) : State :=
  let u := { t.atRest with state := .parked }
  let s := { s with str := { s.str with live := s.str.live.filter (·.1 ≠ n), parked := s.str.parked ++ [u] } }
  let s := match t.parkObject with
    | some o => setObject o.toNat (fun x => { x with data := .stream u }) s
    | none => s
  let s := completeAll parkCodes t.id.toNat Status.ok (.stream t.mailbox.toNat t.id.toNat) (streamStatus u) s
  if t.event.own then s else stateFrame u .parked 0 s

/-- PARK_COMMIT (R240 step 6, R252): the object record is appended and the stream is PARKED; a close that waited goes on
from there. -/
def execParkCommit (n : Nat) (s : State) : Out :=
  .next (match liveAt n s with
    | none => s
    | some t =>
      match t.parkObject.bind fun o => findObject o.toNat s with
      | none => s
      | some o =>
        if s.awake ∧ t.state = .parking ∧ t.event.cancelPark = false ∧ allDurable o ∧ o.committed = false ∧ o.cancelled = false then
          if holdupAllows (inFlightNs s) s then
            let s := commitObject o.id.toNat t.live.parkTtl.toNat s
            advanceService (startWrites (sweepPrefixes (match t.event.close with
              | some r => closeParked t r t.event.own s
              | none => enterParked n t s)))
          else
            let s := countCove o.startStack (fun r => { r with deferrals := satInc r.deferrals }) s
            { s with cove := { s.cove with deferred := true } }
        else s)

/-- RESUME_LANDED (R252): the last record and the token history stand in the shelf; the stream reaches resume_to at the
next step boundary. Where no pages are free for them, unreferenced prefixes move out first (R278). -/
def execResumeLanded (n : Nat) (s : State) : Out :=
  .next (match liveAt n s, s.img.image with
    | some t, some i =>
      if s.awake ∧ t.state = .resuming then
        match resumePages i (historyLength t) s with
        | (some ps, s) =>
          let s := setLive n (fun u => { u with pages := ps, copies := [], event := { u.event with resumeDone := true } }) s
          storeHistory { t with pages := ps } 0 (restoreRecords i ps t.copies (extendMap s))
        | (none, s) => s
      else s
    | _, _ => s)

/-! ## Prefixes -/

/-- A prefix gets pages, which the page map names too (R276, R278, R313). -/
def givePages (index : Nat) (ps : List KvPage) (s : State) : State := extendMap (setPrefix index (fun q => { q with pages := ps }) s)

/-- The records that a prefix holds go to its pages, from a stream of its publisher with its tokens. -/
def copyPrefix (i : Image) (p : Prefix) (ps : List KvPage) (s : State) : State :=
  match s.str.live.find? fun x => x.2.mailbox = p.publisher && x.2.committed.take (64 * p.blocks) = p.tokens with
  | some x => restoreRecords i ps (copyRecords i x.2 p.blocks s) s
  | none => s

/-- PREFIX_COPY_DONE (R276): the copy is complete; the publications that waited for it end. Where no pages are free for it,
unreferenced prefixes move out first (R278). -/
def execPrefixCopyDone (index : Nat) (s : State) : Out :=
  .next (match s.str.prefixes.find? (fun p => p.index = index), s.img.image with
    | some p, some i =>
      if s.awake ∧ p.copying then
        match prefixPages i p s with
        | (some ps, s) =>
          let s := setPrefix index (fun p => { p with copying := false }) (copyPrefix i p ps (givePages index ps s))
          let waiting := s.mbox.outstanding.filter fun o => o.opcode = 0x0501 && o.subject.toNat = index
          advanceService (waiting.foldl (fun s o =>
            finish (keyOf o.mailbox.toNat s) o true false Status.ok (.prefix_ index) (0, 0) (publishBody p) s) s)
        | (none, s) => s
      else s
    | _, _ => s)

/-- A use of a prefix whose object has less than half its TTL left appends a new object record (R278). -/
def renewPrefix (index : Nat) (s : State) : State :=
  let ttl := bits s.live.w4 191 160
  match prefixObject index s with
  | none => s
  | some o =>
    if o.committed ∧ o.expiresAt.toNat < 2 ^ 63 ∧ 2 * (o.expiresAt.toNat - seconds s.now) < ttl then
      let s := journal s
      setObject o.id.toNat (fun x => { x with expiresAt := expiresAt ttl s, serial := s.cove.journalSerial, dated := seconds s.now }) s
    else s

/-- PREFIX_READBACK_COMPLETE (R277, R278): the prefix's records stand in pages of the shelf again; the streams that waited for
it map it. Where no pages are free for it, unreferenced prefixes move out first. -/
def execPrefixReadbackComplete (index : Nat) (s : State) : Out :=
  .next (match s.str.prefixes.find? (fun p => p.index = index), s.img.image with
    | some p, some i =>
      if s.awake ∧ p.place = 1 then
        match prefixPages i { p with pages := [] } s with
        | (some ps, s) =>
          let s := renewPrefix index (setPrefix index (fun p => { p with place := 0 }) (restoreRecords i ps p.copies (givePages index ps s)))
          { s with str := { s.str with live := s.str.live.map fun x =>
              if x.2.waitPrefix && x.2.prefixIndex = some index then (x.1, mapPrefix p x.2) else x } }
        | (none, s) => s
      else s
    | _, _ => s)

/-- CLOSED_RECORD_EXPIRY (R255): 600 s after its close a stream's record is gone. -/
def execClosedRecordExpiry (mailbox : BitVec 16) (id : BitVec 64) (s : State) : Out :=
  .next { s with str := { s.str with closed := s.str.closed.filter fun t => t.mailbox ≠ mailbox || t.id ≠ id } }

/-! ## Expiry -/

/-- An undated object is dated at the first check after PTP time is valid (R244). -/
def dateObject (t : Nat) (o : CoveObject) (s : State) : State :=
  if o.committed ∧ bit o.expiresAt 63 then
    let s := journal s
    setObject o.id.toNat (fun x => { x with expiresAt := BitVec.ofNat 64 (t + bits o.expiresAt 47 0), dated := t, serial := s.cove.journalSerial }) s
  else s

/-- park_ttl_max_s bounds what is left to every parked stream (R244; log 24). -/
def clampObject (o : CoveObject) (s : State) : State :=
  let most := o.dated + bits s.live.w3 63 32
  if o.committed ∧ o.kind = 2 ∧ o.expiresAt.toNat < 2 ^ 63 ∧ most < o.expiresAt.toNat then
    let s := journal s
    setObject o.id.toNat (fun x => { x with expiresAt := BitVec.ofNat 64 most, serial := s.cove.journalSerial }) s
  else s

/-- An object that expires at time t goes (R244, R245): not while it is read, nor the loaded image's; a parked stream is
closed with close_reason 2. -/
def expireObject (t : Nat) (o : CoveObject) (s : State) : State :=
  if o.committed ∧ o.expiresAt ≠ 0 ∧ o.expiresAt.toNat ≤ t ∧ o.readers = 0 then
    match o.data with
    | .image _ => if objectInUse o s then s else freeObject o.id.toNat s
    | .stream u => (match s.str.parked.find? (fun x => x.id = u.id && x.mailbox = u.mailbox) with
      | some x => closeParked x 2 false s
      | none => freeObject o.id.toNat s)
    | .prefix_ n =>
      let waited := s.str.live.any fun x => x.2.waitPrefix && x.2.prefixIndex = some n
      match s.str.prefixes.find? (fun p => p.index = n) with
      | some p => if waited then s else if p.place = 1 then destroyPrefix n s else freeObject o.id.toNat s
      | none => freeObject o.id.toNat s
  else s

/-- Apply f to every object in turn, as it stands by then. -/
def eachObject (f : CoveObject → State → State) (s : State) : State :=
  s.cove.objects.foldl (fun s o => match findObject o.id.toNat s with | some x => f x s | none => s) s

/-- COVE_EXPIRY_CHECK (R244): once per second from when PTP time is valid. -/
def execCoveExpiryCheck (now : PtpTime) (s : State) : Out :=
  let t := seconds now
  .next (if s.awake ∧ s.cove.mounted ∧ s.eth.ptp.valid then
    eachObject (expireObject t) (eachObject clampObject (eachObject (dateObject t) s))
  else s)

/-! ## Reads and damage -/

/-- Notice 0x0106: object id and kind (R360). -/
def damageNotice (o : CoveObject) (s : State) : State :=
  raiseNotice 0x0106 none 5 o.startStack o.holder.toNat (o.id.toNat * 2 ^ 128 + o.kind * 2 ^ 120) s

/-- A load that reads the damaged object of a digest ends (R304). -/
def failReadingLoad (d : Digest) (s : State) : State :=
  match s.img.load with
  | some l => if l.network = false ∧ l.waiting = false ∧ l.digest = d then endLoad Status.damaged s else s
  | none => s

/-- A hold that waits on the damaged object of the running image ends in failure: the data plane is Halted (R304). -/
def failWaitingHold (d : Digest) (s : State) : State :=
  if s.tide.dp = .running ∧ s.img.digest = d ∧ s.tide.holds.any (fun h => h.cause == 6 || h.cause == 7) then halt .damaged s else s

/-- A damaged image object (R304). -/
def damageImage (o : CoveObject) (s : State) : State :=
  failWaitingHold o.digest (failReadingLoad o.digest (damageNotice o (setObject o.id.toNat (fun x => { x with damaged := true }) s)))

/-- A damaged parked stream: its resumption fails and its object is destroyed (R304). -/
def damageParked (o : CoveObject) (u : Stream) (s : State) : State :=
  match s.str.live.find? (fun x => x.2.id = u.id && x.2.mailbox = u.mailbox && x.2.state = .resuming) with
  | some x => closeStream x.2 5 false Status.damaged (freeObject o.id.toNat s)
  | none => setObject o.id.toNat (fun x => { x with damaged := true }) s

/-- A damaged prefix is destroyed; streams that waited for it prefill their own blocks (R304). -/
def damagePrefix (n : Nat) (s : State) : State :=
  let s := destroyPrefix n s
  { s with str := { s.str with live := s.str.live.map fun x =>
      if x.2.waitPrefix && x.2.prefixIndex = some n then (x.1, { x.2 with waitPrefix := false, prefixIndex := none }) else x } }

/-- What damage to an object means (R304). -/
def damageObject (o : CoveObject) (s : State) : State :=
  match o.data with
  | .image _ => damageImage o s
  | .stream u => damageParked o u s
  | .prefix_ n => damagePrefix n s

/-- Units of stack j from u on that do not read are written with their words. -/
def restoreUnits (j u : Nat) (ws : List Word64) (s : State) : State :=
  let bad (k : Nat) : Bool := (readUnit (s.stack j).mem (u + k)).any (·.poison)
  ((List.range (ws.length / 8)).filter bad).foldl (fun s k =>
    setStack j (fun x => { x with mem := writeUnits x.mem (u + k) ((ws.drop (8 * k)).take 8) }) s) s

/-- Byte of the image at which its section t begins. -/
def sectionStart (i : Image) (t : Nat) : Nat := match sectionEntry i t with | some d => Dir.offset d | none => 0

/-- The part of a resident range that bytes lo..hi-1 of the image hold is refetched into its backing copy (R226). -/
def refetchRange (i : Image) (lo hi : Nat) (s : State) (n : Nat) : State :=
  let e := nth i.shards n 0
  let start := sectionStart i 8 + Shard.offset e
  match shardUnit i s.img.place n, lookup s.img.ranges n with
  | some u, some bs =>
    let first := (lo - start + 63) / 64
    let last := min (hi - start) (Shard.length e) / 64
    if Shard.kind e = 0 ∨ Shard.kind e = 3 then
      restoreUnits (dieOf (nth s.img.place (Shard.vcomb e) 0)) (u + first) (wordsOf ((bs.drop (64 * first)).take (64 * (last - first)))) s
    else s
  | _, _ => s

/-- The copies of program memories and descriptors are refetched, where the bytes hold the tide-program section (R226,
R302). -/
def refetchCode (i : Image) (lo hi : Nat) (s : State) : State :=
  let start := sectionStart i 6
  if start < hi ∧ lo < start + 16 * i.programs.length then
    (List.range 24).foldl (fun s j =>
      restoreUnits j (codeUnit i s.img.place j) (wordsOf ((vcombsOn s.img.place j).flatMap (codeBytes i))) s) s
  else s

/-- A chunk of the running image's object: backing words that do not read are rewritten from it (R226, R303). -/
def refetchChunk (o : CoveObject) (extent chunk : Nat) (s : State) : State :=
  match o.data, s.img.image with
  | .image _, some i =>
    let lo := extent * 268435456 + chunk * 4194304
    if o.digest = s.img.digest then
      refetchCode i lo (lo + 4194304) ((List.range i.shards.length).foldl (refetchRange i lo (lo + 4194304)) s)
    else s
  | _, _ => s

/-- A chunk need not be read again (R304). -/
def settleReads (site : BitVec 128 × Nat × Nat) (s : State) : State :=
  { s with cove := { s.cove with rereads := s.cove.rereads.filter (· ≠ site) } }

/-- A failed read is counted by its kind (R240 counters, R304). -/
def failedRead (x : ChunkRead) (r : CoveRecord) : CoveRecord :=
  match x with
  | .good => r
  | .badDigest => { r with digestFailures := satInc r.digestFailures }
  | .uncorrectable => { r with eccUncorrectable := satInc r.eccUncorrectable }

/-- COVE_CHUNK_READ (R226, R232, R239, R304): a chunk of 4 MiB is read; a failed read is counted, and the third of the chunk in
succession damages the object, unless the chunk of an image comes from network storage. -/
def execCoveChunkRead (object : BitVec 128) (extent chunk : Nat) (found : ChunkRead) (network : Bool) (s : State) : Out :=
  .next (match findObject object.toNat s with
    | none => s
    | some o =>
      let j := (o.startStack + extent) % 8
      if s.awake ∧ s.cove.mounted ∧ o.committed ∧ o.keyAlive ∧ extent < o.extents ∧ chunk < 64 ∧ chunk * 4194304 < extentLength o extent then
        let s := countCove j (fun r => { r with readEpoch := satAdd r.readEpoch 4 }) s
        let site := (object, extent, chunk)
        if found = .good then progress (.coveStack j) (settleReads site (refetchChunk o extent chunk s))
        else
          let s := countCove j (failedRead found) s
          if s.cove.rereads.count site < 2 then { s with cove := { s.cove with rereads := s.cove.rereads ++ [site] } }
          else
            let s := settleReads site s
            if o.kind = 1 ∧ network ∧ sourceEnabled s then
              refetchChunk o extent chunk (journal (countCove j (fun r => { r with extentsCommitted := satInc r.extentsCommitted }) s))
            else advanceService (damageObject o s)
      else s)

/-- COVE_SCRUB (R239): a committed extent's digest is checked; a failure is counted, and its chunks are read again as
R304 says. -/
def execCoveScrub (object : BitVec 128) (extent : Nat) (ok : Bool) (s : State) : Out :=
  .next (match findObject object.toNat s with
    | none => s
    | some o =>
      if s.awake ∧ s.cove.mounted ∧ o.committed ∧ extent < o.extents then
        countCove ((o.startStack + extent) % 8) (fun r =>
          { r with readEpoch := satAdd r.readEpoch (mibOf (extentLength o extent))
                   digestFailures := if ok then r.digestFailures else satInc r.digestFailures }) s
      else s)

/-- Standing records in a stack's journal: extent records of its extents, and key and object records of the objects that
start there (R240). -/
def standingRecords (j : Nat) (s : State) : Nat :=
  ((s.cove.objects.filter (·.committed)).map fun o => extentShare o.startStack o.extents j + if o.startStack = j then 2 else 0).sum

/-- JOURNAL_COMPACTION (R241): standing records are copied forward under the hold-up check. -/
def execJournalCompaction (j : Nat) (s : State) : Out :=
  .next (if s.awake ∧ s.cove.mounted ∧ j < 8 then
    if holdupAllows (inFlightNs s) s then
      { s with cove := { s.cove with journalSerial := s.cove.journalSerial + BitVec.ofNat 64 (standingRecords j s) } }
    else
      let s := countCove j (fun r => { r with deferrals := satInc r.deferrals }) s
      { s with cove := { s.cove with deferred := true } }
  else s)

/-- Data extents of a cove stack (R235). -/
def dataExtents : Nat := 16376

/-- COVE_MOUNT (R241, R431 step 10): objects without an object record are freed; extents_free is what no standing record
claims. -/
def execCoveMount (s : State) : Out :=
  .next (if s.pow.stage = .booted ∧ s.pow.measured ∧ s.cove.mounted = false then
    let kept := s.cove.objects.filter (·.committed)
    let used (j : Nat) : Nat := (kept.map fun o => extentShare o.startStack o.extents j).sum
    { s with cove := { s.cove with
        mounted := true
        objects := kept.map fun o => { o with readers := 0, writes := [] }
        reserved := List.replicate 8 0
        records := s.cove.records.zipIdx.map fun p => { p.1 with extentsFree := BitVec.ofNat 32 (dataExtents - used p.2) } } }
  else s)

/-! ## The RoCEv2 requester (R331 to R333) -/

/-- Whether queue pair n is enabled. -/
def qpEnabled (n : Nat) (s : State) : Bool := n < 64 && bit (nth s.cove.qps n QueuePair.reset).record 210

/-- s with queue pair n changed. -/
def setQp (n : Nat) (f : QueuePair → QueuePair) (s : State) : State :=
  { s with cove := { s.cove with qps := upd s.cove.qps n f } }

/-- A packet for a queue pair that is not enabled is dropped (R331). -/
def dropRoce (s : State) : State := { s with eth := { s.eth with droppedFilter := satInc s.eth.droppedFilter } }

/-- A CNP answers a CE mark, at most once per 50 us and queue pair (R333). -/
def answerCe (n : Nat) (s : State) : State :=
  let q := nth s.cove.qps n QueuePair.reset
  if q.lastCnp = 0 ∨ nanos q.lastCnp + 50000 ≤ nanos s.now then
    let s := setQp n (fun q => { q with lastCnp := s.now }) s
    send (.cnp n) { s with eth := { s.eth with cnpTx := satInc s.eth.cnpTx } }
  else s

/-- One more READ request of 1 MiB, 256 response packets (R246, R331). -/
def issueRead (n : Nat) (s : State) : State :=
  let q := nth s.cove.qps n QueuePair.reset
  if q.outstanding < q.window then
    send (.rdmaRead n q.psn) (setQp n (fun q => { q with outstanding := q.outstanding + 1, psn := q.psn + 256, error := false }) s)
  else s

/-- RDMA_READ_RESPONSE (R246, R331, R333): a read ends, `reads` more are asked for within the window; a CE mark is
answered. -/
def execRdmaReadResponse (n reads : Nat) (ce : Bool) (s : State) : Out :=
  .next (if s.awake = false then s
    else if qpEnabled n s = false then dropRoce s
    else if pullRuns s then
      let s := setQp n (fun q => { q with outstanding := q.outstanding - 1, retries := 0 }) s
      let s := if ce then answerCe n s else s
      (List.range reads).foldl (fun s _ => issueRead n s) s
    else s)

/-- The pull fails: a staging or a network load ends with STORAGE_ERROR (R246). -/
def failPull (s : State) : State :=
  let s := match s.img.load with
    | some l => if l.network then endLoad Status.storageError s else endStaging Status.storageError s
    | none => endStaging Status.storageError s
  advanceService s

/-- RDMA_TIMEOUT (R246, R331, R332): the read is reissued from the first missing PSN. After seven retries the queue pair is
reset and its read goes to another enabled one, three times at most. -/
def execRdmaTimeout (n : Nat) (psn : BitVec 24) (s : State) : Out :=
  .next (if s.awake ∧ qpEnabled n s ∧ pullRuns s then
    let q := nth s.cove.qps n QueuePair.reset
    if q.retries < 7 then send (.rdmaRead n psn) (setQp n (fun q => { q with retries := q.retries + 1 }) s)
    else
      let s := setQp n (fun q => { q with retries := 0, outstanding := 0, error := true, psn := BitVec.ofNat 24 (bits q.record 359 336) }) s
      match ((List.range 64).map fun k => (n + 1 + k) % 64).find? fun m => m ≠ n && qpEnabled m s with
      | none => failPull s
      | some m =>
        if s.cove.pullRetries < 3 then
          let q := nth s.cove.qps m QueuePair.reset
          let s := { s with cove := { s.cove with pullRetries := s.cove.pullRetries + 1 } }
          send (.rdmaRead m q.psn) (setQp m (fun q => { q with outstanding := q.outstanding + 1, psn := q.psn + 256, error := false }) s)
        else failPull s
  else s)

/-- CNP_RECEIVE (R333): the window of outstanding reads is halved, down to 1. -/
def execCnpReceive (n : Nat) (s : State) : Out :=
  .next (if s.awake = false then s
    else if qpEnabled n s then
      setQp n (fun q => { q with window := max 1 (q.window / 2) }) { s with eth := { s.eth with cnpRx := satInc s.eth.cnpRx } }
    else dropRoce s)

/-- CNP_RECOVERY_TICK (R333): a millisecond without a CNP adds one read back. -/
def execCnpRecoveryTick (n : Nat) (s : State) : Out :=
  .next (if s.awake ∧ qpEnabled n s then setQp n (fun q => { q with window := min (bits q.record 215 211) (q.window + 1) }) s else s)

end Sys2Proof.Machine
end

