-- ==== Sys2Proof/Machine/Units.lean ====
section
/-! DEFINITION. Retirement of units and the first two stages of a remap (R34, R311, R312, R315, R406, R445): what a failed
unit takes out of service, and how a failure reaches the data plane. -/

namespace Sys2Proof.Machine

/-! ## Retirement -/

/-- Notice 0x0102: a unit is retired; the detail carries its subject kind and number (R360; log 27). -/
def unitNotice (kind number : Nat) (s : State) : State :=
  raiseNotice 0x0102 none kind number 0 (kind * 2 ^ 248 + number * 2 ^ 184) s

/-- s with a domain changed. -/
def setDomain (d : Nat) (f : Domain → Domain) (s : State) : State :=
  { s with pow := { s.pow with domains := upd s.pow.domains d f } }

/-- The keepers switch a domain off; one that is off already keeps its state (R406). -/
def offDomain (d : Nat) (s : State) : State := setDomain d (fun x => if x.state = 0 then { x with state := 3 } else x) s

/-- A comb leaves service with its domain (R406, R311). -/
def dropComb (p : Nat) (s : State) : State := offDomain p (setComb p (fun c => { c with good := false }) s)

/-- A comb is retired; a second retirement of it changes nothing. -/
def retireComb (p : Nat) (s : State) : State :=
  if (s.comb p).good then unitNotice 1 p (dropComb p s) else s

/-- Combs of die n. -/
def combsOf (n : Nat) : List Nat := (List.range 4).map fun q => 4 * n + q

/-- How much of a comb die is lost (R315, R406). -/
inductive DieLoss where
  | combs | memory | all
  deriving DecidableEq, Repr

/-- Domains of the die that a loss switches off besides its combs': SRAM and logic, then memory interface, then link
(R406). -/
def DieLoss.domains (l : DieLoss) (n : Nat) : List Nat :=
  match l with
  | .combs => [96 + 4 * n, 97 + 4 * n]
  | .memory => [96 + 4 * n, 97 + 4 * n, 99 + 4 * n]
  | .all => [96 + 4 * n, 97 + 4 * n, 99 + 4 * n, 98 + 4 * n]

/-- Stack n is lost: the streams in the shelf are closed with close_reason 5 at the first boundary; shelf prefixes are
withdrawn, parked streams and cove prefixes kept (R315). -/
def loseStack (n : Nat) (s : State) : State :=
  if (s.stack n).lost then s
  else
    let inKv := s.img.kvStacks.contains n
    let s := setStack n (fun k => { k with lost := true }) s
    if inKv then
      let mark (t : Stream) : Stream :=
        if t.state ≠ .resuming ∧ (t.pages ≠ [] ∨ t.prefixIndex.isSome) then { t with event := { t.event with close := some 5 } } else t
      let s := { s with str := { s.str with live := s.str.live.map fun (p : Nat × Stream) => (p.1, mark p.2) } }
      let shelved := s.str.prefixes.filter (·.place = 0)
      shelved.foldl (fun s p => withdrawPrefix p.index s) s
    else s

/-- A comb die is retired (R315, R406, R445). -/
def retireDie (n : Nat) (l : DieLoss) (s : State) : State :=
  let s := (combsOf n).foldl (fun s p => dropComb p s) s
  let s := (l.domains n).foldl (fun s d => offDomain d s) s
  let s := unitNotice 2 n s
  if l = .combs then s else loseStack n s

/-- Every uncommitted write is lost and every domain is off: the hive die is lost and the module stops (R34, R407, R433). -/
def stopModule (s : State) : State :=
  let off (d : Domain) : Domain := if d.state = 1 ∨ d.state = 2 then d else { d with state := 4 }
  let s := halt .none s
  { s with pow := { s.pow with stage := .nothing, domains := s.pow.domains.map off, pwrGood := false }
           pres := { s.pres with cmd := none, led := .red, leds := 0 }
           eth := { s.eth with link := 0 } }

/-- A shelf channel is out of service: its readable units stand in the reserve, of which the stack's first retirement takes
the 2,857.8125 MiB left on the other channels, and slices there return to the cove (R234). Notice subject: the stack, number 32 * stack + channel (log 27). -/
def retireChannel (n c : Nat) (s : State) : State :=
  if bit (s.stack n).channelsRetired c then s
  else
    let used : BitVec 16 := if (s.stack n).channelsRetired = 0 then BitVec.ofInt 16 (inUnits 20 (45725 / 16)) else (s.stack n).reserveUsed
    let s := setStack n (fun k => { k with
      channelsRetired := BitVec.ofNat 32 (k.channelsRetired.toNat + 2 ^ c)
      mem := copyChannel k.mem c
      experts := k.experts.map fun e => if reserveStart ≤ e.offset.toNat then { e with inShelf := false } else e
      reserveUsed := used }) s
    raiseNotice 0x0102 none 4 n 0 (4 * 2 ^ 248 + (32 * n + c) * 2 ^ 184) s

/-- A link is out of service in both directions (R160). -/
def retireLink (l : Nat) (s : State) : State :=
  if (s.link l false).state = 2 ∧ (s.link l true).state = 2 then s
  else unitNotice 3 l (setLink l true (fun d => { d with state := 2 }) (setLink l false (fun d => { d with state := 2 }) s))

/-- A failed reduction root: the second takes over; without one the module stops (R34). -/
def retireRoot (s : State) : State :=
  let s := unitNotice 0 0 { s with fabric := { s.fabric with root := s.fabric.root + 1 } }
  if 2 ≤ s.fabric.root then stopModule s else s

/-- Every object with an extent on a failed cove stack is damaged (R304). -/
def damageCoveStack (j : Nat) (s : State) : State :=
  eachObject (fun o s => if o.committed ∧ 0 < extentShare o.startStack o.extents j then damageObject o s else s) s

/-- The keepers retire what was declared failed (R311, R312 stage 2). -/
def retireSource (x : Source) (s : State) : State :=
  match x with
  | .none => s
  | .comb p => retireComb p s
  | .die n => retireDie n .combs s
  | .link l => retireLink l s
  | .channels n mask => (List.range 32).foldl (fun s c => if bit mask c then retireChannel n c s else s) s
  | .stack n => retireDie n .memory s
  | .coveStack j => damageCoveStack j s
  | .domain d =>
    if d < 96 then retireComb d s
    else if d < 192 then
      retireDie ((d - 96) / 4) (match (d - 96) % 4 with | 2 => .all | 3 => .memory | _ => .combs) s
    else stopModule s
  | .root => retireRoot s

/-! ## Failure -/

/-- A comb carries a virtual comb. -/
def mapped (p : Nat) (s : State) : Bool := s.img.place.contains p

/-- The loss of a unit displaces something, so that a remap follows; a spare comb's does not (R407). -/
def needsRemap (x : Source) (s : State) : Bool :=
  match x with
  | .comb p => mapped p s
  | .die n => (combsOf n).any fun p => mapped p s
  | .domain d =>
    if d < 96 then mapped d s
    else if d < 192 then (d - 96) % 4 ≥ 2 || (combsOf ((d - 96) / 4)).any fun p => mapped p s
    else false
  | .coveStack _ => false
  | _ => true

/-- Stage 1: the data plane is Halted for a remap; a halt that a remap does not end keeps its cause (R312). -/
def haltForRemap (s : State) : State :=
  match s.tide.dp with
  | .running | .stopped => halt .remap s
  | .halted => if s.tide.halt = .none then { s with tide := { s.tide with halt := .remap, startPending := false } } else s
  | _ => s

/-- An image stands that a remap can bring back to Running. -/
def remapApplies (s : State) : Bool :=
  s.img.image.isSome && !(s.tide.dp = .halted && s.tide.halt = .insufficientSpares)
    && (s.tide.dp = .running || s.tide.dp = .stopped || s.tide.dp = .halted)

/-- A failure whose unit the remap retires (R312): while Loading the loader goes back to step 4 (R204); without an image,
or where nothing is displaced, the unit is only retired; during a remap it is a second failure (R314). -/
def declareFailed (x : Source) (s : State) : State :=
  if s.tide.dp = .loading then remapLoad (retireSource x s)
  else if remapApplies s && needsRemap x s then
    let s := haltForRemap s
    { s with err := { s.err with failed := s.err.failed ++ [x] } }
  else retireSource x s

/-- A failure that retires its unit at once (R308, R311, R407); what it displaces waits for the remap. -/
def failNow (x : Source) (s : State) : State :=
  if s.tide.dp = .loading then remapLoad (retireSource x s)
  else if remapApplies s && needsRemap x s then
    let s := retireSource x (haltForRemap s)
    { s with err := { s.err with failed := s.err.failed ++ [.none] } }
  else retireSource x s

end Sys2Proof.Machine
end

