-- ==== Sys2Proof/Machine/TideClock.lean ====
section
/-! DEFINITION. The tide-cycle counter and the phase cycle, contract holds on their way, and holds: raised, released, ended
and timed out (R162, R175 to R181, R186). Ages are counted from the cycle at which a hold freezes the counters, so that an
open-ended hold's age at its release is its slack (R175). -/

namespace Sys2Proof.Machine

/-! ## The counters -/

/-- Tides run and no counter is frozen. -/
def counting (s : State) : Bool :=
  s.tide.dp = .running && !s.tide.prologue && s.tide.holds.isEmpty && !s.tide.servingDue && !s.tide.epochDue && !s.tide.stepDue

/-- A known hold runs from its freeze to its end by itself (R177, R186). -/
def passKnown (cause : BitVec 8) (n : Nat) (s : State) : State :=
  if n = 0 then s else releaseHold 0 (passSlack n (raiseHold cause .none (some n) s))

/-- Contract holds of the phase in force at phase cycles lo..hi (R186). -/
def contractAt (lo hi : Nat) (s : State) : List (Nat × Nat × Nat) :=
  s.tide.contractHolds.filter fun h => h.1 = (phasePos s).1 && decide (lo ≤ h.2.1) && decide (h.2.1 ≤ hi)

/-- The counters stand at phase cycle c, at which a comb relieved its fallback queue in slack that is still to pass: other
instructions of that cycle issue in it too (R103, R180). -/
def relieving (c : Nat) (s : State) : Bool :=
  s.tide.dp = .running && !s.tide.prologue && phaseCycle s = c && !s.tide.servingDue && !s.tide.epochDue && !s.tide.stepDue
    && s.tide.holds.all fun h => h.cause = 5 && h.source = .none && h.known.isSome && h.age = 0

/-- The counters count up to phase cycle c of the tide in force (R162). -/
def countTo (c : Nat) (s : State) : State :=
  { s with tide := { s.tide with tideCycle := BitVec.ofNat 13 (c - tideBase s)
                                 runCycles := s.tide.runCycles + BitVec.ofNat 64 (c - phaseCycle s) } }

/-- Contract holds that the counters have reached pass one after another (R186). -/
def passContract (hs : List (Nat × Nat × Nat)) (s : State) : State := hs.foldl (fun s h => passKnown 8 h.2.2 s) s

/-- Phase cycle c is reached, with the contract holds on the way (R162, R186). -/
def advanceTo (c : Nat) (s : State) : State := countTo c (passContract (contractAt (phaseCycle s + 1) c s) s)

/-- Phase cycle c is reached with the contract holds before it, not those that stand there. -/
def reachBefore (c : Nat) (s : State) : State := countTo c (passContract (contractAt (phaseCycle s + 1) (c - 1) s) s)

/-- The contract holds at phase cycle c, which lies after `before`, freeze the counters beside the others (R180, R186). -/
def raiseContract (before c : Nat) (s : State) : State :=
  (if before < c ∧ s.tide.dp = .running then contractAt c c s else []).foldl
    (fun s h => if h.2.2 = 0 then s else raiseHold 8 .none (some h.2.2) s) s

/-- Phase cycle c lies in the tide in force and has not gone by. -/
def ahead (c : Nat) (s : State) : Bool := decide (phaseCycle s ≤ c) && decide (c < tideBase s + s.tideLen)

/-! ## Holds -/

/-- What is left of the counted time before hold h ends or times out by itself (R177, R179). -/
def holdLeft (h : Hold) : Option Nat :=
  match h.known with
  | some n => some (n - h.age)
  | none => (holdTimeout h.cause.toNat).map fun n => n - h.quiet

/-- n cycles of slack can pass before any other hold ends or times out. -/
def slackFits (i n : Nat) (s : State) : Bool :=
  (s.tide.holds.zipIdx.filter fun p => p.2 ≠ i).all fun p => match holdLeft p.1 with
    | some m => decide (n ≤ m)
    | none => true

/-- Greatest age of the holds in force. -/
def oldestAge (s : State) : Nat := s.tide.holds.foldl (fun a h => max a h.age) 0

/-- At tide-cycle 0 of a tide whose number is a multiple of 1,024 the correlation record is latched (R337). -/
def latchCorrelation (s : State) : State :=
  if s.tide.number.toNat % 1024 = 0 then
    let p := s.eth.ptp
    { s with eth := { s.eth with corr := ⟨s.tide.number, s.tide.runCycles, p.now, BitVec.ofInt 16 p.ppb, BitVec.ofNat 8 p.state.code⟩ } }
  else s

/-- Tide-cycle 0 of the tide in force: the correlation record, then a contract hold that stands there (R169, R186). -/
def openTide (s : State) : State :=
  let s := latchCorrelation s
  passContract (contractAt (tideBase s) (tideBase s) s) s

/-- The boundary ends with the last of its actions, if no throttle slack tide stands (R169). -/
def endBoundary (s : State) : State := if counting s then openTide s else s

/-- The counters freeze at phase cycle c, at which contract holds stand beside the late item's (R175, R180, R186). -/
def freezeAt (cause : BitVec 8) (c : Nat) (source : Source) (s : State) : State :=
  raiseContract (phaseCycle s) c (raiseHold cause source none (reachBefore c s))

/-- HOLD_RELEASE (R175, R180): an open-ended hold's item has become ready, `elapsed` cycles after its deadline. -/
def execHoldRelease (index elapsed : Nat) (s : State) : Out :=
  .next (match s.tide.holds[index]? with
    | none => s
    | some h =>
      let n := elapsed - h.age
      if s.awake ∧ s.tide.dp = .running ∧ h.known = none ∧ h.age ≤ elapsed ∧ slackFits index n s
          ∧ (∀ m ∈ holdLeft h, n < m) then
        releaseHold index (passSlack n s)
      else s)

/-- KNOWN_HOLD_END (R177, R182, R186): a hold of known duration ends. With a throttle slack tide the boundary ends, whose
other actions come first (R169). -/
def execKnownHoldEnd (index : Nat) (s : State) : Out :=
  .next (match s.tide.holds[index]? with
    | none => s
    | some h =>
      match h.known with
      | none => s
      | some d =>
        if s.awake ∧ s.tide.dp = .running ∧ slackFits index (d - h.age) s then
          let t := releaseHold index (passSlack (d - h.age) s)
          if h.cause = 9 then (if s.tide.servingDue ∨ s.tide.epochDue ∨ s.tide.stepDue then s else endBoundary t) else t
        else s)

/-! ## Timeouts -/

/-- Subject kind and number of a late source (R359). -/
def sourceSubject : Source → Nat × Nat
  | .comb p => (1, p)
  | .die n => (2, n)
  | .link l => (3, l)
  | .channels n _ | .stack n => (4, n)
  | .coveStack j => (5, j)
  | .none | .domain _ | .root => (0, 0)

/-- Notice 0x0107: the slack record of the cause (R360). -/
def timeoutNotice (h : Hold) (s : State) : State :=
  let r := nth s.tide.slack h.cause.toNat {}
  raiseNotice 0x0107 none (sourceSubject h.source).1 (sourceSubject h.source).2 0 (detail256 (slackRecord r)) s

/-- A timeout Halts the data plane and declares the source failed (R181); a cove stack's objects are damaged instead
(R304). -/
def timeOut (source : Source) (s : State) : State :=
  match source with
  | .coveStack _ =>
    let s := declareFailed source s
    if s.tide.dp = .running then halt .timeout s else s
  | _ => declareFailed source (halt .timeout s)

/-- The timeout of a hold that was in force when a schedule fault Halted the data plane, in the fault's own cycle: its source
is declared failed too (R214). -/
def lapse (index : Nat) (s : State) : State :=
  match s.tide.lapsed[index]? with
  | some h =>
    if s.awake ∧ s.tide.dp = .halted ∧ s.tide.halt = .fault ∧ h.known = none ∧ (holdTimeout h.cause.toNat).isSome then
      let s := countSlack h.cause.toNat (fun r => { r with timeoutsTotal := satInc r.timeoutsTotal }) s
      advanceService (declareFailed h.source
        (timeoutNotice h { s with tide := { s.tide with lapsed := s.tide.lapsed.eraseIdx index } }))
    else s
  | none => s

/-- SLACK_TIMEOUT (R179, R181, R214): the timeout of an open-ended hold expires. -/
def execSlackTimeout (index : Nat) (s : State) : Out :=
  .next (match s.tide.holds[index]? with
    | none => lapse index s
    | some h =>
      match h.known, holdTimeout h.cause.toNat with
      | none, some n =>
        if s.awake ∧ s.tide.dp = .running ∧ slackFits index (n - h.quiet) s then
          let s := passSlack (n - h.quiet) s
          let s := countSlack h.cause.toNat (fun r => { r with timeoutsTotal := satInc r.timeoutsTotal }) s
          advanceService (timeOut h.source (timeoutNotice h (releaseHold index s)))
        else s
      | _, _ => s)

end Sys2Proof.Machine
end

