-- ==== Sys2Proof/Machine/Issue.lean ====
section
/-! DEFINITION. Issue of tide-program instructions (R107, R130, R132, R162), the rows they read and write with the faults of
R112 to R116, byte parity (R125), the parity of row sets (R223), and reads of shelf units (R217). -/

namespace Sys2Proof.Machine

/-! ## Program memory (R130) -/

/-- The words of the instruction at a program counter, and of operand descriptor n. -/
def instructionReads (c : Comb) (pc : Nat) : List WordRead := readSlots c.code (instructionSlot pc) 2
def descriptorReads (c : Comb) (n : Nat) : List WordRead := readSlots c.code (descriptorSlot n) 4

/-- Operand descriptor n of a comb. -/
def descriptorAt (c : Comb) (n : Nat) : BitVec 256 := BitVec.ofNat 256 (natLE (bytesOf (carried (descriptorReads c n))))

/-- Operand descriptors that an instruction names. -/
def opDescriptors : TideOp → List Nat
  | .dot o => [o.laneDesc.toNat, o.serialDesc.toNat]
  | .shelf o => [o.desc.toNat]
  | .fabric o => [o.desc.toNat]
  | _ => []

/-- The sequencer stands at the instruction, whose word and descriptors read and say the cycle and the instruction; what does
not read waits for its mend (R130). -/
def fetches (i : Issue) (op : TideOp) (c : Comb) : Bool :=
  let ws := instructionReads c i.pc.toNat
  decide (i.pc.toNat = c.pc) && !ws.any (·.poison)
    && decide (decodeTide (BitVec.ofNat 128 (natLE (bytesOf (carried ws)))) = some (i.cycle, op))
    && (opDescriptors op).all fun n => !(descriptorReads c n).any (·.poison)

/-! ## Issue -/

/-- No unit that the instruction needs is still busy, and for the array no replay window stands open (R107, R132). -/
def unitsFree (i : Issue) (op : TideOp) (c : Comb) : Bool :=
  (c.busy.all fun y => decide (y.2 ≤ i.cycle.toNat) || !opsClash y.1 op)
    && !(c.windowOpen && (opRegion op).isSome)

/-- The comb runs a virtual comb's phase program, which stands at this instruction, and phase cycle i.cycle of the tide in
force is yet to come (R130, R132, R162). -/
def canIssue (i : Issue) (op : TideOp) (s : State) : Bool :=
  s.awake && (counting s || relieving i.cycle.toNat s) && ahead i.cycle.toNat s && decide (i.comb < 96) && (s.comb i.comb).good && mapped i.comb s
    && !(s.comb i.comb).ended && fetches i op (s.comb i.comb) && unitsFree i op (s.comb i.comb)

/-- What waits for the data plane to stop goes on where a fault has stopped it (R438, R248). -/
def afterStop (s : State) : State := if s.tide.dp = .running then s else advanceService s

/-- Elements that the last DOT of a region left in its accumulators (R105). -/
def drainElements (c : Comb) (region : Nat) : Nat :=
  match c.shape.find? fun x => x.1 = region with
  | some x => (if region = 4 then 16384 else 4096) / 2 ^ x.2.2
  | none => 0

/-- Cycles for which an instruction takes its unit (R132). -/
def busyCycles (c : Comb) (op : TideOp) (s : State) : Nat :=
  match s.img.image with
  | some i => busyFor i
      (match op with | .dot o => beatsOf (descriptorAt c o.laneDesc.toNat) (descriptorAt c o.serialDesc.toNat) o | _ => 0)
      (Phase.window (i.phase (phasePos s).1)) (match opRegion op with | some r => drainElements c r | none => 0) op
  | none => 0

/-- The counters at an instruction's issue: the sequencer goes on, and the unit is taken (R130, R132, R162). -/
def issued (i : Issue) (op : TideOp) (s : State) : State :=
  let s := advanceTo i.cycle.toNat s
  setComb i.comb (fun c => { c with
    pc := c.pc + 1
    busy := c.busy.filter (fun y => decide (i.cycle.toNat < y.2)) ++ [(op, i.cycle.toNat + busyCycles c op s)] }) s

/-- The site of a schedule fault that another comb detects (R213, R214). -/
def unitSite (f : UnitFault) : FaultSite :=
  { rule := f.rule, comb := some f.comb, die := dieOf f.comb, pc := f.pc.toNat, flow := f.flow, rowAddress := f.row.toNat,
    slot := f.slot, unit := f.unit, detail := f.detail, cycle := f.cycle.toNat }

/-- Rank among the faults of one cycle: rule code, detecting die, physical comb (R213). -/
def siteRank (f : FaultSite) : Nat := f.rule * 65536 + f.die * 256 + f.comb.getD 0xFF
/-- The same of a fault record (R214). -/
def recordRank (r : BitVec 1024) : Nat := bits r 358 351 * 65536 + bits r 327 320 * 256 + bits r 335 328

/-- n more faults are counted in other_faults. -/
def countOthers (n : Nat) (s : State) : State := (List.range n).foldl (fun s _ => countOther s) s

/-- Faults of other combs that stand beside that of an instruction: those of its cycle and of the 64 cycles that a stop may
take (R213). -/
def otherFaults (i : Issue) : List FaultSite :=
  (i.others.filter fun f => decide (f.comb < 96) && decide (i.cycle ≤ f.cycle) && decide (f.cycle.toNat ≤ i.cycle.toNat + 64)).map unitSite

/-- The first fault that other combs detect in the cycle of the instruction. -/
def firstOther (i : Issue) : Option FaultSite :=
  (sortBy (fun a b => decide (siteRank a ≤ siteRank b)) ((otherFaults i).filter (·.cycle = i.cycle.toNat))).head?

/-- Where an instruction, issued in u, has stopped the data plane with a fault, the first fault of its cycle is the recorded one,
and the others before the stop is complete are counted (R213). -/
def stopWith (i : Issue) (u t : State) : State :=
  if u.tide.dp = .running ∧ t.tide.dp = .halted ∧ t.tide.halt = .fault then
    let n := (otherFaults i).length
    match firstOther i with
    | some f =>
      if siteRank f < recordRank t.err.fault then countOthers (n + bits t.err.fault 239 224) (scheduleFault f u)
      else countOthers n t
    | none => countOthers n t
  else t

/-- An instruction issues at its cycle and has effect f. -/
def issueAt (i : Issue) (op : TideOp) (f : State → State) (s : State) : State :=
  if canIssue i op s then let u := issued i op s; afterStop (stopWith i u (f u)) else s

/-! ## Faults -/

/-- A schedule fault that comb i.comb detects (R214). -/
def combSite (i : Issue) (rule unit : Nat) : FaultSite :=
  { rule := rule, comb := some i.comb, die := dieOf i.comb, pc := i.pc.toNat, unit := unit, cycle := i.cycle.toNat }

/-- Raise the faults of one cycle, the lowest rule first (R213). -/
def raiseFaults (fs : List FaultSite) (s : State) : State :=
  (sortBy (fun a b => decide (a.rule ≤ b.rule)) fs).foldl (fun s f => scheduleFault f s) s

/-- Cycles after a write at which its row is readable, under the image's contract (R115, R185). -/
def visibility (op : TideOp) (s : State) : Nat := (s.img.image.bind fun i => writeLatency i op).getD 3

/-- A row address beyond the scratchpad (R112). -/
def rangeFaults (i : Issue) (u ra : Nat) : List FaultSite :=
  if rowIndex ra < 10240 then [] else [{ combSite i 3 u with rowAddress := ra }]

/-- A program read of row x.1 at phase cycle x.2 by unit u: row range, and a write that the read cannot see yet (R112,
R115). -/
def rowFaults (i : Issue) (u : Nat) (s : State) (x : Nat × Nat) : List FaultSite :=
  rangeFaults i u x.1
    ++ (if (s.comb i.comb).writes.any fun w => w.1.toNat = x.1 && decide (x.2 < w.2) then [{ combSite i 2 u with rowAddress := x.1 }] else [])

/-- Banks and cycles of accesses to rows at their cycles; an accumulate holds its bank for two cycles (R113). -/
def bankCycles (twice : Bool) (xs : List (Nat × Nat)) : List (Nat × Nat) :=
  (if twice then xs ++ xs.map (fun (a : Nat × Nat) => (a.1, a.2 + 1)) else xs).map fun (a : Nat × Nat) => (bankOf a.1, a.2)

/-- The fault of the first access that meets another instruction's in one bank in one cycle (R114). -/
def bankFaults (i : Issue) (u : Nat) (bs : List (Nat × Nat)) (s : State) : List FaultSite :=
  match (s.comb i.comb).accesses.find? fun a => bs.contains (a.1, a.2.1) with
  | some a => [{ combSite i 6 u with rowAddress := a.1, detail := a.2.2.toNat }]
  | none => []

/-- An instruction's accesses to banks are noted (R113). -/
def noteAccesses (i : Issue) (bs : List (Nat × Nat)) (s : State) : State :=
  setComb i.comb (fun c => { c with accesses := c.accesses ++ bs.map fun (b : Nat × Nat) => (b.1, b.2, i.pc) }) s

/-- Program writes of rows at their cycles are noted (R115). -/
def noteWrites (i : Issue) (op : TideOp) (xs : List (Nat × Nat)) (s : State) : State :=
  let new := xs.map fun (x : Nat × Nat) => (BitVec.ofNat 22 x.1, x.2 + visibility op s)
  setComb i.comb (fun c => { c with writes := c.writes.filter (fun w => xs.all fun x => x.1 ≠ w.1.toNat) ++ new }) s

/-- Cycles from t on for which program accesses keep a bank from a class of lower priority, at most n (R113). -/
def bankDelay (c : Comb) (bank : Nat) : Nat → Nat → Nat
  | 0, _ => 0
  | n + 1, t => if c.accesses.any fun a => a.1 = bank && a.2.1 = t then 1 + bankDelay c bank n (t + 1) else 0

/-- A lower class waits n cycles for a bank (R113). -/
def countWait (p n : Nat) (s : State) : State :=
  if n = 0 then s else setComb p (fun c => { c with record := { c.record with bankWait := satAdd c.record.bankWait n } }) s

/-- Row ra of a comb is pending (R116). -/
def rowPending (c : Comb) (ra : Nat) : Bool := c.pending.any fun x => x.ra.toNat = ra

/-! ## Row sets (R223) -/

/-- Tide parity of the phase in force. -/
def phaseParity (s : State) : Nat :=
  match s.img.image with
  | some i => (s.tide.number.toNat / s.period * i.phaseCount + (phasePos s).1) % 2
  | none => 0

/-- Distance of the odd row set of a shelf-buffer descriptor. -/
def setOffset (d : BitVec 256) (parity : Nat) : Nat := if Desc.shelfBuffer d ∧ parity = 1 then 0x140000 else 0

/-- The slot declaration in force: the latest of the phase (R134); without one, every slot. -/
def slotDeclaration (c : Comb) : SlotOp := c.slots.getLast?.getD ⟨0, 256, 2⟩

/-! ## Reads of rows -/

/-- Resident row ra of comb p stands in a backing copy: its unit (R226, R302). -/
def backingUnit (i : Image) (place : List Nat) (v ra : Nat) : Option Nat :=
  ((residentEntries i v).findSome? fun n =>
    let e := nth i.shards n 0
    if Shard.dest e ≤ ra ∧ ra < Shard.dest e + Shard.length e / 512 then (shardUnit i place n).map fun u => u + 8 * (ra - Shard.dest e)
    else none)

/-- Row ra of comb p is a resident row of its virtual comb. -/
def resident (p ra : Nat) (s : State) : Bool :=
  match s.img.image with
  | some i => mapped p s && (backingUnit i s.img.place (vcombOn p s) ra).isSome
  | none => false

/-- Rows with uncorrectable words are queued for scrub, resident ones also for their mend (R126, R302). -/
def queueBad (p : Nat) (rows : List (BitVec 22)) (s : State) : State :=
  let mine := rows.filter fun r => resident p r.toNat s
  setComb p (fun c => { c with scrubQueue := c.scrubQueue ++ rows.filter (fun r => !c.scrubQueue.contains r)
                               mendQueue := c.mendQueue ++ mine.filter (fun r => !c.mendQueue.contains r) }) s

/-- Count what a program read of rows finds, and queue rows with uncorrectable words (04, section Comb counters; R126); a
row that was mended twice in the epoch and reads as uncorrectable again retires its comb (R311). -/
def countReads (p : Nat) (reads : List (Nat × List WordRead)) (s : State) : State :=
  let corrected := (reads.map fun r => r.2.countP (·.corrected)).sum
  let bad := (reads.map fun r => r.2.countP (·.uncorrectable)).sum
  let poisoned := reads.countP fun r => r.2.any fun w => w.poison && !w.uncorrectable
  let queue := (reads.filter fun r => r.2.any (·.uncorrectable)).map fun r => BitVec.ofNat 22 r.1
  let again := queue.any fun r => decide (2 ≤ (s.comb p).mends.count r)
  let s := queueBad p queue (setComb p (fun c => { c with
    record := { c.record with eccCorrected := satAdd c.record.eccCorrected corrected
                              eccUncorrectable := satAdd c.record.eccUncorrectable bad
                              poisonRead := satAdd c.record.poisonRead poisoned } }) s)
  if again then declareFailed (.comb p) s else s

/-- The scratchpad as the units receive it: words that fail their parity count as poisoned (R125, R138). -/
def spoiled (m : Memory) (bad : List (BitVec 22 × Nat)) : Memory :=
  bad.foldl (fun m x => writeSlots m (x.1.toNat * 64 + x.2) [(0, true)]) m

/-- s with the scratchpad of the issuing comb as its units receive it. -/
def heard (i : Issue) (s : State) : State :=
  if i.parity = [] then s else setComb i.comb (fun c => { c with mem := spoiled c.mem i.parity }) s

/-- A comb's transport errors of the epoch; above the limit it is retired (R298, R311). -/
def countCombTransport (p row k : Nat) (s : State) : State :=
  if k = 0 then s
  else
    let s := reportPoison (poisonOf true 1 0 p row) (setComb p (fun c => { c with transportErrors := c.transportErrors + k }) s)
    if bits s.live.w10 15 8 < (s.comb p).transportErrors then declareFailed (.comb p) s else s

/-- Words of the rows that an instruction reads fail their parity: transport errors of the comb (R125, R297). -/
def countParity (i : Issue) (rows : List Nat) (s : State) : State :=
  countCombTransport i.comb (rows.headD 0) (i.parity.countP fun x => rows.contains x.1.toNat && decide (x.2 < 64)) s

/-- Rows with poison, reported by the unit that read them (R298). -/
def reportRows (p operand : Nat) (slot : Nat → Nat) (reads : List (Nat × List WordRead)) (s : State) : State :=
  (reads.filter fun r => r.2.any (·.poison)).foldl (fun s r => reportPoison (poisonOf false operand (slot r.1) p r.1) s) s

/-- Rows read from a comb's scratchpad. -/
def readRows (c : Comb) (rows : List Nat) : List (Nat × List WordRead) := rows.map fun r => (r, readRow c.mem r)

/-- No row that an instruction reads is pending or waits for its mend (R116, R126). -/
def rowsReady (p : Nat) (rows : List Nat) (s : State) : Bool :=
  rows.all fun r => !rowPending (s.comb p) r && !(s.comb p).mendQueue.contains (BitVec.ofNat 22 r)

/-- A row becomes pending, with what will land in it (R116). -/
def pendRow (p ra : Nat) (data : Bytes) (cause : BitVec 8) (s : State) : State :=
  setComb p (fun c => { c with pending := c.pending.filter (fun x => x.ra.toNat ≠ ra) ++ [⟨BitVec.ofNat 22 ra, data, cause, none⟩] }) s

/-- A pending row waits for an earlier row of its stream (R222). -/
def chainRow (p ra : Nat) (after : BitVec 22) (s : State) : State :=
  setComb p (fun c => { c with pending := c.pending.map fun x => if x.ra.toNat = ra then { x with after := some after } else x }) s

/-- A pending row lands. -/
def landRow (p ra : Nat) (s : State) : State :=
  setComb p (fun c =>
    match c.pending.find? (fun x => x.ra.toNat = ra) with
    | some x => { c with mem := Memory.write c.mem (ra * 576) x.data, pending := c.pending.filter fun y => y.ra.toNat ≠ ra }
    | none => c) s

/-- Physical bytes of a row of words (R122). -/
def rowBytes (ws : List Word64) : Bytes := ws.flatMap fun w => encodeWord w.1 w.2

/-! ## Reads of the shelf -/

/-- Count what a read of shelf unit u finds (08, shelf stack record; R311). -/
def countUnit (j u : Nat) (rs : List WordRead) (s : State) : State :=
  let c := rs.countP (·.corrected)
  let b := rs.countP (·.uncorrectable)
  if c = 0 ∧ b = 0 then s
  else setStack j (fun k => { k with
    eccCorrected := satAdd k.eccCorrected c
    eccUncorrectable := satAdd k.eccUncorrectable b
    correctedEpoch := upd k.correctedEpoch (channelOf u) (· + c)
    uncorrectableEpoch := upd k.uncorrectableEpoch (channelOf u) (· + b) }) s

/-- Units u to u + n - 1 of stack j as words, counted. -/
def readUnits (j u n : Nat) (s : State) : List Word64 × State :=
  let rs := readSlots (s.stack j).mem (u * 8) (n * 8)
  (carried rs, (List.range n).foldl (fun s k => countUnit j (u + k) ((rs.drop (8 * k)).take 8) s) s)

/-- Unit k of words carries poison. -/
def unitPoisoned (ws : List Word64) (k : Nat) : Bool := ((ws.drop (8 * k)).take 8).any (·.2)

end Sys2Proof.Machine
end

