-- ==== Sys2Proof/Machine/Shelf.lean ====
section
/-! DEFINITION. Shelf transfers into scratchpad rows: streams, gathers, row sets and expert page-in (R217, R222 to R224,
R229 to R233), landing of rows (R116), shelf scrub, refresh and channel retirement (R166, R219, R234, R303, R311). -/

namespace Sys2Proof.Machine

/-! ## Destination rows (R222, R59, R133) -/

/-- Instructions of the tide program that comb p runs. -/
def combOps (p : Nat) (s : State) : List TideOp :=
  match s.img.image with
  | some i => (programsOf i (vcombOn p s)).flatten.map (·.1.2)
  | none => []

/-- Row k of a stream into descriptor n of a comb, for the tensors that its program takes from it (R222; log 32). -/
def streamRow (p n k : Nat) (s : State) : Nat := partRow (descriptorAt (s.comb p) n) (tensorsOf (combOps p s) n) k

/-- The slot that row k of a slot-indexed descriptor belongs to (R134). -/
def slotOfRow (c : Comb) (d : BitVec 256) (k : Nat) : Nat := (slotDeclaration c).first.toNat + k / max 1 (Desc.stride d)

/-- Phase after the phase in force. -/
def followingPhase (s : State) : Nat :=
  match s.img.image with
  | some i => ((phasePos s).1 + 1) % max 1 i.phaseCount
  | none => 0

/-- Attribute of poison on an operand of phase k: draft in a phase of a draft-model layer, else as given (R298). -/
def operandIn (k other : Nat) (s : State) : Nat :=
  match s.img.image with
  | some i =>
    let p := i.phase k
    if (Phase.kind p = 1 ∨ Phase.kind p = 2) ∧ Layer.isDraft (i.layer (Phase.layer p)) then 2 else other
  | none => other

/-! ## Expert map -/

/-- The expert map entry of virtual comb v in stack j (R229). -/
def expertEntry (j v layer expert : Nat) (s : State) : Option ExpertEntry :=
  (s.stack j).experts.find? fun e => e.vcomb = v && e.layer = layer && e.expert = expert

/-- s with an expert map entry changed. -/
def setExpert (j v layer expert : Nat) (f : ExpertEntry → ExpertEntry) (s : State) : State :=
  setStack j (fun k => { k with experts := k.experts.map fun e =>
    if e.vcomb = v ∧ e.layer = layer ∧ e.expert = expert then f e else e }) s

/-- A page-in starts unless it already runs (R232). -/
def startPagein (j v layer expert : Nat) (s : State) : State :=
  match expertEntry j v layer expert s with
  | some e =>
    if e.pending then s
    else setStack j (fun k => { k with pageinEpoch := satInc k.pageinEpoch })
      (setExpert j v layer expert (fun e => { e with pending := true }) s)
  | none => s

/-! ## Index rows (R224) -/

/-- What an entry of an index row names. -/
inductive GatherPart where
  | direct (unit count : Nat)
  | expert (layer expert count : Nat)
  deriving DecidableEq, Repr

/-- Units that an entry names. -/
def GatherPart.units : GatherPart → Nat
  | .direct _ n => n
  | .expert _ _ n => n

/-- A gather list: the index rows read, its parts, their units, and whether an entry is reserved or poisoned. -/
structure GatherList where
  rows : List Nat := []
  parts : List GatherPart := []
  units : Nat := 0
  reserved : Bool := false
  poison : Bool := false

/-- One entry. -/
def gatherEntry (i : Image) (v need : Nat) (g : GatherList) (w : Word64) : GatherList :=
  if need ≤ g.units ∨ g.reserved ∨ g.poison then g
  else if w.2 then { g with poison := true }
  else
    let add (p : GatherPart) : GatherList := { g with parts := g.parts ++ [p], units := g.units + p.units }
    match bits w.1 63 62 with
    | 0 => g
    | 1 => add (.direct (bits w.1 33 0) (bits w.1 61 50))
    | 2 => add (.expert (bits w.1 61 50) (bits w.1 49 34) (sliceUnits i v (bits w.1 61 50) (bits w.1 49 34)))
    | _ => { g with reserved := true }

/-- The gather list from an index row on, up to the wanted units or an all-empty index row (log 32). -/
def gatherFrom (c : Comb) (i : Image) (v need : Nat) : Nat → Nat → GatherList → GatherList
  | 0, _, g => g
  | k + 1, ra, g =>
    if need ≤ g.units ∨ g.reserved ∨ g.poison then g
    else
      let g := { g with rows := g.rows ++ [ra] }
      if 10240 ≤ rowIndex ra then g
      else
        let ws := carried (readRow c.mem ra)
        let g := ws.foldl (gatherEntry i v need) g
        if ws.all (fun w => w.1 = 0) then g else gatherFrom c i v need k (ra + 1) g

/-- The gather list of a SHELF instruction on comb p. -/
def gatherList (p : Nat) (o : ShelfOp) (s : State) : GatherList :=
  match s.img.image with
  | some i =>
    let need := 8 * o.count.toNat
    gatherFrom (s.comb p) i (vcombOn p s) need (need + 1) o.indexRow.toNat {}
  | none => {}

/-- Whether a SHELF instruction reaches a shelf address that does not exist (R217). -/
def shelfOutside (p : Nat) (o : ShelfOp) (s : State) : Bool :=
  if o.gather then (gatherList p o s).parts.any fun x => match x with
    | .direct u n => decide (unitCount < u + n)
    | .expert .. => false
  else decide (unitCount < o.addr.toNat + 8 * o.count.toNat)

/-! ## Fills -/

/-- Words in units of eight. -/
def unitsOf (n : Nat) (ws : List Word64) : List (List Word64) := (List.range n).map fun k => (ws.drop (8 * k)).take 8

/-- Eight poisoned words. -/
def poisonUnit : List Word64 := List.replicate 8 (0, true)

/-- Row k of units, of which `none` is still to come: the row's physical bytes, one more byte for each missing unit. -/
def pendingBytes (us : List (Option (List Word64))) : Bytes :=
  (us.flatMap fun u => match u with
    | some ws => rowBytes ws
    | none => List.replicate 72 0) ++ List.replicate (us.countP (·.isNone)) 0

/-- Rows of a fill become pending (R116): row by row, under 0x07 where an expert is still to come, else 0x01. -/
def pendRows (p : Nat) (row : Nat → Nat) (us : List (Option (List Word64))) (s : State) : State :=
  (List.range (us.length / 8)).foldl (fun s k =>
    let part := (us.drop (8 * k)).take 8
    pendRow p (row k) (pendingBytes part) (if part.all (·.isSome) then 1 else 7) s) s

/-- A stream's units; its rows land in ascending order (R222). -/
def fillStream (p : Nat) (o : ShelfOp) (parity next : Nat) (s : State) : State :=
  let c := s.comb p
  let n := o.desc.toNat
  let d := descriptorAt c n
  let count := 8 * o.count.toNat
  let r := readUnits (dieOf p) o.addr.toNat count s
  let us := unitsOf count r.1
  let s := us.zipIdx.foldl (fun s u =>
    if u.1.any (·.2) then
      reportPoison (poisonOf false (operandIn next (if Desc.slotIndexed d then 0 else 1) s)
        (if Desc.slotIndexed d then slotOfRow c d (u.2 / 8) else 0) p (streamRow p n (u.2 / 8) s)) s
    else s) r.2
  let row (k : Nat) : Nat := streamRow p n k r.2 + setOffset d parity
  let s := pendRows p row (us.map some) s
  (List.range (o.count.toNat - 1)).foldl (fun s k => chainRow p (row (k + 1)) (BitVec.ofNat 22 (row k)) s) s

/-- The page that stands at unit u of stack j, by its number in the page map (R228, R313). -/
def pageAt (j u : Nat) (s : State) : Nat :=
  match s.shelf.moved.find? fun m => m.stack = j && m.toPage = u / 32768 with
  | some m => m.page
  | none => u / 32768

/-- A damaged word of the KV area (R303): a shared prefix is withdrawn from lookup at once, and a stream whose token history it
holds is closed with close_reason 5 at the next step boundary; a KV record stays poison. -/
def damageKv (j u : Nat) (s : State) : State :=
  let page := pageAt j u s
  let s := (s.str.prefixes.filter fun x => x.pages.any fun y => y.page = page).foldl (fun s x => withdrawPrefix x.index s) s
  let ends (x : Nat × Stream) : Nat × Stream :=
    if x.2.state ≠ .closed ∧ x.2.pages.any (fun y => y.layer = 4096 && y.page = page) then
      (x.1, { x.2 with event := { x.2.event with close := some (x.2.event.close.getD 5) } })
    else x
  { s with str := { s.str with live := s.str.live.map ends } }

/-- Units of one part of a gather into row position `at_` (in units), with the reports, page-ins and expert rows that it
causes (R224, R229, R232, R303). -/
def gatherPart (p v next : Nat) (d : BitVec 256) (base : Nat) (x : GatherPart)
    (acc : List (Option (List Word64)) × State) : List (Option (List Word64)) × State :=
  let j := dieOf p
  let from_ := acc.1.length
  match x with
  | .direct u n =>
    let r := readUnits j u n acc.2
    let us := unitsOf n r.1
    let s := us.zipIdx.foldl (fun s w =>
      if w.1.any (·.2) then
        damageKv j (u + w.2) (reportPoison (poisonOf false (operandIn next (if Desc.slotIndexed d then 0 else 1) s)
          (if Desc.slotIndexed d then slotOfRow (s.comb p) d ((from_ + w.2) / 8) else 0) p (base + (from_ + w.2) / 8)) s)
      else s) r.2
    (acc.1 ++ us.map some, s)
  | .expert l e n =>
    let place := (s_place acc.2 p l).length
    let note : ExpertRows := ⟨l, e, place, 8 * base + from_, n⟩
    let s := setComb p (fun c => { c with expertRows := c.expertRows ++ [note] }) acc.2
    match expertEntry j v l e s with
    | some x =>
      if x.inShelf then
        let r := readUnits j x.offset.toNat n s
        let us := unitsOf n r.1
        let s := us.foldl (fun s w => if w.any (·.2) then reportPoison (poisonOf false (operandIn next 1 s) 0 p (base + from_ / 8)) s else s) r.2
        let s := if us.any (fun w => w.any (·.2)) then setExpert j v l e (fun y => { y with inShelf := false }) s else s
        (acc.1 ++ us.map some, s)
      else (acc.1 ++ List.replicate n none, startPagein j v l e s)
    | none => (acc.1 ++ List.replicate n none, s)
where
  /-- Expert rows of the layer that the comb has noted so far. -/
  s_place (s : State) (p l : Nat) : List ExpertRows := (s.comb p).expertRows.filter fun x => x.layer = l

/-- A gather's units into consecutive rows from the descriptor's block row (R224); rows that an earlier gather filled with
experts are noted afresh. -/
def fillGather (p : Nat) (o : ShelfOp) (parity next : Nat) (g : GatherList) (s : State) : State :=
  let d := descriptorAt (s.comb p) o.desc.toNat
  let base := Desc.blockRow d + setOffset d parity
  let need := 8 * o.count.toNat
  let apart (x : ExpertRows) : Bool := decide (x.first + x.count ≤ 8 * base) || decide (8 * base + need ≤ x.first)
  let s := setComb p (fun c => { c with expertRows := c.expertRows.filter apart }) s
  let r := if g.poison then (List.replicate need (some poisonUnit), s)
    else g.parts.foldl (fun acc x => gatherPart p (vcombOn p s) next d base x acc) ([], s)
  pendRows p (fun k => base + k) r.1 r.2

/-- A SHELF instruction's transfer into the row set of `parity`, for consumers in phase `next` (R222 to R224). -/
def fillShelf (p : Nat) (o : ShelfOp) (parity next : Nat) (s : State) : State :=
  if o.gather then fillGather p o parity next (gatherList p o s) s else fillStream p o parity next s

/-- Index rows of a gather with the cycles at which they are read (log 37). -/
def indexReads (i : Issue) (g : GatherList) : List (Nat × Nat) := g.rows.zipIdx.map fun x => (x.1, i.cycle.toNat + x.2)

/-- The faults of a gather: its index rows, a reserved kind, and a list that does not fill its rows exactly (R112, R114,
R115, R224). -/
def gatherFaults (i : Issue) (o : ShelfOp) (g : GatherList) (s : State) : List FaultSite :=
  (indexReads i g).flatMap (rowFaults i 2 s) ++ bankFaults i 2 (bankCycles false (indexReads i g)) s
    ++ (if g.reserved ∨ (¬g.poison ∧ g.units ≠ 8 * o.count.toNat) then [{ combSite i 5 2 with rowAddress := o.indexRow.toNat }] else [])

/-- Destination rows of a SHELF instruction. -/
def shelfRows (p : Nat) (o : ShelfOp) (parity : Nat) (s : State) : List Nat :=
  let c := s.comb p
  let d := descriptorAt c o.desc.toNat
  (List.range o.count.toNat).map fun k =>
    (if o.gather then Desc.blockRow d + k else streamRow p o.desc.toNat k s) + setOffset d parity

/-- The first destination row beyond the scratchpad faults (R112). -/
def destFaults (i : Issue) (u : Nat) (rows : List Nat) : List FaultSite :=
  match rows.find? fun r => 10240 ≤ rowIndex r with
  | some r => rangeFaults i u r
  | none => []

/-- What a SHELF instruction does at its issue; a gather whose index rows are pending has not issued (R116). -/
def runShelf (i : Issue) (o : ShelfOp) (s : State) : State :=
  let parity := (phaseParity s + 1) % 2
  let dest := destFaults i 2 (shelfRows i.comb o parity s)
  if o.gather then
    let g := gatherList i.comb o (heard i s)
    match gatherFaults i o g s ++ dest with
    | [] =>
      let reads := readRows (s.comb i.comb) g.rows
      let s := countParity i g.rows (noteAccesses i (bankCycles false (indexReads i g)) (countReads i.comb reads s))
      let s := if g.poison then reportRows i.comb (operandIn (followingPhase s) 1 s) (fun _ => 0) reads s else s
      fillGather i.comb o parity (followingPhase s) g s
    | fs => raiseFaults fs s
  else match dest with
    | [] => fillStream i.comb o parity (followingPhase s) s
    | fs => raiseFaults fs s

/-- Index rows that a SHELF instruction reads. -/
def indexRows (p : Nat) (o : ShelfOp) (s : State) : List Nat := if o.gather then (gatherList p o s).rows else []

/-- SHELF (R222 to R224). -/
def execShelf (i : Issue) (o : ShelfOp) (s : State) : Out :=
  if canIssue i (.shelf o) s ∧ rowsReady i.comb (indexRows i.comb o s) s then
    if shelfOutside i.comb o s then .fault .shelfAddressOutside else .next (issueAt i (.shelf o) (runShelf i o) s)
  else .next s

/-! ## Landing -/

/-- A pending row is complete, and the row of its stream before it has landed (R116, R222). -/
def canLand (c : Comb) (ra : BitVec 22) : Bool :=
  c.pending.any fun x => x.ra = ra && x.data.length = 576
    && (match x.after with | some r => !rowPending c r.toNat | none => true)

/-- Words that arrive with a parity error become the poison word, and count as transport errors of the comb (R125, R138,
R217, R298). -/
def spoilRow (p : Nat) (ra : BitVec 22) (parity : List Nat) (s : State) : State :=
  let bad := (parity.filter fun w => decide (w < 64)).map fun w => (ra, w)
  countCombTransport p ra.toNat bad.length (setComb p (fun c => { c with mem := spoiled c.mem bad }) s)

/-- What awaited row ra has progressed: its timeouts start again (R179). -/
def rowProgress (p : Nat) (s : State) : State :=
  progress (.comb p) (progress (.stack (dieOf p)) { s with tide := { s.tide with holds := s.tide.holds.map fun h =>
    match h.source with | .channels n _ => if n = dieOf p then { h with quiet := 0 } else h | _ => h } })

/-- ROW_LANDS (R116, R179): a pending row whose data is complete lands, which is progress of its source. -/
def execRowLands (p : Nat) (ra : BitVec 22) (parity : List Nat) (s : State) : Out :=
  .next (if s.awake ∧ s.tide.dp = .running ∧ canLand (s.comb p) ra then
    afterStop (spoilRow p ra parity (rowProgress p (landRow p ra.toNat s)))
  else s)

/-- One unit of an awaited slice arrives in its pending row. -/
def landUnit (p pos : Nat) (ws : List Word64) (s : State) : State :=
  let put (x : Pending) : Pending :=
    if x.ra.toNat = pos / 8 ∧ 576 < x.data.length then
      { x with data := (x.data.take (72 * (pos % 8)) ++ rowBytes ws ++ x.data.drop (72 * (pos % 8) + 72)).take (x.data.length - 1) }
    else x
  setComb p (fun c => { c with pending := c.pending.map put }) s

/-- Rows of comb p that wait for an expert get its slice. -/
def landExpert (p layer expert : Nat) (us : List (List Word64)) (s : State) : State :=
  ((s.comb p).expertRows.filter fun x => x.layer = layer && x.expert = expert).foldl (fun s x =>
    us.zipIdx.foldl (fun s u => landUnit p (x.first + u.2) u.1 s) s) s

/-! ## Placing a paged-in slice (R232) -/

/-- Temperature of an expert (R233). -/
def temperatureOf (layer expert : Nat) (s : State) : Nat :=
  match s.shelf.heat.find? fun h => h.layer = layer && h.expert = expert with
  | some h => h.temperature
  | none => 0

/-- Slices in the shelf of stack j: offset, length, entry. -/
def slicesIn (i : Image) (j : Nat) (s : State) : List (Nat × Nat × ExpertEntry) :=
  ((s.stack j).experts.filter (·.inShelf)).map fun e => (e.offset.toNat, sliceUnits i e.vcomb e.layer e.expert, e)

/-- First free place of n units from unit lo to unit hi of stack j. -/
def freeWithin (i : Image) (lo hi j n : Nat) (s : State) : Option Nat :=
  let used := slicesIn i j s
  ((lo :: used.map fun x => x.1 + x.2.1).filter fun a =>
    decide (lo ≤ a) && decide (a + n ≤ hi) && used.all fun x => decide (a + n ≤ x.1) || decide (x.1 + x.2.1 ≤ a)).min?

/-- First free place in the expert area of stack j. -/
def freePlace (i : Image) (j n : Nat) (s : State) : Option Nat :=
  let lo := expertStart i s.img.place j
  freeWithin i lo (lo + expertAreaMib s * mibUnits) j n s

/-- First free place in the reserve of stack j, which a channel's retirement takes as a whole (R234). -/
def freeReserve (i : Image) (j n : Nat) (s : State) : Option Nat :=
  if (s.stack j).channelsRetired = 0 then freeWithin i reserveStart reserveEnd j n s else none

/-- Layers of the phase in force and of the next one; other kinds of phase belong to no layer (R164). -/
def layersNamed (i : Image) (s : State) : List Nat :=
  [(phasePos s).1, followingPhase s].filterMap fun k =>
    if Phase.kind (i.phase k) = 1 ∨ Phase.kind (i.phase k) = 2 then some (Phase.layer (i.phase k)) else none

/-- The slices in the shelf that neither the current phase nor the next one names, coldest first. -/
def coldest (i : Image) (j n : Nat) (s : State) : List (Nat × Nat × ExpertEntry) :=
  let used (e : ExpertEntry) : Bool := (layersNamed i s).contains e.layer &&
    ((combsOf j).any fun p => (s.comb p).expertRows.any fun x => x.layer = e.layer && x.expert = e.expert)
  sortBy (fun a b => decide (temperatureOf a.2.2.layer a.2.2.expert s ≤ temperatureOf b.2.2.layer b.2.2.expert s))
    ((slicesIn i j s).filter fun x => n ≤ x.2.1 && !used x.2.2)

/-- A slice takes the free place found, or else the place of the coldest of the slices given (R232). -/
def placeSlice (free : Option Nat) (cold : List (Nat × Nat × ExpertEntry)) (j v layer expert : Nat) (ws : List Word64)
    (s : State) : State :=
  let put (u : Nat) (s : State) : State :=
    setExpert j v layer expert (fun e => { e with inShelf := true, restage := false, offset := BitVec.ofNat 38 u })
      (setStack j (fun k => { k with mem := writeUnits k.mem u ws }) s)
  match free with
  | some u => put u s
  | none =>
    match cold with
    | [] => s
    | x :: _ => put x.1 (setExpert j x.2.2.vcomb x.2.2.layer x.2.2.expert (fun e => { e with inShelf := false }) s)

/-- A paged-in slice goes into the expert area (R232). -/
def placePagein (i : Image) (j v layer expert n : Nat) (ws : List Word64) (s : State) : State :=
  placeSlice (freePlace i j n s) (coldest i j n s) j v layer expert ws s

/-- A re-staged slice goes into the reserve, and into the expert area where that is full (R316). -/
def placeRestaged (i : Image) (j v layer expert n : Nat) (ws : List Word64) (s : State) : State :=
  placeSlice (freeReserve i j n s) ((coldest i j n s).filter fun x => decide (x.1 < reserveStart)) j v layer expert ws s

/-- An entry is the hottest of its stack's that wait for re-staging (R316). -/
def restageNext (j : Nat) (e : ExpertEntry) (s : State) : Bool :=
  e.restage && (s.stack j).experts.all fun y =>
    !y.restage || decide (temperatureOf y.layer y.expert s ≤ temperatureOf e.layer e.expert s)

/-- EXPERT_PAGEIN_COMPLETE (R232, R316): a slice lands in its stack, by a page-in or by re-staging; the map entry is
updated and the rows that wait are filled. -/
def execExpertPageinComplete (j v layer expert : Nat) (s : State) : Out :=
  .next (match s.img.image, expertEntry j v layer expert s with
    | some i, some e =>
      let n := sliceUnits i v layer expert
      if s.awake ∧ s.tide.dp ≠ .loading ∧ (e.pending ∨ restageNext j e s) then
        let ws := sliceWords i v layer expert s
        let s := setExpert j v layer expert (fun e => { e with pending := false }) s
        let s := if e.pending then placePagein i j v layer expert n ws s else placeRestaged i j v layer expert n ws s
        (combsOf j).foldl (fun s p => if vcombOn p s = v then landExpert p layer expert (unitsOf n ws) s else s) s
      else s
    | _, _ => s)

/-- EXPERT_PROMOTION_COMPLETE (R233): the copy of a promotion is complete. -/
def execExpertPromotionComplete (layer expert : Nat) (s : State) : Out :=
  .next (if s.awake then
    { s with shelf := { s.shelf with promotions := s.shelf.promotions.map fun p =>
      if p.layer = layer ∧ p.expert = expert then { p with complete := true } else p } }
  else s)

/-! ## Scrub, refresh and retirement -/

/-- An uncorrectable word of stack j that a scrub found in unit u, by region (R303). -/
def scrubRegion (j u : Nat) (s : State) : State :=
  match s.img.image with
  | none => s
  | some i =>
    if u < 64 * mibUnits then declareFailed (.stack j) s
    else match (slicesIn i j s).find? fun x => x.1 ≤ u && u < x.1 + x.2.1 with
      | some x => setExpert j x.2.2.vcomb x.2.2.layer x.2.2.expert (fun e => { e with inShelf := false }) s
      | none => damageKv j u s

/-- SHELF_SCRUB (R219): the words of a unit; corrected words are written back, others become the poison word. -/
def execShelfScrub (j u : Nat) (s : State) : Out :=
  if s.awake ∧ j < 24 ∧ (s.stack j).lost = false then
    if u < unitCount then
      let rs := readUnit (s.stack j).mem u
      let s := countUnit j u rs s
      let s := if rs.any (fun w => w.corrected || w.poison) then
        setStack j (fun k => { k with mem := writeUnits k.mem u (carried rs) }) s else s
      .next (afterStop (if rs.any (·.uncorrectable) then scrubRegion j u s else s))
    else .fault .shelfAddressOutside
  else .next s

/-- Phase cycle c lies in the refresh window of its tide (R164, R166). -/
def refreshWindow (c : Nat) (s : State) : Bool :=
  match s.img.image with
  | some i =>
    let p := i.phase (phasePos s).1
    let t := c - tideBase s
    decide (Phase.refreshStart p ≤ t) && decide (t < Phase.refreshStart p + Phase.refreshCycles p)
  | none => false

/-- A refresh command of stack j while the counters count, at phase cycle c: in the refresh window, or outside it as the extra
refresh of a hot stack. -/
def refreshAt (j c : Nat) (s : State) : State :=
  let inside := refreshWindow c s
  if ahead c s ∧ (inside ∨ (s.stack j).hot) then
    setStack j (fun k => { k with refreshes := k.refreshes + 1
                                  refreshedAt := if inside then k.refreshedAt else some s.tide.number }) (advanceTo c s)
  else s

/-- SHELF_REFRESH (R166): at its phase cycle while the counters count; in slack, and while no tide runs, at any time. -/
def execShelfRefresh (j : Nat) (point : BitVec 13) (s : State) : Out :=
  .next (if s.awake ∧ j < 24 ∧ (s.stack j).lost = false then
    (if counting s then refreshAt j point.toNat s else setStack j (fun k => { k with refreshes := k.refreshes + 1 }) s)
  else s)

/-- CHANNEL_RETIREMENT (R234, R311): the 8th uncorrectable word of an epoch retires the channel at once. -/
def execChannelRetirement (j c : Nat) (s : State) : Out :=
  .next (if s.awake ∧ j < 24 ∧ c < 32 ∧ (s.stack j).lost = false ∧ bit (s.stack j).channelsRetired c = false
      ∧ 8 ≤ nth (s.stack j).uncorrectableEpoch c 0 then
    retireChannel j c s
  else s)

end Sys2Proof.Machine
end

