-- ==== Sys2Proof/Machine/Fabric.lean ====
section
/-! DEFINITION. The Thrumbuson fabric (R136 to R152): frames, parity and retry, flits on their way out and skW entries on
their way in, the rounding at the root (R81) and the envelope check of completed rows (R305 to R307). -/

namespace Sys2Proof.Machine

/-! ## Frames (R137 to R139) -/

/-- Odd parity of a payload, bit i for byte i (R138). -/
def parityOf (payload : Bytes) : BitVec 128 :=
  BitVec.ofNat 128 ((payload.zipIdx.map fun p => if weight8 p.1.toNat % 2 = 0 then 2 ^ p.2 else 0).sum)

/-- Header of a frame (R137). -/
def linkHeader (f : LinkFrame) : BitVec 96 :=
  f.kind ++ f.flow ++ f.flitIndex ++ f.seq ++ f.ackSeq ++ BitVec.ofBool f.nak ++ BitVec.ofBool f.last ++ f.reserved

/-- The 156 bytes that the CRC covers (R137). -/
def linkBytes (f : LinkFrame) : Bytes :=
  (f.payload ++ List.replicate 128 0).take 128 ++ bytesLE 16 f.parity.toNat ++ bytesLE 12 (linkHeader f).toNat

/-- A frame with its CRC. -/
def sealFrame (f : LinkFrame) : LinkFrame := { f with crc := crc32 (linkBytes f) }

/-- A frame that a direction sends now: sequence number, acknowledgement and nak are its own (R137, R139). -/
def frameFor (link : Nat) (dir : Bool) (kind : BitVec 4) (flow : BitVec 16) (index : Nat) (last : Bool) (payload : Bytes)
    (parity : BitVec 128) (s : State) : LinkFrame :=
  let back := s.link link (!dir)
  sealFrame ⟨kind, flow, BitVec.ofNat 20 index, (s.link link dir).nextSeq, back.expectSeq - 1, back.nak, last, 0, payload,
    parity, 0⟩

/-- A flit leaves on a link direction and stands in the replay buffer of 4,096 frames (R139). -/
def sendFlit (link : Nat) (dir : Bool) (kind : BitVec 4) (flow : BitVec 16) (index : Nat) (last : Bool) (payload : Bytes)
    (parity : BitVec 128) (s : State) : State :=
  let f := frameFor link dir kind flow index last payload parity s
  let s := setLink link dir (fun d => { d with nextSeq := d.nextSeq + 1, replay := lastN 4096 (d.replay ++ [f]) }) s
  { s with outbox := s.outbox ++ [.linkFrame link dir f] }

/-- An idle frame: not numbered, it carries acknowledgement and nak (R139; log 28). -/
def sendIdle (link : Nat) (dir : Bool) (s : State) : State :=
  let f := frameFor link dir 0 0 0 false (List.replicate 128 0) (parityOf (List.replicate 128 0)) s
  { s with outbox := s.outbox ++ [.linkFrame link dir f] }

/-- Resend what stands in a direction's replay buffer, in order (R139). -/
def resendFrames (link : Nat) (dir : Bool) (s : State) : State :=
  let back := s.link link (!dir)
  let fs := (s.link link dir).replay.map fun f => sealFrame { f with ackSeq := back.expectSeq - 1, nak := back.nak }
  let s := setLink link dir (fun d => { d with replay := fs, retriesTotal := satInc d.retriesTotal }) s
  { s with outbox := s.outbox ++ fs.map fun f => .linkFrame link dir f }

/-- Frames that an acknowledgement leaves in the replay buffer. -/
def pruneReplay (ack : BitVec 16) (fs : List LinkFrame) : List LinkFrame := fs.filter fun f => decide ((f.seq - ack - 1).toNat < 4096)

/-- The words of a flit, with the number of words whose parity does not fit (R138). -/
def flitWords (payload : Bytes) (parity : BitVec 128) : List Word64 × Nat :=
  let ws := (List.range 16).map fun w =>
    let bs := ((payload.drop (8 * w)).take 8)
    let ps := bits parity (8 * w + 7) (8 * w)
    if ps = bits (parityOf bs) 7 0 then ((BitVec.ofNat 64 (natLE bs), false), false)
    else ((0, true), !(bs.all (· = 0) && ps = 0))
  (ws.map (·.1), ws.countP (·.2))

/-! ## Flows at a port (R143, R144, R149) -/

/-- Virtual combs of a flow on physical combs of die m. -/
def flowCombs (fl : BitVec 256) (m : Nat) (s : State) : List Nat :=
  (combsOf m).filter fun p => mapped p s && (Flow.vcombs fl).contains (vcombOn p s)

/-- The subtree of die m holds a comb of the flow. -/
def subtreeHolds (fl : BitVec 256) (m : Nat) (s : State) : Bool :=
  (List.range 24).any fun k => !(flowCombs fl k s).isEmpty && ((pathToRoot s.img.parents k).getD []).contains m

/-- Child dies of a port whose subtree holds a comb of the flow, by direction. -/
def flowChildren (fl : BitVec 256) (n : Nat) (s : State) : List Nat :=
  (List.range 4).filter fun d => match neighbour n d with
    | some m => m != 24 && parentOf s.img.parents m = some n && subtreeHolds fl m s
    | none => false

/-- Inputs of a port for a flow: quadrant q of its own combs as q, the child in direction d as 4 + d (R149). -/
def portInputs (fl : BitVec 256) (n : Nat) (s : State) : List Nat :=
  (if n = 24 then [] else (flowCombs fl n s).map (· % 4)) ++ (flowChildren fl n s).map (4 + ·)

/-- Port n. -/
def State.port (s : State) (n : Nat) : Port := nth s.fabric.ports n Port.reset

/-- s with a port changed. -/
def setDiePort (n : Nat) (f : Port → Port) (s : State) : State :=
  { s with fabric := { s.fabric with ports := upd s.fabric.ports n f } }

/-- Record of a flow. -/
def flowRecord (f : Nat) (s : State) : BitVec 256 := match s.img.image with | some i => i.flow f | none => 0

/-- A flow of this kind belongs to the phase in force (R142). -/
def flowRuns (kind f : Nat) (s : State) : Bool :=
  match s.img.image with
  | some i => decide (f < i.flowCount) && Flow.kind (i.flow f) = kind && Flow.phase (i.flow f) = (phasePos s).1
  | none => false

/-- A fault at a die port or the root (R214). -/
def portSite (n rule flow : Nat) (detail : Nat) (s : State) : FaultSite :=
  { rule := rule, die := if n = 24 then 0xFF else n, flow := flow, unit := if n = 24 then 6 else 3, detail := detail,
    cycle := phaseCycle s }

/-! ## The root (R81) -/

/-- Format and q of an output. -/
def outputOf (o : OutRef) (s : State) : BitVec 1536 := match s.img.image with | some i => i.layer o.layer.toNat | none => 0

/-- What a flow carries. -/
def namedFlow (f : Nat) (s : State) : Option NamedFlow := s.fabric.named.find? fun x => x.flow.toNat = f

/-- The root rounds completed elements of a flow once each (R81). -/
def rootTakes (flow : Nat) (es : List RedEntry) (s : State) : State :=
  match namedFlow flow s with
  | none => s
  | some x =>
    let l := outputOf x.out s
    let q := Layer.q l x.out.out.toNat
    let outs := es.map fun e =>
      let w : SkW := ⟨e.sum, e.overflow, e.poison⟩
      let r := rootRound (Layer.outFormat l) q w
      let window := e.overflow || decide (e.sum > 2 ^ 63 - 1) || decide (e.sum < -(2 ^ 63))
      (⟨BitVec.ofNat 16 flow, e.element, BitVec.ofNat 32 r.1, e.poison, r.2, window⟩ : RootOut)
    let events := outs.countP (·.event)
    countLayer x.out.layer.toNat (fun r => { r with rangeEvents := r.rangeEvents + BitVec.ofNat 64 events })
      { s with fabric := { s.fabric with outs := s.fabric.outs ++ outs } }

/-! ## Envelopes (R305 to R307) -/

/-- The stream record in a slot. -/
def slotStream (k : Nat) (s : State) : Option (Nat × Stream) :=
  match nth s.str.slots k none with
  | some x => (liveAt x.1 s).map fun t => (x.1, t)
  | none => none

/-- The rows that make up an output's vector in slot k: flows of the output whose rows hold the slot, in ascending order,
with the row's place in the flow (log 28). -/
def rowParts (o : OutRef) (k : Nat) (s : State) : List (NamedFlow × Nat) :=
  (sortBy (fun a b => decide (a.1.flow.toNat ≤ b.1.flow.toNat))
    ((s.fabric.named.filter fun x => x.out = o && decide (x.first ≤ k)
      && decide ((k - x.first) * x.width < Flow.elements (flowRecord x.flow.toNat s))).map fun x => (x, k - x.first)))

/-- The output's elements in slot k that the root has formed, in order. -/
def rowOutputs (o : OutRef) (k : Nat) (s : State) : List RootOut :=
  (rowParts o k s).flatMap fun x =>
    let mine := s.fabric.outs.filter fun y => y.flow = x.1.flow && decide (x.2 * x.1.width ≤ y.element)
      && decide (y.element < (x.2 + 1) * x.1.width)
    sortBy (fun a b => decide (a.element ≤ b.element)) mine

/-- A slot's row of an output is complete. -/
def rowComplete (o : OutRef) (k : Nat) (s : State) : Bool :=
  (rowOutputs o k s).length = Layer.elements (outputOf o s) o.out.toNat

/-- Causes by which a group of outputs violates its envelope record (R305, R310). -/
def groupCauses (fmt : Nat) (env : BitVec 128) (ys : List RootOut) : List Nat :=
  let value (y : RootOut) : Dyadic := ((if fmt = 9 then fp32 else bf16).input y.bits.toNat).1
  let vs := ys.map value
  let lim (hi lo : Nat) : Dyadic := f32 (BitVec.ofNat 32 (rfield env hi lo))
  let squares := vs.foldl (fun a v => a.add (v.mul v)) ⟨0, 0⟩
  let bound (x : Dyadic) : Dyadic := (x.mul x).mul ⟨ys.length, 0⟩
  (if (lim 3 0).lt (largest vs) then [1] else [])
    ++ (if (bound (lim 11 8)).lt squares then [2] else [])
    ++ (if squares.lt (bound (lim 7 4)) then [3] else [])
    ++ (if ys.any (fun y => y.event && !y.window) then [4] else [])
    ++ (if ys.any (·.window) then [5] else [])

/-- Virtual combs that contribute to an output of the phase (R143, R308). -/
def contributors (o : OutRef) (s : State) : List Nat :=
  ((s.fabric.named.filter fun x => x.out = o).flatMap fun x => Flow.vcombs (flowRecord x.flow.toNat s)).dedup

/-- An output of the phase holds poison in slot k. -/
def poisonedSlot (k : Nat) (s : State) : Bool := s.fabric.named.any fun x => (rowOutputs x.out k s).any (·.poison)

/-- Slot k's violation of this phase is taken back: a poisoned row is never also suspect in the same phase (R296). -/
def dropViolation (k : Nat) (s : State) : State :=
  { s with err := { s.err with raised := s.err.raised.filter fun r => !(r.1.slot.toNat = k && r.1.phase.toNat = (phasePos s).1) } }

/-- A violation of slot k is staged for the settling of the step: the first violating phase of a row counts, further
violating outputs of that phase join it (R307, R310). -/
def raiseViolation (k : Nat) (o : OutRef) (cause groups : Nat) (outs : List (BitVec 32)) (s : State) : State :=
  match slotStream k s with
  | none => s
  | some x =>
    let phase := (phasePos s).1
    match s.err.raised.findIdx? fun r => r.1.slot.toNat = k with
    | some j =>
      let join (r : Suspect × Repeat) : Suspect × Repeat :=
        if r.1.phase.toNat = phase then
          ({ r.1 with cause := BitVec.ofNat 4 (min r.1.cause.toNat cause), groups := satAdd r.1.groups groups },
           { r.2 with outputs := r.2.outputs ++ outs, contributors := (r.2.contributors ++ contributors o s).dedup })
        else r
      { s with err := { s.err with raised := upd s.err.raised j join } }
    | none =>
      let a : Suspect := ⟨0, s.tide.number, x.2.id, x.2.mailbox, BitVec.ofNat 12 phase, o.layer, o.out, BitVec.ofNat 8 k,
        BitVec.ofNat 4 cause, 0, 0xFF, satAdd 0 groups⟩
      let b : Repeat :=
        { serial := 0, tide := s.tide.number, digest := s.img.digest, place := s.img.place, outputs := outs
          contributors := contributors o s, phase := phase
          input := s.fabric.inputs.filter fun f => f.slot = k
          index := (s.fabric.index.filter fun f => f.1 = 2).map (·.2)
          experts := (lookup s.fabric.actual o.layer.toNat).getD [] }
      { s with err := { s.err with raised := s.err.raised ++ [(a, b)] } }

/-- The check of a completed row of an output in slot k; a row that carries poison is not checked (R296, R305). -/
def checkRow (o : OutRef) (k : Nat) (s : State) : State :=
  match s.img.image with
  | none => s
  | some i =>
    let l := i.layer o.layer.toNat
    let ys := rowOutputs o k s
    let groups := (List.range ((ys.length + 255) / 256)).map fun g =>
      let part := (ys.drop (256 * g)).take 256
      groupCauses (Layer.outFormat l) (nth i.envelopes (Layer.envelope l o.out.toNat + g) 0) part
    if poisonedSlot k s then dropViolation k s
    else match groups.flatten with
    | [] => s
    | c :: cs => raiseViolation k o (cs.foldl min c) (groups.countP (!·.isEmpty)) (ys.map (·.bits)) s

/-- Rows of a flow that the elements first..first+n-1 completed are checked. -/
def checkRows (flow first n : Nat) (before s : State) : State :=
  match namedFlow flow s with
  | none => s
  | some x =>
    let w := max 1 x.width
    let slots := (List.range ((first + n + w - 1) / w - first / w)).map fun r => x.first + first / w + r
    slots.foldl (fun s k => if (slotStream k s).isSome ∧ rowComplete x.out k s ∧ ¬rowComplete x.out k before then checkRow x.out k s else s) s

/-! ## Reduction (R147 to R149, R152) -/

/-- Entries from the next element to forward that are complete and consecutive. -/
def readyRun (ins : List Nat) : Nat → List RedEntry → List RedEntry
  | _, [] => []
  | e, x :: xs => if x.element = e ∧ ins.all (fun n => x.inputs.contains n) then x :: readyRun ins (e + 1) xs else []

/-- Payload of a reduction flit (R148). -/
def reductionPayload (es : List RedEntry) : Bytes :=
  let first := match es with | e :: _ => e.element | [] => 0
  let b := bytesLE 4 first ++ bytesLE 1 es.length ++ bytesLE 3 0
    ++ es.flatMap fun e => SkW.bytes ⟨e.sum, e.overflow, e.poison⟩
  b ++ List.replicate (128 - b.length) 0

/-- Flits of completed entries go towards the root (R149). -/
def sendEntries (n flow total : Nat) : Nat → List RedEntry → State → State
  | 0, _, s => s
  | k + 1, es, s =>
    let part := es.take 12
    match part with
    | [] => s
    | e :: _ =>
      let d := (nth s.img.parents n 0xFF).toNat
      let l := linkTowards n d
      let payload := reductionPayload part
      let s := sendFlit l.1 l.2 2 (BitVec.ofNat 16 flow) (e.element / 12) (e.element + part.length = total) payload (parityOf payload) s
      sendEntries n flow total k (es.drop 12) s

/-- Next element of a flow that a port forwards. -/
def forwardedAt (flow : Nat) (q : Port) : Nat := (lookup q.forwarded (BitVec.ofNat 16 flow)).getD 0

/-- A port forwards what is complete: full flits, the last flit of the flow, and at the root every element (R149). -/
def flushPort (n flow : Nat) (s : State) : State :=
  let fl := flowRecord flow s
  let q := s.port n
  let from_ := forwardedAt flow q
  let mine := q.entries.filter fun e => e.flow.toNat = flow
  let ready := readyRun (portInputs fl n s) from_ (sortBy (fun a b => decide (a.element ≤ b.element)) mine)
  let count := if n = 24 ∨ from_ + ready.length = Flow.elements fl then ready.length else ready.length / 12 * 12
  if count = 0 then s
  else
    let go := ready.take count
    let gone (e : RedEntry) : Bool := e.flow.toNat = flow && decide (e.element < from_ + count)
    let s1 := setDiePort n (fun q => { q with entries := q.entries.filter (fun e => !gone e)
                                              forwarded := assign q.forwarded (BitVec.ofNat 16 flow) (from_ + count) }) s
    if n = 24 then checkRows flow from_ count s (rootTakes flow go s1)
    else sendEntries n flow (Flow.elements fl) go.length go s1

/-- One entry added into a port's reduction buffer: exact, flags ORed (R80, R149). -/
def addEntry (flow element input : Nat) (x : SkW) (es : List RedEntry) : List RedEntry :=
  let f : BitVec 16 := BitVec.ofNat 16 flow
  if es.any (fun e => e.flow = f && e.element = element) then
    es.map fun e =>
      if e.flow = f ∧ e.element = element then
        ⟨f, element, e.sum + x.sum, e.overflow || x.overflow, e.poison || x.poison, e.inputs ++ [input]⟩
      else e
  else es ++ [⟨f, element, x.sum, x.overflow, x.poison, [input]⟩]

/-- The entries of one flit reach port n on an input (R149), with the arrival and credit rules (R151, R152). -/
def takePart (n input flow first : Nat) (xs : List SkW) (s : State) : State :=
  let fl := flowRecord flow s
  let q := s.port n
  let f : BitVec 16 := BitVec.ofNat 16 flow
  let bad := !(portInputs fl n s).contains input || decide (first < forwardedAt flow q)
    || decide (Flow.elements fl < first + xs.length)
    || q.entries.any fun e => e.flow = f && decide (first ≤ e.element) && decide (e.element < first + xs.length) && e.inputs.contains input
  if s.tide.dp ≠ .running then s
  else if bad then scheduleFault (portSite n 9 flow 0 s) s
  else
    let s := setDiePort n (fun q => { q with entries := xs.zipIdx.foldl (fun es x => addEntry flow (first + x.2) input x.1 es) q.entries }) s
    let s := flushPort n flow s
    let q := s.port n
    let held := q.entries.countP fun e => e.flow = f
    if n ≠ 24 ∧ (Flow.allowance fl < held ∨ 131072 < q.entries.length) then scheduleFault (portSite n 7 flow held s) s else s

/-- Consecutive entries of a flow reach port n flit by flit, twelve at a time: what is complete goes on before the next flit
(R149, R151). -/
def takeEntries (n input flow first : Nat) (xs : List SkW) (s : State) : State :=
  (List.range ((xs.length + 11) / 12)).foldl (fun s k => takePart n input flow (first + 12 * k) ((xs.drop (12 * k)).take 12) s) s

/-! ## Transport errors (R298, R311) -/

/-- A port's transport errors; above the limit at the root it is retired (R311). -/
def countPortTransport (n flow k : Nat) (s : State) : State :=
  if k = 0 then s
  else
    let s := reportPoison (poisonOf true 1 0 (96 + n) flow) (setDiePort n (fun q => { q with transportErrors := q.transportErrors + k }) s)
    if n = 24 ∧ bits s.live.w10 15 8 < (s.port n).transportErrors then declareFailed .root s else s

/-! ## Broadcast (R144 to R146) -/

/-- Row of a scratchpad in which flit f of a broadcast lands: the fixed part from block_row, the tail from fallback_row
(R145). -/
def broadcastRow (c : Comb) (fl : BitVec 256) (x : Receive) (f : Nat) : Nat :=
  let d := descriptorAt c x.desc.toNat
  if f / 4 < Flow.rows fl then Desc.blockRow d + f / 4 else Desc.fallbackRow d + (f / 4 - Flow.rows fl)

/-- Rows of the tail of a broadcast that become pending with its FABRIC receive: those for which link time is reserved
(R146). -/
def tailRows (c : Comb) (fl : BitVec 256) (desc : BitVec 10) : List Nat :=
  (List.range (Flow.tailRows fl)).map (Desc.fallbackRow (descriptorAt c desc.toNat) + ·)

/-- A flow has ended at its flit f: the rows of its tail that no flit fills are pending no longer (R145, R146). -/
def endTail (fl : BitVec 256) (x : Receive) (f : Nat) (c : Comb) : Comb :=
  let unused := (tailRows c fl x.desc).drop (f / 4 + 1 - Flow.rows fl)
  { c with pending := c.pending.filter fun y => !unused.contains y.ra.toNat }

/-- A flit's bytes join its row, which is pending until its last flit lands; before the flow ends the row after it is
pending too (R145, R146). -/
def deliverFlit (p flow : Nat) (y : Staged) (s : State) : State :=
  let fl := flowRecord flow s
  let c := s.comb p
  match c.receives.find? fun x => x.flow.toNat = flow with
  | some x =>
    if x.flits = y.flit ∧ x.ended = false then
      let ra := broadcastRow c fl x y.flit
      let cause (f : Nat) : BitVec 8 := if f / 4 < Flow.rows fl then 3 else 5
      let old := match c.pending.find? fun z => z.ra.toNat = ra with | some z => z.data | none => []
      let s := pendRow p ra ((if y.flit % 4 = 0 then [] else old) ++ y.data) (cause y.flit) s
      let s := if y.last then setComb p (endTail fl x y.flit) s
        else if y.flit % 4 = 3 then pendRow p (broadcastRow c fl x (y.flit + 1)) [] (cause (y.flit + 1)) s
        else s
      let s := progress (.comb p) s
      setComb p (fun c => { c with receives := c.receives.map fun z =>
        if z.flow.toNat = flow then { z with flits := z.flits + 1, ended := y.last } else z }) s
    else s
  | none => s

/-- Staged flits that an own receiver of the die has still to take. -/
def pruneStaging (n : Nat) (s : State) : State :=
  let waits (x : Staged) : Bool :=
    (flowCombs (flowRecord x.flow.toNat s) n s).any fun p => match (s.comb p).receives.find? fun y => y.flow = x.flow with
      | some y => decide (y.flits ≤ x.flit)
      | none => true
  setDiePort n (fun q => { q with staging := q.staging.filter waits }) s

/-- What stands staged is delivered in order to a comb that receives (R151). -/
def takeStaged (p flow : Nat) (s : State) : State :=
  let mine := (s.port (dieOf p)).staging.filter fun x => x.flow.toNat = flow
  let s := (sortBy (fun a b => decide (a.flit ≤ b.flit)) mine).foldl (fun s x => deliverFlit p flow x s) s
  pruneStaging (dieOf p) s

/-- Rows that staged flits of a flow fill. -/
def stagedRows (q : Port) (flow : Nat) : Nat := (((q.staging.filter fun x => x.flow.toNat = flow).map fun x => x.flit / 4).dedup).length

/-- Rows that a port stages in all. -/
def stagedTotal (q : Port) : Nat := ((q.staging.map fun x => (x.flow, x.flit / 4)).dedup).length

/-- A broadcast flit at die n: forwarded on child links, delivered to own receivers, staged for those whose FABRIC has not
issued (R144, R145, R151, R152). -/
def broadcastFlit (n flow f : Nat) (x : LinkFrame) (s : State) : State :=
  let fl := flowRecord flow s
  let s := (flowChildren fl n s).foldl (fun s d =>
    let l := linkTowards n d
    sendFlit l.1 l.2 1 x.flow f x.last x.payload x.parity s) s
  let own := flowCombs fl n s
  if x.last ∧ f % 4 ≠ 3 then scheduleFault (portSite n 5 flow 0 s) s
  else if own = [] then s
  else
    let ws := flitWords x.payload x.parity
    let s := own.foldl (fun s p => countCombTransport p flow ws.2 s) s
    if s.tide.dp ≠ .running then s else
    let s := setDiePort n (fun q => { q with staging := q.staging ++ [⟨x.flow, f, x.last, rowBytes ws.1⟩] }) s
    let s := own.foldl (fun s p => takeStaged p flow s) s
    let held := stagedRows (s.port n) flow
    if Flow.allowance fl < held ∨ 2048 < stagedTotal (s.port n) then scheduleFault (portSite n 7 flow held s) s else s

end Sys2Proof.Machine
end

