-- ==== Sys2Proof/Machine/Comb.lean ====
section
/-! DEFINITION. The meanings of the tide-program instructions of the cell array, the row engine, the fabric port, the
rotation unit and the slot interface (R99 to R107, R113 to R121, R131 to R134, R145, R147), fallback replay (R101 to R104),
mending and scrub of a comb (R126 to R128, R302). -/

namespace Sys2Proof.Machine

/-! ## Operand blocks -/

/-- A block has fallen back. -/
def OperandBlock.isFallback : OperandBlock → Bool
  | .fallback _ => true
  | _ => false

/-! ## Sides of a DOT (R105, R134) -/

/-- The slot of vector v: lane vector r belongs to slot first + r; serial column c to slot first + min(c, count - 1)
(R134; log 28). -/
def sideSlot (serial : Bool) (sl : SlotOp) (v : Nat) : Nat := sl.first.toNat + (if serial then min v (sl.count.toNat - 1) else v)

/-- A vector computes: its slot, if it has one, is occupied (R100, R134). -/
def sideActive (serial : Bool) (d : BitVec 256) (sl : SlotOp) (v : Nat) (s : State) : Bool :=
  !Desc.slotIndexed d || ((serial || decide (v < sl.count.toNat)) && (nth s.str.slots (sideSlot serial sl v) none).isSome)

/-- A side of a DOT: serial or not, descriptor, row-set offset, blocks per vector, the vectors that compute. -/
structure DotSide where
  serial : Bool
  d : BitVec 256
  off : Nat
  nb : Nat
  vectors : List Nat

/-- A side of DOT o on comb p under slot declaration sl. -/
def dotSide (serial : Bool) (p : Nat) (o : DotOp) (sl : SlotOp) (s : State) : DotSide :=
  let d := descriptorAt (s.comb p) (if serial then o.serialDesc else o.laneDesc).toNat
  let n := if serial then (dotShape o).2.1 else (dotShape o).1
  ⟨serial, d, setOffset d (phaseParity s), dotBlocks o, (List.range n).filter fun v => sideActive serial d sl v s⟩

/-- Rows that a side reads. -/
def sideRows (x : DotSide) : List Nat := (x.vectors.flatMap fun v => vectorRows x.d x.off x.nb v).dedup

/-- Every block of a side, with its vector and place. -/
def sideBlocks (m : Memory) (x : DotSide) : List (Nat × Nat × BlockRead) :=
  x.vectors.flatMap fun v => (List.range x.nb).map fun k => (v, k, readBlock m x.d x.off x.nb v k)

/-- A narrow block's scale code outside its window faults (R85, R134). -/
def windowFaults (i : Issue) (sl : SlotOp) (x : DotSide) (bs : List (Nat × Nat × BlockRead)) : List FaultSite :=
  match bs.find? fun b => outsideWindow (Desc.format x.d) b.2.2.scale (Desc.lo x.d) (Desc.hi x.d) with
  | some b =>
    [{ combSite i 0x0B 0 with
        slot := if Desc.slotIndexed x.d then sideSlot x.serial sl b.1 else 0
        detail := b.2.2.scale * 2 ^ 24 + code 8 (Desc.lo x.d) * 2 ^ 16 + code 8 (Desc.hi x.d) * 2 ^ 8 }]
  | none => []

/-- The vectors of a side that hold poison are reported (R298). -/
def reportSide (p : Nat) (sl : SlotOp) (x : DotSide) (bs : List (Nat × Nat × BlockRead)) (s : State) : State :=
  let bad := ((bs.filter fun b => b.2.2.poison).map (·.1)).dedup
  let k := (phasePos s).1
  if Desc.slotIndexed x.d then
    bad.foldl (fun s v => reportPoison (poisonOf false (operandIn k 0 s) (sideSlot x.serial sl v) p (Desc.blockRow x.d)) s) s
  else if bad = [] then s else reportPoison (poisonOf false (operandIn k 1 s) 0 p (Desc.blockRow x.d)) s

/-! ## Cells -/

/-- A cell before its first beat: base exponent b = q - 32 (R78). -/
def freshCell (o : OutRef) (s : State) : Cell := ⟨0, Layer.q (outputOf o s) o.out.toNat - 32, none, false, false⟩

/-- The cells of a region changed by f, cell (r, c, j) for active r and c. -/
def eachCell (p region : Nat) (fresh : Cell) (rs cs : List Nat) (slices : Nat) (f : Nat → Nat → Nat → Cell → Cell) (s : State) :
    State :=
  let keys := rs.flatMap fun r => cs.flatMap fun c => (List.range slices).map fun j => (region, r, c, j)
  setComb p (fun k => { k with cells := keys.foldl (fun cells key =>
    let old := (lookup cells key).getD fresh
    let new := f key.2.1 key.2.2.1 key.2.2.2 old
    if new = old then cells else assign cells key new) k.cells }) s

/-- A block of a side's reads. -/
def blockAt (bs : List (Nat × Nat × BlockRead)) (v k : Nat) : BlockRead :=
  match bs.find? fun b => b.1 = v && b.2.1 = k with
  | some b => b.2.2
  | none => ⟨.zero, 0, false⟩

/-- The lane groups of a DOT in cell (r, c, j): blocks that have fallen back wait for their replay (R101). -/
def dotCell (o : DotOp) (limit : Nat) (ls ss : List (Nat × Nat × BlockRead)) (r c j : Nat) (x : Cell) : Cell :=
  (List.range o.laneGroups.toNat).foldl (fun x g =>
    let k := (j * o.laneGroups.toNat + g) * 2
    let a := blockAt ls r k
    let b := blockAt ss c k
    let a' := blockAt ls r (k + 1)
    let b' := blockAt ss c (k + 1)
    let y := x.group limit (halfSegments a.block b.block) (halfSegments a'.block b'.block)
    { y with poison := y.poison || a.poison || b.poison || a'.poison || b'.poison }) x

/-! ## Fallback replay (R101 to R104) -/

/-- Lane groups and halves of a DOT in which an operand has fallen back, with their replay cycles (R101, R102). -/
def replaysOf (i : Issue) (o : DotOp) (out : OutRef) (sl : SlotOp) (l x : DotSide) (ls ss : List (Nat × Nat × BlockRead)) :
    List Replay :=
  let n := o.laneGroups.toNat
  let fell (bs : List (Nat × Nat × BlockRead)) (g h : Nat) : Bool :=
    bs.any fun b => b.2.1 / 2 % n = g && b.2.1 % 2 = h && b.2.2.block.isFallback
  let fb (d : BitVec 256) : Nat := if Desc.fallbackBf16 d then 8 else 6
  (List.range (2 * n)).filterMap fun k =>
    let a := fell ls (k / 2) (k % 2)
    let b := fell ss (k / 2) (k % 2)
    if a ∨ b then
      some ⟨i.pc, o, out, sl, k / 2, k % 2,
        groupCycles (if a then fb l.d else Desc.format l.d) (if b then fb x.d else Desc.format x.d)⟩
    else none

/-- Rows of the fallback entries that a replay entry fetches, in order (R102). -/
def replayRows (p : Nat) (e : Replay) (s : State) : List Nat :=
  ([false, true].flatMap fun serial =>
    let x := dotSide serial p e.op e.slot s
    x.vectors.flatMap fun v => (List.range (dotShape e.op).2.2).flatMap fun j =>
      match (readBlock (s.comb p).mem x.d x.off x.nb v ((j * e.op.laneGroups.toNat + e.group) * 2 + e.half)).block with
      | .fallback n => rowsOfBytes ((Desc.fallbackRow x.d + x.off) * 512 + 64 * n) 64
      | _ => []).dedup

/-- A replay entry is computed: in every cell one of whose operands fell back, with its fallback entries (R102, R104). -/
def replayEntry (p : Nat) (e : Replay) (s : State) : State :=
  let s := countReads p (readRows (s.comb p) (replayRows p e s)) s
  let m := (s.comb p).mem
  let l := dotSide false p e.op e.slot s
  let x := dotSide true p e.op e.slot s
  let fb := if Desc.fallbackBf16 x.d then 8 else 6
  let cell (r c j : Nat) (k : Cell) : Cell :=
    let n := (j * e.op.laneGroups.toNat + e.group) * 2 + e.half
    let a := readBlock m l.d l.off l.nb r n
    let b := readBlock m x.d x.off x.nb c n
    if a.block.isFallback ∨ b.block.isFallback then
      let a' := replaced m l.d l.off a
      let b' := replaced m x.d x.off b
      let seg := halfSegments a'.block b'.block
      let y := k.group (runLimit (if b.block.isFallback then fb else Desc.format x.d)) (if e.half = 0 then seg else [])
        (if e.half = 0 then [] else seg)
      { y with poison := y.poison || a'.poison || b'.poison }
    else k
  let s := eachCell p (regionOf e.op.quadMode e.op.quad) (freshCell e.out s) l.vectors x.vectors (dotShape e.op).2.2 cell s
  setComb p (fun c => { c with record := { c.record with replayCycles := satAdd c.record.replayCycles e.cycles } }) s

/-- A layer causes fallback slack, once an epoch (02, section Counters). -/
def markLayerSlack (l : Nat) (s : State) : State :=
  if s.err.layerSlack.contains l then s
  else { s with err := { s.err with layerSlack := s.err.layerSlack ++ [l]
                                    layers := upd s.err.layers l fun r => { r with slackEpochs := satInc r.slackEpochs } } }

/-- Slack under "fallback beyond headroom" (R103, R177): a known hold, beside those of other combs at the same phase cycle
(R180). -/
def fallbackSlack (p n : Nat) (source : Source) (layers : List Nat) (s : State) : State :=
  if n = 0 ∨ s.tide.dp ≠ .running then s
  else
    let s := setComb p (fun c => { c with record := { c.record with slackCycles := satAdd c.record.slackCycles n } }) s
    raiseHold 5 source (some n) (layers.foldl (fun s l => markLayerSlack l s) s)

/-- An entry joins the queue of 4,096; a full queue is relieved of its oldest entry at once (R103). -/
def queueReplay (p : Nat) (e : Replay) (s : State) : State :=
  let s := if (s.comb p).fallback.length < 4096 then s
    else match (s.comb p).fallback with
      | [] => s
      | x :: rest =>
        fallbackSlack p x.cycles .none [x.out.layer.toNat] (replayEntry p x (setComb p (fun c => { c with fallback := rest }) s))
  setComb p (fun c => { c with fallback := c.fallback ++ [e] }) s

/-! ## DOT and EMIT -/

/-- Rows of a DOT's two sides, with the cycles at which the feeders read them (log 37). -/
def dotReads (i : Issue) (o : DotOp) (s : State) : List (Nat × Nat) :=
  let sl := slotDeclaration (s.comb i.comb)
  let l := dotSide false i.comb o sl s
  let x := dotSide true i.comb o sl s
  let beats := beatsOf l.d x.d o
  spreadRows i.cycle.toNat beats (sideRows l) ++ spreadRows i.cycle.toNat beats (sideRows x)

/-- Rows of a DOT's two sides. -/
def dotRows (i : Issue) (o : DotOp) (s : State) : List Nat := (dotReads i o s).map (·.1)

/-- Beats of an instruction in the logical quadrants that it drives (R421). -/
def countBeats (p region n : Nat) (s : State) : State :=
  let add (q : List Nat) : List Nat := q.zipIdx.map fun x => if region = 4 ∨ x.2 = region then x.1 + n else x.1
  { s with cool := { s.cool with beats := upd s.cool.beats p add } }

/-- What a DOT finds wrong at its issue (R85, R112, R114, R115). -/
def dotFaults (i : Issue) (o : DotOp) (s : State) : List FaultSite :=
  let p := i.comb
  let sl := slotDeclaration (s.comb p)
  let m := ((heard i s).comb p).mem
  let window (serial : Bool) : List FaultSite :=
    let x := dotSide serial p o sl s
    windowFaults i sl x (sideBlocks m x)
  let reads := dotReads i o s
  reads.flatMap (rowFaults i 0 s) ++ bankFaults i 0 (bankCycles false reads) s ++ window false ++ window true

/-- A DOT at its issue. Each row that it reads counts once in the ECC and poison counters, whatever its digit passes (DESIGN
CHOICE, log 38). -/
def runDot (i : Issue) (o : DotOp) (out : OutRef) (s : State) : State :=
  let p := i.comb
  let sl := slotDeclaration (s.comb p)
  let l := dotSide false p o sl s
  let x := dotSide true p o sl s
  let m := ((heard i s).comb p).mem
  let ls := sideBlocks m l
  let ss := sideBlocks m x
  let reads := dotReads i o s
  let banks := bankCycles false reads
  match dotFaults i o s with
  | [] =>
    let region := regionOf o.quadMode o.quad
    let stored := (s.comb p).mem
    let s := countReads p (readRows (s.comb p) (reads.map (·.1))) (noteAccesses i banks s)
    let s := reportSide p sl x (sideBlocks stored x) (reportSide p sl l (sideBlocks stored l) s)
    let s := countParity i (reads.map (·.1)) s
    let s := eachCell p region (freshCell out s) l.vectors x.vectors (dotShape o).2.2
      (dotCell o (runLimit (Desc.format x.d)) ls ss) s
    let s := setComb p (fun c => { c with shape := (region, o.a.toNat, o.b.toNat) :: c.shape.filter (·.1 ≠ region) }) s
    let s := countBeats p region (o.laneGroups.toNat * groupCycles (Desc.format l.d) (Desc.format x.d)) s
    (replaysOf i o out sl l x ls ss).foldl (fun s e => queueReplay p e s) s
  | fs => raiseFaults fs s

/-- DOT (R99, R100, R105, R134): the products of its lane groups enter the accumulators of its region. -/
def execDot (i : Issue) (o : DotOp) (out : OutRef) (s : State) : Out :=
  .next (if canIssue i (.dot o) s ∧ rowsReady i.comb (dotRows i o s) s then issueAt i (.dot o) (runDot i o out) s else s)

/-- The partials of a region: R x C elements in the order r * C + c, with the columns C; none where no DOT has run (R79,
R147). -/
def regionPartials (c : Comb) (region : Nat) : Option (Nat × List Partial) :=
  (c.shape.find? fun x => x.1 = region).map fun x =>
    let rows := 2 ^ x.2.1
    let cols := (if region = 4 then 16384 else 4096) / (rows * 2 ^ x.2.2)
    let mine := c.cells.filter fun y => y.1.1 = region
    (cols, (List.range (rows * cols)).map fun e =>
      emitSum ((mine.filter fun y => y.1.2.1 = e / cols && y.1.2.2.1 = e % cols).map (·.2)))

/-- The accumulators of a region are cleared (R131). -/
def clearRegion (p region : Nat) (s : State) : State :=
  setComb p (fun c => { c with cells := c.cells.filter (fun y => y.1.1 ≠ region), shape := c.shape.filter (·.1 ≠ region) }) s

/-- A partial as a skW entry. -/
def partialEntry (x : Partial) : SkW := ⟨x.1, x.2.1, x.2.2⟩

/-- A row of the vector from element `first` of it on, rotated segment by segment, the flags of a segment ORed (R88, R91). -/
def rotateRow (seed k first : Nat) (xs : List Partial) : List Partial :=
  let n := 2 ^ k
  (List.range ((xs.length + n - 1) / n)).flatMap fun g =>
    let part := (xs.drop (n * g)).take n
    let ov := part.any (·.2.1)
    let po := part.any (·.2.2)
    (rotate seed k (first + n * g) (part.map (·.1))).map fun y => (y, ov, po)

/-- Rotated partials: rows of c elements stand from column `start` of rows of w elements on, zeros beside them, and every
segment of a row is rotated whole (R91). -/
def rotatePartials (seed k first start c w : Nat) (xs : List Partial) : List Partial :=
  (List.range (xs.length / max 1 c)).flatMap fun r =>
    let row := List.replicate start (0, false, false) ++ (xs.drop (c * r)).take c
    rotateRow seed k first ((row ++ List.replicate (w - row.length) (0, false, false)).take w)

/-- Columns of a flow's rows, when a contributor's rows have c of them and make xs in all: element_count over the rows (R147;
log 28). -/
def flowColumns (flow c n : Nat) (s : State) : Nat := Flow.elements (flowRecord flow s) / max 1 (n / max 1 c)

/-- Flows that the phase's programs rotate: flow, layer, rotation point, first slot of the declaration in force (R91, R134). -/
def rotatedFlows (i : Image) (k : Nat) : List (Nat × Nat × Nat × Nat) :=
  (List.range i.vCount).flatMap fun v =>
    ((nth (programsOf i v) k []).foldl (fun (a : Nat × List (Nat × Nat × Nat × Nat)) x => match x.1.2 with
      | .slot o => (o.first.toNat, a.2)
      | .rotate o => (a.1, a.2 ++ [(o.flow.toNat, o.layer.toNat, o.point.toNat, a.1)])
      | _ => a) (0, [])).2

/-- Element of the whole vector at which the rows of a rotated flow of `rows` rows begin: the vector's flows in ascending
number carry it in order (R88; log 28). -/
def rotationFirst (i : Image) (o : RotateOp) (first rows k : Nat) : Nat :=
  (((rotatedFlows i k).filter fun x => x.1 < o.flow.toNat && x.2 = (o.layer.toNat, o.point.toNat, first)).map (·.1)).dedup.foldl
    (fun a f => a + Flow.elements (i.flow f) / max 1 rows) 0

/-- Column of a flow's rows at which virtual comb v's partials stand: the flow's contributors hold its columns in ascending
order, and where they hold more than a row, the row again (log 28). -/
def rotationStart (i : Image) (flow v c w : Nat) : Nat :=
  ((Flow.vcombs (i.flow flow)).countP fun u => decide (u < v)) * c % max 1 w

/-- Partials enter the fabric at the die port (R147, R149); an entry whose sum fails its residue is poisoned (R150). -/
def enterFabric (i : Issue) (flow : Nat) (xs : List Partial) (s : State) : State :=
  let es := xs.zipIdx.map fun x => ({ partialEntry x.1 with poison := x.1.2.2 || i.residue.contains x.2 } : SkW)
  takeEntries (dieOf i.comb) (i.comb % 4) flow 0 es
    (countPortTransport (dieOf i.comb) flow ((List.range xs.length).countP i.residue.contains) s)

/-- Rotated partials, rows of c elements, enter the fabric (R91). -/
def enterRotated (i : Issue) (o : RotateOp) (c : Nat) (xs : List Partial) (s : State) : State :=
  match s.img.image with
  | none => s
  | some img =>
    let l := img.layer o.layer.toNat
    let flow := o.flow.toNat
    let w := flowColumns flow c xs.length s
    let first := rotationFirst img o (slotDeclaration (s.comb i.comb)).first.toNat (xs.length / max 1 c) (phasePos s).1
    let start := rotationStart img flow (vcombOn i.comb s) c w
    enterFabric i flow (rotatePartials (Layer.rotSeed l o.point.toNat) o.k.toNat first start c w xs) s

/-- Partials of an output on their way, rows of c elements: where the image rotates the output, they wait for their ROTATE
(R91). -/
def sendPartials (i : Issue) (flow : Nat) (out : OutRef) (c : Nat) (xs : List Partial) (s : State) : State :=
  let p := i.comb
  if Layer.outRotation (outputOf out s) out.out.toNat = 0xFF then enterFabric i flow xs s
  else match (s.comb p).rotations.find? fun r => r.flow.toNat = flow with
    | some r => enterRotated i r c xs (setComb p (fun k => { k with rotations := k.rotations.erase r }) s)
    | none => setComb p (fun k => { k with drained := k.drained ++ [(BitVec.ofNat 16 flow, c, xs)] }) s

/-- The output that a flow carries, named by the first that sends into it. -/
def nameFlow (x : NamedFlow) (s : State) : State :=
  if s.fabric.named.any fun y => y.flow = x.flow then s
  else { s with fabric := { s.fabric with named := s.fabric.named ++ [x] } }

/-- Two words of a skW row entry with an incoming entry added: a poisoned word stays poison, and an entry that meets poison
carries its flag (R120, R121). -/
def addToWords (x : SkW) (w0 w1 : Word64) : List Word64 :=
  let old := skwOf (bytesOf [w0, w1])
  let y := SkW.add { old with poison := old.poison || w0.2 || w1.2 } x
  let bs := wordsOf (SkW.bytes y ++ List.replicate 6 0)
  [if w0.2 then w0 else nth bs 0 (0, false), if w1.2 then w1 else nth bs 1 (0, false)]

/-- A row with incoming skW entries added (R118, R120). -/
def skwAddRow (ws : List Word64) (xs : List SkW) : List Word64 :=
  (List.range 32).flatMap fun k =>
    addToWords (nth xs k ⟨0, false, false⟩) (nth ws (2 * k) (0, false)) (nth ws (2 * k + 1) (0, false))

/-- Words of a row as a unit receives them, whose parity fails at `bad` (R125). -/
def hearRow (bad : List (BitVec 22 × Nat)) (m : Memory) (r : Nat) : List Word64 := carried (readRow (spoiled m bad) r)

/-- Partials added into skW rows from a row on (R118, R131). -/
def drainRows (p first : Nat) (bad : List (BitVec 22 × Nat)) (xs : List Partial) (s : State) : State :=
  (List.range ((xs.length + 31) / 32)).foldl (fun s k =>
    let part := ((xs.drop (32 * k)).take 32).map partialEntry
    setComb p (fun c => { c with mem := writeRow c.mem (first + k) (skwAddRow (hearRow bad c.mem (first + k)) part) }) s) s

/-- Rows of an EMIT of n partials into rows with the cycles at which it accumulates them (R135; log 37). -/
def emitWrites (i : Issue) (o : EmitOp) (n : Nat) : List (Nat × Nat) :=
  rowStream o.firstRow.toNat ((n + 31) / 32) (i.cycle.toNat + drainLatency)

/-- An EMIT at its issue. -/
def runEmit (i : Issue) (o : EmitOp) (out : BitVec 3) (s : State) : State :=
  let p := i.comb
  let region := regionOf o.quadMode o.quad
  let ref : OutRef := ⟨o.layer, out⟩
  let first := (slotDeclaration (s.comb p)).first.toNat
  let drain := regionPartials (s.comb p) region
  if o.toRow then
    match drain with
    | none => s
    | some x =>
      let w := emitWrites i o x.2.length
      let rows := w.map (·.1)
      match destFaults i 4 rows ++ bankFaults i 4 (bankCycles true w) s with
      | [] =>
        let s := countParity i rows (countReads p (readRows (s.comb p) rows) s)
        let s := noteWrites i (.emit o) w (noteAccesses i (bankCycles true w) (drainRows p o.firstRow.toNat i.parity x.2 s))
        clearRegion p region (setComb p (fun c => { c with
          rowOuts := c.rowOuts.filter (fun y => !rows.contains y.1) ++ rows.map fun r => (r, ref, x.1) }) s)
      | fs => raiseFaults fs s
  else if !flowRuns 2 o.flow.toNat s then scheduleFault { combSite i 0x0A 4 with flow := o.flow.toNat } s
  else
    let n := Flow.elements (flowRecord o.flow.toNat s)
    let x := drain.getD (n, List.replicate n (0, false, false))
    sendPartials i o.flow.toNat ref x.1 x.2 (clearRegion p region (nameFlow ⟨o.flow, ref, first, flowColumns o.flow.toNat x.1 x.2.length s⟩ s))

/-- Rows that an EMIT accumulates into. -/
def emitRows (i : Issue) (o : EmitOp) (s : State) : List Nat :=
  if o.toRow then (emitWrites i o (drainElements (s.comb i.comb) (regionOf o.quadMode o.quad))).map (·.1) else []

/-- EMIT (R79, R91, R147): the region's partials leave for the fabric or are added into skW rows, and its accumulators are
cleared. It issues once the replays of its region are done (R132) and its rows are there (R116). -/
def execEmit (i : Issue) (o : EmitOp) (out : BitVec 3) (s : State) : Out :=
  .next (if canIssue i (.emit o) s ∧ (s.comb i.comb).fallback = [] ∧ rowsReady i.comb (emitRows i o s) s
    then issueAt i (.emit o) (runEmit i o out) s else s)

/-! ## ROW (R118 to R121) -/

/-- Lane-wise sum of two words, lanes of w bits, wrapping (R119). -/
def addLanes (w : Nat) (x y : BitVec 64) : BitVec 64 :=
  BitVec.ofNat 64 (((List.range (64 / w)).map fun k => (x.toNat / 2 ^ (w * k) + y.toNat / 2 ^ (w * k)) % 2 ^ w * 2 ^ (w * k)).sum)

/-- A destination row after a write in a mode (R118, R121). -/
def writeMode (mode width : Nat) (src dst : List Word64) : List Word64 :=
  match mode with
  | 0 => src
  | 1 => List.zipWith (fun (a b : Word64) => if a.2 || b.2 then (0, true) else (addLanes (2 ^ (4 + width)) a.1 b.1, false)) src dst
  | 2 => skwAddRow dst ((List.range 32).map fun k =>
      let a : Word64 := nth src (2 * k) (0, false)
      let b : Word64 := nth src (2 * k + 1) (0, false)
      let e := skwOf (bytesOf [a, b])
      { e with poison := e.poison || a.2 || b.2 })
  | _ => List.replicate 64 (0, true)

/-- Source rows that a ROW reads; poison reads none (R118). -/
def rowSources (o : RowOp) : List Nat := if o.mode = 3 then [] else (List.range o.count.toNat).map (o.src.toNat + ·)

/-- Destination rows of a ROW. -/
def rowDests (o : RowOp) : List Nat := (List.range o.count.toNat).map (o.dst.toNat + ·)

/-- Rows that a ROW reads: its sources, and the destinations of an accumulate (R113). -/
def rowInputs (o : RowOp) : List Nat := rowSources o ++ if o.mode = 1 ∨ o.mode = 2 then rowDests o else []

/-- Source rows of a ROW with the cycles of their reads, and destination rows with those of their writes (log 37). -/
def sourceReads (i : Issue) (o : RowOp) : List (Nat × Nat) :=
  if o.mode = 3 then [] else rowStream o.src.toNat o.count.toNat i.cycle.toNat
def destWrites (i : Issue) (o : RowOp) : List (Nat × Nat) := rowStream o.dst.toNat o.count.toNat i.cycle.toNat

/-- Bank cycles of a ROW (R113). -/
def rowBanks (i : Issue) (o : RowOp) : List (Nat × Nat) :=
  bankCycles false (sourceReads i o) ++ bankCycles (o.mode = 1 || o.mode = 2) (destWrites i o)

/-- The outputs of skW rows after a ROW: a store moves them with the rows, an skW add gives them to rows without one, and the
other modes end them. -/
def movedOuts (o : RowOp) (outs : List (Nat × OutRef × Nat)) : List (Nat × OutRef × Nat) :=
  (List.range o.count.toNat).foldl (fun outs k =>
    let x := lookup outs (o.src.toNat + k)
    let d := o.dst.toNat + k
    let kept := if o.mode = 2 then lookup outs d else none
    match kept.or (if o.mode = 0 ∨ o.mode = 2 then x else none) with
    | some y => assign outs d y
    | none => remove outs d) outs

/-- What a ROW finds wrong at its issue. -/
def rowOpFaults (i : Issue) (o : RowOp) (s : State) : List FaultSite :=
  (sourceReads i o).flatMap (rowFaults i 1 s) ++ destFaults i 1 (rowDests o) ++ bankFaults i 1 (rowBanks i o) s

/-- A ROW at its issue. Its rows move in ascending order, so that where its ranges overlap a later row takes what an earlier
one wrote (DESIGN CHOICE, log 38). -/
def runRow (i : Issue) (o : RowOp) (s : State) : State :=
  let p := i.comb
  match rowOpFaults i o s with
  | [] =>
    let reads := readRows (s.comb p) (rowInputs o)
    let s := reportRows p (operandIn (phasePos s).1 1 s) (fun _ => 0) (reads.take (rowSources o).length) (countReads p reads s)
    let s := noteAccesses i (rowBanks i o) (countParity i (rowInputs o) s)
    let s := (List.range o.count.toNat).foldl (fun s k =>
      setComb p (fun c => { c with mem := writeRow c.mem (o.dst.toNat + k) (writeMode o.mode.toNat o.laneWidth.toNat
        (hearRow i.parity c.mem (o.src.toNat + k)) (hearRow i.parity c.mem (o.dst.toNat + k))) }) s) s
    noteWrites i (.row o) (destWrites i o) (setComb p (fun c => { c with rowOuts := movedOuts o c.rowOuts }) s)
  | fs => raiseFaults fs s

/-- ROW (R118 to R121): rows move inside the scratchpad in a write mode. -/
def execRow (i : Issue) (o : RowOp) (s : State) : Out :=
  .next (if canIssue i (.row o) s ∧ rowsReady i.comb (rowInputs o) s then issueAt i (.row o) (runRow i o) s else s)

/-! ## FABRIC, ROTATE (R145, R147, R91) -/

/-- Rows that a FABRIC send reads, of the set of its phase, with the cycles of the reads (R223; log 37). -/
def sendReads (i : Issue) (o : FabricOp) (s : State) : List (Nat × Nat) :=
  let d := descriptorAt (s.comb i.comb) o.desc.toNat
  if o.send then rowStream (Desc.blockRow d + setOffset d (phaseParity s)) o.count.toNat i.cycle.toNat else []

/-- Rows that a FABRIC send reads. -/
def sendRows (i : Issue) (o : FabricOp) (s : State) : List Nat := (sendReads i o s).map (·.1)

/-- skW entries of a row as a send takes them (R120). -/
def rowPartials (ws : List Word64) : List Partial :=
  (List.range 32).map fun k =>
    let a : Word64 := nth ws (2 * k) (0, false)
    let b : Word64 := nth ws (2 * k + 1) (0, false)
    let e := skwOf (bytesOf [a, b])
    (e.sum, e.overflow, e.poison || a.2 || b.2)

/-- A FABRIC send: skW rows into a reduction flow (R147). -/
def runSend (i : Issue) (o : FabricOp) (s : State) : State :=
  let p := i.comb
  let rows := sendRows i o s
  let banks := bankCycles false (sendReads i o s)
  match (sendReads i o s).flatMap (rowFaults i 3 s) ++ bankFaults i 3 banks s with
  | [] =>
    let reads := readRows (s.comb p) rows
    let m := (s.comb p).mem
    let s := noteAccesses i banks (reportRows p (operandIn (phasePos s).1 1 s) (fun _ => 0) reads (countReads p reads s))
    let s := countParity i rows s
    let n := Flow.elements (flowRecord o.flow.toNat s)
    let xs := (rows.flatMap fun r => rowPartials (hearRow i.parity m r)).take n
    let x := (rows.findSome? (lookup (s.comb p).rowOuts)).getD (⟨0, 0⟩, n)
    sendPartials i o.flow.toNat x.1 x.2 xs
      (nameFlow ⟨o.flow, x.1, (slotDeclaration (s.comb p)).first.toNat, flowColumns o.flow.toNat x.2 xs.length s⟩ s)
  | fs => raiseFaults fs s

/-- Rows into which a FABRIC receives. -/
def receiveRows (i : Issue) (o : FabricOp) (s : State) : List Nat :=
  (List.range o.count.toNat).map (Desc.blockRow (descriptorAt (s.comb i.comb) o.desc.toNat) + ·)

/-- A FABRIC receive: its rows become pending, those of the tail too, and what stands staged is delivered (R116, R145, R146,
R151). -/
def runReceive (i : Issue) (o : FabricOp) (s : State) : State :=
  let p := i.comb
  let rows := receiveRows i o s
  let tail := tailRows (s.comb p) (flowRecord o.flow.toNat s) o.desc
  match destFaults i 3 (rows ++ tail) with
  | [] =>
    let s := tail.foldl (fun s r => pendRow p r [] 5 s) (rows.foldl (fun s r => pendRow p r [] 3 s) s)
    let s := setComb p (fun c => { c with receives := c.receives.filter (·.flow ≠ o.flow) ++ [⟨o.flow, o.desc, 0, false⟩] }) s
    takeStaged p o.flow.toNat s
  | fs => raiseFaults fs s

/-- A FABRIC at its issue; a flow of the wrong kind or of another phase faults (R152). -/
def runFabric (i : Issue) (o : FabricOp) (s : State) : State :=
  if !flowRuns (if o.send then 2 else 1) o.flow.toNat s then scheduleFault { combSite i 0x0A 3 with flow := o.flow.toNat } s
  else if o.send then runSend i o s else runReceive i o s

/-- FABRIC (R145, R147). -/
def execFabric (i : Issue) (o : FabricOp) (s : State) : Out :=
  .next (if canIssue i (.fabric o) s ∧ rowsReady i.comb (sendRows i o s) s then issueAt i (.fabric o) (runFabric i o) s else s)

/-- A ROTATE at its issue: it rotates partials that wait, or those that come. -/
def runRotate (i : Issue) (o : RotateOp) (s : State) : State :=
  match (s.comb i.comb).drained.find? fun x => x.1 = o.flow with
  | some x => enterRotated i o x.2.1 x.2.2 (setComb i.comb (fun c => { c with drained := c.drained.erase x }) s)
  | none => setComb i.comb (fun c => { c with rotations := c.rotations ++ [o] }) s

/-- ROTATE (R91). -/
def execRotate (i : Issue) (o : RotateOp) (s : State) : Out := .next (issueAt i (.rotate o) (runRotate i o) s)

/-! ## WAIT, SLOT, END, FBWIN -/

/-- WAIT (R131): nothing but its issue. -/
def execWait (i : Issue) (s : State) : Out := .next (issueAt i .wait id s)

/-- A slot is occupied by a class that a declaration does not allow (R134). -/
def slotClash (o : SlotOp) (k : Nat) (s : State) : Bool :=
  match slotStream k s with
  | some x => (o.cls = 0 && x.2.state = .prefill) || (o.cls = 1 && x.2.state ≠ .prefill)
  | none => false

/-- A SLOT at its issue. -/
def runSlot (i : Issue) (o : SlotOp) (s : State) : State :=
  match ((List.range o.count.toNat).map (o.first.toNat + ·)).find? fun k => slotClash o k s with
  | some k => scheduleFault { combSite i 1 5 with slot := k } s
  | none => setComb i.comb (fun c => { c with slots := c.slots ++ [o] }) s

/-- SLOT (R134). -/
def execSlot (i : Issue) (o : SlotOp) (s : State) : Out := .next (issueAt i (.slot o) (runSlot i o) s)

/-- END (R131): the comb's phase program ends. -/
def execDone (i : Issue) (s : State) : Out := .next (issueAt i .done (setComb i.comb fun c => { c with ended := true }) s)

/-- FBWIN (R102): the replay window opens. -/
def execFbwin (i : Issue) (s : State) : Out :=
  .next (issueAt i .fbwin (setComb i.comb fun c => { c with windowOpen := true, windowAt := i.cycle }) s)

/-- Read and fill latency before the first replay beat, under the image's contract (R102, R135). -/
def replayLead (s : State) : Nat := match s.img.image with | some i => fillLead i.contractLevel | none => 16

/-- Rows of fallback entries that a comb's queue reads are all there (R146). -/
def replayReady (p : Nat) (s : State) : Bool :=
  (s.comb p).fallback.all fun e => rowsReady p (replayRows p e s) s

/-- Cycles for which the reads of replay entries from cycle t on wait for a bank (R113): each entry's rows are read as it
starts. -/
def replayWaits (p : Nat) (s : State) : Nat → List Replay → Nat
  | _, [] => 0
  | t, e :: es =>
    let c := s.comb p
    let n := ((replayRows p e s).map fun r => bankDelay c (bankOf r) (c.accesses.length + 1) t).foldl max 0
    n + replayWaits p s (t + n + e.cycles) es

/-- Cycles by which the replay of a comb's queue ends after its window of w cycles (R102, R103, R113, R177). -/
def windowOverrun (p w : Nat) (s : State) : Nat :=
  let es := (s.comb p).fallback
  if es = [] then 0
  else replayLead s + (es.map (·.cycles)).sum + replayWaits p s ((s.comb p).windowAt.toNat) es - w

/-- The window of a comb closes: every entry is replayed, and what does not fit the window is slack (R102, R103). -/
def closeWindow (p w : Nat) (s : State) : State :=
  let es := (s.comb p).fallback
  let late := windowOverrun p w s
  let s := countWait p (replayWaits p s ((s.comb p).windowAt.toNat) es) s
  let s := es.foldl (fun s e => progress (.comb p) (replayEntry p e s)) s
  let s := setComb p (fun c => { c with fallback := [], windowOpen := false }) s
  fallbackSlack p late (.comb p) (es.map (·.out.layer.toNat)).dedup s

/-- The phase cycle at which the window of comb p closes, within its phase (R102). -/
def windowEnd (p w : Nat) (s : State) : Nat :=
  match s.img.image with
  | some i => min ((s.comb p).windowAt.toNat + w) (phaseCycles i (phasePos s).1 - 1)
  | none => (s.comb p).windowAt.toNat + w

/-- Length of the replay window of the phase in force (R102, R164). -/
def windowLength (s : State) : Nat := match s.img.image with | some i => Phase.window (i.phase (phasePos s).1) | none => 0

/-- FALLBACK_WINDOW_CLOSE (R102, R103, R177, R180): the window closes its length after FBWIN; an overrun freezes the counters
there, beside a contract hold at that cycle and the overruns of other combs. -/
def execFallbackWindowClose (p : Nat) (s : State) : Out :=
  let w := windowLength s
  let c := windowEnd p w s
  .next (if s.awake ∧ s.tide.dp = .running ∧ (s.comb p).windowOpen ∧ replayReady p s then
    (if counting s then
      (if ahead c s = false then s
       else if windowOverrun p w s = 0 then afterStop (closeWindow p w (advanceTo c s))
       else afterStop (raiseContract (phaseCycle s) c (closeWindow p w (reachBefore c s))))
     else if s.tide.holds ≠ [] ∧ phaseCycle s = c then afterStop (closeWindow p w s)
     else s)
  else s)

/-! ## Mending and scrub (R126, R128, R302) -/

/-- A mend is counted (R302, R318). -/
def countMend (s : State) : State :=
  { s with err := { s.err with record := { s.err.record with mendsTotal := satInc s.err.record.mendsTotal } } }

/-- Words of program memory from slot `at_` on are mended from their bytes in the copy, where they do not read (R130). -/
def mendCode (p slot n : Nat) (ws : List Word64) (s : State) : State :=
  let bad := (readSlots (s.comb p).code slot n).countP (·.uncorrectable)
  if bad = 0 then s
  else countMend (setComb p (fun c => { c with
    code := writeSlots c.code slot ws
    record := { c.record with eccUncorrectable := satAdd c.record.eccUncorrectable bad } }) s)

/-- A word group of program memory is read in the copy and mended. -/
def mendFrom (i : Image) (p byte slot n : Nat) (s : State) : State :=
  let j := dieOf p
  let at_ := codeOffset i s.img.place (vcombOn p s) + byte
  let r := readUnits j (codeUnit i s.img.place j + at_ / 64) ((at_ % 64 + 8 * n + 63) / 64) s
  if r.1.any (·.2) then r.2 else mendCode p slot n (wordsOf (((bytesOf r.1).drop (at_ % 64)).take (8 * n))) r.2

/-- Cycles for which an access of a lower class to row ra waits from now on (R113). -/
def waitForBank (p ra : Nat) (s : State) : State :=
  let c := s.comb p
  countWait p (bankDelay c (bankOf ra) (c.accesses.length + 1) (phaseCycle s)) s

/-- MEND (R126, R130, R302): a weight row that does not read, or a word of program memory or of a descriptor, is rewritten
from the backing copy; an uncorrectable backing word leaves the mend waiting for its refetch. -/
def execMend (p : Nat) (t : MendTarget) (s : State) : Out :=
  .next (match s.img.image with
    | none => s
    | some i =>
      let v := vcombOn p s
      let j := dieOf p
      if ¬(s.awake ∧ p < 96 ∧ (s.comb p).good ∧ mapped p s) then s
      else match t with
        | .row ra =>
          match backingUnit i s.img.place v ra.toNat with
          | none => s
          | some u =>
            if (readRow (s.comb p).mem ra.toNat).any (·.poison) then
              let r := readUnits j u 8 s
              if r.1.any (·.2) then r.2
              else countMend (waitForBank p ra.toNat (setComb p (fun c => { c with
                mem := writeRow c.mem ra.toNat r.1
                mends := c.mends ++ [ra]
                mendQueue := c.mendQueue.filter (· ≠ ra)
                scrubQueue := c.scrubQueue.filter (· ≠ ra) }) r.2))
            else s
        | .program pc =>
          if pc.toNat < (programWords i v).length then mendFrom i p (16 * pc.toNat) (instructionSlot pc.toNat) 2 s else s
        | .descriptor n =>
          if n.toNat < (descriptorWords i v).length then
            mendFrom i p (16 * (programWords i v).length + 32 * n.toNat) (descriptorSlot n.toNat) 4 s
          else s)

/-- A resident row that a scrub finds unreadable queues its mend (R302). -/
def queueMend (p : Nat) (ra : BitVec 22) (s : State) : State :=
  if resident p ra.toNat s then setComb p (fun c => { c with mendQueue := c.mendQueue.filter (· ≠ ra) ++ [ra] }) s else s

/-- SCRUB_ROW (R127, R128): corrected words are written back, uncorrectable and poison words as the poison word. -/
def execScrubRow (p : Nat) (ra : BitVec 22) (s : State) : Out :=
  .next (if s.awake ∧ p < 96 ∧ (s.comb p).good ∧ rowIndex ra.toNat < 10240 then
    let rs := readRow (s.comb p).mem ra.toNat
    let again := rs.any (·.uncorrectable) && decide (2 ≤ (s.comb p).mends.count ra)
    let s := setComb p (fun c => { c with
      mem := if rs.any (fun w => w.corrected || w.poison) then writeRow c.mem ra.toNat (carried rs) else c.mem
      scrubQueue := c.scrubQueue.filter (· ≠ ra)
      record := { c.record with eccCorrected := satAdd c.record.eccCorrected (rs.countP (·.corrected))
                                eccUncorrectable := satAdd c.record.eccUncorrectable (rs.countP (·.uncorrectable))
                                scrubRows := c.record.scrubRows + 1 } }) s
    let s := waitForBank p ra.toNat (if rs.any (·.uncorrectable) then queueMend p ra s else s)
    afterStop (if again then declareFailed (.comb p) s else s)
  else s)

end Sys2Proof.Machine
end

