-- ==== Sys2Proof/Machine/Arith.lean ====
section
/-! DEFINITION. FP32 arithmetic of the wide datapath and the sampler (R94, R291): operations rounded once, exact sums and dot
products, and the elementary functions to the nearest FP32 value. -/

namespace Sys2Proof.Machine

/-- FP32 product, sum, difference and quotient, each rounded once (R94, R291); a quotient is formed with a sticky bit. -/
def mul32 (a b : F32) : F32 := toF32 ((f32 a).mul (f32 b))
def add32 (a b : F32) : F32 := toF32 ((f32 a).add (f32 b))
def sub32 (a b : F32) : F32 := toF32 ((f32 a).add ⟨-(f32 b).m, (f32 b).e⟩)
def div32 (a b : F32) : F32 :=
  let x := f32 a
  let y := f32 b
  if y.m = 0 then toF32 x
  else
    let n := x.m.natAbs * 2 ^ 80
    let q := 2 * (n / y.m.natAbs) + (if n % y.m.natAbs = 0 then 0 else 1)
    toF32 ⟨if (x.m < 0) ≠ (y.m < 0) then -(q : Int) else q, x.e - y.e - 81⟩

/-- n terms of the exponential series of r / 2^w from term t = (r / 2^w)^k / k! on, with w fractional bits. -/
def expTerms (w r : Nat) : Nat → Nat → Nat → Nat
  | 0, _, _ => 0
  | n + 1, k, t => strict (t * r / (2 ^ w * (k + 1))) fun u => strict (t + expTerms w r n (k + 1) u) id

/-- x / 2^w squared n times. -/
def squareTimes (w : Nat) : Nat → Nat → Nat
  | 0, x => x
  | n + 1, x => strict (x * x / 2 ^ w) fun y => squareTimes w n y

/-- The exponential of q, at most 104 in magnitude and a multiple of 2^-149, to 160 significant bits: the series of q / 256,
squared eight times (log 14). -/
def expOf (q : Dyadic) : Dyadic :=
  strict (q.m.natAbs * 2 ^ (q.e + 312).toNat) fun r =>
    let x := squareTimes 320 8 (expTerms 320 r 80 0 (2 ^ 320))
    ⟨if q.m < 0 then (2 ^ 640 / x : Nat) else (x : Nat), -320⟩

/-- The FP32 value nearest to the exponential of an FP32 value (R94); below e^-104 it is 0, above e^104 the largest. -/
def exp32 (c : F32) : F32 :=
  let q := f32 c
  if Dyadic.absLe q ⟨104, 0⟩ then toF32 (expOf q) else if q.m < 0 then 0 else toF32 fp32.max

/-- n / d with a sticky bit, in units of 2^-81. -/
def stickyQuotient (n d : Nat) : Nat := 2 * (n * 2 ^ 80 / d) + (if n * 2 ^ 80 % d = 0 then 0 else 1)

/-- The exact sum of a list, of the squares where asked (R94). -/
def exactSum (squares : Bool) (xs : List F32) : Dyadic :=
  xs.foldl (fun a x => a.add (if squares then (f32 x).mul (f32 x) else f32 x)) ⟨0, 0⟩

/-- An exact value divided by a count and rounded once (R94). -/
def meanOf (v : Dyadic) (n : Nat) : Nat × Bool :=
  let q := stickyQuotient v.m.natAbs (max 1 n)
  fp32.round ⟨if v.m < 0 then -(q : Int) else q, v.e - 81⟩

/-- The exact dot product of BF16 values (R94). -/
def exactDot (xs ys : List Dyadic) : Dyadic := (List.zipWith Dyadic.mul xs ys).foldl Dyadic.add ⟨0, 0⟩

/-- floor(sqrt n) of a number of at most 2k bits. -/
def rootBits : Nat → Nat → Nat
  | 0, _ => 0
  | k + 1, n => strict (2 * rootBits k (n / 4)) fun r => if (r + 1) * (r + 1) ≤ n then r + 1 else r

/-- The FP32 value nearest to 1 / sqrt x, for x > 0 (R94); of another x the spec states none (log 15). -/
def rsqrt32 (c : F32) : F32 :=
  let v := f32 c
  if v.m ≤ 0 then Config.rsqrtOther c
  else
    let even : Dyadic := if v.e % 2 = 0 then v else ⟨2 * v.m, v.e - 1⟩
    let d := even.m.toNat
    let n := 2 ^ 200
    let r := rootBits 110 (n / d)
    toF32 ⟨2 * r + (if r * r * d = n then 0 else 1), -101 - even.e / 2⟩

/-- The FP32 value nearest to 1 / (1 + e^-x) (R94). -/
def logistic32 (c : F32) : F32 :=
  let q := f32 c
  if Dyadic.absLe q ⟨104, 0⟩ then
    let e := expOf ⟨-q.m, q.e⟩
    toF32 ⟨stickyQuotient (2 ^ 320) (2 ^ 320 + e.m.toNat), -81⟩
  else if q.m < 0 then 0 else toF32 ⟨1, 0⟩

end Sys2Proof.Machine
end

