-- ==== Sys2Proof/Machine/Wide.lean ====
section
/-! DEFINITION. The wide datapath at the root (R93, R94): its operations on a slot's registers, activations and KV in blocks
(R50, R56 to R64, R90), the KV writer (R225, R227, R283), block selection (R272, R273), expert selection (R95, R230), the
broadcasts that the root sends (R60, R144 to R146) with index rows (R224, R271), and the receipt of link frames (R137 to
R139). -/

namespace Sys2Proof.Machine

/-! ## Slots -/

/-- Slots that hold a stream. -/
def occupiedSlots (s : State) : List Nat := (List.range s.str.slots.length).filter fun k => (slotStream k s).isSome

/-- Record, node (0 for a prefill row), token and position of a slot's row (R263, R281). -/
structure SlotRow where
  record : Nat
  node : Nat
  token : Token
  position : Nat
  stream : Stream

/-- The row in slot k of the step. -/
def slotRow (k : Nat) (s : State) : Option SlotRow :=
  match nth s.str.slots k none with
  | none => none
  | some x => (liveAt x.1 s).map fun t =>
    if t.state = .prefill then ⟨x.1, 0, nth (t.tail.toList ++ t.pending) x.2 0, t.committed.length + x.2, t⟩
    else
      let d := match t.tree[x.2]? with | some y => (y.token, y.depth) | none => (t.tail.getD 0, 0)
      ⟨x.1, x.2, d.1, t.committed.length + d.2, t⟩

/-- The layer of a phase of kind 1 or 2; other kinds belong to none (R164). -/
def phaseLayer (i : Image) (k : Nat) : Option Nat :=
  let p := i.phase k
  if Phase.kind p = 1 ∨ Phase.kind p = 2 then some (Phase.layer p) else none

/-- Layer whose format, window and counters serve the activations that phase k forms: that of the following phase (R50, R90);
where that phase has none, phase k's own, which is the model's choice (log 38). -/
def consumerLayer (i : Image) (k : Nat) : Option Nat := (phaseLayer i ((k + 1) % max 1 i.phaseCount)).or (phaseLayer i k)

/-! ## Operations (R93, R94) -/

/-- A result with its poison and the range events of its values (R57). -/
abbrev WideResult := WideVec × Nat

/-- Values rounded to FP32 one by one. -/
def rounded (xs : List (Dyadic × Bool)) : WideResult :=
  let rs := xs.map fun x => (fp32.round x.1, x.2)
  (rs.map fun r => (BitVec.ofNat 32 r.1.1, r.2), rs.countP (·.1.2))

/-- An element-wise operation; a register of one value goes with every element of the other. -/
def elementwise (f : Dyadic → Dyadic → Dyadic) (a b : WideVec) : WideResult :=
  let n := max a.length b.length
  let wide (x : WideVec) : WideVec := if x.length = 1 then List.replicate n (nth x 0 (0, false)) else x
  rounded (List.zipWith (fun x y => (f (f32 x.1) (f32 y.1), x.2 || y.2)) (wide a) (wide b))

/-- n wide parameters from a byte on, as FP32 values (R48). -/
def wideParams (i : Image) (offset count : Nat) (wide : Bool) : List F32 :=
  let w := if wide then 4 else 2
  let bs := (i.wide.drop offset).take (w * count)
  (List.range count).map fun k =>
    let c := natLE ((bs.drop (w * k)).take w)
    BitVec.ofNat 32 (if wide then c else c * 2 ^ 16)

/-- A narrow element with its scale, decoded to FP32: exact, saturating above the FP32 range (R56). -/
def decodeNarrow (fmt scale c : Nat) : F32 × Bool :=
  let r := fp32.round ⟨integerForm fmt c, (scale : Int) - 127 + formatOffset fmt⟩
  (BitVec.ofNat 32 r.1, r.2)

/-- The values of a block in FP32, with saturations (R44, R56, R61). -/
def decodeBlock (fmt : Nat) (wideFallback : Bool) (b : Block) : List (F32 × Bool) :=
  let wideCodes (cs : List Nat) : List (F32 × Bool) := cs.map fun c => (BitVec.ofNat 32 (c * 2 ^ 16), false)
  if fmt = 8 then wideCodes b.codes
  else match b.entry with
    | some e =>
      if wideFallback then wideCodes (blockCodes 16 e)
      else (blockCodes 8 (e.take 32)).map (decodeNarrow 6 ((e.drop 32).headD 0).toNat)
    | none => if b.scale = 0 then List.replicate 32 (0, false) else b.codes.map (decodeNarrow fmt b.scale.toNat)

/-- Register n of a slot. -/
def wideReg (regs : List WideVec) (n : Nat) : WideVec := nth regs n []

/-- A BF16 value as the products of R94 take it. -/
def asBf16 (c : F32) : Nat × Bool := bf16.round (f32 c)

/-- What an operation gives for slot k. -/
def evalWide (i : Image) (k : Nat) (regs : List WideVec) (op : WideOp) (s : State) : WideResult :=
  let reg := wideReg regs
  let unary (f : F32 → F32) (a : Nat) : WideResult := ((reg a).map fun x => (f x.1, x.2), 0)
  match op with
  | .output o =>
    let wide := Layer.outFormat (i.layer o.layer.toNat) = 9
    ((rowOutputs o k s).map fun y => (if wide then y.bits else BitVec.ofNat 32 (y.bits.toNat * 2 ^ 16), y.poison), 0)
  | .param offset count wide => ((wideParams i offset count wide).map fun x => (x, false), 0)
  | .embed offset count =>
    let token := match slotRow k s with | some r => r.token.toNat | none => 0
    ((wideParams i (offset + 2 * count * token) count false).map fun x => (x, false), 0)
  | .decode flow =>
    match s.fabric.formed.find? fun f => f.flow = flow && f.slot = k with
    | none => ([], 0)
    | some f =>
      let l := i.layer ((consumerLayer i (phasePos s).1).getD 0)
      let vs := f.blocks.flatMap fun b => (decodeBlock f.format (Layer.actFallback l = 8) b).map fun v => (v, b.poison)
      (vs.map fun v => (v.1.1, v.2), vs.countP (·.1.2))
  | .add a b => elementwise Dyadic.add (reg a) (reg b)
  | .sub a b => elementwise (fun x y => x.add ⟨-y.m, y.e⟩) (reg a) (reg b)
  | .mul a b => elementwise Dyadic.mul (reg a) (reg b)
  | .sum a squares => rounded [(exactSum squares ((reg a).map (·.1)), (reg a).any (·.2))]
  | .mean a squares =>
    let r := meanOf (exactSum squares ((reg a).map (·.1))) (reg a).length
    ([(BitVec.ofNat 32 r.1, (reg a).any (·.2))], flag r.2)
  | .rsqrt a => unary rsqrt32 a
  | .exp a => unary exp32 a
  | .logistic a => unary logistic32 a
  | .narrow a =>
    let rs := (reg a).map fun x => (asBf16 x.1, x.2)
    (rs.map fun r => (BitVec.ofNat 32 (r.1.1 * 2 ^ 16), r.2), rs.countP (·.1.2))
  | .dot a offset rows =>
    let x := (reg a).map fun v => (bf16.input (asBf16 v.1).1).1
    let r := rounded ((List.range rows).map fun n =>
      (exactDot x ((wideParams i (offset + 2 * x.length * n) x.length false).map f32), (reg a).any (·.2)))
    (r.1, r.2 + (reg a).countP fun v => (asBf16 v.1).2)
  | .part a first count => (((reg a).drop first).take count, 0)
  | .join a b => (reg a ++ reg b, 0)

/-- The registers of slot k. -/
def slotRegs (k : Nat) (s : State) : List WideVec := (lookup s.fabric.wide k).getD []

/-- One operation for slot k: its result is the next register; its range events are added to the count. -/
def runOp (i : Image) (k : Nat) (a : Nat × State) (op : WideOp) : Nat × State :=
  let regs := slotRegs k a.2
  let r := evalWide i k regs op a.2
  (a.1 + r.2, { a.2 with fabric := { a.2.fabric with wide := assign a.2.fabric.wide k (regs ++ [r.1]) } })

/-- Range events of slot k's data at the root: counted for layer n, and the slot is flagged (R57). -/
def flagEvents (o : OutRef) (k n events : Nat) (s : State) : State :=
  if events = 0 then s
  else raiseViolation k o 4 0 [] (countLayer n (fun r => { r with rangeEvents := r.rangeEvents + BitVec.ofNat 64 events }) s)

/-- The operations of a frame for slot k. -/
def runOps (i : Image) (o : OutRef) (ops : List WideOp) (k : Nat) (s : State) : State :=
  let r := ops.foldl (runOp i k) (0, s)
  flagEvents o k ((consumerLayer i (phasePos s).1).getD o.layer.toNat) r.1 r.2

/-! ## Blocks (R43, R50, R57, R58, R90) -/

/-- An exact value with its poison and whether a substitution gave it (R50). -/
abbrev WideIn := Dyadic × Bool × Bool

/-- A register as the quantiser and the rotation take it. -/
def wideIn (x : WideVec) : List WideIn := x.map fun v => let y := fp32.input v.1.toNat; (y.1, v.2, y.2)

/-- A zero element that pads (R43). -/
def padIn : WideIn := (⟨0, 0⟩, false, false)

/-- A vector rotated by the rotation point of a site, segment by segment over the whole vector; poison spreads over its segment
(R58, R90, R195). Of several points of one site the first is applied, which is the model's choice (log 38). -/
def rotateSite (l : BitVec 1536) (site : Nat) (xs : List WideIn) : List WideIn :=
  match (List.range (Layer.rotations l)).find? fun p => Layer.rotSite l p = site with
  | none => xs
  | some p =>
    let w := 2 ^ Layer.rotK l p
    (List.range ((xs.length + w - 1) / w)).flatMap fun g =>
      let part := (xs.drop (w * g)).take w
      let part := part ++ List.replicate (w - part.length) padIn
      let ys := wideRotate (Layer.rotSeed l p) (Layer.rotK l p) (w * g) (part.map (·.1))
      (ys.zip part).map fun y => (y.1, part.any (·.2.1), y.2.2.2)

/-- Blocks of 32 of a vector, padded with zero elements (R43). -/
def vectorBlocks (xs : List WideIn) : List (List WideIn) :=
  (List.range ((xs.length + 31) / 32)).map fun b =>
    let part := (xs.drop (32 * b)).take 32
    part ++ List.replicate (32 - part.length) padIn

/-- A block of a role in its format and window: a narrow block raises at most one range event, a BF16 block one for each of its
values; a poisoned element poisons the block (R50, R56 to R58). -/
def quantiseRole (fmt : Nat) (lo hi : Int) (wideFallback : Bool) (xs : List WideIn) : Block :=
  let poison := xs.any (·.2.1)
  if fmt = 8 then
    let rs := xs.map fun x => (bf16.round x.1, x.2.2)
    ⟨0, rs.map (·.1.1), none, rs.countP (fun r => r.1.2 || r.2), poison⟩
  else
    let q := quantiseBlock (xs.map (·.1)) (xs.any (·.2.2)) fmt lo hi wideFallback
    ⟨BitVec.ofNat 8 q.scale, q.codes, q.entry, flag q.event, poison⟩

/-- Bytes of a block in the block array: its codes, or the index of its fallback entry and zeros (R59, R60). -/
def blockArray (fmt idx : Nat) (b : Block) : Bytes :=
  let n := blockBytes fmt
  if b.entry.isSome then bytesLE 4 idx ++ List.replicate (n - 4) 0
  else bytesLE n ((b.codes.zipIdx.map fun c => c.1 * 2 ^ (formatWidth fmt * c.2)).sum)

/-! ## Activations (R50, R59, R60, R90, R145) -/

/-- Activations of slot k for the phase that takes them (R50, R90). -/
def formActs (i : Image) (flow : BitVec 16) (o : OutRef) (k : Nat) (x : WideVec) (s : State) : State :=
  match consumerLayer i (phasePos s).1 with
  | none => s
  | some n =>
    let l := i.layer n
    let blocks := (vectorBlocks (rotateSite l 0 (wideIn x))).map
      (quantiseRole (Layer.actFormat l) (Layer.actLo l) (Layer.actHi l) (Layer.actFallback l = 8))
    let fallbacks := blocks.countP (·.entry.isSome)
    let s := { s with fabric := { s.fabric with formed := s.fabric.formed ++ [⟨flow, k, Layer.actFormat l, blocks⟩] } }
    let s := countLayer n (fun r => { r with actFallback := r.actFallback + BitVec.ofNat 64 fallbacks }) s
    flagEvents o k n (blocks.map (·.events)).sum s

/-- A run of bytes at an offset of a broadcast's fixed part, with its poison. -/
structure Piece where
  at_ : Nat
  bytes : Bytes
  poison : Bool

/-- Word w of a fixed part laid out in pieces; a word that a poisoned piece touches is poisoned. -/
def pieceWord (ps : List Piece) (w : Nat) : Word64 :=
  let mine := ps.filter fun p => decide (p.at_ < 8 * w + 8) && decide (8 * w < p.at_ + p.bytes.length)
  let byte (n : Nat) : Byte := match mine.find? fun p => decide (p.at_ ≤ n) && decide (n < p.at_ + p.bytes.length) with
    | some p => nth p.bytes (n - p.at_) 0
    | none => 0
  let poison := mine.any (·.poison)
  (if poison then 0 else BitVec.ofNat 64 (natLE ((List.range 8).map fun b => byte (8 * w + b))), poison)

/-- Vectors of a tensor by their index, each block with the number of its fallback entry, which counts in block order (R60). -/
def numberBlocks (fs : List (Nat × List Block)) : List (Nat × List (Block × Nat)) :=
  (fs.foldl (fun (a : Nat × List (Nat × List (Block × Nat))) f =>
    let r := f.2.foldl (fun (b : Nat × List (Block × Nat)) x =>
      (b.1 + flag x.entry.isSome, b.2 ++ [(x, b.1)])) (a.1, [])
    (r.1, a.2 ++ [(f.1, r.2)])) (0, [])).2

/-- Block array and scale array of a tensor inside the fixed part of its broadcast, by the receiving descriptor (R59, R145). -/
def tensorPieces (d : BitVec 256) (fs : List (Nat × List (Block × Nat))) : List Piece :=
  let fmt := Desc.format d
  let base := Desc.blockRow d * 512
  fs.flatMap fun f => f.2.zipIdx.flatMap fun b =>
    let nb := f.2.length
    let body : Piece := ⟨vectorByte d 0 nb f.1 + b.2 * blockBytes fmt - base, blockArray fmt b.1.2 b.1.1, b.1.1.poison⟩
    if fmt = 8 then [body] else [body, ⟨scaleByte d 0 nb f.1 b.2 - base, [b.1.1.scale], b.1.1.poison⟩]

/-- Descriptor of the FABRIC receive that takes a broadcast flow, of the flow's first virtual comb (R145). -/
def receiveDesc (i : Image) (flow : Nat) : BitVec 256 :=
  match Flow.vcombs (i.flow flow) with
  | [] => 0
  | v :: _ =>
    let op := ((programsOf i v).flatten.map (·.1.2)).findSome? fun x => match x with
      | .fabric o => if o.flow.toNat = flow ∧ o.send = false then some o.desc.toNat else none
      | _ => none
    match op with
    | some n => nth (descriptorWords i v) n 0
    | none => 0

/-! ## Broadcasts from the root (R138, R144 to R146) -/

/-- Payload and parity of a flit's words: a poisoned word goes as the poison word, whose parity fails in every byte (R138). -/
def flitOf (ws : List Word64) : Bytes × BitVec 128 :=
  let payload := ws.flatMap fun w => if w.2 then List.replicate 8 0 else bytesLE 8 w.1.toNat
  let good := (parityOf payload).toNat
  let bad := (ws.zipIdx.filter (·.1.2)).map fun w => 255 * 2 ^ (8 * w.2)
  (payload, BitVec.ofNat 128 (good - bad.sum))

/-- The flits of a broadcast leave on each hive link whose subtree holds a receiver: 16 words each, four to a row, the last one
marked (R144, R145). -/
def broadcast (flow : Nat) (words : List Word64) (s : State) : State :=
  let n := words.length / 16
  (List.range n).foldl (fun s f =>
    let x := flitOf ((words.drop (16 * f)).take 16)
    (flowChildren (flowRecord flow s) 24 s).foldl (fun s d =>
      let l := linkTowards 24 d
      sendFlit l.1 l.2 1 (BitVec.ofNat 16 flow) f (decide (f + 1 = n)) x.1 x.2 s) s) s

/-- The activations of a flow leave as a tensor: the fixed part, then the used fallback entries in entry order, eight to a row
(R60, R145, R146). -/
def sendActs (i : Image) (flow : Nat) (s : State) : State :=
  let d := receiveDesc i flow
  let mine := s.fabric.formed.filter fun f => f.flow.toNat = flow
  let fs := numberBlocks (if Desc.slotIndexed d then mine.map fun f => (f.slot, f.blocks) else mine.zipIdx.map fun f => (f.2, f.1.blocks))
  let ps := tensorPieces d fs
  let fixed := (List.range (64 * Flow.rows (i.flow flow))).map (pieceWord ps)
  let entries := fs.flatMap fun f => f.2.filterMap fun b => b.1.entry.map fun e => (e, b.1.poison)
  let tail := entries.flatMap fun e => (wordsOf e.1).map fun w => (if e.2 then (0, true) else w : Word64)
  broadcast flow (fixed ++ tail ++ List.replicate ((64 - tail.length % 64) % 64) (0, false)) s

/-! ## Block selection (R272, R273) -/

/-- The n blocks with the highest scores, equal scores by higher index, in ascending order (R272). -/
def topBlocks (n : Nat) (scores : List F32) : List Nat :=
  let before (a b : F32 × Nat) : Bool := (f32 b.1).lt (f32 a.1) || (!(f32 a.1).lt (f32 b.1) && decide (b.2 ≤ a.2))
  sortBy (fun a b => decide (a ≤ b)) (((sortBy before scores.zipIdx).take n).map (·.2))

/-- What the token at position p, the last of a block, selects for block b = (p + 1) / 64 from one score per earlier block;
none where every block is attended to (R272). -/
def selectBlocks (i : Image) (l p : Nat) (scores : List F32) : Option (List Nat) :=
  let b := (p + 1) / 64
  if p % 64 = 63 ∧ !Layer.fullAttention (i.layer l) ∧ i.selectBlocks < b ∧ scores.length = b then
    some (topBlocks i.selectBlocks scores)
  else none

/-- Blocks that a token at position p attends to in layer l, its own last (R272). -/
def attendedBlocks (i : Image) (t : Stream) (l p : Nat) : List Nat :=
  let b := p / 64
  let earlier :=
    if Layer.fullAttention (i.layer l) ∨ b ≤ i.selectBlocks then List.range b
    else match t.chosen.find? fun x => x.1 = l && x.2.1 = b with
      | some x => x.2.2
      | none => []
  earlier ++ [b]

/-- The block summary of block b: the payload that the attention program defines, in FP32 or BF16, and the block's index
(R273). -/
def summaryBytes (b : Nat) (wide : Bool) (x : WideVec) : List (Byte × Bool) :=
  let body := (x.flatMap fun v => (if wide then bytesLE 4 v.1.toNat else bytesLE 2 (asBf16 v.1).1).map fun y => (y, v.2)).take 240
  body ++ List.replicate (240 - body.length) (0, false) ++ (bytesLE 4 b ++ List.replicate 12 0).map fun y => (y, false)

/-! ## KV (R50, R63, R64, R225, R227, R283) -/

/-- Nodes above node v in a tree, v left out, n levels at most. -/
def ancestors (tree : List Node) : Nat → Nat → List Nat
  | 0, _ => []
  | n + 1, v => if v = 0 then [] else match tree[v]? with
    | some y => y.parent :: ancestors tree n y.parent
    | none => []

/-- Pool entries taken before a row's token in layer l: by the tokens of its block before it in its stream's history, the
ancestors of its node among them (R63; log 39). -/
def entriesBefore (r : SlotRow) (l : Nat) (s : State) : Nat :=
  let path := ancestors r.stream.tree r.stream.tree.length r.node
  poolUsed r.stream l r.position
    + ((s.fabric.heldKv.filter fun x => x.record = r.record && x.layer = l && path.contains x.node).map (·.entries.length)).sum

/-- KV blocks of a token: one that falls back takes the next entry of the pool, or is clamped once the pool is full, which
counts an overflow (R50, R63, R64). -/
def kvBlocks (l : BitVec 1536) (used : Nat) (xs : List (List WideIn)) : List (Block × Nat × Bool) :=
  (xs.foldl (fun (a : Nat × List (Block × Nat × Bool)) x =>
    let b := quantiseRole (Layer.kvFormat l) (Layer.kvLo l) (Layer.kvHi l) (Layer.kvFallback l = 8) x
    if b.entry.isSome then
      if a.1 < Layer.kvEntries l then (a.1 + 1, a.2 ++ [(b, a.1, false)])
      else
        let c := quantiseClamped (x.map (·.1)) (Layer.kvFormat l) (Layer.kvLo l) (Layer.kvHi l)
        (a.1, a.2 ++ [(⟨BitVec.ofNat 8 c.scale, c.codes, none, 1, b.poison⟩, 0, true)])
    else (a.1, a.2 ++ [(b, 0, false)])) (used, [])).2

/-- The KV of a token in layer l as bytes of its record. -/
def kvToken (i : Image) (l : Nat) (r : SlotRow) (bs : List (Block × Nat × Bool)) (summary : Option (Bool × WideVec))
    (scores : List F32) : KvToken :=
  let rec_ := i.layer l
  let fmt := Layer.kvFormat rec_
  let body := (bs.flatMap fun b => (blockArray fmt b.2.1 b.1).map fun y => (y, b.1.poison)).take i.kvBytes
  { record := r.record
    node := r.node
    layer := l
    position := r.position
    payload := body ++ List.replicate (i.kvBytes - body.length) (0, false)
    scales := if fmt = 8 then [] else (bs.map fun b => (b.1.scale, b.1.poison)).take (kvScaleBytes i rec_)
    entries := bs.filterMap fun b => b.1.entry.map fun e => e.map fun y => (y, b.1.poison)
    summary := if r.position % 64 = 63 then summary.map fun x => summaryBytes (r.position / 64) x.1 x.2 else none
    chosen := selectBlocks i l r.position scores }

/-- The KV writer sends a token's KV to the stacks that hold its record: payload, scales, pool entries, pool header, and the
summary once the block's 64th token lands; the stream's selection stands with it (R225, R227, R272, R273). -/
def sendKv (i : Image) (x : KvToken) (s : State) : State :=
  match liveAt x.record s with
  | none => s
  | some t =>
    let l := i.layer x.layer
    let tok := x.position % 64
    let used := poolUsed t x.layer x.position
    let s := setLive x.record (fun t =>
      { takeEntriesOf x.layer x.position x.entries.length t with
        chosen := match x.chosen with
          | some bs => (t.chosen.filter fun c => !(c.1 = x.layer && c.2.1 = (x.position + 1) / 64)) ++ [(x.layer, (x.position + 1) / 64, bs)]
          | none => t.chosen }) s
    match recordAt i t x.layer (x.position / 64) s with
    | none => s
    | some a =>
      let s := writeKv i a.1 a.2 (tok * i.kvBytes) x.payload s
      let s := writeKv i a.1 a.2 (kvScaleAt i + tok * kvScaleBytes i l) x.scales s
      let s := x.entries.zipIdx.foldl (fun s e => writeKv i a.1 a.2 (kvPoolAt i l + 64 * (used + e.2)) e.1 s) s
      let s := writeKv i a.1 a.2 (kvHeaderAt i l)
        [(BitVec.ofNat 8 (used + x.entries.length), false), (BitVec.ofNat 8 (tok + 1), false)] s
      match x.summary with
      | some bs => writeKv i a.1 a.2 (kvSummaryAt i l) bs s
      | none => s

/-- The KV of slot k's row in the phase's layer: that of a prefill row or a root is sent at once, that of another node waits
for its verification (R283). -/
def formKv (i : Image) (o : OutRef) (w : WideData) (k : Nat) (s : State) : State :=
  match phaseLayer i (phasePos s).1, slotRow k s, w.kv with
  | some n, some r, some a =>
    let l := i.layer n
    if Layer.kvFormat l = 0xFF then s
    else
      let regs := slotRegs k s
      let bs := kvBlocks l (entriesBefore r n s) (vectorBlocks (rotateSite l 1 (wideIn (wideReg regs a))))
      let x := kvToken i n r bs (w.summary.map fun y => (y.2, wideReg regs y.1)) ((w.scores.map fun y => (wideReg regs y).map (·.1)).getD [])
      let s := if r.node = 0 then sendKv i x s else { s with fabric := { s.fabric with heldKv := s.fabric.heldKv ++ [x] } }
      let s := countLayer n (fun y => { y with
        kvFallback := y.kvFallback + BitVec.ofNat 64 (bs.countP (·.1.entry.isSome))
        kvOverflow := satAdd y.kvOverflow (bs.countP (·.2.2)) }) s
      flagEvents o k n (bs.map (·.1.events)).sum s
  | _, _, _ => s

/-- After the sampling phase the KV of accepted nodes is sent, in path order, and the rest is dropped (R283). -/
def commitKv (i : Image) (accepted : List (Nat × List Nat)) (s : State) : State :=
  let mine := accepted.flatMap fun a => a.2.flatMap fun v => s.fabric.heldKv.filter fun x => x.record = a.1 && x.node = v
  let s := mine.foldl (fun s x => sendKv i x s) s
  { s with fabric := { s.fabric with heldKv := [] } }

/-! ## Expert selection (R95, R230, R233) -/

/-- The experts with the largest logits, equal logits by lower index (R95). -/
def topExperts (n : Nat) (logits : List F32) : List Nat :=
  ((sortBy (fun (a b : F32 × Nat) => (f32 b.1).lt (f32 a.1) || (!(f32 a.1).lt (f32 b.1) && decide (a.2 ≤ b.2))) logits.zipIdx).take n).map (·.2)

/-- The routed layer that the phase's router serves, and whether it gives its actual list: the feed-forward phase after an
attention phase takes the actual list, the one after the next attention phase the prediction (R230). -/
def routerLayer (i : Image) (k : Nat) : Option (Nat × Bool) :=
  let m := max 1 i.phaseCount
  let p0 := i.phase k
  let p1 := i.phase ((k + 1) % m)
  let p2 := i.phase ((k + 2) % m)
  if Phase.kind p0 = 1 ∧ Phase.kind p1 = 2 ∧ Layer.routed (i.layer (Phase.layer p1)) then some (Phase.layer p1, true)
  else if Phase.kind p1 = 1 ∧ Phase.kind p2 = 2 ∧ Layer.routed (i.layer (Phase.layer p2)) then some (Phase.layer p2, false)
  else none

/-- Experts chosen per slot become the list of a layer, in ascending index, counted for their temperature if actual; every
prefill row takes part in the prediction too (R230, R233, R266). -/
def takeRouter (i : Image) (rows : List (List F32)) (s : State) : State :=
  match routerLayer i (phasePos s).1 with
  | none => s
  | some x =>
    let l := i.layer x.1
    let n := Layer.experts l
    let chosen := rows.map fun r => topExperts (Layer.expertsPerToken l) (r.take n)
    let list := (List.range n).filter fun e => chosen.any fun c => c.contains e
    if x.2 then
      let heat := list.foldl (fun (h : List ExpertHeat) e =>
        let k := chosen.countP fun c => c.contains e
        if h.any (fun y => y.layer = x.1 && y.expert = e) then
          h.map fun y => if y.layer = x.1 ∧ y.expert = e then { y with count := y.count + k } else y
        else h ++ [⟨x.1, e, 0, k⟩]) s.shelf.heat
      { s with fabric := { s.fabric with actual := assign s.fabric.actual x.1 list }, shelf := { s.shelf with heat := heat } }
    else { s with fabric := { s.fabric with predicted := assign s.fabric.predicted x.1 list } }

/-! ## Index rows (R224, R230, R271, R272) -/

/-- Runs of consecutive units, joined where one ends at the next. -/
def joinRuns : List (Nat × Nat) → List (Nat × Nat)
  | [] => []
  | x :: xs => match joinRuns xs with
    | y :: ys => if x.1 + x.2 = y.1 ∧ x.2 + y.2 ≤ 4095 then (x.1, x.2 + y.2) :: ys else x :: y :: ys
    | [] => [x]

/-- Units of a record, from unit `first` on, that virtual comb v's gathers read, with their places. -/
def readerUnits (i : Image) (v : Nat) (a : Nat × Nat) (first n : Nat) (s : State) : List (Nat × Nat) :=
  ((List.range n).filter fun u => kvReader i (first + u) s = v).map fun u => ((kvUnit i a.1 a.2 (first + u) s).2, 1)

/-- What virtual comb v gathers for one stream in layer l: the records of the blocks that its rows attend to, and every summary
where a row completes a block (R272; log 39). -/
def streamRuns (i : Image) (v l : Nat) (t : Stream) (last : Nat) (s : State) : List (Nat × Nat) :=
  let records := (attendedBlocks i t l last).flatMap fun b => match recordAt i t l b s with
    | some a => readerUnits i v a 0 ((kvRecordBytes i - 256) / 64) s
    | none => []
  let summaries := if last % 64 = 63 ∧ !Layer.fullAttention (i.layer l) then (List.range (last / 64)).flatMap fun b =>
      match recordAt i t l b s with
      | some a => readerUnits i v a (kvSummaryAt i (i.layer l) / 64) 4 s
      | none => []
    else []
  joinRuns (records ++ summaries)

/-- Streams of the step's slots with the position of their last row. -/
def stepStreams (s : State) : List (Stream × Nat) :=
  let rows := (occupiedSlots s).filterMap fun k => slotRow k s
  ((rows.map (·.record)).dedup).filterMap fun n =>
    match rows.filter (·.record = n) with
    | [] => none
    | r :: rs => some (r.stream, rs.foldl (fun a x => max a x.position) r.position)

/-- Runs of at most n units, and the rest. -/
def splitRuns : Nat → List (Nat × Nat) → List (Nat × Nat) × List (Nat × Nat)
  | _, [] => ([], [])
  | n, x :: xs =>
    if x.2 ≤ n then (let r := splitRuns (n - x.2) xs; (x :: r.1, r.2))
    else if n = 0 then ([], x :: xs) else ([(x.1, n)], (x.1 + n, x.2 - n) :: xs)

/-- Entries of an index row (R224). -/
def directEntry (unit count : Nat) : Word64 := (BitVec.ofNat 64 (2 ^ 62 + count * 2 ^ 50 + unit), false)
def expertEntryWord (layer expert : Nat) : Word64 := (BitVec.ofNat 64 (2 ^ 63 + layer * 2 ^ 50 + expert * 2 ^ 34), false)

/-- The zero unit of a stack's map region that fills a list: the region's last (R271; log 39). -/
def zeroUnit : Nat := 64 * mibUnits - 1

/-- A list filled to `need` units, in whole index rows (R224, R271). -/
def fillList (need units : Nat) (es : List Word64) : List Word64 :=
  let all := es ++ List.replicate (need - units) (directEntry zeroUnit 1)
  all ++ List.replicate ((64 - all.length % 64) % 64) (0, false)

/-- The gathers of a virtual comb in phase k: index row and units. -/
def phaseGathers (i : Image) (v k : Nat) : List (Nat × Nat) :=
  (nth (programsOf i v) k []).filterMap fun x => match x.1.2 with
    | .shelf o => if o.gather then some (o.indexRow.toNat, 8 * o.count.toNat) else none
    | _ => none

/-- The KV that virtual comb v gathers for phase k: nothing where that phase is no attention phase. -/
def kvRuns (i : Image) (v k : Nat) (s : State) : List (Nat × Nat) :=
  if Phase.kind (i.phase k) = 1 then (stepStreams s).flatMap fun x => streamRuns i v (Phase.layer (i.phase k)) x.1 x.2 s else []

/-- The expert entries of virtual comb v for the predicted list of phase k's layer, and their units (R230). -/
def expertList (i : Image) (v k : Nat) (s : State) : List Word64 × Nat :=
  match phaseLayer i k with
  | none => ([], 0)
  | some l =>
    let es := (lookup s.fabric.predicted l).getD []
    (es.map (expertEntryWord l), (es.map (sliceUnits i v l)).sum)

/-- An index row goes out on its flow; what consumers of it compute may have to be repeated (R307). -/
def sendList (flow : Nat) (ws : List Word64) (s : State) : State :=
  broadcast flow ws { s with fabric := { s.fabric with index := s.fabric.index ++ [(0, BitVec.ofNat 16 flow, ws)] } }

/-- The root sends the index rows of the flows given: the gathers stand in the next phase and serve the one after it (R224). KV
that one gather does not hold goes on in the virtual comb's next one. -/
def sendIndex (i : Image) (flows : List (BitVec 16 × IndexUse)) (s : State) : State :=
  let n := max 1 i.phaseCount
  let k1 := ((phasePos s).1 + 1) % n
  let k2 := ((phasePos s).1 + 2) % n
  (flows.foldl (fun (a : List (Nat × List (Nat × Nat)) × State) f =>
    let flow := f.1.toNat
    let v := (Flow.vcombs (i.flow flow)).headD 0
    let need := ((phaseGathers i v k1).find? fun g => g.1 = Desc.blockRow (receiveDesc i flow)).elim 0 (·.2)
    match f.2 with
    | .kv =>
      let r := splitRuns need ((lookup a.1 v).getD (kvRuns i v k2 s))
      let es := r.1.map fun x => directEntry x.1 x.2
      (assign a.1 v r.2, sendList flow (fillList need (r.1.map (·.2)).sum es) a.2)
    | .experts =>
      let r := expertList i v k2 s
      (a.1, sendList flow (fillList need r.2 r.1) a.2)) ([], s)).2

/-! ## What a frame starts at the root -/

/-- The wide datapath's work of one frame: operations slot by slot, activations and their broadcast, KV, expert selection,
index rows. -/
def takeWide (flow : Nat) (w : WideData) (s : State) : State :=
  match s.img.image with
  | none => s
  | some i =>
    let o : OutRef := match namedFlow flow s with | some x => x.out | none => ⟨0, 0⟩
    let slots := occupiedSlots s
    let s := slots.foldl (fun s k => runOps i o w.ops k s) s
    let s := match w.acts with
      | none => s
      | some a => sendActs i a.2.toNat (slots.foldl (fun s k => formActs i a.2 o k (wideReg (slotRegs k s) a.1) s) s)
    let s := slots.foldl (fun s k => formKv i o w k s) s
    let s := match w.logits with
      | none => s
      | some a => takeRouter i (slots.map fun k => (wideReg (slotRegs k s) a).map (·.1)) s
    sendIndex i w.index s

/-! ## Receipt -/

/-- A reduction flit at port n through the link in direction d (R148 to R150): an entry whose word fails its parity or whose
sum fails its residue is poisoned; where the first word fails, the flit index names the elements. -/
def reductionFlit (n d flow : Nat) (x : LinkFrame) (residue : List Nat) (s : State) : State :=
  let ws := flitWords x.payload x.parity
  let headBad := (nth ws.1 0 (0, false)).2
  let first := if headBad then 12 * x.flitIndex.toNat else natLE (x.payload.take 4)
  let count := if headBad then min 12 (Flow.elements (flowRecord flow s) - first) else natLE ((x.payload.drop 4).take 1)
  let es := (List.range count).map fun k =>
    let e := skwOf ((x.payload.drop (8 + 10 * k)).take 10)
    let hit := headBad || residue.contains k || (nth ws.1 ((8 + 10 * k) / 8) (0, false)).2 || (nth ws.1 ((17 + 10 * k) / 8) (0, false)).2
    ({ e with poison := e.poison || hit } : SkW)
  takeEntries n (4 + d) flow first es (countPortTransport n flow (ws.2 + (List.range count).countP residue.contains) s)

/-- Direction, seen from die n, of the link's other end. -/
def sideOf (n m : Nat) : Nat := ((List.range 4).find? fun d => neighbour n d = some m).getD 0

/-- A frame in order: its flit is added or forwarded (R144, R149, R152). Control frames carry keeper traffic, whose payload the
spec does not give (R141), and a frame of a reserved kind is taken in its sequence and otherwise ignored, which is the
model's choice (log 38). -/
def takeFlit (link : Nat) (dir : Bool) (x : LinkFrame) (w : WideData) (s : State) : State :=
  let ends := linkEnds link dir
  let n := ends.2
  let flow := x.flow.toNat
  if x.kind ≠ 1 ∧ x.kind ≠ 2 then s
  else if s.tide.dp ≠ .running then s
  else if !flowRuns x.kind.toNat flow s then scheduleFault (portSite n 8 flow 0 s) s
  else if x.kind = 1 then (if n = 24 then s else broadcastFlit n flow x.flitIndex.toNat x s)
  else
    reductionFlit n (sideOf n ends.1) flow x w.residue s

/-- At the root the wide datapath goes on with what has been formed by then, while the data plane runs (R93). -/
def atRoot (link : Nat) (dir : Bool) (x : LinkFrame) (w : WideData) (s : State) : State :=
  if (linkEnds link dir).2 = 24 ∧ s.tide.dp = .running then takeWide x.flow.toNat w s else s

/-- A frame in order, and what the wide datapath makes of it. -/
def takeFrame (link : Nat) (dir : Bool) (x : LinkFrame) (w : WideData) (s : State) : State :=
  atRoot link dir x w (takeFlit link dir x w s)

/-- Failures of the frame that a receiver awaits, after a frame failed its CRC: the first failure of a frame, or a resend of it
that fails too. Idle frames and frames that follow a failed one are not that frame (R139; log 28). -/
def failureRun (f : LinkFrame) (d : LinkDir) : Nat :=
  if f.kind = 0 then d.failures
  else if d.failures = 0 then 1
  else if f.seq = d.expectSeq then d.failures + 1
  else d.failures

/-- A frame that fails its CRC (R139, R160): counted, discarded, its resend requested; the 16th failure of one frame in
succession fails the link. -/
def frameFails (link : Nat) (dir : Bool) (group : Nat) (f : LinkFrame) (s : State) : State :=
  let s := setLink link dir (fun d => { d with
    crcFailTotal := satInc d.crcFailTotal
    crcFailEpoch := satInc d.crcFailEpoch
    groupFails := upd d.groupFails group (· + 1)
    failures := failureRun f d
    retryRunMax := BitVec.ofNat 8 (max d.retryRunMax.toNat (min (failureRun f d) 255))
    nak := true }) s
  let s := sendIdle link (!dir) s
  if 16 ≤ (s.link link dir).failures then declareFailed (.link link) s else s

/-- LINK_FRAME_RECEIVE (R137 to R139): CRC, acknowledgement, go-back-N, then the flit. -/
def execLinkFrameReceive (link : Nat) (dir : Bool) (group : Nat) (f : LinkFrame) (wide : WideData) (s : State) : Out :=
  .next (if s.awake ∧ link < 40 ∧ group < 16 ∧ (s.link link dir).state ≠ 2 ∧ bit (s.link link dir).groupsActive group then
    if f.crc ≠ crc32 (linkBytes f) then afterStop (frameFails link dir group f s)
    else
      let s := setLink link (!dir) (fun d => { d with replay := pruneReplay f.ackSeq d.replay }) s
      let s := if f.nak then resendFrames link (!dir) s else s
      if f.kind = 0 then afterStop (atRoot link dir f wide s)
      else if f.seq ≠ (s.link link dir).expectSeq then s
      else
        let s := progress (.link link)
          (setLink link dir (fun d => { d with expectSeq := d.expectSeq + 1, nak := false, failures := 0 }) s)
        afterStop (takeFrame link dir f wide s)
  else s)

end Sys2Proof.Machine
end

