-- ==== Sys2Proof/Machine/Slots.lean ====
section
/-! DEFINITION. Slots and verify trees (R262, R264, R281, R282), the sampler (R291, R293), the verify step (R286), and the
sampling phase with the settling of the step's poison (R283 to R288, R299 to R301). -/

namespace Sys2Proof.Machine

/-! ## Slot classes (R262) -/

/-- SLOT declarations of virtual comb 0, phase by phase. -/
def slotDecls (i : Image) : List (List SlotOp) :=
  (programsOf i 0).map fun p => p.filterMap fun x => match x.1.2 with
    | .slot o => some o
    | _ => none

/-- Every phase declares slot k, and none with class `bad`. -/
def slotAllows (i : Image) (bad : BitVec 2) (k : Nat) : Bool :=
  let ds := slotDecls i
  !ds.isEmpty && ds.all fun ops =>
    let mine := ops.filter fun o => decide (o.first.toNat ≤ k) && decide (k < o.first.toNat + o.count.toNat)
    !mine.isEmpty && mine.all fun o => o.cls != bad

/-- Decode-capable and prefill-capable slots. -/
def decodeCapable (i : Image) (k : Nat) : Bool := slotAllows i 1 k
def prefillCapable (i : Image) (k : Nat) : Bool := slotAllows i 0 k

/-! ## Verify trees (R281, R282) -/

/-- A probe is due (R289). -/
def probeDue (t : Stream) : Bool := t.draftDepth = 0 && decide (1 ≤ t.live.draftDepthMax.toNat) && t.probe = 0

/-- D before the clamps. -/
def wantedDepth (i : Image) (t : Stream) : Nat :=
  if i.hasDraft = false ∨ t.live.draftDepthMax = 0 then 0 else if probeDue t then 1 else t.draftDepth.toNat

/-- D under the room terms (R281, step 1). -/
def roomDepth (i : Image) (t : Stream) : Nat :=
  let r := t.committed.length
  min (wantedDepth i t) (min (63 - r % 64) (min (t.maxNew - t.generated - 1) (i.maxContext - r - 2)))

/-- positions(st) of R267 and R281. -/
def positionsOf (i : Image) (t : Stream) : Nat := max 1 (min i.candidatesMax (2 ^ roomDepth i t))

/-- Token IDs from the largest logit down, equal logits by lower ID (R282, R291). -/
def ranked (logits : List F32) : List Nat :=
  (sortBy (fun (a b : F32 × Nat) => (f32 b.1).lt (f32 a.1) || (!(f32 a.1).lt (f32 b.1) && decide (a.2 ≤ b.2))) logits.zipIdx).map (·.2)

/-- The token of rank k (from 0); a rank above vocab_size names none. -/
def rankToken (logits : List F32) (k : Nat) : Option Token := (ranked logits)[k]?.map (BitVec.ofNat 32)

/-- A prepared chain stands for the stream's root (R285). -/
def chainUsable (t : Stream) : Bool := t.chain.isSome && t.chainHead = t.tail

/-- The tree of a stream in DECODE that holds n slots (R281, R282). A chain that poison cut short gives the nodes that
remain (R301). -/
def buildTree (i : Image) (t : Stream) (n : Nat) : List Node :=
  match t.tail with
  | none => []
  | some root =>
    let chain := if chainUsable t then t.chain.getD [] else []
    let d := if chainUsable t then roomDepth i t else 0
    let most := if d = 0 then min 1 n else min i.candidatesMax (min (2 ^ d) n)
    let depth := min (min d (most - 1)) chain.length
    let at_ (d k : Nat) : Option Token := rankToken (nth chain (d - 1) []) k
    let spine := (List.range depth).filterMap fun k => (at_ (k + 1) 0).map fun x => (⟨x, k, k + 1⟩ : Node)
    let extras := if depth = 0 then [] else (List.range most).flatMap fun k =>
      (List.range depth).filterMap fun e => (at_ (e + 1) (k + 1)).map fun x => (⟨x, e, e + 1⟩ : Node)
    (⟨root, 0, 0⟩ :: spine ++ extras).take most

/-! ## Slot assignment (R264) -/

/-- Slots that the table gives a record. -/
def heldSlots (n : Nat) (s : State) : Nat := s.str.tables.slots.countP fun x => match x with
  | some y => y.1 = n
  | none => false

/-- A stream that runs decode rows in the step. -/
def decodes (t : Stream) : Bool := t.state = .decode && t.tail.isSome && !t.event.stop

/-- Rows of a prefill stream in one step at most: its tokens, a chunk, the room to the end of its block, rows_max (R259,
R261, R264). -/
def prefillRows (i : Image) (t : Stream) (most : Nat) : Nat :=
  if t.state ≠ .prefill ∨ t.waitPrefix then 0
  else min most (min i.chunkTokens (min (t.tail.toList.length + t.pending.length) (64 - t.committed.length % 64)))

/-- Step 1: decode rows in the assigned slots. -/
def decodeSlotsOf (i : Image) (s : State) : List (Option (Nat × Nat)) :=
  s.str.tables.slots.map fun x => match x with
    | some y => match liveAt y.1 s with
      | some t => if decodes t ∧ y.2 < (buildTree i t (heldSlots y.1 s)).length then some y else none
      | none => none
    | none => none

/-- Put a record's rows, from row j on, into the first free prefill-capable slots. -/
def placeRows (i : Image) (n : Nat) : List (Option (Nat × Nat)) → Nat → Nat → Nat → List (Option (Nat × Nat))
  | [], _, _, _ => []
  | x :: xs, k, j, left =>
    if left = 0 then x :: xs
    else if x.isNone ∧ prefillCapable i k then some (n, j) :: placeRows i n xs (k + 1) (j + 1) (left - 1)
    else x :: placeRows i n xs (k + 1) j left

/-- Prefill rows that a step may hold: f times the prefill-capable slots (R422). -/
def prefillBudget (i : Image) (s : State) : Nat := timesF s.cool.f ((List.range 256).countP fun k => prefillCapable i k)

/-- Slots taken. -/
def takenSlots (slots : List (Option (Nat × Nat))) : Nat := slots.countP (·.isSome)

/-- Steps 1 and 2 (R264). -/
def assignSlots (i : Image) (s : State) : List (Option (Nat × Nat)) :=
  let first := decodeSlotsOf i s
  let most := takenSlots first + prefillBudget i s
  (prefillQueue s).foldl (fun slots q => match liveAt q.1 s with
    | some t => placeRows i q.1 slots 0 0 (min (prefillRows i t q.2) (most - takenSlots slots))
    | none => slots) first

/-- The step's slots take effect on the streams. -/
def takeSlots (s : State) : State :=
  match s.img.image with
  | none => s
  | some i =>
    let slots := assignSlots i s
    let give (p : Nat × Stream) : Nat × Stream :=
      let n := slots.countP fun x => match x with | some y => y.1 = p.1 | none => false
      let tree := if decodes p.2 ∧ n ≠ 0 then buildTree i p.2 (heldSlots p.1 s) else []
      (p.1, { p.2 with slotCount := n, rows := n, tree := tree, stepOut := none })
    { s with str := { s.str with slots := slots, live := s.str.live.map give }
             fabric := { s.fabric with wide := [], heldKv := [] } }

/-! ## The sampler (R291, R293) -/

/-- rand(seed, p) (R293). -/
def rand (seed : BitVec 64) (p : Nat) : Nat :=
  let z := (seed.toNat + (p + 1) * 0x9E3779B97F4A7C15) % 2 ^ 64
  let z := (Nat.xor z (z >>> 30) * 0xBF58476D1CE4E5B9) % 2 ^ 64
  let z := (Nat.xor z (z >>> 27) * 0x94D049BB133111EB) % 2 ^ 64
  Nat.xor z (z >>> 31)

/-- The repetition penalty over the distinct tokens of the window (R291). -/
def penalise (x : Settings) (h : List Token) (logits : List F32) : List F32 :=
  let window := (lastN x.repWindow.toNat h).dedup
  logits.zipIdx.map fun l =>
    if window.contains (BitVec.ofNat 32 l.2) then
      (if 0 < (f32 l.1).m then div32 l.1 x.repPenalty else mul32 l.1 x.repPenalty)
    else l.1

/-- Running exact sums. -/
def runningSums : Dyadic → List Dyadic → List Dyadic
  | _, [] => []
  | a, x :: xs => a.add x :: runningSums (a.add x) xs

/-- sample(l, st, p, h) (R291). -/
def sampleToken (logits : List F32) (x : Settings) (p : Nat) (h : List Token) : Token :=
  let l := penalise x h logits
  let order := ranked l
  let best := order.headD 0
  if x.temperature = 0 then BitVec.ofNat 32 best
  else
    let k := order.take x.topK.toNat
    let top := nth l best 0
    let w := k.map fun t => f32 (exp32 (div32 (sub32 (nth l t 0) top) x.temperature))
    let c := runningSums ⟨0, 0⟩ w
    let total := c.getLast?.getD ⟨0, 0⟩
    let bound := (f32 x.topP).mul total
    let cm := (c.find? fun y => !y.lt bound).getD total
    let u : Dyadic := ⟨rand x.seed p, 0⟩
    match c.findIdx? fun y => (u.mul cm).lt (y.mul ⟨1, 64⟩) with
    | some j => BitVec.ofNat 32 (nth k j best)
    | none => BitVec.ofNat 32 best

/-! ## The verify step (R285 to R288) -/

/-- What the head and the draft passes formed for a node (R284, R286): the live record, the node (0 for a prefill row), the
head's FP32 logits, and the draft logits of passes 0, 1, ... -/
structure LogitRow where
  record : Nat
  node : Nat
  logits : List F32
  draft : List (List F32)
  deriving DecidableEq, Repr

/-- What the head and the draft passes formed for a node. -/
def headRow (rows : List LogitRow) (n v : Nat) : Option LogitRow := rows.find? fun r => r.record = n && r.node = v

/-- The accepted nodes, the last of them, the history up to it, and the bonus (R286); at most the tree's size of nodes. -/
def verify (i : Image) (rows : List LogitRow) (n : Nat) (t : Stream) : Nat → Nat → List Nat → List Token → List Nat × Nat × Token
  | 0, v, acc, _ => (acc, v, 0)
  | fuel + 1, v, acc, h =>
    let m := sampleToken ((headRow rows n v).elim [] (·.logits)) t.live h.length h
    match t.tree.zipIdx.find? fun x => x.2 != 0 && x.1.parent = v && x.1.token = m with
    | some c => if i.endTokens.contains m then (acc, v, m) else verify i rows n t fuel c.2 (acc ++ [c.2]) (h ++ [m])
    | none => (acc, v, m)

/-- The chain prepared from node v, and its root token (R284, R285). -/
def preparedChain (rows : List LogitRow) (n v : Nat) (leaf : Bool) (bonus : Token) : List (List F32) × Option Token :=
  match headRow rows n v with
  | some r => match r.draft with
    | d :: ds => if leaf ∧ rankToken d 0 = some bonus then (ds, some bonus) else ([], none)
    | [] => ([], none)
  | none => ([], none)

/-- The current tide as tokens carry it (R355). -/
def tideStamp (s : State) : BitVec 56 := s.tide.number.setWidth 56

/-- The outcome of a tree (R286 to R288), with the accepted nodes. -/
def verifyStream (i : Image) (rows : List LogitRow) (n : Nat) (t : Stream) (s : State) : StepOut × List Nat :=
  let v := verify i rows n t (t.tree.length + 1) 0 [] (t.committed ++ t.tail.toList)
  let k := v.1.length + 1
  let leaf := t.tree.zipIdx.all fun x => x.2 = 0 || x.1.parent ≠ v.2.1
  let c := preparedChain rows n v.2.1 leaf v.2.2
  (⟨v.1.filterMap fun x => (t.tree[x]?).map (·.token), some v.2.2, i.endTokens.contains v.2.2,
    decide (i.maxContext ≤ t.committed.length + 1 + k), decide (t.maxNew ≤ t.generated + k), tideStamp s, c.1, c.2⟩, v.1)

/-- The tokens that a prefill stream takes in the step. -/
def prefillTake (t : Stream) : List Token := (t.tail.toList ++ t.pending).take t.rows

/-- A prefill stream's rows of the step end its prefill. -/
def prefillEnds (t : Stream) : Bool := decide (t.tail.toList.length + t.pending.length ≤ t.rows)

/-- A prefill stream samples its first token in the step (R257, R258, R261). -/
def prefillSamples (i : Image) (t : Stream) : Bool :=
  prefillEnds t && decide (0 < t.maxNew) && decide (historyLength t < i.maxContext)

/-- The outcome of a prefill stream's rows. -/
def prefillStream (i : Image) (rows : List LogitRow) (n : Nat) (t : Stream) (s : State) : StepOut :=
  if prefillSamples i t then
    let h := history t
    let m := sampleToken ((headRow rows n 0).elim [] (·.logits)) t.live h.length h
    let c := preparedChain rows n 0 true m
    ⟨[], some m, i.endTokens.contains m, decide (i.maxContext ≤ h.length + 1), decide (t.maxNew ≤ 1), tideStamp s, c.1, c.2⟩
  else ⟨[], none, false, false, false, tideStamp s, [], none⟩

/-! ## The sampling phase -/

/-- Every row that samples has its logits. -/
def headComplete (i : Image) (rows : List LogitRow) (s : State) : Bool :=
  s.str.live.all fun p =>
    let full (v : Nat) : Bool := match headRow rows p.1 v with
      | some r => r.logits.length = i.vocab
      | none => false
    if p.2.rows = 0 then true
    else if p.2.state = .prefill then !prefillSamples i p.2 || full 0
    else (List.range p.2.tree.length).all full

/-- The step's reports end the batch (R299). -/
def batchPoisoned (s : State) : Bool := s.err.reports.any fun r => r.operand != 2 && (r.transport || r.operand = 1)

/-- A batch discard (R296, R300): nothing of the step counts or commits. -/
def discardBatch (s : State) : State :=
  let rest (p : Nat × Stream) : Nat × Stream := (p.1, { p.2 with rows := 0, tree := [], stepOut := none })
  { s with
    err := { s.err with reports := [], raised := [], layersStep := [],
                        record := { s.err.record with batchDiscarded := satInc s.err.record.batchDiscarded } }
    str := { s.str with live := s.str.live.map rest } }

/-- Records of the streams whose slots poison names (R299). -/
def poisonedRecords (s : State) : List Nat :=
  ((s.err.reports.filter fun r => !r.transport && r.operand = 0).filterMap fun r => (nth s.str.slots r.slot none).map (·.1)).dedup

/-- The streams that poison closes: nothing of their step commits (R299). -/
def closePoisoned (s : State) : State :=
  (poisonedRecords s).foldl (fun s n => setLive n (fun t =>
    { t with rows := 0, tree := [], event := { t.event with close := some (t.event.close.getD 5) } }) s) s

/-- The rows of a step are sampled and verified; the KV of accepted nodes goes to the shelf (R283, R286). -/
def runSampling (i : Image) (rows : List LogitRow) (s : State) : State :=
  if batchPoisoned s then commitKv i [] (discardBatch s)
  else
    let s := closePoisoned s
    let outs := s.str.live.filterMap fun p =>
      if p.2.rows = 0 then none
      else if p.2.state = .prefill then some (p.1, prefillStream i rows p.1 p.2 s, [])
      else if p.2.tree = [] then none
      else (let v := verifyStream i rows p.1 p.2 s; some (p.1, v.1, v.2))
    let s := outs.foldl (fun s o => setLive o.1 (fun t => { t with stepOut := some o.2.1 }) s) s
    let s := commitKv i (outs.map fun o => (o.1, o.2.2)) s
    { s with err := { s.err with reports := [] } }

/-- The phase in force is the sampling and verify phase (R164). -/
def inSampling (s : State) : Bool :=
  match s.img.image with
  | some i => Phase.kind (i.phase (phasePos s).1) = 5
  | none => false

/-- The head and the draft passes of the rows given, slot by slot (R93, R284). -/
def runHead (i : Image) (hs : List HeadRow) (s : State) : State :=
  hs.foldl (fun s h => runOps i ⟨0, 0⟩ h.ops h.slot s) s

/-- The logits of a head row that samples: of a node, or of the last row of a prefill stream. No draft logits are taken from the
first poisoned pass on (R301). -/
def logitRow (h : HeadRow) (s : State) : Option LogitRow :=
  match slotRow h.slot s, nth s.str.slots h.slot none with
  | some r, some x =>
    let regs := slotRegs h.slot s
    let drafts := (h.draft.map (wideReg regs)).takeWhile fun d => !d.any (·.2)
    if r.stream.state = .prefill ∧ x.2 + 1 ≠ r.stream.rows then none
    else some ⟨r.record, r.node, (wideReg regs h.logits).map (·.1), drafts.map fun d => d.map (·.1)⟩
  | _, _ => none

/-- SAMPLING_PHASE (R283, R286, R299): the head's rows are sampled once in a step. -/
def execSamplingPhase (rows : List HeadRow) (s : State) : Out :=
  .next (match s.img.image with
    | none => s
    | some i =>
      let t := runHead i rows s
      let ls := rows.filterMap fun h => logitRow h t
      if s.awake ∧ s.tide.dp = .running ∧ s.tide.prologue = false ∧ inSampling s
          ∧ s.str.live.all (fun p => p.2.stepOut.isNone) ∧ headComplete i ls s then
        runSampling i ls t
      else s)

end Sys2Proof.Machine
end

