-- ==== Sys2Proof/Machine/Steps.lean ====
section
/-! DEFINITION. The step boundary (R173, R252, R264): what the step commits and emits (R256, R287, R288), adaptive depth
(R289), the settling of its violations (R306, R307, R310), the state changes of streams, and the slots of the next step. -/

namespace Sys2Proof.Machine

/-! ## Violations (R306, R307, R310) -/

/-- One violation settles: its suspect record gets the next serial, its entry a place in the repeat buffer while one is
free, and its row's stream is marked. -/
def settleOne (x : Suspect × Repeat) (s : State) : State :=
  let serial := s.err.suspectSerial + 1
  let room := decide (s.err.repeats.length < 64)
  let suspect := { x.1 with serial := serial, outcome := if room then 0 else 5 }
  let r := s.err.record
  let record := { r with suspectEvents := satInc r.suspectEvents
                         repeatDropped := if room then r.repeatDropped else satInc r.repeatDropped }
  let s := { s with err := { s.err with
    suspectSerial := serial
    suspects := lastN 256 (s.err.suspects ++ [suspect])
    repeats := if room then s.err.repeats ++ [{ x.2 with serial := serial }] else s.err.repeats
    record := record } }
  match nth s.str.slots x.1.slot.toNat none with
  | some y => setLive y.1 (fun t => if t.id = x.1.streamId ∧ t.mailbox = x.1.mailbox then { t with suspectMark := true } else t) s
  | none => s

/-- The step's violations settle. -/
def settleRaised (s : State) : State :=
  let s := s.err.raised.foldl (fun s x => settleOne x s) s
  { s with err := { s.err with raised := [] } }

/-- Counts of the step added to a layer's record: 64-bit fields wrap, kv_fallback_overflow_count saturates (R67). -/
def addLayer (a b : LayerRecord) : LayerRecord where
  actFallback := a.actFallback + b.actFallback
  kvFallback := a.kvFallback + b.kvFallback
  rangeEvents := a.rangeEvents + b.rangeEvents
  kvOverflow := satAdd a.kvOverflow b.kvOverflow.toNat
  slackEpochs := a.slackEpochs

/-- The format events of a step that was not discarded count (R67). -/
def settleLayers (s : State) : State :=
  { s with err := { s.err with
    layers := s.err.layers.zipIdx.map fun x => addLayer x.1 (nth s.err.layersStep x.2 {})
    layersStep := [] } }

/-! ## Tokens (R287, R288, R355) -/

/-- token_flags (R355). -/
def tokenFlags (suspect drafted ends truncated limit : Bool) : BitVec 8 :=
  BitVec.ofNat 8 (flag suspect + 2 * flag drafted + 4 * flag ends + 8 * flag truncated + 16 * flag limit)

/-- The entries that a step emits, the first at a position: accepted tokens in path order, then the bonus, which ends what
it ends. -/
def stepEntries (first : Nat) (suspect : Bool) (o : StepOut) : List TokenEntry :=
  let drafted := o.accepted.zipIdx.map fun x =>
    (⟨BitVec.ofNat 32 (first + x.2), x.1, o.tide, tokenFlags suspect true false false false⟩ : TokenEntry)
  let bonus := o.bonus.toList.map fun m =>
    (⟨BitVec.ofNat 32 (first + o.accepted.length), m, o.tide, tokenFlags suspect false o.ends o.truncated o.limit⟩ : TokenEntry)
  drafted ++ bonus

/-- D' of the step's tree (R281). -/
def treeDepth (tree : List Node) : Nat := tree.foldl (fun d x => max d x.depth) 0

/-- draft_depth_current and probe_countdown after a verify step of depth d that accepted a nodes (R289). -/
def adaptDepth (t : Stream) (d a : Nat) : BitVec 4 × BitVec 6 :=
  let cur := t.draftDepth.toNat
  if 1 ≤ d ∧ probeDue t then (if a = 0 then (0, 63) else (1, 0))
  else if 1 ≤ d ∧ a = 0 then (BitVec.ofNat 4 (cur / 2), if cur / 2 = 0 then 63 else t.probe)
  else if 1 ≤ d ∧ a = d then (BitVec.ofNat 4 (min (cur + 1) t.live.draftDepthMax.toNat), t.probe)
  else if d = 0 ∧ cur = 0 then (0, if t.probe = 0 then 0 else t.probe - 1)
  else (t.draftDepth, t.probe)

/-- A stream after its step, the part that both kinds of step share. -/
def afterStep (o : StepOut) (t : Stream) : Stream :=
  let emits := o.bonus.isSome
  { t with
    tail := o.bonus
    generated := t.generated + o.accepted.length + flag emits
    chain := if o.head.isSome then some o.chain else none
    chainHead := o.head
    suspectMark := t.suspectMark && !emits
    tree := []
    rows := 0
    stepOut := none }

/-- A verify step commits the root and the accepted nodes (R287); a generation that ends returns to READY (R252). -/
def commitDecode (o : StepOut) (t : Stream) : Stream :=
  let d := treeDepth t.tree
  let a := o.accepted.length
  let depth := adaptDepth t d a
  let u := afterStep o t
  { u with
    committed := t.committed ++ t.tail.toList ++ o.accepted
    state := if o.ends || o.truncated || o.limit then .ready else t.state
    draftDepth := depth.1
    probe := depth.2
    verifySteps := if 1 ≤ d then satInc t.verifySteps else t.verifySteps
    draftAccepted := satAdd t.draftAccepted a }

/-- A prefill step commits its rows (R256, R258); the last of them ends the prefill (R252, R257). -/
def commitPrefill (o : StepOut) (t : Stream) : Stream :=
  let u := afterStep o t
  let all := t.tail.toList ++ t.pending
  let more := !prefillEnds t
  { u with
    committed := t.committed ++ prefillTake t
    pending := all.drop t.rows
    generated := if more then t.generated else u.generated
    pauseReason := if more then t.pauseReason else 0
    state := if more then .prefill else if o.bonus.isNone || o.ends || o.truncated || o.limit then .ready else .decode }

/-- The step of live record n commits at its final boundary and its tokens wait to be emitted. Its history pages take the
tokens not yet written there, which a first step's are all: those of a shared prefix stand in no page of its own (log 39). -/
def commitStep (n : Nat) (s : State) : State :=
  match liveAt n s with
  | none => s
  | some t =>
    match t.stepOut with
    | none => s
    | some o =>
      let prefill := t.state = .prefill
      let first := if prefill then historyLength t else t.committed.length + 1
      let es := stepEntries first t.suspectMark o
      let u := if prefill then commitPrefill o t else commitDecode o t
      let unwritten := if t.committed.length = t.sharedTokens then 0 else t.committed.length
      let s := storeHistory u unwritten (setLive n (fun _ => u) s)
      let s := if es = [] then s else { s with str := { s.str with emit := s.str.emit ++ [(n, es)] } }
      if prefill ∧ u.state = .ready ∧ es = [] ∧ contextLimit s ≤ historyLength u then stateFrame u .ready 1 s else s

/-- Live records in ascending order. -/
def liveRecords (s : State) : List Nat := sortBy (fun a b => decide (a ≤ b)) (s.str.live.map (·.1))

/-- The step that ended commits (R256, R287). -/
def commitSteps (s : State) : State :=
  let s := settleLayers (settleRaised s)
  (liveRecords s).foldl (fun s n => commitStep n s) s

/-! ## State changes at the step boundary (R252) -/

/-- A park is cancelled by STREAM_RESUME: extents in flight complete, no record is written, and the stream goes on from
resume_to (R252, R377). -/
def cancelPark (n : Nat) (s : State) : State :=
  match liveAt n s with
  | none => s
  | some t =>
    if t.event.cancelPark ∧ t.state = .parking then
      let u := { t with state := t.resumeTo.getD .ready, resumeTo := none, parkObject := none,
                        event := { t.event with cancelPark := false, own := false } }
      let s := setLive n (fun _ => u) s
      let s := match t.parkObject with
        | some o => freeCancelled (setObject o.toNat (fun x => { x with cancelled := true }) s)
        | none => s
      let key : ObjKey := .stream t.mailbox.toNat t.id.toNat
      completeAll resumeCodes t.id.toNat Status.ok key (streamStatus u)
        (completeAll parkCodes t.id.toNat Status.cancelled key (streamStatus u) s)
    else s

/-- A resumption ends: the stream is in resume_to and its object is gone (R245, R252). -/
def endResume (n : Nat) (s : State) : State :=
  match liveAt n s with
  | none => s
  | some t =>
    if t.event.resumeDone ∧ t.state = .resuming then
      let u := { t with state := t.resumeTo.getD .ready, resumeTo := none, parkObject := none,
                        event := { t.event with resumeDone := false } }
      let s := setLive n (fun _ => u) s
      let s := match t.parkObject with
        | some o => freeObject o.toNat s
        | none => s
      completeAll resumeCodes t.id.toNat Status.ok (.stream t.mailbox.toNat t.id.toNat) (streamStatus u) s
    else s

/-- A committed close takes effect, but not in PARKING (R252, R377). -/
def closeAtBoundary (n : Nat) (s : State) : State :=
  match liveAt n s with
  | none => s
  | some t =>
    match t.event.close with
    | none => s
    | some reason =>
      if t.state = .parking then s
      else
        let s := emitAll n s
        if t.state = .resuming then closeParked t reason t.event.own s
        else closeStream t reason t.event.own Status.cancelled s

/-- A committed stop takes effect (R252). -/
def stopAtBoundary (n : Nat) (s : State) : State :=
  setLive n (fun t => if t.event.stop then
      { t with state := if t.state = .decode ∨ t.state = .paused then .ready else t.state
               pauseReason := if t.state = .decode ∨ t.state = .paused then 0 else t.pauseReason
               event := { t.event with stop := false } }
    else t) s

/-- A committed park takes effect (R252, R268). -/
def parkAtBoundary (n : Nat) (s : State) : State :=
  match liveAt n s with
  | none => s
  | some t =>
    if t.event.park then
      match t.state with
      | .ready | .prefill | .decode | .paused => (beginPark n t.event.own (emitAll n s)).2
      | _ => setLive n (fun t => { t with event := { t.event with park := false } }) s
    else s

/-- Events of live record n, in an order that gives every one its effect. -/
def streamEvents (n : Nat) (s : State) : State :=
  parkAtBoundary n (stopAtBoundary n (closeAtBoundary n (endResume n (cancelPark n s))))

/-- A record has a slot in the table in force. -/
def inTable (n : Nat) (s : State) : Bool := heldSlots n s != 0

/-- The first step boundary under a new table moves streams between DECODE and PAUSED (R252). -/
def underNewTable (s : State) : State :=
  if s.str.fresh then
    let move (p : Nat × Stream) : Nat × Stream :=
      let t := p.2
      let calm := { t with event := { t.event with pause := none } }
      let reason : BitVec 4 := match t.event.pause with
        | some r => r.setWidth 4
        | none => 1
      (p.1, match t.state with
        | .decode => if inTable p.1 s then calm else { calm with state := .paused, pauseReason := reason }
        | .paused => if inTable p.1 s then { calm with state := .decode, pauseReason := 0 } else { calm with pauseReason := reason }
        | _ => calm)
    { s with str := { s.str with live := s.str.live.map move, fresh := false } }
  else s

/-- A quiesce stop takes effect: the data plane is Stopped at this step boundary (R171, R375). -/
def quiesce (s : State) : State :=
  { s with tide := { s.tide with dp := .stopped, halt := .none, stopPending := false, holds := [], tideCycle := 0
                                 servingDue := false, epochDue := false, stepDue := false, prologue := false }
           str := { s.str with slots := List.replicate 256 none
                               live := s.str.live.map fun p => (p.1, { p.2 with slotCount := 0, rows := 0, tree := [] }) } }

/-- Everything of a step boundary but the commit of the step that ended: stream events, the new table, then the slots of
the next step or the stop. -/
def openStep (s : State) : State :=
  let s := (liveRecords s).foldl (fun s n => streamEvents n s) s
  let s := underNewTable (sweepPrefixes s)
  advanceService (startWrites (if s.tide.stopPending then quiesce s else takeSlots s))

/-- STEP_BOUNDARY (R252, R256, R264): the tide number has reached a multiple of P. Serving-interval and epoch actions of
the same boundary come first. -/
def execStepBoundary (s : State) : Out :=
  .next (if s.awake ∧ s.tide.dp = .running ∧ s.tide.prologue = false ∧ s.tide.stepDue ∧ s.tide.servingDue = false
      ∧ s.tide.epochDue = false then
    endBoundary (openStep (commitSteps { s with tide := { s.tide with stepDue := false } }))
  else s)

end Sys2Proof.Machine
end

