-- ==== Sys2Proof/Machine/Telemetry.lean ====
section
/-! DEFINITION. Domains, their limits and telemetry records (R403, R404, R410), sensors and hot spots and theirs (R416,
R417, R428), TELEMETRY_READ, and the power and thermal notices (R414, R429). -/

namespace Sys2Proof.Machine

/-! ## Domains -/

/-- Kind of a domain: 0 comb, 1 SRAM, 2 logic, 3 link, 4 memory interface (R410). -/
def domainKind (d : Nat) : Nat := if d < 96 then 0 else 1 + d % 4

/-- Current limit in A (R403). -/
def domainLimit (d : Nat) : Nat :=
  if d < 96 then 180
  else if d < 192 then nth [120, 60, 40, 60] (d % 4) 0
  else nth [80, 400, 120, 60] (d % 4) 0

/-- limit_a * R_LL in mV (R403). -/
def domainDrop (d : Nat) : Nat :=
  if d < 96 then 18
  else if d < 192 then 18
  else nth [16, 20, 18, 18] (d % 4) 0

/-- Telemetry group of a domain (R404). -/
def domainGroup (d : Nat) : Nat := if d < 96 then d / 4 else if d < 192 then 24 + (d - 96) / 4 else 48

/-- Die of a domain; 24 is the hive die. -/
def domainDie (d : Nat) : Nat := if d < 96 then d / 4 else (d - 96) / 4

/-- A domain of the die that is not a comb's. -/
def dieDomains (n : Nat) : List Nat := (List.range 4).map fun k => 96 + 4 * n + k

/-- Domain d. -/
def State.domain (s : State) (d : Nat) : Domain := nth s.pow.domains d Domain.reset

/-- Set-point of a domain in mV (R406). -/
def setpoint (d : Nat) (s : State) : Nat := (nth s.cfg.setpoints d 0).toNat

/-- Domain record (R410). -/
def domainRecord (d : Nat) (s : State) : Bytes :=
  let x := s.domain d
  let head := [(8, d), (4, domainKind d), (4, x.state.toNat), (1, flag x.mode), (1, flag x.valid)]
  if x.mode then
    pack (head ++ [(1, flag x.running), (12, setpoint d s), (12, domainLimit d), (12, x.minMv.toNat),
      (12, (x.runningMin.getD 0).toNat), (64, x.minTide.toNat), (96, x.minPtp.toNat), (29, 0)])
  else
    pack (head ++ [(1, 0), (12, setpoint d s), (12, domainLimit d), (16, x.currentCa.toNat), (16, x.peakCa.toNat),
      (96, x.windowEnd.toNat), (85, 0)])

/-! ## The input -/

/-- Bus converters working: n of R402. -/
def convertersWorking (s : State) : Nat := s.pow.converters.countP (· = true)

/-- The effective cap in 0.01 W (R411). -/
def effectiveCap (s : State) : Nat :=
  min (bits s.live.w14 31 24 * 10000) (min 2000000 (min (200000 * (convertersWorking s - 1)) (420 * s.pow.vinCv.toNat)))

/-- warning_flags (R410). -/
def powerWarnings (s : State) : Nat := ((List.range 5).map fun c => flag (s.pow.warnings.any fun w => w.1 = c + 1) * 2 ^ c).sum

/-- ALERT_N is low while any warning stands (R400, R414), and at a power-up that a hive domain's latch stops (R433). -/
def alertLow (s : State) : Bool := !s.pow.warnings.isEmpty || (s.pow.stage = .nothing && (List.range 4).any fun k => (s.domain (192 + k)).state = 1)

/-- Input record (R410). -/
def inputRecord (s : State) : Bytes :=
  let p := s.pow
  pack [(16, p.vinCv.toNat), (16, p.iinDa.toNat), (16, p.pinW10.toNat), (16, p.capW10.toNat), (4, p.kP.toNat),
    (4, convertersWorking s), (16, p.bankCv.toNat), (16, p.capacitanceUf.toNat), (96, p.windowEnd.toNat),
    (8, powerWarnings s), (48, 0)]

/-! ## Sensors and hot spots (R416) -/

/-- Kind of a sensor (R417). -/
def sensorKind (i : Nat) : Nat :=
  if i < 192 then 0 else if i < 292 then 1 else if i < 316 then 2 else if i < 324 then 3 else if i < 326 then 4 else 5

/-- Hot spot that a sensor watches. -/
def spotOf (i : Nat) : Option Nat :=
  if i < 192 then some (i / 2) else if i < 292 then some (96 + (i - 192) / 2) else none

/-- The first of the two sensors of a hot spot; the second is the next. -/
def spotSensor (h : Nat) : Nat := if h < 96 then 2 * h else 192 + 2 * (h - 96)

/-- Comb of a comb hot spot, or die of a die hot spot, as a notice's subject (R429). -/
def spotSubject (h : Nat) : Nat × Nat := if h < 96 then (1, h) else (2, (h - 96) / 2)

/-- Sensor i. -/
def State.sensor (s : State) (i : Nat) : Sensor := nth s.cool.sensors i Sensor.reset

/-- A sensor is retired (R417). -/
def Sensor.retired (x : Sensor) : Bool := decide (2 ≤ x.state.toNat)

/-- Last reading in degrees. -/
def Sensor.degrees (x : Sensor) : Rat := x.reading.toInt / 100

/-- A temperature in 0.01 degrees as a signed 16-bit field (log 13). -/
def centi (k : Nat) (x : Rat) : Nat := code 16 (inUnits k (x * 100))

/-- Sensor record (R417). -/
def sensorRecord (i : Nat) (s : State) : Bytes :=
  let x := s.sensor i
  let spot := (spotOf i).map fun h => nth s.cool.spots h HotSpot.reset
  let m := match spot with | some h => centi 1 h.model | none => 0
  let f := match spot with | some h => centi 2 h.forecast | none => 0
  pack [(9, i), (3, sensorKind i), (2, x.state.toNat), (16, x.reading.toNat), (16, m), (16, f), (16, x.trim.toNat),
    (16, x.maxEpoch.toNat), (8, (spotOf i).getD 0xFF), (8, x.suspect.toNat), (96, x.time.toNat), (50, 0)]

/-- The ratio of R428; 0 before a baseline stands. -/
def coolingRatio (s : State) : Rat := if s.cool.rc0 = 0 then 0 else s.cool.rc / s.cool.rc0

/-- Thermal summary record (R428). -/
def summaryRecord (s : State) : Bytes :=
  let c := s.cool
  pack [(16, code 16 (inUnits 3 (c.rc0 * 1000000))), (16, code 16 (inUnits 4 (c.rc * 1000000))),
    (8, min (inUnits 5 (coolingRatio s * 100)).toNat 0xFF), (4, c.kT.toNat), (4, c.f.toNat), (8, c.hottest),
    (16, centi 6 (nth c.spots c.hottest HotSpot.reset).forecast), (4, c.kDeg.toNat), (12, c.capped.length),
    (16, c.sensors.countP Sensor.retired), (96, c.baselineTime.toNat), (56, 0)]

/-! ## TELEMETRY_READ -/

/-- One record of a kind: 0 domains and input, 1 sensors and summary. -/
def telemetryRecord (kind i : Nat) (s : State) : Bytes :=
  if kind = 0 then (if i < 196 then domainRecord i s else inputRecord s)
  else if i < 328 then sensorRecord i s else summaryRecord s

/-- Number of records of a kind. -/
def telemetryCount (kind : Nat) : Nat := if kind = 0 then 197 else 329

def opTelemetryRead : Op where
  code := 0x0701
  query := true
  changes := false
  length := exactly 8
  check := fun r _ =>
    let k := field r.payload 0 1
    let n := field r.payload 4 1
    need (k ≤ 1 && field r.payload 1 1 = 0 && field r.payload 5 3 = 0 && 1 ≤ n && n ≤ 32 &&
      decide (field r.payload 2 2 + n ≤ telemetryCount k)) Status.badField
  run := fun r s =>
    let k := field r.payload 0 1
    let f := field r.payload 2 2
    answered s .module ((List.range (field r.payload 4 1)).flatMap fun i => telemetryRecord k (f + i) s)

/-- TELEMETRY_READ (R410, R417, R428). -/
def execTelemetryRead (r : Request) (s : State) : Out := .next (serve opTelemetryRead r s)

/-! ## Notices -/

/-- Notice 0x0203 (R429); severities beyond codes 1, 2, 6 and 7 are not stated (log 6). -/
def thermalNotice (c index : Nat) (value : Int) (severity : Option Nat) (kind subject : Nat) (s : State) : State :=
  raiseNotice 0x0203 severity kind subject 0 (c * 2 ^ 248 + index * 2 ^ 232 + code 16 value * 2 ^ 216) s

/-- Notice 0x0204 of a standing warning (R414). -/
def warningNotice (severity : Option Nat) (w : Nat × Nat × BitVec 32) (s : State) : State :=
  let subject : Nat × Nat := if w.1 ≠ 5 then (0, 0) else if w.2.1 < 96 then (1, w.2.1)
    else if w.2.1 < 192 then (2, domainDie w.2.1) else (0, 0)
  raiseNotice 0x0204 severity subject.1 subject.2 0 (w.1 * 2 ^ 248 + w.2.1 * 2 ^ 240 + w.2.2.toNat * 2 ^ 208) s

/-- A warning is raised unless it stands (R414). -/
def raiseWarning (c index value : Nat) (s : State) : State :=
  if s.pow.warnings.any fun w => w.1 = c && w.2.1 = index then s
  else
    let w : Nat × Nat × BitVec 32 := (c, index, BitVec.ofNat 32 value)
    warningNotice none w { s with pow := { s.pow with warnings := s.pow.warnings ++ [w] } }

/-- P4 of R412 four times over, in 10 W: the sum of the last four windows' mean input powers. -/
def fourWindows (s : State) : Nat := s.pow.powers.sum

/-- P4 in 10 W, as a warning carries it (log 13). -/
def meanPower (s : State) : Nat := (inUnits 7 (fourWindows s / 4 : Rat)).toNat

/-- The condition of a warning holds (R401, R402, R412 to R414). -/
def warningHolds (c index : Nat) (s : State) : Bool :=
  match c with
  | 1 => decide (s.pow.vinCv.toNat < 4800) || decide (5800 < s.pow.vinCv.toNat)
  | 4 => s.pow.kP = 15 && decide (effectiveCap s < 250 * fourWindows s)
  | 5 => let x := s.domain index
    x.mode && x.valid && decide (x.minMv.toNat + domainDrop index + 25 < setpoint index s)
  | _ => true

/-- WARNING_CLEAR (R414): the condition has been absent for 1 s. -/
def execWarningClear (c index : Nat) (s : State) : Out :=
  .next (if s.awake ∧ warningHolds c index s = false then
    { s with pow := { s.pow with warnings := s.pow.warnings.filter fun w => !(w.1 = c && w.2.1 = index) } }
  else s)

end Sys2Proof.Machine
end

