-- ==== Sys2Proof/Machine/Cooling.lean ====
section
/-! DEFINITION. The telemetry window (R409): domains and input, the thermal model (R418), sensors (R425 to R427), the power
and thermal controllers (R412, R422 to R424), report periods, and what cooling does at an epoch boundary (R421, R428). -/

namespace Sys2Proof.Machine

/-! ## Domains in a window (R409) -/

/-- A domain takes a window's sample in its mode. -/
def sampleDomain (endTime : PtpTime) (x : DomainSample) (d : Domain) : Domain :=
  if d.mode then
    match d.runningMin with
    | some m => if x.minMv < m then
        { d with runningMin := some x.minMv, runningTide := x.minTide, runningPtp := x.minPtp, runningLive := x.minRunning } else d
    | none => { d with runningMin := some x.minMv, runningTide := x.minTide, runningPtp := x.minPtp, runningLive := x.minRunning }
  else { d with currentCa := x.meanCa, windowEnd := endTime, valid := true
                peakSoFar := if d.peakSoFar < x.meanCa then x.meanCa else d.peakSoFar }

/-- A report period ends: the peak or the minimum stands until the next ends (R409). -/
def endPeriod (d : Domain) : Domain :=
  if d.mode then
    match d.runningMin with
    | some m => { d with minMv := m, minTide := d.runningTide, minPtp := d.runningPtp, running := d.runningLive, valid := true
                         runningMin := none }
    | none => d
  else { d with peakCa := d.peakSoFar, peakSoFar := 0 }

/-- A domain takes up a mode; where it changes, its measurement restarts (R409). -/
def takeMode (m : Bool) (d : Domain) : Domain :=
  if d.mode = m then d
  else { d with mode := m, valid := false, running := false, currentCa := 0, peakCa := 0, peakSoFar := 0, windowEnd := 0,
                minMv := 0, runningMin := none, runningTide := 0, runningPtp := 0, runningLive := false, minTide := 0, minPtp := 0 }

/-- The telemetry selection in force (R369, R409). -/
def takeModes (s : State) : State :=
  { s with pow := { s.pow with domains := s.pow.domains.zipIdx.map fun p => takeMode (bit s.live.w13 (domainGroup p.2)) p.1 } }

/-- Power of a domain in a window, in W. -/
def samplePower (x : DomainSample) : Rat := (x.meanCa.toNat * x.meanMv.toNat : Nat) / 100000

/-- P_h and Q_h of hot spot h (R418). -/
def spotPowers (w : WindowData) (h : Nat) : Rat × Rat :=
  let power (d : Nat) : Rat := match w.domains[d]? with
    | some x => samplePower x
    | none => 0
  let combs (n : Nat) : List Nat := if n < 24 then combsOf n else []
  if h < 96 then
    (power h, (((combs (h / 4)).filter (· ≠ h) ++ dieDomains (h / 4)).map power).sum)
  else (((dieDomains ((h - 96) / 2)).map power).sum, ((combs ((h - 96) / 2)).map power).sum)

/-! ## Samples (R417) -/

/-- What a sensor gives: its raw reading with the trim, unless the sample fails. -/
def goodSample (x : Sensor) (raw : Option Int) : Option Int :=
  match raw with
  | none => none
  | some v =>
    let y := v + x.trim.toInt
    if -2000 ≤ y ∧ y ≤ 15000 then some y else none

/-- A sensor takes its sample; a failed one leaves the last reading. -/
def sampleSensor (endTime : PtpTime) (x : Sensor) (raw : Option Int) : Sensor :=
  match goodSample x raw with
  | none => { x with time := endTime }
  | some y =>
    let r : BitVec 16 := BitVec.ofInt 16 y
    { x with reading := r, time := endTime, maxRun := if x.maxRun.toInt < y then r else x.maxRun }

/-- The higher reading of a pair, of the sensors in service, else of those suspect, else of both (R418, R427). -/
def pairReading (i : Nat) (s : State) : Rat :=
  let pair := [s.sensor i, s.sensor (i + 1)]
  let best (l : List Sensor) : Option Rat := (l.map Sensor.degrees).max?
  match best (pair.filter (·.state = 0)), best (pair.filter (·.state = 1)), best pair with
  | some x, _, _ => x
  | none, some x, _ => x
  | none, none, x => x.getD 0

/-! ## The thermal model (R418, R425) -/

/-- Control reading c_h (R425). -/
def controlReading (a b : Sensor) (m : Rat) : Rat :=
  match a.retired, b.retired with
  | false, false => max a.degrees b.degrees
  | false, true => max a.degrees m + 2
  | true, false => max b.degrees m + 2
  | true, true => m + 2

/-- The two readings of a hot spot differ by more than 3 degrees (R426). -/
def spotDisagrees (a b : Sensor) : Bool :=
  !a.retired && !b.retired && decide (300 < (a.reading.toInt - b.reading.toInt).natAbs)

/-- One window of hot spot h; c_h and the sensors' check use the estimate of the window before (log 13). -/
def stepSpot (tin : Rat) (a b : Sensor) (pq : Rat × Rat) (x : HotSpot) : HotSpot :=
  let steady := x.r * pq.1 + x.rPrime * pq.2
  let theta := x.a * x.theta + (1 - x.a) * steady
  let c := controlReading a b x.model
  let hold := spotDisagrees a b || (a.state != 0 && b.state != 0)
  let e := if hold then x.bias else x.bias + (c - (tin + theta) - x.bias) / 16
  let a20 := x.a ^ 20
  let f := tin + a20 * theta + (1 - a20) * steady + e
  { x with theta := theta, bias := e, model := tin + theta + e, forecast := f, control := c
           maxForecast := max x.maxForecast f
           overCount := if 104 ≤ c then x.overCount + 1 else 0 }

/-- Every hot spot's window. -/
def stepSpots (w : WindowData) (s : State) : State :=
  let tin := pairReading 324 s
  let f (p : HotSpot × Nat) : HotSpot :=
    stepSpot tin (s.sensor (spotSensor p.2)) (s.sensor (spotSensor p.2 + 1)) (spotPowers w p.2) p.1
  let spots := s.cool.spots.zipIdx.map f
  let hottest := spots.zipIdx.foldl (fun (b : Nat × Rat) p => if b.2 < p.1.forecast then (p.2, p.1.forecast) else b)
    (0, (nth spots 0 HotSpot.reset).forecast)
  { s with cool := { s.cool with spots := spots, hottest := hottest.1 } }

/-! ## Suspicion (R426) -/

/-- The partner of a sensor that has one: the other of its hot spot or of its coolant pair. -/
def partnerOf (i : Nat) : Option Nat :=
  if i < 292 ∨ 324 ≤ i then some (if i % 2 = 0 then i + 1 else i - 1) else none

/-- One sample's judgement of a sensor. -/
def judgeSensor (m : Option Rat) (bad : Bool) (partner : Option (Sensor × Bool)) (x : Sensor) : Sensor :=
  let v := x.degrees
  let away (r : Rat) : Rat := if r < v then v - r else r - v
  let mate : Option Rat := match partner with
    | some p => if p.1.retired || p.2 then none else some p.1.degrees
    | none => none
  let apart := !bad && (match m, mate with
    | some y, some r => decide (3 < away r) && decide ((if y < r then r - y else y - r) < away y)
    | _, _ => false)
  let far := !bad && (match m with | some y => decide (8 < away y) | none => false)
  let agrees := !bad && (match partner with
    | some p => if p.1.retired then (match m with | some y => decide (away y ≤ 3) | none => false)
        else !p.2 && decide (away p.1.degrees ≤ 3)
    | none => false)
  let n := if apart then x.apart + 1 else 0
  let k := if far then x.far + 1 else 0
  let g := if agrees then x.agree + 1 else 0
  let x := { x with apart := n, far := k, suspect := if bad || apart || far then satInc x.suspect else 0 }
  if x.state = 0 then (if bad ∨ 8 ≤ n ∨ 8 ≤ k then { x with state := 1, agree := 0 } else x)
  else if x.state = 1 then (if 64 ≤ g then { x with state := 0, agree := 0, apart := 0, far := 0 } else { x with agree := g })
  else x

/-- Every sensor's judgement, against the readings of the same sample. -/
def judgeSensors (w : WindowData) (s : State) : State :=
  let bad (i : Nat) : Bool := (goodSample (s.sensor i) ((w.sensors[i]?).getD none)).isNone
  let f (p : Sensor × Nat) : Sensor :=
    judgeSensor ((spotOf p.2).map fun h => (nth s.cool.spots h HotSpot.reset).model) (bad p.2)
      ((partnerOf p.2).map fun j => (s.sensor j, bad j)) p.1
  { s with cool := { s.cool with sensors := s.cool.sensors.zipIdx.map f } }

/-- A comb whose sensors are both suspect or both retired is under the cap (R425, R426). -/
def underCap (p : Nat) (s : State) : Bool :=
  let a := s.sensor (2 * p)
  let b := s.sensor (2 * p + 1)
  (a.retired && b.retired) || (a.state = 1 && b.state = 1)

/-- Combs that come under the cap are notified (R429, code 4). -/
def capCombs (w : WindowData) (s : State) : State :=
  let now := (List.range 96).filter fun p => underCap p s
  let new := now.filter fun p => !s.cool.capped.contains p
  let amps (p : Nat) : Int := match w.domains[p]? with
    | some x => inUnits 8 ((x.meanCa.toNat : Rat) / 100)
    | none => 0
  new.foldl (fun s p => thermalNotice 4 p (amps p) none 1 p s) { s with cool := { s.cool with capped := now } }

/-- Notice of a sensor's retirement (R426, R429). -/
def retireSensor (i : Nat) (s : State) : State :=
  let v := inUnits 9 ((s.sensor i).degrees * 10)
  thermalNotice 3 i v none 8 i
    { s with cool := { s.cool with sensors := upd s.cool.sensors i fun x => { x with state := 2 } } }

/-- Sensors still suspect are retired; coolant sensors only at calibration (R426, R427). -/
def retireSuspects (s : State) : State :=
  (List.range 324).foldl (fun s i => if (s.sensor i).state = 1 then retireSensor i s else s) s

/-- SENSOR_CHECK_IDLE (R426): the check while the data plane is not Running. -/
def execSensorCheckIdle (s : State) : Out :=
  .next (if s.awake ∧ s.tide.dp ≠ .running then retireSuspects s else s)

/-! ## Coolant pairs and stacks -/

/-- The sensors of a pair that are not retired differ by more than 1.0 degrees (R427). -/
def pairDisagrees (i : Nat) (s : State) : Bool :=
  let a := s.sensor i
  let b := s.sensor (i + 1)
  !a.retired && !b.retired && decide (100 < (a.reading.toInt - b.reading.toInt).natAbs)

/-- The degradation check is suspended while a pair disagrees, with a notice once per epoch (R427). -/
def checkPairs (s : State) : State :=
  let bad := [324, 326].filter fun i => pairDisagrees i s
  let s := { s with cool := { s.cool with pairSuspended := !bad.isEmpty } }
  match bad with
  | [] => s
  | i :: _ =>
    if s.cool.pairNoticed then s
    else thermalNotice 5 i (inUnits 9 ((s.sensor i).degrees * 10)) none 8 i { s with cool := { s.cool with pairNoticed := true } }

/-- A stack refreshes as hot at 85 degrees, or while its sensor is not in service (R166, R417). -/
def markHot (s : State) : State :=
  (List.range 24).foldl (fun s n =>
    let x := s.sensor (292 + n)
    setStack n (fun k => { k with hot := x.state != 0 || decide (8500 ≤ x.reading.toInt) }) s) s

/-! ## Power control (R411, R412) -/

/-- The input of a window, and the procedure of R412. -/
def powerControl (w : WindowData) (s : State) : State :=
  let s := { s with pow := { s.pow with
    vinCv := w.vinCv, iinDa := w.iinDa, pinW10 := w.pinW10, bankCv := w.bankCv, windowEnd := w.endTime
    window := s.pow.window + 1
    powers := lastN 4 (s.pow.powers ++ [w.pinW10.toNat]) } }
  let cap := effectiveCap s
  let p4 := 25000 * fourWindows s
  let k := s.pow.kP
  let n : Int := s.pow.window
  let capW10 : BitVec 16 := BitVec.ofInt 16 (inUnits 10 ((cap : Rat) / 1000))
  let s := { s with pow := { s.pow with capW10 := capW10 } }
  if 98 * cap < p4 ∧ k < 15 ∧ 4 ≤ n - s.pow.lastUp then
    { s with pow := { s.pow with kP := k + 1, lastUp := n, below := 0 } }
  else if p4 < 90 * cap then
    if 16 ≤ s.pow.below + 1 ∧ 0 < k then { s with pow := { s.pow with kP := k - 1, below := 0 } }
    else { s with pow := { s.pow with below := s.pow.below + 1 } }
  else { s with pow := { s.pow with below := 0 } }

/-- Warnings 1 and 4 (R401, R412). -/
def inputWarnings (s : State) : State :=
  let s := if warningHolds 1 0 s then raiseWarning 1 0 s.pow.vinCv.toNat s else s
  let n := if warningHolds 4 0 s then s.pow.overCap + 1 else 0
  let s := { s with pow := { s.pow with overCap := n } }
  if 100 ≤ n then raiseWarning 4 0 (meanPower s) s else s

/-! ## Thermal control (R422) -/

/-- junction_target_c in force. -/
def thermalTarget (s : State) : Rat := bits s.live.w8 63 56

/-- F is above target on account of a comb under the cap (R422, R425). -/
def capExceeded (w : WindowData) (s : State) : Bool :=
  s.cool.capped.any fun p => match w.domains[p]? with
    | some x => decide (12600 < x.meanCa.toNat)
    | none => false

/-- F: the largest forecast, with every stack's reading (R422). -/
def largestForecast (s : State) : Rat :=
  let readings := ((List.range 32).map fun n => s.sensor (292 + n)).filter fun x => !x.retired
  (s.cool.spots.map (·.forecast) ++ readings.map Sensor.degrees).foldl max (nth s.cool.spots 0 HotSpot.reset).forecast

/-- cool(rec) (R422). -/
def cools (s : State) (powers : List (Rat × Rat)) : Bool :=
  let tin := pairReading 324 s
  (s.cool.spots.zip powers).all fun p => decide (tin + p.1.r * p.2.1 + p.1.rPrime * p.2.2 + p.1.bias < thermalTarget s)

/-- A step that heats less, with the window's powers remembered (R422). -/
def coolDown (powers : List (Rat × Rat)) (s : State) : State :=
  let c := { s.cool with calm := 0 }
  let n : Int := s.pow.window
  if c.f < 4 then
    if c.fPending = none then { s with cool := { c with fPending := some (c.f + 1), stack := powers :: c.stack } } else { s with cool := c }
  else if c.kT < 15 ∧ 2 ≤ n - c.lastUp then
    { s with cool := { c with kT := c.kT + 1, lastUp := n, stack := powers :: c.stack } }
  else { s with cool := c }

/-- A step back, once its cause is gone (R422). -/
def warmUp (s : State) : State :=
  let c := { s.cool with calm := s.cool.calm + 1 }
  match c.stack with
  | [] => { s with cool := c }
  | top :: rest =>
    if 16 ≤ c.calm ∧ cools s top then
      if 0 < c.kT then { s with cool := { c with kT := c.kT - 1, stack := rest, calm := 0 } }
      else { s with cool := { c with fPending := if 0 < c.f then some (c.f - 1) else c.fPending, stack := rest, calm := 0 } }
    else { s with cool := c }

/-- The procedure of R422 after a window. -/
def thermalControl (w : WindowData) (s : State) : State :=
  let t := thermalTarget s
  let f := largestForecast s
  let powers := (List.range 146).map fun h => spotPowers w h
  if t < f ∨ capExceeded w s then coolDown powers s
  else if f < t - 3 then warmUp s
  else { s with cool := { s.cool with calm := 0 } }

/-! ## The thermal stop (R424) -/

/-- The hot spot that stops the data plane, if any. -/
def stopSpot (s : State) : Option Nat := s.cool.spots.findIdx? fun h => decide (2 ≤ h.overCount)

/-- The hotter sensor of a hot spot. -/
def hotterSensor (h : Nat) (s : State) : Nat :=
  let i := spotSensor h
  if (s.sensor i).reading.toInt < (s.sensor (i + 1)).reading.toInt then i + 1 else i

/-- The stop: the step in flight is discarded; the third stop in an epoch leaves the data plane Stopped, every live stream
parked (R424). -/
def thermalStop (h : Nat) (s : State) : State :=
  let epoch := s.tide.number.toNat / 2 ^ 20
  let n := if s.tide.thermalEpoch = epoch then s.tide.thermalStops + 1 else 1
  let v := inUnits 9 ((nth s.cool.spots h HotSpot.reset).control * 10)
  let i := hotterSensor h s
  let s := thermalNotice 6 i v (some 3) 8 i (halt .thermal s)
  let s := { s with cool := { s.cool with kT := 15, f := 4, fPending := none, stack := [] }
                    tide := { s.tide with thermalStops := n, thermalEpoch := epoch } }
  if 3 ≤ n then
    parkAll (fun _ => true) (fun _ s => s) { s with tide := { s.tide with dp := .stopped, halt := .none } }
  else s

/-- Whether a stop is due in the window. -/
def checkStop (s : State) : State :=
  if s.tide.dp = .running then
    match stopSpot s with
    | some h => advanceService (thermalStop h s)
    | none => s
  else s

/-! ## The window -/

/-- Sums of the epoch for R428. -/
def addEpoch (s : State) : State :=
  { s with cool := { s.cool with epochRise := s.cool.epochRise + (pairReading 326 s - pairReading 324 s)
                                 epochPower := s.cool.epochPower + (s.pow.pinW10.toNat * 10 : Nat)
                                 epochWindows := s.cool.epochWindows + 1 } }

/-- Samples of a window. -/
def takeSamples (w : WindowData) (s : State) : State :=
  let domains := (s.pow.domains.zip w.domains).map fun p => sampleDomain w.endTime p.2 p.1
  let sensors := (s.cool.sensors.zip w.sensors).map fun p => sampleSensor w.endTime p.1 p.2
  { s with pow := { s.pow with domains := domains }, cool := { s.cool with sensors := sensors }
           eth := { s.eth with ptp := { s.eth.ptp with now := w.endTime } } }

/-- TELEMETRY_WINDOW_END (R409, R412, R417, R418, R422 to R427). -/
def execTelemetryWindowEnd (w : WindowData) (s : State) : Out :=
  .next (if s.awake ∧ w.domains.length = s.pow.domains.length ∧ w.sensors.length = s.cool.sensors.length then
    let s := judgeSensors w (stepSpots w (takeSamples w s))
    let s := markHot (checkPairs (capCombs w s))
    let s := addEpoch (inputWarnings (powerControl w s))
    checkStop (if s.tide.dp = .running then thermalControl w s else s)
  else s)

/-- THERMAL_RESUME (R424): every M_h lies below target - 10. -/
def execThermalResume (s : State) : Out :=
  .next (if s.awake ∧ s.tide.dp = .halted ∧ s.tide.halt = .thermal ∧ s.err.failed = []
      ∧ s.cool.spots.all (fun h => decide (h.model < thermalTarget s - 10)) then
    { s with tide := { s.tide with startPending := true } }
  else s)

/-- REPORT_PERIOD_END (R409, R414): the period's fields are complete; domains found low are warned of. -/
def execReportPeriodEnd (s : State) : Out :=
  .next (if s.awake then
    let s := { s with pow := { s.pow with domains := s.pow.domains.map endPeriod } }
    (List.range 196).foldl (fun s d =>
      if (s.domain d).state = 0 ∧ warningHolds 5 d s then raiseWarning 5 d (s.domain d).minMv.toNat s else s) s
  else s)

/-! ## The epoch boundary -/

/-- Least value that puts a most-used logical quadrant in a physical quadrant of lowest resistance (R421). -/
def bestRotation (p : Nat) (beats : List Nat) : Nat :=
  let most := beats.foldl max 0
  let best := (List.range 4).map (Config.quadrantResistance p)
  let least := best.foldl min (best.headD 0)
  ((List.range 4).find? fun r => (List.range 4).any fun q => nth beats q 0 = most && nth best ((q + r) % 4) 0 = least).getD 0

/-- quad_rot_current of every comb (R108, R421). -/
def rotateQuadrants (s : State) : State :=
  let turn (p : Comb × Nat) : Comb :=
    let b := nth s.live.w6 p.2 0
    if bit b 2 then { p.1 with quadRot := BitVec.ofNat 2 (bits b 1 0) }
    else if thermalTarget s - 5 < (nth s.cool.spots p.2 HotSpot.reset).maxForecast then
      { p.1 with quadRot := BitVec.ofNat 2 (bestRotation p.2 (nth s.cool.beats p.2 [0, 0, 0, 0])) }
    else p.1
  { s with combs := s.combs.zipIdx.map turn
           cool := { s.cool with beats := List.replicate 96 [0, 0, 0, 0]
                                 spots := s.cool.spots.map fun h => { h with maxForecast := -300 } } }

/-- R_c of the epoch, where it can be formed (R427, R428), in K/W. -/
def epochRc (s : State) : Option Rat :=
  let c := s.cool
  if c.pairSuspended ∨ c.epochWindows = 0 ∨ c.epochPower < 6000 * c.epochWindows then none else some (c.epochRise / c.epochPower)

/-- R_c replaces R_c0 where the owner asked for it (R428). -/
def rebaseline (rc : Rat) (s : State) : State :=
  if bit s.live.w8 39 then
    { s with cool := { s.cool with rc0 := rc, baselineTime := s.now }
             live := { s.live with w8 := setBits s.live.w8 39 39 0 }
             cfg := { s.cfg with words := { s.cfg.words with w8 := setBits s.cfg.words.w8 39 39 0 } } }
  else s

/-- What rho brings about (R428). -/
def degrade (s : State) : State :=
  let rho := coolingRatio s
  let warn : Rat := 1 + (bits s.live.w8 55 48 : Rat) / 100
  let throttle : Rat := 1 + (bits s.live.w8 47 40 : Rat) / 100
  let v := inUnits 5 (rho * 100)
  let s := if warn ≤ rho then thermalNotice 1 0 v (some 1) 0 0 s else s
  if throttle ≤ rho then
    let k := min 15 (1 + ((rho - throttle) * 20).floor.toNat)
    thermalNotice 2 0 v (some 2) 0 0 { s with cool := { s.cool with kDeg := BitVec.ofNat 4 k } }
  else if rho < warn then { s with cool := { s.cool with kDeg := 0 } }
  else s

/-- The degradation check of an epoch boundary (R427, R428). -/
def checkCooling (s : State) : State :=
  let s := match epochRc s with
    | some rc => rebaseline rc { s with cool := { s.cool with rc := rc } }
    | none => s
  let s := if s.cool.pairSuspended then s else degrade s
  { s with cool := { s.cool with epochRise := 0, epochPower := 0, epochWindows := 0, pairNoticed := false } }

/-- max_epoch_cc of every sensor (R417). -/
def rollSensors (s : State) : State :=
  { s with cool := { s.cool with sensors := s.cool.sensors.map fun x =>
    { x with maxEpoch := if x.maxRun = 0x8000 then x.maxEpoch else x.maxRun, maxRun := 0x8000 } } }

/-- Standing warnings are sent again (R414). -/
def resendWarnings (s : State) : State := s.pow.warnings.foldl (fun s w => warningNotice none w s) s

end Sys2Proof.Machine
end

