-- ==== Sys2Proof/Machine/Serving.lean ====
section
/-! DEFINITION. Serving decisions (R259, R266 to R268, R274, R278, R422) and latency classes (R270). -/

namespace Sys2Proof.Machine

/-! ## Reach and demand (R267, R274) -/

/-- Steps that can begin in a serving interval. -/
def intervalSteps (s : State) : Nat := (1023 + s.period) / s.period

/-- Tokens that prefill commits in at most k steps from position p on, and the steps it takes (R259, R261). -/
def prefillReach (rows : Nat) : Nat → Nat → Nat → Nat × Nat
  | 0, _, _ => (0, 0)
  | k + 1, p, left =>
    let n := min rows (min left (64 - p % 64))
    if n = 0 then (0, 0)
    else
      let r := prefillReach rows k (p + n) (left - n)
      (n + r.1, 1 + r.2)

/-- Tokens that a stream still prefills. -/
def leftToPrefill (t : Stream) : Nat := t.tail.toList.length + t.pending.length

/-- Decode-capable slots, those that are decode only first, lowest number first in each part (R267). -/
def decodeOrder (i : Image) : List Nat :=
  let all := (List.range 256).filter (decodeCapable i)
  all.filter (fun k => !prefillCapable i k) ++ all.filter (prefillCapable i)

/-- Number of prefill-capable slots. -/
def prefillSlotCount (i : Image) : Nat := (List.range 256).countP fun k => prefillCapable i k

/-- What prefill reaches of a stream within the interval. -/
def reachOf (i : Image) (t : Stream) (s : State) : Nat × Nat :=
  prefillReach (min (prefillSlotCount i) i.chunkTokens) (intervalSteps s) t.committed.length (leftToPrefill t)

/-- Units of payload, scales, pool header and pool of a record (R227, R274). -/
def readUnitsOf (i : Image) : Nat := (kvRecordBytes i - 256) / 64

/-- Units first..first+n-1 of a record that lie in stack j (R228). -/
def unitsIn (j first n : Nat) (s : State) : Nat :=
  match s.img.kvStacks.findIdx? (· = j) with
  | none => 0
  | some k => ((List.range n).filter fun u => (first + u) % kvStackCount s = k).length

/-- The demand on stack j of a stream with c committed tokens that reaches n more in the interval (R274); the larger of
both kinds where the image has layers of both. -/
def demandOn (i : Image) (c n j : Nat) (s : State) : Nat :=
  let u := unitsIn j 0 (readUnitsOf i) s
  let nc := (c + n) / 64
  let summary := decide (0 < unitsIn j (readUnitsOf i) 4 s) && decide (c / 64 < nc)
  let full := if (kvLayers i).any Layer.fullAttention then u * (nc + 1) else 0
  let chosen := if (kvLayers i).any (fun l => !Layer.fullAttention l) then
      u * (min nc i.selectBlocks + 1) + (if summary then nc else 0) else 0
  max full chosen

/-- demand() of R267. -/
def demandOf (i : Image) (c n : Nat) (s : State) : List Nat := (List.range 24).map fun j => demandOn i c n j s

/-- A load and a demand fit every stack's gather capacity. -/
def fitsGather (load d : List Nat) (s : State) : Bool :=
  (List.range 24).all fun j => decide (nth load j 0 + nth d j 0 ≤ nth s.img.gather j 0)

/-- Two loads together. -/
def addLoads (a b : List Nat) : List Nat := List.zipWith (· + ·) a b

/-! ## Pages (R228, R259, R278) -/

/-- The pages that a stream still needs to reach n tokens beyond its committed ones: KV beyond the blocks of its prefix, and
its token history (R228, R256). -/
def pagesMissing (i : Image) (t : Stream) (n : Nat) (s : State) : List (Nat × Nat) :=
  (blockPageKeys i ((t.committed.length + n + 63) / 64 - prefixBlocks t) s
    ++ historyPageKeys (max (historyLength t) (t.committed.length + n)) s).filter fun k =>
      !t.pages.any fun x => x.layer = k.1 && x.ordinal = k.2

/-- pages_ok of R267 for live record n. -/
def pagesOk (i : Image) (n reach : Nat) (s : State) : Bool × State :=
  match liveAt n s with
  | none => (false, s)
  | some t =>
    let want := pagesMissing i t reach s
    match pagesFor want s with
    | (some ps, s) => (true, extendMap (setLive n (fun t => { t with pages := t.pages ++ ps }) s))
    | (none, s) => (false, s)

/-! ## The decision (R267) -/

/-- A serving decision under way. -/
structure Decision where
  load : List Nat
  free : List Nat
  /-- Slots of each record, in order of position. -/
  placed : List (Nat × List Nat)
  queue : List (Nat × Nat)
  state : State

/-- Priority: latency class, then admit_serial (R267). -/
def ranksBefore (a b : Nat × Stream) : Bool :=
  let x := a.2.live.latencyClass.toNat
  let y := b.2.live.latencyClass.toNat
  decide (x < y) || (x = y && decide (a.2.admission.toNat ≤ b.2.admission.toNat))

/-- place() (R267): the slots it held, where free, then the first free ones in order. -/
def takeFree (n k : Nat) (d : Decision) : Decision :=
  let held := (List.range 16).filterMap fun j => d.state.str.tables.slots.findIdx? fun x => x = some (n, j)
  let mine := (held.filter fun x => d.free.contains x).take k
  let rest := (d.free.filter fun x => !mine.contains x).take (k - mine.length)
  let slots := mine ++ rest
  { d with placed := d.placed ++ [(n, slots)], free := d.free.filter fun x => !slots.contains x }

/-- pause() of a stream in DECODE or PAUSED, which takes effect with the tables (R252). -/
def pauseStream (n reason : Nat) (s : State) : State :=
  setLive n (fun t => { t with event := { t.event with pause := some (BitVec.ofNat 3 reason) } }) s

/-- hold() of a stream in PREFILL (R267). -/
def holdStream (n reason : Nat) (s : State) : State := setLive n (fun t => { t with pauseReason := BitVec.ofNat 4 reason }) s

/-- One candidate of the decode loop. -/
def decideDecode (i : Image) (d : Decision) (p : Nat × Stream) : Decision :=
  let n := min (positionsOf i p.2) d.free.length
  if p.2.state = .prefill then (if d.free = [] then d else takeFree p.1 n d)
  else if d.free = [] then { d with state := pauseStream p.1 1 d.state }
  else
    let reach := n * intervalSteps d.state
    let r := pagesOk i p.1 reach d.state
    if r.1 then
      let w := demandOf i p.2.committed.length reach r.2
      if fitsGather d.load w r.2 then
        takeFree p.1 n { d with load := addLoads d.load w,
                                state := setLive p.1 (fun t => { t with event := { t.event with pause := none } }) r.2 }
      else { d with state := pauseStream p.1 2 r.2 }
    else { d with state := pauseStream p.1 3 r.2 }

/-- Tokens that a stream in PREFILL reaches within the interval, its first decode steps in reserved slots included
(R267). -/
def wholeReach (i : Image) (d : Decision) (p : Nat × Stream) : Nat :=
  let r := reachOf i p.2 d.state
  let slots := ((lookup d.placed p.1).getD []).length
  if r.1 = leftToPrefill p.2 ∧ 0 < p.2.maxNew then r.1 + slots * (intervalSteps d.state - r.2) else r.1

/-- One candidate of the prefill loop. -/
def decidePrefill (i : Image) (d : Decision) (p : Nat × Stream) : Decision :=
  let rows := prefillSlotCount i
  if rows = 0 ∨ p.2.waitPrefix then d
  else if 64 ≤ d.queue.length then { d with state := holdStream p.1 1 d.state }
  else
    let reach := wholeReach i d p
    let r := pagesOk i p.1 reach d.state
    if r.1 then
      let w := demandOf i p.2.committed.length reach r.2
      if fitsGather d.load w r.2 then
        { d with load := addLoads d.load w, queue := d.queue ++ [(p.1, rows)], state := holdStream p.1 0 r.2 }
      else { d with state := holdStream p.1 2 r.2 }
    else { d with state := holdStream p.1 3 r.2 }

/-- The slot table that a decision commits. -/
def slotTable (placed : List (Nat × List Nat)) : List (Option (Nat × Nat)) :=
  (List.range 256).map fun k => placed.findSome? fun p => (p.2.findIdx? (· = k)).map fun j => (p.1, j)

/-- Streams that hold pages in a part that the KV area loses, to the expert area or to retired channels, are parked, lowest
priority first, and prefixes there that no stream references go to the cove (R221, R234). -/
def clearPages (s : State) : State :=
  let range := openPages s
  let leaves (ps : List KvPage) : Bool := ps.any fun x => !pageStays range x.page
  let order := (sortBy ranksBefore s.str.live).reverse.filter fun p => leaves p.2.pages && p.2.event.close.isNone
  let s := order.foldl (fun s p =>
    match p.2.state with
    | .ready | .prefill | .decode | .paused => setLive p.1 (fun t => { t with event := { t.event with park := true, own := false } }) s
    | _ => s) s
  (s.str.prefixes.filter fun p => leaves p.pages && p.place = 0 && !p.copying && references p.index s = 0).foldl
    (fun s p => movePrefix p s) s

/-! ## Demotion for a smaller expert area (R221) -/

/-- The coldest experts of stack j are demoted until no slice lies beyond unit `last`. -/
def shrinkArea (i : Image) (j last : Nat) (s : State) : State :=
  let order := sortBy (fun (a b : Nat × Nat × ExpertEntry) =>
    decide (temperatureOf a.2.2.layer a.2.2.expert s ≤ temperatureOf b.2.2.layer b.2.2.expert s)) ((slicesIn i j s).filter fun x => decide (x.1 < reserveStart))
  order.foldl (fun s x =>
    if (slicesIn i j s).any fun y => decide (y.1 < reserveStart) && decide (last < y.1 + y.2.1) then
      setExpert j x.2.2.vcomb x.2.2.layer x.2.2.expert (fun e => { e with inShelf := false }) s
    else s) s

/-- Every stack's experts fit an expert area of `area` MiB. -/
def shrinkAreas (area : Nat) (s : State) : State :=
  match s.img.image with
  | none => s
  | some i => (List.range 24).foldl (fun s j => shrinkArea i j (expertStart i s.img.place j + area * mibUnits) s) s

/-- A committed smaller expert area: the keepers demote in the epoch before the boundary at which it takes effect. -/
def demoteEarly (s : State) : State :=
  let area := bits s.cfg.words.w2 63 47
  if area < expertAreaMib s then shrinkAreas area s else s

/-- serve_next_interval() (R267). -/
def serveNext (i : Image) (s : State) : State :=
  let s := clearPages (demoteEarly s)
  let live := sortBy ranksBefore s.str.live
  let ends (p : Nat × Stream) : Bool := !p.2.waitPrefix && (reachOf i p.2 s).1 = leftToPrefill p.2
  let order := live.filter fun p => p.2.state = .decode || p.2.state = .paused || (p.2.state = .prefill && ends p)
  let start : Decision := ⟨List.replicate 24 0, decodeOrder i, [], [], s⟩
  let d := order.foldl (decideDecode i) start
  let d := (live.filter fun p => p.2.state = .prefill).foldl (decidePrefill i) d
  let kept := d.placed.filter fun p => match liveAt p.1 d.state with
    | some t => t.state != .prefill || d.queue.any (·.1 = p.1)
    | none => false
  { d.state with str := { d.state.str with committedTables := some ⟨slotTable kept, d.queue⟩ } }

/-- SERVE_NEXT_INTERVAL (R26, R267): the tables of the next interval are committed, once in an interval. -/
def execServeNextInterval (s : State) : Out :=
  .next (match s.img.image with
    | some i => if s.awake ∧ s.tide.dp = .running ∧ s.tide.prologue = false ∧ s.str.decided = false then
        serveNext i { s with str := { s.str with decided := true } }
      else s
    | none => s)

/-! ## Parking by delay (R252, R268) -/

/-- A stream is to be parked at the next step boundary, with a state frame (R357). -/
def parkByDelay (from_ : StreamState) (n delay : Nat) (s : State) : State :=
  match liveAt n s with
  | some t =>
    if s.awake ∧ s.tide.dp = .running ∧ t.state = from_ ∧ delay ≠ 0 then
      setLive n (fun t => { t with event := { t.event with park := true, own := if t.event.close.isSome then t.event.own else false } }) s
    else s
  | none => s

/-- PARK_DELAY_EXPIRY (R268). -/
def execParkDelayExpiry (record : Nat) (s : State) : Out := .next (parkByDelay .paused record (bits s.live.w4 255 240) s)

/-- READY_PARK_DELAY_EXPIRY (R252). -/
def execReadyParkDelayExpiry (record : Nat) (s : State) : Out := .next (parkByDelay .ready record (bits s.live.w4 239 224) s)

/-! ## Latency classes (R270) -/

/-- class_target_itt_us of a class. -/
def classTarget (k : Nat) (s : State) : Nat := bits s.live.w4 (159 - 16 * k) (144 - 16 * k)

/-- Tokens of live record n that were sampled in the last 1,024 tides. -/
def intervalTokens (n : Nat) (t : Stream) (s : State) : Nat :=
  let from_ := s.tide.number.toNat - 1024
  (t.kept ++ (s.str.emit.filter (·.1 = n)).flatMap (·.2)).countP fun e => decide (from_ ≤ e.tide.toNat)

/-- Whether a stream misses its class's target in the interval that ends; run cycles of 1.25 ns (log 29). -/
def missesTarget (p : Nat × Stream) (s : State) : Bool :=
  let cycles := (s.tide.runCycles - s.eth.corr.runCycles).toNat
  p.2.state = .paused
    || decide (800 * classTarget p.2.live.latencyClass.toNat s * max 1 (intervalTokens p.1 p.2 s) < cycles)

/-- Intervals and misses of the interval that ends (R270). -/
def countClasses (s : State) : State :=
  s.str.live.foldl (fun s p =>
    if p.2.state = .decode ∨ p.2.state = .paused then
      let miss := missesTarget p s
      { s with str := { s.str with classes := upd s.str.classes p.2.live.latencyClass.toNat fun c =>
        { c with intervals := satInc c.intervals, misses := if miss then satInc c.misses else c.misses } } }
    else s) s

/-- Class records at an epoch boundary; notice 0x0301 for a class that missed in more than 10 % (R270, R360; log 27). -/
def rollClasses (s : State) : State :=
  let before := s.str.classes
  let roll (c : ClassRecord) : ClassRecord := ⟨c.intervals, c.misses, 0, 0⟩
  let s := { s with str := { s.str with classes := before.map roll } }
  before.zipIdx.foldl (fun s c =>
    if c.1.intervals.toNat < 10 * c.1.misses.toNat then
      raiseNotice 0x0301 none 10 c.2 0 (c.2 * 2 ^ 248 + c.1.misses.toNat * 2 ^ 216) s
    else s) s

end Sys2Proof.Machine
end

