-- ==== Sys2Proof/Machine/Epoch.lean ====
section
/-! DEFINITION. The actions of an epoch boundary (R169, step 4): E fields and the shelf partition (R221), the KV area after
channel retirement (R234), lane groups and links (R158 to R160), experts (R233), and the per-epoch counters. -/

namespace Sys2Proof.Machine

/-! ## The KV area (R234) -/

/-- Shelf channels retired in a stack. -/
def channelsGone (k : Stack) : Nat := (List.range 32).countP fun c => bit k.channelsRetired c

/-- MiB by which the KV area of every stack ends lower: 122 for a stack's first retired channel, 3,072 for each further
one; the stack that has lost most decides (log 33). -/
def kvLoss (s : State) : Nat :=
  let n := s.shelf.stk.foldl (fun a k => max a (channelsGone k)) 0
  if n = 0 then 0 else 122 + 3072 * (n - 1)

/-- The KV area ends lower: streams are parked until the rest fits, and a stack that no longer holds its regions is lost
(R234). -/
def lowerKv (s : State) : State :=
  let cut := kvLoss s
  let lower (k : Stack) : Stack := { k with kvCut := cut }
  let s := { s with shelf := { s.shelf with stk := s.shelf.stk.map lower } }
  match s.img.image with
  | none => s
  | some i =>
    let s := clearPages s
    let bad := s.img.kvStacks.filter fun j => !(s.stack j).lost && decide (usableMib j s < 64 + backingMib i s.img.place j + expertAreaMib s)
    bad.foldl (fun s j => declareFailed (.stack j) s) s

/-! ## E fields and the expert area (R16, R221) -/

/-- expert_area_mib in force changed. -/
def setArea (n : Nat) (s : State) : State := { s with live := { s.live with w2 := setBits s.live.w2 63 47 n } }

/-- Every E field takes effect; the expert area grows only once the part it gains holds no KV page, with a notice where
that is late (R21, R221). -/
def takeE (s : State) : State :=
  let old := expertAreaMib s
  let new := bits s.cfg.words.w2 63 47
  let fits := (heldPages s).all fun p => decide ((pageRange (max old new) s).1 ≤ p)
  let s := { s with live := latchE s.mbox.lateT s.live s.cfg.words, mbox := { s.mbox with lateT := [] } }
  if old < new then
    if fits then
      let s' := { s with shelf := { s.shelf with growthLate := false } }
      if s.shelf.growthLate then raiseNotice 0x0004 none 0 0 0 (s.tide.number.toNat / 2 ^ 20 * 2 ^ 192) s' else s'
    else setArea old { s with shelf := { s.shelf with growthLate := true } }
  else
    let s := { s with shelf := { s.shelf with growthLate := false } }
    if new < old then shrinkAreas new s else s

/-! ## Lane groups and links (R158 to R160) -/

/-- Lane groups whose frames failed more often than the threshold are retired; the epoch's counts start anew (R158). -/
def retireGroups (limit : Nat) (d : LinkDir) : LinkDir :=
  let bad := (List.range 16).filter fun g => bit d.groupsActive g && decide (limit < nth d.groupFails g 0)
  let mask := (bad.map fun g => 2 ^ g).sum
  { d with groupsActive := BitVec.ofNat 16 (d.groupsActive.toNat - mask)
           groupsRetired := d.groupsRetired ||| BitVec.ofNat 16 mask
           groupFails := List.replicate 16 0
           crcFailLast := d.crcFailEpoch
           crcFailEpoch := 0 }

/-- Fewest lane groups of a link that is not below margin (R159); without an image no link is. -/
def groupsNeeded (s : State) : Nat := match s.img.image with | some i => 16 - i.linkMargin | none => 0

/-- The mapping stands under another tree: reach, peers, link time and path timing (R159; log 34). -/
def mappingFits (i : Image) (tree : List (BitVec 8)) (s : State) : Bool :=
  (List.range s.img.place.length).all fun v =>
    let p := nth s.img.place v 0
    let others := ((List.range s.img.place.length).filter (· ≠ v)).map fun u => (u, nth s.img.place u 0)
    reaches i tree v p others && (unfitCode i tree others v p).isNone

/-- A tree leads over link l. -/
def treeUses (tree : List (BitVec 8)) (l : Nat) : Bool :=
  (List.range 24).any fun n => let d := (nth tree n 0xFF).toNat; decide (d < 4) && (linkTowards n d).1 = l

/-- A remap around a link below margin starts where the new tree passes the checks (R159). -/
def avoidLink (l : Nat) (s : State) : State :=
  match s.img.image with
  | none => s
  | some i =>
    if treeUses s.img.parents l ∧ mappingFits i (formTree i.linkMargin (declaredTree i.treeParent) s) s then declareFailed .none s else s

/-- A direction that has come below margin is notified (R159). -/
def markMargin (l : Nat) (dir : Bool) (s : State) : State :=
  if (s.link l dir).state = 0 ∧ activeGroups (s.link l dir) < groupsNeeded s then
    let s := setLink l dir (fun d => { d with state := 1 }) s
    raiseNotice 0x0201 none 3 l 0 (detail256 (linkRecord (s.link l dir))) s
  else s

/-- A link's width after lane groups have been retired. -/
def checkWidth (l : Nat) (s : State) : State :=
  if (s.link l false).state = 2 ∨ (s.link l true).state = 2 then s
  else if activeGroups (s.link l false) < 4 ∨ activeGroups (s.link l true) < 4 then declareFailed (.link l) s
  else
    let t := markMargin l true (markMargin l false s)
    if (s.link l false).state ≠ (t.link l false).state ∨ (s.link l true).state ≠ (t.link l true).state then avoidLink l t else t

/-- Every link at an epoch boundary. -/
def retireLanes (s : State) : State :=
  let limit := bits s.live.w9 19 0
  let s := { s with fabric := { s.fabric with links := s.fabric.links.map (retireGroups limit) } }
  (List.range 40).foldl (fun s l => checkWidth l s) s

/-! ## Experts (R233) -/

/-- Map entries of an expert, stack after stack. -/
def expertSlices (layer expert : Nat) (s : State) : List (Nat × ExpertEntry) :=
  (List.range 24).flatMap fun j =>
    ((s.stack j).experts.filter fun e => e.layer = layer && e.expert = expert).map fun e => (j, e)

/-- An expert lies in the shelf as a whole, or not as a whole. -/
def shelfExpert (h : ExpertHeat) (s : State) : Bool :=
  let l := expertSlices h.layer h.expert s
  !l.isEmpty && l.all fun x => x.2.inShelf
def coveExpert (h : ExpertHeat) (s : State) : Bool := (expertSlices h.layer h.expert s).any fun x => !x.2.inShelf

/-- A complete promotion flips the map entries: one expert leaves the shelf, the other takes its place (R233). -/
def flipPromotion (i : Image) (x : Promotion) (s : State) : State :=
  let s := (expertSlices x.outLayer x.outExpert s).foldl (fun s e =>
    setExpert e.1 e.2.vcomb e.2.layer e.2.expert (fun y => { y with inShelf := false }) s) s
  ((expertSlices x.layer x.expert s).filter fun e => !e.2.inShelf).foldl (fun s e =>
    let n := sliceUnits i e.2.vcomb e.2.layer e.2.expert
    match (freePlace i e.1 n s).or (freeReserve i e.1 n s) with
    | some u =>
      setExpert e.1 e.2.vcomb e.2.layer e.2.expert (fun y => { y with inShelf := true, restage := false, offset := BitVec.ofNat 38 u })
        (setStack e.1 (fun k => { k with mem := writeUnits k.mem u (sliceWords i e.2.vcomb e.2.layer e.2.expert s) }) s)
    | none => s) s

/-- An expert takes part in a promotion that is under way. -/
def promoting (ps : List Promotion) (h : ExpertHeat) : Bool :=
  ps.any fun p => (p.layer = h.layer && p.expert = h.expert) || (p.outLayer = h.layer && p.outExpert = h.expert)

/-- The swaps planned at an epoch boundary, in order (R233). -/
def planSwaps (ps : List Promotion) (s : State) : List Promotion :=
  let free := s.shelf.heat.filter fun h => !promoting ps h
  let cove := sortBy (fun (a b : ExpertHeat) => decide (b.temperature ≤ a.temperature)) (free.filter fun h => coveExpert h s)
  let shelf := sortBy (fun (a b : ExpertHeat) => decide (a.temperature ≤ b.temperature)) (free.filter fun h => shelfExpert h s)
  (((cove.zip shelf).filter fun p => decide (2 * p.2.temperature + 1 < p.1.temperature)).take (bits s.live.w2 46 32)).map
    fun p => ⟨p.1.layer, p.1.expert, p.2.layer, p.2.expert, false⟩

/-- T ← floor(T / 2) + count. -/
def coolHeat (h : ExpertHeat) : ExpertHeat := { h with temperature := h.temperature / 2 + h.count, count := 0 }

/-- Temperatures, promotions that are complete, and the swaps of the next epoch (R233). -/
def rollExperts (s : State) : State :=
  match s.img.image with
  | none => s
  | some i =>
    let s := { s with shelf := { s.shelf with heat := s.shelf.heat.map coolHeat } }
    let s := (s.shelf.promotions.filter (·.complete)).foldl (fun s p => flipPromotion i p s) s
    let rest := s.shelf.promotions.filter (!·.complete)
    { s with shelf := { s.shelf with promotions := rest ++ planSwaps rest s } }

/-! ## Channels by corrected errors (R311) -/

/-- Channels with more corrected words than shelf_ce_threshold in the epoch. -/
def retireChannels (s : State) : State :=
  let limit := bits s.live.w10 31 16
  (List.range 24).foldl (fun s j =>
    if (s.stack j).lost then s
    else (List.range 32).foldl (fun s c => if limit < nth (s.stack j).correctedEpoch c 0 then retireChannel j c s else s) s) s

/-! ## Per-epoch counters (R169) -/

def rollSlack (r : SlackRecord) : SlackRecord :=
  { r with cyclesLastEpoch := r.cyclesEpoch, holdsLastEpoch := r.holdsEpoch, cyclesEpoch := 0, holdsEpoch := 0 }

def rollComb (c : Comb) : Comb :=
  { c with record := { c.record with scrubPassesLast := BitVec.ofNat 16 (min (c.record.scrubRows / rowCount) 0xFFFF), scrubRows := 0 }
           mends := []
           transportErrors := 0 }

def rollStack (k : Stack) : Stack :=
  { k with pageinLast := k.pageinEpoch, refetchLast := k.refetchEpoch, pageinEpoch := 0, refetchEpoch := 0
           uncorrectableEpoch := List.replicate 32 0, correctedEpoch := List.replicate 32 0 }

def rollCove (r : CoveRecord) : CoveRecord :=
  { r with readMib := r.readEpoch, writeMib := r.writeEpoch, readEpoch := 0, writeEpoch := 0 }

def rollPort (p : Port) : Port := { p with transportErrors := 0 }

/-- Per-epoch counts go to their last-epoch fields and start anew. -/
def rollCounters (s : State) : State :=
  { s with
    tide := { s.tide with slack := s.tide.slack.map rollSlack }
    combs := s.combs.map rollComb
    fabric := { s.fabric with ports := s.fabric.ports.map rollPort }
    shelf := { s.shelf with stk := s.shelf.stk.map rollStack }
    cove := { s.cove with records := s.cove.records.map rollCove }
    err := { s.err with layerSlack := [] } }

/-- Step 4 of R169. -/
def epochActions (s : State) : State :=
  let s := takeE (lowerKv s)
  let s := retireLanes (rotateQuadrants s)
  let s := rollExperts (retireChannels s)
  let s := checkCooling (retireSuspects (rollCounters s))
  rollClasses (resendWarnings (takeModes (rollSensors s)))

end Sys2Proof.Machine
end

