-- ==== Sys2Proof/Machine/Boundaries.lean ====
section
/-! DEFINITION. Boundaries: the gate (R168), the tide boundary with throttle (R169, R182), the serving interval (R264), the
epoch, expert refetch (R231), and the start of the data plane with its fill prologue (R172, R174). -/

namespace Sys2Proof.Machine

/-! ## The gate (R168) -/

/-- A flow of the phase has completed: every element stands at the root, or every receiver has the flit that ends it. -/
def flowComplete (i : Image) (f : Nat) (s : State) : Bool :=
  let fl := i.flow f
  match Flow.kind fl with
  | 2 => (s.fabric.outs.countP fun y => y.flow.toNat = f) = Flow.elements fl
  | 1 => (List.range 24).all fun n => (flowCombs fl n s).all fun p =>
      match (s.comb p).receives.find? fun x => x.flow.toNat = f with
      | some x => x.ended
      | none => false
  | _ => true

/-- Flow numbers of phase k. -/
def phaseFlows (i : Image) (k : Nat) : List Nat := (List.range (Phase.flowCount (i.phase k))).map (Phase.firstFlow (i.phase k) + ·)

/-- Nothing of a comb's phase is under way: rows, replays, rotations. -/
def Comb.atRest (c : Comb) : Bool :=
  c.pending.isEmpty && c.fallback.isEmpty && !c.windowOpen && c.rotations.isEmpty && c.drained.isEmpty

/-- A port holds no flit of the phase. -/
def Port.atRest (q : Port) : Bool := q.entries.isEmpty && q.staging.isEmpty

/-- The tide in force is the last of its phase. -/
def lastTide (i : Image) (s : State) : Bool := (phasePos s).2 + 1 = Phase.tides (i.phase (phasePos s).1)

/-- The next tide begins a step. -/
def lastOfStep (s : State) : Bool := (s.tide.number.toNat + 1) % s.period = 0

/-- Every item of the phase is complete. -/
def phaseDone (i : Image) (s : State) : Bool :=
  s.combs.all Comb.atRest && (s.img.place.all fun p => (s.comb p).ended) && s.fabric.ports.all Port.atRest
    && (phaseFlows i (phasePos s).1).all fun f => flowComplete i f s

/-- Row ra of virtual comb v is planned to have landed by phase cycle t of phase k. -/
def plannedToLand (i : Image) (v k t ra : Nat) : Bool :=
  let ps := programsOf i v
  let ds := descriptorWords i v
  let ops := ps.flatten.map (·.1.2)
  let xs := planOf (stepCycles i) (nth ps k [])
  xs.any fun y => pends y.op && inRanges ra (writtenRows i ds ops y)
    && landsBy i ds ops k (planningLatency (Vgrid.rootReach (nth i.vgrid v 0))) xs.reverse y ra t

/-- Reduction f is planned to have reached the root by phase cycle t of phase k. -/
def plannedToReach (i : Image) (k t f : Nat) : Bool :=
  (Flow.vcombs (i.flow f)).all fun v =>
    (sentFlows i (nth (programsOf i v) k [])).any fun x => x.2.1 = f
      && decide (x.1 + planningLatency (Vgrid.rootReach (nth i.vgrid v 0)) + max x.2.2 (flitCycles i (flowFlits (i.flow f))) ≤ t)

/-- The comb of virtual comb v has what is planned for the tide that ends at phase cycle e: its instructions have issued, its
rows have landed and its replay window has closed. -/
def combOnTime (i : Image) (v k e : Nat) (c : Comb) : Bool :=
  (c.ended || (nth (programsOf i v) k []).all fun x => decide (e < x.1.1.toNat) || decide (x.2 < c.pc))
    && (c.pending.all fun x => !plannedToLand i v k (e - 63) x.ra.toNat)
    && !(c.windowOpen && decide (c.windowAt.toNat + max 64 (Phase.window (i.phase k)) ≤ e - 63))

/-- Every item planned for the tide in force is complete (R168): planned to be ready by the gate's deadline, cycle
tide_cycles - 64 of the tide. -/
def tideDone (i : Image) (s : State) : Bool :=
  let k := (phasePos s).1
  let e := tideBase s + s.tideLen - 1
  (s.img.place.zipIdx.all fun p => combOnTime i p.2 k e (s.comb p.1))
    && (phaseFlows i k).all fun f => Flow.kind (i.flow f) ≠ 2 || !plannedToReach i k (e - 63) f || flowComplete i f s

/-- The boundary gate passes; at the end of a step every row has been sampled. -/
def gatePasses (i : Image) (s : State) : Bool :=
  (if lastTide i s then phaseDone i s else tideDone i s)
    && (!lastOfStep s || s.str.live.all fun p => p.2.rows = 0 || p.2.stepOut.isSome)

/-! ## Late items (R176, R179) -/

/-- A row of die n's combs waits for a shelf transfer. -/
def awaitsShelf (n : Nat) (s : State) : Bool := (combsOf n).any fun p => (s.comb p).pending.any fun x => x.cause = 1

/-- A flow of the phase in force has not arrived. -/
def awaitsFlow (s : State) : Bool :=
  match s.img.image with
  | some i => (phaseFlows i (phasePos s).1).any fun f => !flowComplete i f s
  | none => false

/-- A stack has refreshed outside its window in the phase in force (R166). -/
def refreshedOutside (n : Nat) (s : State) : Bool :=
  match (s.stack n).refreshedAt with
  | some t => decide (s.tide.number.toNat - (phasePos s).2 ≤ t.toNat) && decide (t.toNat ≤ s.tide.number.toNat)
  | none => false

/-- The program memory of a comb does not read where its sequencer stands (R130). -/
def codeUnread (c : Comb) : Bool := (instructionReads c c.pc).any (·.poison)

/-- The source names an item that is late under the cause (R179): rows that a shelf has not delivered, a flow behind a link
that resent frames or runs narrow, replays or a broadcast's tail, a mend, an expert that is paged in. -/
def lateItem (cause : BitVec 8) (x : Source) (s : State) : Bool :=
  match cause.toNat, x with
  | 1, .channels n ch => decide (n < 24) && ch != 0 && awaitsShelf n s
  | 2, .channels n ch => decide (n < 24) && ch != 0 && awaitsShelf n s && refreshedOutside n s
  | 3, .link l => decide (l < 40) && awaitsFlow s && ((s.link l false).retriesTotal != 0 || (s.link l true).retriesTotal != 0)
  | 4, .link l => decide (l < 40) && awaitsFlow s
      && (decide (activeGroups (s.link l false) < groupsNeeded s) || decide (activeGroups (s.link l true) < groupsNeeded s))
  | 5, .comb p => decide (p < 96) && ((s.comb p).windowOpen || !(s.comb p).fallback.isEmpty || (s.comb p).pending.any fun y => y.cause = 5)
  | 6, .comb p => decide (p < 96) && (!(s.comb p).mendQueue.isEmpty || codeUnread (s.comb p))
  | 7, .coveStack j => decide (j < 8) && s.combs.any fun c => c.pending.any fun y => y.cause = 7
  | _, _ => false

/-- A consumption point has its deadline in the phase in force (R176): what stands before phase cycle 64 is an item of the
gate before, but for a mend, whose need no plan knows (log 36). -/
def pointOk (cause : BitVec 8) (c : Nat) : Bool := decide (64 ≤ c) || cause = 6

/-- HOLD_RAISE (R168, R175, R176, R179): an item that is not ready at its deadline freezes the counters at its consumption
point. A second item whose deadline fell before that freeze raises its hold beside the first (R180). -/
def execHoldRaise (cause : BitVec 8) (point : BitVec 13) (source : Source) (s : State) : Out :=
  let c := point.toNat
  .next (if s.awake = false ∨ lateItem cause source s = false ∨ pointOk cause c = false then s
    else if counting s then (if ahead c s then freezeAt cause c source s else s)
    else if s.tide.dp = .running ∧ s.tide.holds ≠ [] ∧ s.tide.holds.all (fun h => h.cause != 9) ∧ phaseCycle s ≤ c
        ∧ c ≤ phaseCycle s + 64 then
      let d := (c - phaseCycle s) - oldestAge s
      let late := decide (oldestAge s ≤ c - phaseCycle s)
      if late ∧ slackFits s.tide.holds.length d s then raiseHold cause source none (passSlack d s)
      else if cause = 5 ∧ c = phaseCycle s then raiseHold cause source none s
      else s
    else s)

/-! ## The end of a phase -/

/-- What belongs to one phase alone is over; expert rows of the layer that has used them too. Bank accesses, writes and units
still busy go on into the next phase, n cycles on. -/
def Comb.endPhase (layer : Option Nat) (n : Nat) (c : Comb) : Comb :=
  { c with slots := [], ended := false, receives := []
           writes := (c.writes.filter fun w => n < w.2).map fun w => (w.1, w.2 - n)
           accesses := (c.accesses.filter fun a => n ≤ a.2.1).map fun a => (a.1, a.2.1 - n, a.2.2)
           busy := (c.busy.filter fun y => n < y.2).map fun y => (y.1, y.2 - n)
           expertRows := c.expertRows.filter fun x => some x.layer ≠ layer }

/-- The sequencers stand at the first instruction of phase k's program (R130). -/
def startPrograms (i : Image) (k : Nat) (s : State) : State :=
  { s with combs := s.combs.zipIdx.map fun x =>
      if mapped x.2 s then
        { x.1 with pc := match nth (programsOf i (vcombOn x.2 s)) k [] with | y :: _ => y.2 | [] => 0 }
      else x.1 }

/-- The layer whose experts a phase uses. -/
def expertLayer (i : Image) (k : Nat) : Option Nat :=
  let p := i.phase k
  if Phase.kind p = 2 ∧ Layer.routed (i.layer (Phase.layer p)) then some (Phase.layer p) else none

/-- The phase in force ends. -/
def endPhase (i : Image) (s : State) : State :=
  let layer := expertLayer i (phasePos s).1
  let port (q : Port) : Port := { q with entries := [], staging := [], forwarded := [] }
  let index := (s.fabric.index.filter fun x => decide (x.1 < 2)).map fun x => (x.1 + 1, x.2)
  { s with combs := s.combs.map (Comb.endPhase layer (phaseCycles i (phasePos s).1))
           fabric := { s.fabric with inputs := s.fabric.formed, index := index,
                                     ports := s.fabric.ports.map port, named := [], outs := [], formed := [] } }

/-! ## Expert positions (R231) -/

/-- Positions of a feed-forward phase from the predicted and the actual list. -/
def expertPositions (predicted actual : List Nat) : List Nat :=
  (actual.filter fun e => !predicted.contains e).foldl (fun ps e =>
    match ps.findIdx? fun x => !actual.contains x with
    | some j => ps.set j e
    | none => ps ++ [e]) predicted

/-- Rows of position j of a layer on comb p, for expert e: those that the gather filled, or the next ones (log 32). -/
def positionRows (p layer j e : Nat) (s : State) : Option ExpertRows :=
  let mine := (s.comb p).expertRows.filter fun x => x.layer = layer
  match mine.find? fun x => x.place = j with
  | some x => some { x with expert := e }
  | none => mine.getLast?.map fun x => { x with expert := e, place := j, first := x.first + (j - x.place) * x.count }

/-- Units of scratchpad row r, those of the slice from `us`. -/
def mixRow (c : Comb) (x : ExpertRows) (us : List (Option (List Word64))) (r : Nat) : List (Option (List Word64)) :=
  (List.range 8).map fun k =>
    let u := 8 * r + k
    if x.first ≤ u ∧ u < x.first + x.count then nth us (u - x.first) none else some (carried (readSlots c.mem (u * 8) 8))

/-- A slice is refetched into its rows, which are pending; where it is not in the shelf it is paged in (R231, R232, R303). -/
def refetchSlice (p : Nat) (x : ExpertRows) (s : State) : State :=
  let v := vcombOn p s
  let j := dieOf p
  let s := setComb p (fun c => { c with expertRows := c.expertRows.filter (fun y => !(y.layer = x.layer && y.place = x.place)) ++ [x] }) s
  match expertEntry j v x.layer x.expert s with
  | none => s
  | some e =>
    let r : List (Option (List Word64)) × State :=
      if e.inShelf then
        let d := readUnits j e.offset.toNat x.count s
        let us := unitsOf x.count d.1
        let s := us.foldl (fun s w => if w.any (·.2) then reportPoison (poisonOf false (operandIn (phasePos s).1 1 s) 0 p (x.first / 8)) s else s) d.2
        (us.map some, if us.any (fun w => w.any (·.2)) then setExpert j v x.layer x.expert (fun y => { y with inShelf := false }) s else s)
      else (List.replicate x.count none, startPagein j v x.layer x.expert s)
    let rows := (List.range ((x.first + x.count + 7) / 8 - x.first / 8)).map (x.first / 8 + ·)
    rows.foldl (fun s ra => pendRow p ra (pendingBytes (mixRow (s.comb p) x r.1 ra)) (if e.inShelf then 1 else 7) s) r.2

/-- Position j of a layer changes to expert e on every comb; each stack counts it once. -/
def refetchPosition (layer : Nat) (x : Nat × Nat) (s : State) : State :=
  (List.range 24).foldl (fun s n =>
    let rows := (combsOf n).filterMap fun p => if mapped p s then (positionRows p layer x.2 x.1 s).map fun y => (p, y) else none
    if rows = [] then s
    else
      let s := setStack n (fun k => { k with refetchEpoch := satInc k.refetchEpoch }) s
      rows.foldl (fun s y => refetchSlice y.1 y.2 s) s) s

/-- The start of a phase: in a feed-forward phase of a routed layer the positions that changed are refetched. -/
def beginPhase (i : Image) (s : State) : State :=
  let s := startPrograms i (phasePos s).1 s
  match expertLayer i (phasePos s).1 with
  | none => s
  | some l =>
    match lookup s.fabric.predicted l, lookup s.fabric.actual l with
    | some ps, some as =>
      let new := expertPositions ps as
      let changed := new.zipIdx.filter fun x => ps[x.2]? ≠ some x.1
      let s := changed.foldl (fun s x => refetchPosition l x s) s
      { s with fabric := { s.fabric with predicted := remove s.fabric.predicted l, actual := remove s.fabric.actual l } }
    | _, _ => s

/-! ## Step 2: T fields (R16, R17, R255, R289) -/

/-- A stream's settings take effect. -/
def latchStream (t : Stream) : Stream :=
  if t.depthWritten then
    { t with live := t.shadow, draftDepth := t.shadow.draftDepthMax, probe := 0, depthWritten := false }
  else { t with live := t.shadow }

/-- throttle_k: the largest of the thermal, degradation and power demands and the owner's floor (R182, R412, R428). -/
def throttleDemand (s : State) : BitVec 4 :=
  BitVec.ofNat 4 (max (max s.cool.kT.toNat s.cool.kDeg.toNat) (max s.pow.kP.toNat (bits s.live.w7 3 0)))

/-- T shadows are copied into the live fields, those of a stream that has parked since its STREAM_SET too. -/
def takeT (s : State) : State :=
  let latch (p : Nat × Stream) : Nat × Stream := (p.1, latchStream p.2)
  let s := { s with live := latchT s.mbox.lateT s.live s.cfg.words
                    str := { s.str with live := s.str.live.map latch, parked := s.str.parked.map latchStream } }
  { s with tide := { s.tide with throttleK := throttleDemand s } }

/-! ## TIDE_BOUNDARY -/

/-- The pattern calls for a throttle slack tide after tide t (R182). -/
def throttleDue (t k : Nat) : Bool := decide (t * k / 16 < (t + 1) * k / 16)

/-- The tide number advances from the gate on; what is due at the new number is noted. -/
def advanceNumber (s : State) : State :=
  let n := s.tide.number + 1
  { s with tide := { s.tide with number := n, tideCycle := 0, runCycles := s.tide.runCycles + 1
                                 servingDue := decide (n.toNat % 1024 = 0)
                                 epochDue := decide (n.toNat % 2 ^ 20 = 0)
                                 stepDue := decide (n.toNat % s.period = 0) } }

/-- The tide ends at its gate, and the next begins (R169). -/
def crossGate (i : Image) (s : State) : State :=
  let t := s.tide.number.toNat
  let last := lastTide i s
  let s := advanceTo (tideBase s + s.tideLen - 1) s
  let s := takeT (advanceNumber (if last then endPhase i s else s))
  let s := if last then beginPhase i s else s
  endBoundary (if throttleDue t s.tide.throttleK.toNat then raiseHold 9 .none (some s.tideLen) s else s)

/-- TIDE_BOUNDARY (R168, R169, R182): the gate of the tide in force passes. -/
def execTideBoundary (s : State) : Out :=
  .next (match s.img.image with
    | some i => if s.awake ∧ counting s ∧ gatePasses i s then crossGate i s else s
    | none => s)

/-! ## SERVING_INTERVAL_BOUNDARY and EPOCH_BOUNDARY -/

/-- The committed tables and the prefill factor take effect (R264, R422). -/
def takeTables (s : State) : State :=
  { s with
    str := { s.str with tables := s.str.committedTables.getD s.str.tables, committedTables := none
                        decided := false
                        fresh := s.str.fresh || s.str.committedTables.isSome }
    cool := { s.cool with f := s.cool.fPending.getD s.cool.f, fPending := none } }

/-- SERVING_INTERVAL_BOUNDARY (R169, R264, R270). -/
def execServingIntervalBoundary (s : State) : Out :=
  .next (if s.awake ∧ s.tide.dp = .running ∧ s.tide.prologue = false ∧ s.tide.servingDue then
    endBoundary (takeTables (countClasses { s with tide := { s.tide with servingDue := false } }))
  else s)

/-- EPOCH_BOUNDARY (R169): step 4, after the tables of the same boundary. -/
def execEpochBoundary (s : State) : Out :=
  .next (if s.awake ∧ s.tide.dp = .running ∧ s.tide.prologue = false ∧ s.tide.epochDue ∧ s.tide.servingDue = false then
    afterStop (endBoundary (epochActions { s with tide := { s.tide with epochDue := false } }))
  else s)

/-! ## The start of the data plane (R172, R174) -/

/-- Index rows in place, from row ra on. -/
def writeIndex (p ra : Nat) (es : List Word64) (s : State) : State :=
  (List.range (es.length / 64)).foldl (fun s k =>
    setComb p (fun c => { c with mem := writeRow c.mem (ra + k) ((es.drop (64 * k)).take 64) }) s) s

/-- A gather of the prologue: the hive die writes its index rows from the tables in force, which go on from the gathers of the
comb before it, and the shelf interface carries it out. Runs that it does not take are left. -/
def prologueGather (p : Nat) (o : ShelfOp) (runs : List (Nat × Nat)) (s : State) : List (Nat × Nat) × State :=
  let k := (phasePos s).1
  let need := 8 * o.count.toNat
  let r := splitRuns need runs
  let es := fillList need (r.1.map (·.2)).sum (r.1.map fun x => directEntry x.1 x.2)
  let s := writeIndex p o.indexRow.toNat es s
  (r.2, fillGather p o (phaseParity s) k (gatherList p o s) s)

/-- SHELF instructions of the phase before the first, with their combs. -/
def prologueOps (i : Image) (s : State) : List (Nat × ShelfOp) :=
  s.img.place.zipIdx.flatMap fun p => (nth (programsOf i p.2) (i.phaseCount - 1) []).filterMap fun x => match x.1.2 with
    | .shelf o => some (p.1, o)
    | _ => none

/-- The transfers of the prologue, into the row sets of the first phase; what the gathers of a comb still have to fetch goes
with them. -/
def prologueFills (i : Image) (ops : List (Nat × ShelfOp)) (s : State) : State :=
  let k := (phasePos s).1
  (ops.foldl (fun (a : List (Nat × List (Nat × Nat)) × State) x =>
    if x.2.gather then
      let runs := (lookup a.1 x.1).getD (kvRuns i (vcombOn x.1 s) k s)
      let r := prologueGather x.1 x.2 runs a.2
      (assign a.1 x.1 r.1, r.2)
    else (a.1, fillStream x.1 x.2 (phaseParity a.2) k a.2)) ([], s)).2

/-- The sequencers stand at the programs of the phase with which the data plane starts. -/
def startFirst (s : State) : State :=
  match s.img.image with
  | some i => startPrograms i (phasePos s).1 s
  | none => s

/-- Everything of the start's boundary: T fields, tables, E fields, then the step boundary. -/
def startBoundary (s : State) : State :=
  let s := { s with tide := { s.tide with dp := .running, halt := .none, startPending := false, prologue := true, tideCycle := 0
                                          holds := [], lapsed := [], servingDue := false, epochDue := false, stepDue := false
                                          stopPending := false } }
  let s := startFirst (epochActions (takeTables (takeT s)))
  if s.tide.dp = .running then openStep s else advanceService s

/-- The data plane may enter Running. -/
def canStart (s : State) : Bool :=
  s.awake && s.tide.startPending && s.err.failed.isEmpty && s.img.image.isSome && !quarantined s.img.digest s
    && (s.tide.dp = .loading || s.tide.dp = .stopped || s.tide.dp = .halted)

/-- DATA_PLANE_START (R172, R174): a boundary of every kind, then the transfers of the fill prologue. -/
def execDataPlaneStart (s : State) : Out :=
  match s.img.image with
  | none => .next s
  | some i =>
    if canStart s then
      let t := startBoundary s
      let ops := if t.tide.dp = .running then prologueOps i t else []
      if ops.any fun x => !x.2.gather && shelfOutside x.1 x.2 t then .fault .shelfAddressOutside
      else .next (prologueFills i ops t)
    else .next s

/-- Every pending row of a comb lands. -/
def landRows (p : Nat) (s : State) : State := (s.comb p).pending.foldl (fun s x => landRow p x.ra.toNat s) s

/-- Every row of the prologue is complete. -/
def prologueComplete (s : State) : Bool := s.combs.all fun c => c.pending.all fun x => x.data.length = 576

/-- PROLOGUE_LANDED (R174): the first tide starts 64 cycles after the last row; how long the transfers took is open
(log 35). -/
def execPrologueLanded (s : State) : Out :=
  .next (if s.awake ∧ s.tide.dp = .running ∧ s.tide.prologue ∧ prologueComplete s then
    let s := (List.range 96).foldl (fun s p => landRows p s) s
    let d := draw 16 s
    openTide { d.2 with tide := { d.2.tide with prologue := false
                                                runCycles := d.2.tide.runCycles + 64 + d.1.setWidth 64 } }
  else s)

/-- Rows of die n's combs have not landed. -/
def dieAwaits (n : Nat) (s : State) : Bool := (combsOf n).any fun p => !(s.comb p).pending.isEmpty

/-- Stacks of which channels did not deliver, with those channels. -/
def undelivered (channels : List (BitVec 32)) : List (Nat × BitVec 32) :=
  (channels.zipIdx.filter fun x => x.1 ≠ 0).map fun x => (x.2, x.1)

/-- PROLOGUE_TIMEOUT (R174, R181): 65,536 cycles have passed; the channels that did not deliver are failed, which are some of
every stack whose rows have not landed, and of no other. -/
def execPrologueTimeout (channels : List (BitVec 32)) (s : State) : Out :=
  .next (if s.awake ∧ s.tide.dp = .running ∧ s.tide.prologue ∧ undelivered channels ≠ []
      ∧ (List.range 24).all (fun n => decide (nth channels n 0 ≠ 0) = dieAwaits n s) then
    let s := { s with tide := { s.tide with runCycles := s.tide.runCycles + 65536 } }
    advanceService ((undelivered channels).foldl (fun s x => declareFailed (.channels x.1 x.2) s) (halt .timeout s))
  else s)

end Sys2Proof.Machine
end

