-- ==== Sys2Proof/Machine/Errors.lean ====
section
/-! DEFINITION. The remap (R154, R207 to R211, R312 to R316), the classification of violations (R308 to R310) and keeper
cores (R34, R311). -/

namespace Sys2Proof.Machine

/-! ## Placement (R154, R208, R312 stages 2 to 4) -/

/-- Stage 2: what was declared failed is retired. -/
def retireFailed (s : State) : State := s.err.failed.foldl (fun s x => retireSource x s) s

/-- Virtual combs that a remap displaces (R208): the comb is out of use, or the place fails link time or path timing. -/
def displacedOf (i : Image) (tree : List (BitVec 8)) (s : State) : List Nat :=
  let place := s.img.place
  let good := usableCombs tree s
  let lost (v : Nat) : Bool := !good.contains (nth place v 0)
  let others (v : Nat) : List (Nat × Nat) :=
    ((List.range place.length).filter fun u => u ≠ v && !lost u).map fun u => (u, nth place u 0)
  (List.range place.length).filter fun v => lost v || (unfitCode i tree (others v) v (nth place v 0)).isSome

/-- Expert area at the first tide (R220). -/
def nextArea (s : State) : Nat := bits s.cfg.words.w2 63 47

/-- Moves pass link time, path timing and SHELF_FIT (R208); virtual combs that still wait for a place stand nowhere. -/
def movesFit (i : Image) (tree : List (BitVec 8)) (place waiting : List Nat) (s : State) (moves : List (Nat × Nat)) : Bool :=
  let masked := waiting.foldl (fun (l : List Nat) v => l.set v 999) place
  let new := moves.foldl (fun (l : List Nat) m => l.set m.1 m.2) masked
  let dies := moves.flatMap fun m => [dieOf m.2, dieOf (nth place m.1 0)]
  let placed := (new.zipIdx.filter fun x => decide (x.1 < 96)).map fun x => (x.2, x.1)
  moves.all (fun m => (unfitCode i tree placed m.1 m.2).isNone) && dies.all fun j => (stackFailures i new (nextArea s) j s).isEmpty

/-- A place for each displaced virtual comb in turn: mapping and spares, or the first that finds none. -/
def placeDisplaced (i : Image) (tree : List (BitVec 8)) (s : State) :
    List Nat → List Nat → List Nat → (List Nat × List Nat) ⊕ Nat
  | [], place, spares => .inl (place, spares)
  | v :: vs, place, spares =>
    match remapOne i tree (movesFit i tree place (v :: vs) s) (v :: vs) v place spares with
    | some r => placeDisplaced i tree s vs r.1 r.2
    | none => .inr v

/-- The mapping on a tree, or the virtual comb without a place (R208). -/
def remapOn (i : Image) (tree : List (BitVec 8)) (s : State) : (List Nat × List Nat) ⊕ Nat :=
  placeDisplaced i tree s (displacedOf i tree s) s.img.place (sparesOf s.img.place tree s)

/-- The tree of a remap, with the mapping on it: around links below margin, and where the checks fail there, over them
(R154, R159). -/
def remapTree (i : Image) (s : State) : List (BitVec 8) × ((List Nat × List Nat) ⊕ Nat) :=
  let around := formTree i.linkMargin (declaredTree i.treeParent) s
  match remapOn i around s with
  | .inl r => (around, .inl r)
  | .inr _ =>
    let across := formTree 16 (declaredTree i.treeParent) s
    (across, remapOn i across s)

/-- Stages 3 and 4: mapping and tree, or the virtual comb without a place; a comb that fails its self-test is retired, and
the placement starts again (R312, R314). -/
def settleMapping (i : Image) (selfTestFails : List Nat) : Nat → State → State × ((List Nat × List (BitVec 8)) ⊕ Nat)
  | 0, s => (s, .inr 0)
  | k + 1, s =>
    let m := remapTree i s
    match m.2 with
    | .inr v => (s, .inr v)
    | .inl r =>
      let bad := r.1.filter fun p => !s.img.place.contains p && selfTestFails.contains p
      if bad = [] then (s, .inl (r.1, m.1)) else settleMapping i selfTestFails k (bad.foldl (fun s p => retireComb p s) s)

/-- The checks that left virtual comb v without a place (R208, R211). -/
def remapFailures (i : Image) (v : Nat) (s : State) : List Failure :=
  let tree := (remapTree i s).1
  let others := ((List.range s.img.place.length).filter (· ≠ v)).map fun u => (u, nth s.img.place u 0)
  let cand := (sparesOf s.img.place tree s).filter fun p => reaches i tree v p others
  let found := cand.flatMap fun p => match unfitCode i tree others v p with
    | some c => [(⟨c, 1, BitVec.ofNat 32 v, 0⟩ : Failure)]
    | none => stackFailures i (s.img.place.set v p) (nextArea s) (dieOf p) s
  if found = [] then [⟨0x0603, 1, BitVec.ofNat 32 v, 0⟩] else found.dedup

/-! ## Stage 5: copies (R209, R313, R316) -/

/-- Comb dies whose virtual combs change. -/
def changedDies (old new : List Nat) : List Nat := (List.range 24).filter fun j => vcombsOn old j ≠ vcombsOn new j

/-- Resident ranges that stack j holds under the new mapping: where, and their words. A lost stack's ranges come from the
image object, which holds what was loaded into it (R198, R316). -/
def movedRanges (i : Image) (old new : List Nat) (j : Nat) (s : State) : List (Nat × List Word64) :=
  (backingEntries i new j).filterMap fun n =>
    match shardUnit i old n, shardUnit i new n with
    | some a, some b =>
      let from_ := dieOf (nth old (Shard.vcomb (nth i.shards n 0)) 0)
      some (b, if (s.stack from_).lost then wordsOf ((lookup s.img.ranges n).getD (List.replicate (64 * rangeUnits i n) 0))
        else carried (readSlots (s.stack from_).mem (a * 8) (rangeUnits i n * 8)))
    | _, _ => none

/-- Expert slices of stack j under the new mapping: entry and words. Those of a lost stack stay in the cove, where its own
wait for re-staging (R313, R316); one that comes from another stack has no place yet. -/
def movedExperts (i : Image) (old new : List Nat) (j : Nat) (s : State) : List (ExpertEntry × List Word64) :=
  (vcombsOn new j).flatMap fun v =>
    let k := s.stack (dieOf (nth old v 0))
    (k.experts.filter fun e => e.vcomb = v).map fun e =>
      if e.inShelf ∧ k.lost = false then
        ({ e with offset := if dieOf (nth old v 0) = j then e.offset else 0 },
          carried (readSlots k.mem (e.offset.toNat * 8) (sliceUnits i v e.layer e.expert * 8)))
      else ({ e with inShelf := false, restage := e.restage || e.inShelf }, [])

/-- Slices one after another in the expert area; one of the stack's reserve keeps its place, and one that finds no room
stays in the cove. -/
def layExperts (limit : Nat) : Nat → List (ExpertEntry × List Word64) → List (ExpertEntry × List Word64)
  | _, [] => []
  | u, x :: xs =>
    let n := x.2.length / 8
    if x.1.inShelf ∧ reserveStart ≤ x.1.offset.toNat then x :: layExperts limit u xs
    else if x.1.inShelf ∧ u + n ≤ limit then ({ x.1 with offset := BitVec.ofNat 38 u }, x.2) :: layExperts limit (u + n) xs
    else ({ x.1 with inShelf := false }, []) :: layExperts limit u xs

/-- A stack as the new mapping lays it out. -/
def relaidStack (i : Image) (old new : List Nat) (j : Nat) (s : State) : Stack :=
  let start := expertStart i new j
  let experts := layExperts (start + nextArea s * mibUnits) start (movedExperts i old new j s)
  let mem := (movedRanges i old new j s).foldl (fun m x => writeUnits m x.1 x.2) (s.stack j).mem
  let mem := experts.foldl (fun m x => if x.1.inShelf then writeUnits m x.1.offset.toNat x.2 else m) mem
  { s.stack j with mem := mem, experts := experts.map (·.1) }

/-- Slices move with their virtual combs. -/
def relocate (i : Image) (old new : List Nat) (s : State) : State :=
  let relaid := (changedDies old new).map fun j => (j, relaidStack i old new j s)
  writeCode i new (relaid.foldl (fun s x => setStack x.1 (fun _ => x.2) s) s)

/-- Every virtual comb that has moved gets its scratchpad and program (R312, stage 5). -/
def fillMoved (i : Image) (old new : List Nat) (s : State) : State :=
  ((List.range new.length).filter fun v => nth old v 0 ≠ nth new v 0).foldl (fun s v => fillComb i new v s) s

/-! ## KV units (R35, R313) -/

/-- Where a page's units for virtual comb v of the set's place k stand. -/
def pageHome (k v page : Nat) (s : State) : Nat × Nat :=
  match s.shelf.moved.find? fun m => m.vcomb = v && m.page = page with
  | some m => (m.stack, m.toPage)
  | none => (nth s.img.kvStacks k 0, page)

/-- The KV units that moved virtual combs' gathers read, of streams and of prefixes, go into free pages of the new stacks, and
the page map follows. -/
def moveKv (i : Image) (before s : State) : State :=
  let t := extendMap s
  (List.range t.img.kvReaders.length).foldl (fun t k => (nth t.img.kvReaders k []).foldl (fun t v =>
    (recordPages t).foldl (fun t page =>
      let a := pageHome k v page before
      let b := pageHome k v page t
      if a = b then t else copyPage i k v a b t) t) t) t

/-! ## Stages 6 and 7 -/

/-- What IMAGE_START or the remap itself may end: a halt by a fault, a thermal stop or damage stays (R210, R216, R424). -/
def remapResumes (s : State) : Bool := s.tide.halt = .remap || s.tide.halt = .timeout

/-- The remap has found a mapping (R186, R211, R312). -/
def completeRemap (i : Image) (new : List Nat) (tree : List (BitVec 8)) (s : State) : State :=
  let old := s.img.place
  let s := fillMoved i old new (relocate i old new s)
  let holds := contractTable i s.ident.stepping
  let report := goodReport i s.img.digest new tree holds s.img.report.layerCounts (satInc s.img.report.remapCount) s
  let gather (j : Nat) : Nat := if s.img.kvStacks.contains j then gatherCapacity i new j else 0
  let s := { s with img := { s.img with place := new, parents := tree, gather := (List.range 24).map gather, report := report }
                    tide := { s.tide with contractHolds := holds, contractPerStep := contractTotal holds
                                          startPending := s.tide.startPending || remapResumes s }
                    err := { s.err with failed := [] } }
  let s := moveKv i s s
  raiseNotice 0x0103 none 7 0 0 (detail256 (loadReport s)) s

/-- The remap ends in INSUFFICIENT_SPARES (R208, R210). -/
def failRemap (i : Image) (v : Nat) (s : State) : State :=
  let report := failedReport 0xFFFF s.img.digest (remapFailures i v s) s
  let s := { s with img := { s.img with report := report }
                    tide := { s.tide with halt := .insufficientSpares, startPending := false }
                    err := { s.err with failed := [] } }
  raiseNotice 0x0104 none 7 0 0 (detail256 (loadReport s)) s

/-- A remap as a whole. -/
def runRemap (i : Image) (selfTestFails : List Nat) (s : State) : State :=
  let s := retireFailed s
  if s.pow.stage = .nothing then { s with err := { s.err with failed := [] } }
  else
    let r := settleMapping i selfTestFails 97 s
    advanceService (match r.2 with
      | .inl m => completeRemap i m.1 m.2 r.1
      | .inr v => failRemap i v r.1)

/-- REMAP (R312): the stages that follow a failure, while the data plane is Halted. -/
def execRemap (selfTestFails : List Nat) (s : State) : Out :=
  .next (match s.img.image with
    | some i => if s.awake ∧ s.tide.dp = .halted ∧ s.err.failed ≠ [] then runRemap i selfTestFails s else s
    | none => s)

/-! ## CLASSIFY (R308, R309) -/

/-- What a classification finds. -/
inductive Verdict where
  | transient | genuine | unresolved
  | permanent (comb : Nat)
  deriving DecidableEq, Repr

/-- outcome code (R310). -/
def Verdict.code : Verdict → BitVec 3
  | .transient => 1 | .permanent _ => 2 | .genuine => 3 | .unresolved => 4

/-- The first spare within reach of virtual comb v, as the remap orders them (R208, R308). -/
def firstSpare (i : Image) (v : Nat) (s : State) : Option Nat :=
  let place := s.img.place
  let h := dieOf (nth place v 0)
  let others := ((List.range place.length).filter (· ≠ v)).map fun u => (u, nth place u 0)
  let near (a b : Nat) : Bool :=
    if (dieOf a = h) ≠ (dieOf b = h) then decide (dieOf a = h) else candidateOrder s.img.parents a b
  (sortBy near ((sparesOf place s.img.parents s).filter fun p => reaches i s.img.parents v p others)).head?

/-- The checks of the contributors by shadow, in ascending order; a shadow of which nothing is given was disturbed. -/
def shadowVerdict (i : Image) (shadows : List (Nat × Bool)) (s : State) : List Nat → Bool → Verdict
  | [], checked => if checked then .genuine else .unresolved
  | v :: vs, checked =>
    if (firstSpare i v s).isNone then shadowVerdict i shadows s vs checked
    else match lookup shadows v with
      | some true => shadowVerdict i shadows s vs true
      | some false => .permanent (nth s.img.place v 0)
      | none => .unresolved

/-- The reads of a comb in a repeat met poison. -/
def RepeatReads.poisoned (x : RepeatReads) : Bool :=
  decide (0 < x.uncorrectable + x.poison + x.slotReports + x.weightReports + x.transportReports)

/-- classify(e) (R308). -/
def verdictOf (e : Repeat) (x : ClassifyInput) (s : State) : Verdict :=
  match s.img.image with
  | none => .unresolved
  | some i =>
    if s.img.digest ≠ e.digest ∨ e.contributors.any (fun v => nth e.place v 0 ≠ nth s.img.place v 0) ∨ x.disturbed
        ∨ x.reads.any RepeatReads.poisoned ∨ x.fault.isSome then .unresolved
    else if !x.sameOutputs then .transient
    else shadowVerdict i x.shadows s (sortBy (fun a b => decide (a ≤ b)) e.contributors) false

/-- The counts of an outcome (R318). -/
def countVerdict (v : Verdict) (r : ErrorRecord) : ErrorRecord :=
  match v with
  | .transient => { r with transient := satInc r.transient }
  | .genuine => { r with genuine := satInc r.genuine }
  | .unresolved => { r with unresolved := satInc r.unresolved }
  | .permanent _ => { r with permanent := satInc r.permanent }

/-- The suspect record gets its outcome (R310). -/
def fillOutcome (serial : BitVec 32) (v : Verdict) (r : Suspect) : Suspect :=
  if r.serial = serial then
    { r with outcome := v.code, retiredComb := match v with | .permanent p => BitVec.ofNat 8 p | _ => r.retiredComb }
  else r

/-- A classification ends (R309): the entry leaves the buffer, and all but GENUINE is notified. -/
def endClassification (e : Repeat) (v : Verdict) (s : State) : State :=
  let s := { s with err := { s.err with repeats := s.err.repeats.filter (·.serial ≠ e.serial)
                                        suspects := s.err.suspects.map (fillOutcome e.serial v)
                                        record := countVerdict v s.err.record } }
  let s := match s.err.suspects.find? (fun r => r.serial = e.serial) with
    | some r => if v = .genuine then s else raiseNotice 0x0105 none 6 r.streamId.toNat r.mailbox.toNat (detail256 (suspectRecord r)) s
    | none => s
  match v with
  | .permanent p => afterStop (failNow (.comb p) s)
  | _ => s

/-- Entry `index` is the next to classify: no entry has an earlier tide (R308). -/
def nextEntry (index : Nat) (s : State) : Option Repeat :=
  (s.err.repeats[index]?).filter fun e => s.err.repeats.all fun x => decide (e.tide.toNat ≤ x.tide.toNat)

/-- What a comb's units read in a repeat or a shadow counts in its ECC and bank counters (R129); a resident row that does not
read is queued for its mend (R308), and its poison reports count in the error record, though they end no job (R318). -/
def countRepeat (s : State) (x : RepeatReads) : State :=
  let s := { s with err := { s.err with record := { s.err.record with
    poisonStorageSlot := satAdd s.err.record.poisonStorageSlot x.slotReports
    poisonStorageWeight := satAdd s.err.record.poisonStorageWeight x.weightReports
    poisonTransport := satAdd s.err.record.poisonTransport x.transportReports } } }
  let s := setComb x.comb (fun c => { c with record := { c.record with
    eccCorrected := satAdd c.record.eccCorrected x.corrected
    eccUncorrectable := satAdd c.record.eccUncorrectable x.uncorrectable
    poisonRead := satAdd c.record.poisonRead x.poison
    bankWait := satAdd c.record.bankWait x.waits } }) s
  queueBad x.comb x.badRows s

/-- CLASSIFY (R129, R214, R308, R309). -/
def execClassify (index : Nat) (x : ClassifyInput) (s : State) : Out :=
  .next (match nextEntry index s with
    | some e =>
      if s.awake then
        let t := x.reads.foldl countRepeat s
        endClassification e (verdictOf e x s) (match x.fault with | some f => repeatFault (unitSite f) t | none => t)
      else s
    | none => s)

/-- CLASSIFY_EXPIRY (R308): an entry still unclassified four epochs after its tide. -/
def execClassifyExpiry (index : Nat) (s : State) : Out :=
  .next (match s.err.repeats[index]? with
    | some e =>
      if s.awake ∧ e.tide.toNat + 4 * 2 ^ 20 ≤ s.tide.number.toNat then endClassification e .unresolved s else s
    | none => s)

/-! ## Keeper cores (R34, R311) -/

/-- KEEPER_CORE_FAILURE: Welent runs on the keeper cores that remain, until a spare replaces this one at the next
power-up. -/
def execKeeperCoreFailure (core : Nat) (s : State) : Out :=
  .next (if s.awake ∧ core < 10 ∧ core ∉ s.err.coresFailed then
    unitNotice 0 core { s with err := { s.err with coresFailed := s.err.coresFailed ++ [core] } }
  else s)

end Sys2Proof.Machine
end

