-- ==== Sys2Proof/Machine/PortEvents.lean ====
section
/-! DEFINITION. Events of the Ethernet port (12): the link (R319 to R322), filtering (R324), ARP, neighbour discovery and
echo (R325, R328), priority flow control (R327), the reversion of a port configuration (R330), and PTP (R334, R335). -/

namespace Sys2Proof.Machine

/-! ## Link -/

/-- Send the frames that wait for a priority that is no longer paused (R327). -/
def releaseHeld (s : State) : State :=
  let still := s.eth.held.filter fun x => pausedPriority (priorityOf x s) s
  let free := s.eth.held.filter fun x => !pausedPriority (priorityOf x s) s
  free.foldl (fun s x => send x s) { s with eth := { s.eth with held := still } }

/-- The link is up: PFC state cleared, ARP and neighbour discovery restarted, addresses probed, waiting notices sent (R321
step 5, R328, R359). -/
def linkUp (s : State) : State :=
  let s := { s with eth := { s.eth with link := 2, lowPower := false, paused := [], pauseSent := [], held := [],
                                        levels := List.replicate 8 0, cache := [] } }
  sendWaitingNotices (probeAddresses s)

/-- PORT_LINK_UP (R319 to R321): pmd 0 nothing in the cage, 5 a type the port does not support. An unsupported or too
strong pluggable is left in low power; a sequence that fails starts again. -/
def execPortLinkUp (pmd : BitVec 8) (powerW : Nat) (trained : Bool) (s : State) : Out :=
  .next (if s.awake ∧ s.eth.link ≠ 2 ∧ pmd.toNat ≤ 5 then
    let s := { s with eth := { s.eth with pmd := pmd } }
    if pmd = 0 then { s with eth := { s.eth with link := 0, lowPower := false } }
    else if pmd = 5 ∨ 20 < powerW then { s with eth := { s.eth with link := 0, lowPower := true } }
    else if trained then linkUp s
    else { s with eth := { s.eth with link := 1, lowPower := false } }
  else s)

/-- PORT_LINK_DOWN (R322): queued frames are discarded. -/
def execPortLinkDown (s : State) : Out :=
  .next (if s.eth.link = 2 then
    { s with eth := { s.eth with link := 0, linkDowns := satInc s.eth.linkDowns, held := [], paused := [] } }
  else s)

/-- PLUGGABLE_MONITOR (R320): an alarm is notified; the pluggable stays in use. The counts of FEC codewords come with it
(log 36). -/
def execPluggableMonitor (alarm : BitVec 256) (corrected uncorrected : Nat) (s : State) : Out :=
  .next (if s.awake ∧ s.eth.pmd ≠ 0 then
    let s := { s with eth := { s.eth with alarm := alarm, fecCorrected := satAdd s.eth.fecCorrected corrected
                                          fecUncorrected := satAdd s.eth.fecUncorrected uncorrected } }
    if alarm = 0 then s else raiseNotice 0x0202 none 9 0 0 alarm.toNat s
  else s)

/-- Whether PFC is enabled on a priority. -/
def pfcEnabled (p : Nat) (s : State) : Bool := p < 8 && bit s.live.w11 (96 + p)

/-! ## Filtering -/

/-- The VIDs of a frame are those that the port accepts (R323). -/
def tagsAccepted (tags : List (BitVec 12)) (s : State) : Bool :=
  let v := bits s.live.w11 177 166
  match tags with
  | [] => v == 0
  | [t] => t.toNat == v
  | _ => false

/-- The low 24 bits of an IPv6 address of the module's (R324). -/
def ownSuffix (x : BitVec 24) (s : State) : Bool :=
  bits (linkLocalAddress s.ident.macAddress) 23 0 == x.toNat
    || (bits s.live.w11 383 376 != 0 && bits s.live.w11 407 384 == x.toNat)

/-- A frame is addressed to the port or to a group that it has joined (R324). -/
def destAccepted (d : FrameDest) (b : FrameBody) (s : State) : Bool :=
  match d with
  | .unicast m => m == s.ident.macAddress
  | .broadcast => b == .arp
  | .solicitedNode x => ownSuffix x s
  | .allNodes => true
  | .ptpGroup => true
  | .macControl => b == .pfc
  | .otherGroup => false

/-- A UDP port that the module listens on (R324). -/
def udpAccepted (p : BitVec 16) (s : State) : Bool :=
  p.toNat == bits s.live.w11 165 150 || p.toNat == bits s.live.w11 149 134 || p == 319 || p == 320
    || (p == 4791 && (List.range 64).any fun n => qpEnabled n s)

/-- An IP packet that the port takes in, its ICRC aside (R324, R331). -/
def payloadAccepted (x : IpPayload) (s : State) : Bool :=
  match x with
  | .tcp => false
  | .udp p => udpAccepted p s
  | .roce q request _ => !request && decide (0x100 ≤ q.toNat) && qpEnabled (q.toNat - 0x100) s
  | .other => true

/-- What a frame carries is taken in (R324). -/
def bodyAccepted (b : FrameBody) (s : State) : Bool :=
  match b with
  | .pause => false
  | .ip fragment extra x => !fragment && !extra && payloadAccepted x s
  | _ => true

/-- A RoCEv2 packet whose ICRC fails (R331). -/
def icrcFails : FrameBody → Bool
  | .ip _ _ (.roce _ _ good) => !good
  | _ => false

/-- A frame finds the receive buffer of its priority full where no PFC protects it (R327). -/
def bufferFull (p : Nat) (s : State) : Bool := !pfcEnabled p s && decide (8388608 ≤ nth s.eth.levels p 0)

/-- Whether the port drops a frame, and then whether as an error (R323, R324, R327, R331). -/
def frameDropped (f : PortFrame) (s : State) : Option Bool :=
  if f.fcsGood = false ∨ 9216 < f.bytes then some true
  else if (tagsAccepted f.tags s && destAccepted f.dest f.body s) = false then some false
  else if icrcFails f.body = true then some true
  else if bodyAccepted f.body s = false then some false
  else if bufferFull f.priority s = true then some true
  else none

/-- s with a dropped frame counted; one with a good FCS counts as received (12, port record). -/
def dropFrame (fcsGood error : Bool) (s : State) : State :=
  let s := if fcsGood then received s else s
  if error then { s with eth := { s.eth with droppedError := satInc s.eth.droppedError } }
  else { s with eth := { s.eth with droppedFilter := satInc s.eth.droppedFilter } }

/-- FRAME_FILTER_DROP (R323, R324, R327, R331): a frame that the port drops is counted. -/
def execFrameFilterDrop (f : PortFrame) (s : State) : Out :=
  .next (if s.awake ∧ s.eth.link = 2 then
    match frameDropped f s with
    | some e => dropFrame f.fcsGood e s
    | none => s
  else s)

/-! ## Priority flow control -/

/-- Priority p is paused for some quanta; zero quanta end a pause (R327). -/
def pausePriority (p : Nat) (q : BitVec 16) (s : State) : State :=
  let rest := s.eth.paused.filter fun x => x.1 ≠ p
  { s with eth := { s.eth with paused := if q = 0 then rest else rest ++ [(p, q)] } }

/-- PFC_FRAME_RECEIVE (R327): the enabled priorities that the frame marks are paused; others are only counted. -/
def execPfcFrameReceive (classes : BitVec 8) (quanta : List (BitVec 16)) (s : State) : Out :=
  .next (if s.awake ∧ s.eth.link = 2 then
    let s := received s
    let s := { s with eth := { s.eth with pfcRx := satInc s.eth.pfcRx } }
    releaseHeld ((List.range 8).foldl (fun s p =>
      if bit classes p && pfcEnabled p s then pausePriority p (nth quanta p 0) s else s) s)
  else s)

/-- PFC_PAUSE_EXPIRY (R327): sending resumes. -/
def execPfcPauseExpiry (p : Nat) (s : State) : Out := .next (releaseHeld (pausePriority p 0 s))

/-- PFC_BUFFER_THRESHOLD (R327): above 6 MiB an enabled priority sends PFC, below 4 MiB it releases the pause; level in
bytes. -/
def execPfcBufferThreshold (p level : Nat) (s : State) : Out :=
  .next (if s.awake ∧ s.eth.link = 2 ∧ p < 8 then
    let s := { s with eth := { s.eth with levels := s.eth.levels.set p (min level 8388608) } }
    let sent := s.eth.pauseSent.contains p
    if 6291456 < level ∧ pfcEnabled p s ∧ sent = false then
      send (.pfc p true) { s with eth := { s.eth with pauseSent := s.eth.pauseSent ++ [p], pfcTx := satInc s.eth.pfcTx } }
    else if level < 4194304 ∧ sent then
      send (.pfc p false) { s with eth := { s.eth with pauseSent := s.eth.pauseSent.filter (· ≠ p), pfcTx := satInc s.eth.pfcTx } }
    else s
  else s)

/-! ## Neighbours and echo -/

/-- The address flag of one of the module's own addresses: 0 link-local, 1 global, 2 IPv4 (12, port record). -/
def ownAddress (family : Nat) (a : BitVec 128) (s : State) : Option Nat :=
  let w := s.live.w11
  if family = 4 then
    if bits w 215 210 ≠ 0 ∧ bits a 31 0 = bits w 247 216 then some 2 else none
  else if a = linkLocalAddress s.ident.macAddress then some 0
  else if bits w 383 376 ≠ 0 ∧ a = BitVec.ofNat 128 (bits w 511 384) then some 1
  else none

/-- An address of its own that the module uses: one without a conflict (R328). -/
def usedAddress (family : Nat) (a : BitVec 128) (s : State) : Bool :=
  match ownAddress family a s with
  | some k => !bit s.eth.addressFlags k
  | none => false

/-- A reply of a kind within its rate: 100 per second of the clock (R325). -/
def rateReply (kind : Nat) (x : Sent) (s : State) : State :=
  let r := nth s.eth.replies kind (0, 0)
  let n := if r.1 = seconds s.now then r.2 else 0
  if n < 100 then send x { s with eth := { s.eth with replies := s.eth.replies.set kind (seconds s.now, n + 1) } } else s

/-- ARP_ND_REQUEST (R325): ARP requests (family 4) and neighbour solicitations (6) for the module's addresses. -/
def execArpNdRequest (family : Nat) (target : BitVec 128) (from_ : Endpoint) (s : State) : Out :=
  .next (if s.awake ∧ s.eth.link = 2 then
    let s := received s
    if usedAddress family target s then rateReply (if family = 4 then 0 else 1) (.neighbourReply family from_) s else s
  else s)

/-- ECHO_REQUEST (R325): echo requests of up to 1,500 B. -/
def execEchoRequest (family : Nat) (target : BitVec 128) (from_ : Endpoint) (bytes : Nat) (s : State) : Out :=
  .next (if s.awake ∧ s.eth.link = 2 then
    let s := received s
    if usedAddress family target s ∧ bytes ≤ 1500 then rateReply (if family = 4 then 2 else 3) (.echoReply from_ bytes) s else s
  else s)

/-- Put a neighbour in the next-hop cache of 512 entries per family (R325). -/
def cacheNeighbour (family : Nat) (a : BitVec 128) (mac : BitVec 48) (s : State) : State :=
  let rest := s.eth.cache.filter fun x => !(x.1 = family && x.2.1 = a)
  let full := 512 ≤ rest.countP fun x => x.1 = family
  let rest := if full then rest.eraseP fun x => x.1 = family else rest
  { s with eth := { s.eth with cache := rest ++ [(family, a, mac)] } }

/-- ARP_ND_REPLY (R325, R328): a neighbour is known, or another host uses one of the module's addresses. -/
def execArpNdReply (family : Nat) (a : BitVec 128) (mac : BitVec 48) (s : State) : Out :=
  .next (if s.awake ∧ s.eth.link = 2 then
    let s := received s
    match ownAddress family a s with
    | some k =>
      if mac = s.ident.macAddress then s
      else { s with eth := { s.eth with addressFlags := setBits s.eth.addressFlags k k 1 } }
    | none => cacheNeighbour family a mac s
  else s)

/-- PORT_CONFIG_REVERT (R330): without a message of the owner within revert_s the old values come back. -/
def execPortConfigRevert (s : State) : Out :=
  .next (match s.eth.revert with
    | some old => if s.awake ∧ s.eth.portWrite = none then
        applyPort { s with eth := { s.eth with portWrite := some old } }
      else s
    | none => s)

/-! ## PTP -/

/-- s with the PTP clock changed. -/
def setPtp (f : Ptp → Ptp) (s : State) : State := { s with eth := { s.eth with ptp := f s.eth.ptp } }

/-- Offset below a bound, in ns. -/
def offsetBelow (x : Int) (n : Nat) : Bool := decide (x.natAbs < n)

/-- The clock after a Sync from the selected master (R335): one step on entering Locking, 16 good Syncs to Locked. -/
def takeSync (offset : Int) (time : PtpTime) (ppb : Int) (p : Ptp) : Ptp :=
  let q := { p with offsetNs := offset, ppb := ppb, now := time }
  let stepped := { q with state := .locking, steps := p.steps + 1, goodSyncs := 0 }
  match p.state with
  | .unlocked => stepped
  | .locking =>
    let n := if offsetBelow offset 100 then p.goodSyncs + 1 else 0
    if 16 ≤ n then { q with state := .locked, goodSyncs := n, valid := true } else { q with goodSyncs := n }
  | .locked => q
  | .holdover => if offsetBelow offset 1000000 then { q with state := .locked, valid := true } else stepped

/-- PTP_SYNC_RECEIVE (R334, R335). -/
def execPtpSyncReceive (master : BitVec 64) (offset : Int) (time : PtpTime) (ppb : Int) (s : State) : Out :=
  .next (if s.awake ∧ s.eth.link = 2 then
    let s := received s
    if s.eth.ptp.master = some master then setPtp (takeSync offset time ppb) s else s
  else s)

/-- PTP_DELAY_REQ (R334). -/
def execPtpDelayReq (s : State) : Out :=
  .next (if s.awake ∧ s.eth.link = 2 ∧ s.eth.ptp.master.isSome then
    send .delayReq (setPtp (fun p => { p with delayAsked := true }) s)
  else s)

/-- PTP_DELAY_RESP_RECEIVE (R334): the path delay is known. -/
def execPtpDelayRespReceive (master : BitVec 64) (delayNs : Int) (s : State) : Out :=
  .next (if s.awake ∧ s.eth.link = 2 then
    let s := received s
    if s.eth.ptp.master = some master ∧ s.eth.ptp.delayAsked then
      setPtp (fun p => { p with delayNs := delayNs, delayAsked := false }) s
    else s
  else s)

/-- Rank of no master at all. -/
def worstRank : Nat × Nat × Nat × Nat × Nat × Nat × Nat := (255, 255, 255, 65535, 255, 0, 0)

/-- PTP_HOLDOVER (R335): the frequency correction is held. Another master's Announce may take over from now on (log 26). -/
def execPtpHoldover (s : State) : Out :=
  .next (if s.eth.ptp.state = .locking ∨ s.eth.ptp.state = .locked then
    setPtp (fun p => { p with state := .holdover, masterRank := worstRank }) s
  else s)

/-- Lexicographic order of two lists. -/
def lexLess : List Nat → List Nat → Bool
  | x :: xs, y :: ys => decide (x < y) || (x == y && lexLess xs ys)
  | _, _ => false

/-- A rank as a list: priority1, class, accuracy, variance, priority2, identity, steps removed. -/
def rankList (r : Nat × Nat × Nat × Nat × Nat × Nat × Nat) : List Nat :=
  [r.1, r.2.1, r.2.2.1, r.2.2.2.1, r.2.2.2.2.1, r.2.2.2.2.2.1, r.2.2.2.2.2.2]

/-- PTP_ANNOUNCE_RECEIVE (R334): the default best master clock algorithm. -/
def execPtpAnnounceReceive (master : BitVec 64) (priority1 cls accuracy variance priority2 steps : Nat) (s : State) : Out :=
  .next (if s.awake ∧ s.eth.link = 2 then
    let s := received s
    let rank := (priority1, cls, accuracy, variance, priority2, master.toNat, steps)
    if s.eth.ptp.master = some master then setPtp (fun p => { p with masterRank := rank }) s
    else if s.eth.ptp.master = none ∨ s.eth.ptp.masterRank = worstRank ∨ lexLess (rankList rank) (rankList s.eth.ptp.masterRank) then
      setPtp (fun p => { p with master := some master, masterRank := rank, delayAsked := false }) s
    else s
  else s)

end Sys2Proof.Machine
end

