-- ==== Sys2Proof/Machine/PowerEvents.lean ====
section
/-! DEFINITION. Power-up (R381, R383, R385, R408, R413, R420, R430 to R436), bus converters and overcurrent (R402, R407,
R408), power failure, hold-up and darkness (R243, R440 to R442), and the lid seal (R398). Choices: log 30. -/

namespace Sys2Proof.Machine

/-! ## Darkness -/

/-- What a loss of power takes with it: everything but the config flash, the cove's objects, the input pins and the seal
(R436). Parked streams and cove prefixes stand with their objects. -/
def loseVolatile (s : State) : State :=
  let kept (t : Stream) : Bool := match t.parkObject with
    | some o => s.cove.objects.any fun x => x.id = o && x.committed
    | none => false
  let inCove (p : Prefix) : Bool := match prefixObject p.index s with
    | some o => o.committed
    | none => false
  let moved (p : Prefix) : Prefix := { p with place := 1, copying := false, pages := [] }
  { State.reset with
    ident := s.ident
    cfg := s.cfg
    live := s.live
    flash := s.flash
    outbox := s.outbox
    draws := s.draws
    pending := s.pending
    cove := { State.reset.cove with objects := s.cove.objects, journalSerial := s.cove.journalSerial }
    str := { Streams.reset with parked := s.str.parked.filter kept, prefixes := (s.str.prefixes.filter inCove).map moved
                                useCount := s.str.useCount }
    pow := { Power.reset with enableHigh := s.pow.enableHigh, insertOpen := s.pow.insertOpen, lidOpen := s.pow.lidOpen } }

/-- A resumption that was under way: its object stands, and its stream is PARKED (R252, R436). -/
def parkResuming (s : State) : State :=
  let back (t : Stream) : Stream := { t.atRest with state := .parked }
  let resuming := (s.str.live.map (·.2)).filter fun t => t.state = .resuming
  { s with str := { s.str with parked := s.str.parked ++ resuming.map back
                               live := s.str.live.filter fun p => p.2.state ≠ .resuming } }

/-- Every domain is off (R441). -/
def darken (s : State) : State := loseVolatile (parkResuming s)

/-- TTL under which an object commits when the hold-up appends its record (R237, R243, R278). -/
def holdupTtl (o : CoveObject) (s : State) : Nat :=
  match o.data with
  | .stream t => t.live.parkTtl.toNat
  | .prefix_ _ => bits s.live.w4 191 160
  | .image _ => match s.img.staging with
    | some g => if g.digest = o.digest then g.ttl.toNat else 0
    | none => 0

/-- The record of one object is appended during hold-up; a park that it completes leaves the stream PARKED (R243). -/
def commitHeld (s : State) (o : CoveObject) : State :=
  let s := commitObject o.id.toNat (holdupTtl o s) s
  match o.data with
  | .stream _ =>
    match s.str.live.find? fun p => p.2.parkObject = some o.id with
    | some p =>
      let u : Stream := { p.2.atRest with state := .parked }
      let s := setObject o.id.toNat (fun x => { x with data := .stream u }) s
      { s with str := { s.str with live := s.str.live.filter (·.1 ≠ p.1), parked := s.str.parked ++ [u] } }
    | none => s
  | _ => s

/-- Objects whose every extent is durable and whose record is still to be appended (R243). -/
def heldObjects (s : State) : List CoveObject :=
  s.cove.objects.filter fun o => !o.committed && !o.cancelled && o.keyAlive && !o.writes.isEmpty && allDurable o

/-- GO_DARK (R441): the work of hold-up ends, and the hive domains switch off. -/
def execGoDark (s : State) : Out :=
  .next (if s.pow.stage = .holdup then darken ((heldObjects s).foldl commitHeld s) else s)

/-! ## Power failure (R439 to R442) -/

/-- The condition of a decision, where the module itself measures it: the control reading of a hive-die hot spot (R440). -/
def causeStands (c : PowerCause) (s : State) : Bool :=
  match c with
  | .hiveHot => [144, 145].any fun h => decide (106 ≤ (nth s.cool.spots h HotSpot.reset).control)
  | _ => true

/-- The pins as the cause leaves them (R400). -/
def notePins (c : PowerCause) (s : State) : State :=
  { s with pow := { s.pow with enableHigh := s.pow.enableHigh || c = .enableHigh, insertOpen := s.pow.insertOpen || c = .insertOpen } }

/-- Hold-up begins: the data plane stops with its step discarded, nothing is accepted or sent, comb-die domains and shelf
rails switch off, a waiting presence command is dropped (R441). -/
def beginHoldup (s : State) : State :=
  let s := combDomainsOff (if s.tide.dp = .running then halt .none s else s)
  { s with pow := { s.pow with stage := .holdup }
           pres := ⟨none, .off, 0⟩
           eth := { s.eth with link := 0 } }

/-- No cove or config write can be in flight: before the cove is mounted, after a shutdown, or where nothing runs (R433,
R439, R442). -/
def nothingToHold (s : State) : Bool := !s.cove.mounted || s.mbox.shutdown = .complete || s.pow.stage = .nothing

/-- POWER_FAILURE_DECISION (R440, R441). -/
def execPowerFailureDecision (cause : PowerCause) (s : State) : Out :=
  .next (if (s.awake ∨ s.pow.stage = .nothing) ∧ causeStands cause s then
    let s := notePins cause s
    if nothingToHold s then darken s else beginHoldup s
  else s)

/-! ## Overcurrent (R407, R408) -/

/-- A stage has latched off: its domain is recorded, durably where the hold-up check allows it now (R242, R408). -/
def recordLatch (d : Nat) (s : State) : State :=
  let s := setDomain d (fun x => { x with state := 1 }) s
  let s := { s with cfg := { s.cfg with latched := (s.cfg.latched ++ [d]).dedup }, flash := { s.flash with dirty := true } }
  if configWriteAllowed s then makeDurable s else s

/-- A hive domain latches: the module stops, during hold-up at once (R34, R407, R408). -/
def hiveLatch (d : Nat) (s : State) : State :=
  if s.pow.stage = .holdup then darken s else stopModule (setDomain d (fun x => { x with state := 1 }) s)

/-- OVERCURRENT_LATCH (R407): the unit that the stage feeds is retired. -/
def execOvercurrentLatch (domain : Nat) (s : State) : Out :=
  .next (if (s.awake ∨ s.pow.stage = .holdup) ∧ domain < 196 ∧ (s.domain domain).state = 0 then
    if 192 ≤ domain then hiveLatch domain s
    else advanceService (failNow (.domain domain) (recordLatch domain s))
  else s)

/-! ## Bus converters (R402) -/

/-- Converter n is switched off, with warning code 2. -/
def loseConverter (s : State) (n : Nat) : State :=
  if nth s.pow.converters n false then
    let s := { s with pow := { s.pow with converters := s.pow.converters.set n false } }
    raiseWarning 2 n (convertersWorking s) s
  else s

/-- Park every live stream; those of a Running data plane at the next step boundary. -/
def parkForPower (s : State) : State :=
  if s.tide.dp = .running then
    let mark (p : Nat × Stream) : Nat × Stream := 
      (p.1, { p.2 with event := { p.2.event with park := true, own := if p.2.event.close.isSome then p.2.event.own else false } })
    { s with tide := { s.tide with stopPending := true }, str := { s.str with live := s.str.live.map mark } }
  else parkAll (fun _ => true) (fun _ s => s) s

/-- Four converters or fewer are left: the data plane stops, live streams are parked, notice 0x0204 with severity 3. -/
def lowPower (last : Nat) (s : State) : State :=
  parkForPower (warningNotice (some 3) (2, last, BitVec.ofNat 32 (convertersWorking s)) s)

/-- BUS_CONVERTER_CHECK (R402): the converters found faulty are switched off until the next power-up. -/
def execBusConverterCheck (failed : List Nat) (s : State) : Out :=
  .next (if s.awake then
    let t := failed.foldl loseConverter s
    if convertersWorking t ≤ 4 ∧ 4 < convertersWorking s ∧ t.pow.stage = .ready then
      advanceService (lowPower (failed.getLast?.getD 0) t)
    else t
  else s)

/-! ## Lid seal (R398) -/

/-- Step 1: the cove keys are gone, and extents in flight are abandoned. -/
def eraseKeys (s : State) : State :=
  let dead (o : CoveObject) : CoveObject := { o with keyAlive := false, writes := [] }
  { s with cfg := { s.cfg with coveMasterKey := none }, cove := { s.cove with objects := s.cove.objects.map dead }
           pow := { s.pow with lidOpen := true } }

/-- The configuration that step 3 writes. -/
def unclaimedCfg (c : Cfg) : Cfg :=
  { c with claimed := false, ownerKey := 0, ownerPrefixes := [], tenants := [], imageKeys := [], coveMasterKey := none }

/-- Steps 2 to 4. The slots are written where the hold-up check allows it, else at a retry (R242). -/
def closeModule (s : State) : State :=
  let s := dropImage s
  let s := { s with
    cfg := unclaimedCfg s.cfg
    flash := { s.flash with dirty := true }
    str := { s.str with live := [] }
    img := { s.img with load := none, staging := none }
    pow := { s.pow with stage := .nothing }
    pres := ⟨none, .redBlink, 0⟩ }
  if configWriteAllowed s then eraseSlots s else s

/-- LID_SEAL_OPEN (R398); during hold-up step 1 alone (R442), and step 3 is owed to the next power-up. -/
def execLidSealOpen (s : State) : Out :=
  .next (if s.pow.lidOpen then s
    else if s.pow.stage = .holdup then
      let t := eraseKeys s
      { t with flash := { t.flash with dirty := true } }
    else if s.awake then closeModule (eraseKeys s)
    else s)

/-! ## Power-up: identity and configuration -/

/-- Serial of a slot's copy; a slot without a valid copy ranks last. -/
def slotSerial (c : Option ConfigCopy) : Nat := match c with | some x => x.serial.toNat + 1 | none => 0

/-- Slot B holds the valid copy with the higher copy_serial (R383). -/
def selectB (f : Flash) : Bool := decide (slotSerial f.copyA < slotSerial f.copyB)

/-- The configuration of a copy: a PENDING one with its undo section applied (R383). -/
def copyConfig (c : ConfigCopy) : Cfg := if c.pending then c.undo.getD c.content else c.content

/-- The configuration selected; without a valid copy the shipped one (R383). -/
def selectConfig (s : State) : State :=
  let s := { s with flash := { s.flash with selectedB := selectB s.flash, dirty := false, writing := false } }
  { s with cfg := match selectedCopy s with | some c => copyConfig c | none => Cfg.shipped }

/-- The power-up count goes up by one. -/
def bumpCount (c : Cfg) : Cfg := { c with powerUpCount := c.powerUpCount + 1 }

/-- Step 6: the selected copy is rewritten as it is, with power_up_count increased (R384); the bank has reached 86.8 V
(R432). -/
def rewriteSelected (s : State) : State :=
  let s := { s with pow := { s.pow with bankCv := 8680 }, cfg := bumpCount s.cfg }
  match selectedCopy s with
  | some c => writeConfig c.pending c.pressStamp (bumpCount c.content) (c.undo.map bumpCount) s
  | none => writeConfig false 0 s.cfg none s

/-- Steps 4 to 6: the configuration, erased first where the seal reads open or an erasure is owed (R398, R442). -/
def bootConfig (x : PowerUpInput) (s : State) : State :=
  let owed := s.pow.lidOpen && s.flash.dirty
  let s := selectConfig s
  let s := if x.lidOpen || owed then eraseSlots { s with cfg := unclaimedCfg s.cfg } else s
  rewriteSelected { s with pow := { s.pow with lidOpen := x.lidOpen } }

/-- A Welent copy verifies, and its security_version reaches the rollback counter (R385); `ok`: its region reads back as it
was written. -/
def copyVerifies (b ok : Bool) (s : State) : Bool :=
  let c := if b then s.flash.firmwareB else s.flash.firmwareA
  ok && firmwareValid b c s && decide (s.cfg.rollbackCounter.toNat ≤ firmwareSecurity b c)

/-- The firmware that boots (R385, R396). -/
def bootChoice (x : PowerUpInput) (s : State) : Option Firmware :=
  let a := if copyVerifies false x.firmwareAOk s then some Firmware.copyA else none
  let b := if copyVerifies true x.firmwareBOk s then some Firmware.copyB else none
  let r := if x.recoveryOk then some Firmware.recovery else none
  if x.strap then r
  else if s.cfg.activeCopyB then (b <|> a) <|> r
  else (a <|> b) <|> r

/-- welent_version and measurement of what boots (R372, R387). -/
def bootIdentity (x : PowerUpInput) (f : Firmware) (s : State) : Ident :=
  let v : BitVec 48 × Digest := match f with
    | .copyA => (BitVec.ofNat 48 (firmwareVersion false s.flash.firmwareA), firmwareDigest false s.flash.firmwareA)
    | .copyB => (BitVec.ofNat 48 (firmwareVersion true s.flash.firmwareB), firmwareDigest true s.flash.firmwareB)
    | .recovery => (Config.recoveryVersion, Config.firmwareMeasurement true)
  { s.ident with strapInstalled := x.strap, firmware := f, welentVersion := v.1, measurement := v.2
                 standingPresence := x.strap && bit s.cfg.words.w5 0 }

/-- Live words at power-up; rebaseline reads 0 (R428). -/
def bootWords (s : State) : State :=
  let w := { s.cfg.words with w8 := setBits s.cfg.words.w8 39 39 0 }
  { s with cfg := { s.cfg with words := w }, live := w }

/-! ## Power-up: units (R431 step 9) -/

/-- Domains on at power-up: of the hive die, and of comb dies link and memory interface, with SRAM and logic unless the
strap is installed; under the strap a recorded domain stays off untested (R408, R435). -/
def rampsAt (strap : Bool) (latched : List Nat) (d : Nat) : Bool :=
  if 192 ≤ d then true
  else if d < 96 then false
  else if strap then decide (2 ≤ (d - 96) % 4) && !latched.contains d
  else true

/-- The domains ramp. -/
def rampDomains (x : PowerUpInput) (s : State) : State :=
  let f (d : Nat) : Domain := if rampsAt x.strap s.cfg.latched d then { Domain.reset with state := 0 } else Domain.reset
  { s with pow := { s.pow with domains := (List.range 196).map f } }

/-- A recorded domain fails its test: it stays off, and its comb is not good, or its comb die is lost (R408, R433). -/
def failTest (s : State) (d : Nat) : State :=
  let s := setDomain d (fun x => { x with state := 2 }) s
  if d < 96 then setComb d (fun c => { c with good := false }) s
  else if d < 192 then retireSource (.domain d) s
  else s

/-- Recorded domains are tested once; those that pass leave the record (R408). -/
def testLatched (x : PowerUpInput) (s : State) : State :=
  if x.strap ∨ s.cfg.latched = [] then s
  else
    let bad := s.cfg.latched.filter fun d => x.domainsFailed.contains d
    let s := { s with cfg := { s.cfg with latched := bad }, flash := { s.flash with dirty := s.flash.dirty || bad != s.cfg.latched } }
    bad.foldl failTest s

/-- Links train; a direction with fewer than 4 active groups fails its link (R158, R160). -/
def trainLinks (x : PowerUpInput) (s : State) : State :=
  let f (p : LinkDir × Nat) : LinkDir := { p.1 with groupsActive := nth x.laneGroups p.2 0 }
  let s := { s with fabric := { s.fabric with links := s.fabric.links.zipIdx.map f } }
  (List.range 40).foldl (fun s l =>
    if activeGroups (s.link l false) < 4 ∨ activeGroups (s.link l true) < 4 then retireLink l s else s) s

/-- Shelf channels train (R431 step 9). -/
def trainChannels (x : PowerUpInput) (s : State) : State :=
  (List.range 24).foldl (fun s n => retireSource (.channels n (nth x.channelsFailed n 0)) s) s

/-- Combs before their self-test: under the strap as the last self-test left them (R435). -/
def bootCombs (x : PowerUpInput) (s : State) : State :=
  let f (p : Nat) : Comb := { Comb.reset with good := !x.strap || nth s.cfg.goodCombs p true }
  { s with combs := (List.range 96).map f }

/-- Units come up. -/
def bootUnits (x : PowerUpInput) (s : State) : State :=
  let s := takeModes (rampDomains x (bootCombs x s))
  let s := trainChannels x (trainLinks x (testLatched x s))
  x.convertersFailed.foldl loseConverter s

/-! ## Power-up: the sequence (R431) -/

/-- A start that ends with nothing booted (R433). -/
def bootNothing (s : State) : State :=
  { s with pow := { s.pow with stage := .nothing }, pres := ⟨none, if s.pow.lidOpen then .redBlink else .red, 0⟩ }

/-- A hive domain latches while it ramps: every domain stays off (R433). -/
def hiveFails (k : Nat) (s : State) : State :=
  bootNothing (setDomain (192 + k) (fun d => { d with state := 1 }) s)

/-- Fields of the load report and of the fault record whose values stand in the config block (R15, R211, R214). -/
def bootRecords (s : State) : State :=
  { s with img := { s.img with report := { s.img.report with goodCombs := BitVec.ofNat 8 (s.cfg.goodCombs.countP id) } }
           err := { s.err with fault := setBits s.err.fault 223 192 s.cfg.faultSerial.toNat } }

/-- The firmware boots; the spares take the place of keeper cores that fail their test (R34, R431 step 4). -/
def bootFirmware (x : PowerUpInput) (f : Firmware) (s : State) : State :=
  let s := bootWords { s with ident := bootIdentity x f s
                              pow := { s.pow with stage := .booted }
                              err := { s.err with sparesLeft := 2 - x.coresFailed } }
  let s := bootUnits x (bootRecords s)
  { s with pres := { s.pres with led := baseLed s } }

/-- Steps 2 to 9. -/
def powerUp (x : PowerUpInput) (s : State) : State :=
  let s := loseVolatile s
  let s := { s with pow := { s.pow with enableHigh := false, insertOpen := false } }
  match x.hiveLatched with
  | some k => hiveFails k s
  | none =>
    let s := { s with pow := { s.pow with pwrGood := true } }
    if x.pufOk = false then bootNothing s
    else
      let s := bootConfig x s
      match bootChoice x s with
      | none => bootNothing s
      | some f => bootFirmware x f s

/-- POWER_UP (R430, R431): the conditions have held for 1 s. -/
def execPowerUp (x : PowerUpInput) (s : State) : Out :=
  .next (if s.pow.stage = .dark then powerUp x s else s)

/-- CAPACITANCE_TEST (R413): C = 2.00 A * t / 10 V, at a bank of 100 V. -/
def execCapacitanceTest (dischargeMs : Nat) (s : State) : Out :=
  .next (if s.pow.stage = .booted ∧ s.pow.measured = false then
    let c := min (200 * dischargeMs) 0xFFFF
    let s := { s with pow := { s.pow with bankCv := 10000, capacitanceUf := BitVec.ofNat 16 c, measured := true } }
    if c < 24000 then raiseWarning 3 0 c s else s
  else s)

/-! ## Calibration (R420) -/

/-- Every comb domain has been ramped or kept off: calibration has run. -/
def calibrated (s : State) : Bool := (List.range 96).all fun p => (s.domain p).state != 4

/-- Phase A for one sensor: the trim, or retirement; a coolant sensor by its deviation from the median. -/
def trimSensor (i : Nat) (t : Int) (x : Sensor) : Sensor :=
  if i < 292 then (if 300 < t.natAbs then { x with state := 3 } else { x with trim := BitVec.ofInt 16 t })
  else if 324 ≤ i ∧ 100 < t.natAbs then { x with state := 3 }
  else x

/-- Phase A. -/
def trimSensors (x : CalibrationInput) (s : State) : State :=
  let f (p : Sensor × Nat) : Sensor := trimSensor p.2 (nth x.trims p.2 0) p.1
  { s with cool := { s.cool with sensors := s.cool.sensors.zipIdx.map f } }

/-- The fit differs from the characterised R_h by more than 25 %. -/
def fitFar (r was : Rat) : Bool := decide (was < 4 * (if r < was then was - r else r - was))

/-- A hot spot takes its fit; one that is far off keeps the larger R_h, with R'_h at the same scale. -/
def fitSpot (y : Rat × Rat × Rat) (h : HotSpot) : HotSpot :=
  let kept := fitFar y.1 h.r && decide (y.1 < h.r)
  { HotSpot.reset with r := if kept then h.r else y.1, rPrime := if kept then h.rPrime else y.2.1, a := y.2.2 }

/-- Phase B for one hot spot, with notice code 8 where its fit is far off. -/
def fitSpots (x : CalibrationInput) (s : State) : State :=
  let f (p : HotSpot × Nat) : HotSpot := match x.fits[p.2]? with
    | some y => fitSpot y p.1
    | none => p.1
  let far (h : Nat) : Option Rat := (x.fits[h]?).bind fun y =>
    let was := (nth s.cool.spots h HotSpot.reset).r
    if fitFar y.1 was then some (y.1 / was * 100) else none
  let t := { s with cool := { s.cool with spots := s.cool.spots.zipIdx.map f } }
  (List.range 146).foldl (fun t h => match far h with
    | some v => thermalNotice 8 h (inUnits 11 v) none (spotSubject h).1 (spotSubject h).2 t
    | none => t) t

/-- The comb domains that no test keeps off ramp (R431 step 13). -/
def rampCombs (s : State) : State :=
  let f (p : Domain × Nat) : Domain := if p.2 < 96 ∧ p.1.state = 4 then { p.1 with state := 0 } else p.1
  { s with pow := { s.pow with domains := s.pow.domains.zipIdx.map f } }

/-- The repair map with a self-test's additions (R109, R111). -/
def repaired (r : Repair) (t : List Nat × List Nat × Bool) : Repair :=
  ⟨(r.rows ++ t.1).dedup, (r.cols ++ t.2.1).dedup⟩

/-- Physical lines that stay enabled beside the disabled ones: the first 128 of the 132 (R109). -/
def enabledLines (disabled : List Nat) : List Nat := ((List.range 132).filter fun x => !disabled.contains x).take 128

/-- Physical line of logical row or column i (R109). -/
def physicalLine (disabled : List Nat) (i : Nat) : Nat := nth (enabledLines disabled) i 0

/-- The logical array of a repair map meets no faulty line (R110). -/
def faultFree (m : Repair) (rows cols : List Nat) : Bool :=
  (List.range 128).all fun i => !rows.contains (physicalLine m.rows i) && !cols.contains (physicalLine m.cols i)

/-- Self-test of comb p (R110, R111): the map grows while spares remain, and where they do not suffice it stays as it was
(DESIGN CHOICE, log 38); its scratchpad is zeroed (R117). -/
def testComb (x : CalibrationInput) (s : State) (p : Nat) : State :=
  if (s.domain p).state = 0 then
    let t := nth x.combTests p ([], [], true)
    let old := nth s.cfg.repair p ⟨[], []⟩
    let new := repaired old t
    let fits := decide (new.rows.length ≤ 4) && decide (new.cols.length ≤ 4)
    let ok := fits && t.2.2 && faultFree new t.1 t.2.1
    let s := if fits ∧ new ≠ old then
        { s with cfg := { s.cfg with repair := s.cfg.repair.set p new }, flash := { s.flash with dirty := true } }
      else s
    setComb p (fun c => { c with good := ok, mem := [] }) s
  else setComb p (fun c => { c with good := false }) s

/-- The self-tests, and the count that MODULE_INFO reports. -/
def testCombs (x : CalibrationInput) (s : State) : State :=
  let s := (List.range 96).foldl (testComb x) s
  { s with cfg := { s.cfg with goodCombs := s.combs.map (·.good) } }

/-- The flow check fails (R420). -/
def flowFails (x : CalibrationInput) (s : State) : Bool :=
  decide (3 * x.characterisedRise < x.rise) || ((s.sensor 324).retired && (s.sensor 325).retired)
    || ((s.sensor 326).retired && (s.sensor 327).retired)

/-- The flow check. -/
def checkCoolant (x : CalibrationInput) (s : State) : State :=
  if flowFails x s then
    let s := combDomainsOff s
    thermalNotice 7 0 (inUnits 12 (x.rise * 100)) (some 3) 0 0 { s with pow := { s.pow with noStart := true } }
  else s

/-- CALIBRATION (R420, R431 steps 12 and 13); the strap skips it (R435). -/
def execCalibration (x : CalibrationInput) (s : State) : Out :=
  .next (if s.pow.stage = .booted ∧ s.ident.strapInstalled = false ∧ calibrated s = false then
    let s := { s with eth := { s.eth with ptp := { s.eth.ptp with now := x.time } } }
    let s := testCombs x (rampCombs (fitSpots x (trimSensors x s)))
    let s := { s with cool := { s.cool with rc0 := x.baseline, baselineTime := x.time } }
    checkCoolant x s
  else s)

/-! ## Ready -/

/-- Power-up has come to its last step (R431, R435). -/
def powerUpEnds (s : State) : Bool :=
  s.pow.stage = .booted && s.cove.mounted && s.pow.measured && (s.ident.strapInstalled || calibrated s)

/-- Four bus converters or fewer: the data plane cannot start (R402, R433). -/
def checkConverters (s : State) : State :=
  if convertersWorking s ≤ 4 then
    let lost := (List.range 12).filter fun n => !nth s.pow.converters n true
    let s := { s with pow := { s.pow with noStart := true } }
    warningNotice (some 3) (2, lost.getLastD 0, BitVec.ofNat 32 (convertersWorking s)) s
  else s

/-- READY_POINT (R431 step 14): changed repair maps are written, the data plane is Idle, notice 0x0001 is raised. -/
def execReadyPoint (s : State) : Out :=
  .next (if powerUpEnds s then
    let s := if s.flash.dirty ∧ configWriteAllowed s then makeDurable s else s
    let s := checkConverters { s with pow := { s.pow with stage := .ready } }
    let s := { s with pres := { s.pres with led := baseLed s } }
    raiseNotice 0x0001 none 0 0 0 (detail256 (tideStatus s)) s
  else s)

end Sys2Proof.Machine
end

