-- ==== Sys2Proof/Machine/Dispatch.lean ====
section
/-! DEFINITION. One arm for each command: its meaning. -/

namespace Sys2Proof.Machine

def exec (i : Instr) (s : State) : Host.Outcome State Fault Refusal :=
  match i with
  | .moduleInfo r => Sys2Proof.Machine.execModuleInfo r s
  | .identityCert r => Sys2Proof.Machine.execIdentityCert r s
  | .ownerClaim r key => Sys2Proof.Machine.execOwnerClaim r key s
  | .ownerTransfer r key => Sys2Proof.Machine.execOwnerTransfer r key s
  | .ownerRelease r => Sys2Proof.Machine.execOwnerRelease r s
  | .moduleShutdown r => Sys2Proof.Machine.execModuleShutdown r s
  | .tenantEnrol r key => Sys2Proof.Machine.execTenantEnrol r key s
  | .tenantRemove r => Sys2Proof.Machine.execTenantRemove r s
  | .tenantQuery r => Sys2Proof.Machine.execTenantQuery r s
  | .imageSourceSet r => Sys2Proof.Machine.execImageSourceSet r s
  | .imageLoad r network => Sys2Proof.Machine.execImageLoad r network s
  | .coveStage r network => Sys2Proof.Machine.execCoveStage r network s
  | .imageStop r => Sys2Proof.Machine.execImageStop r s
  | .imageStart r => Sys2Proof.Machine.execImageStart r s
  | .imageUnload r => Sys2Proof.Machine.execImageUnload r s
  | .imageQuery r => Sys2Proof.Machine.execImageQuery r s
  | .quarantineClear r => Sys2Proof.Machine.execQuarantineClear r s
  | .coveObjectQuery r => Sys2Proof.Machine.execCoveObjectQuery r s
  | .coveObjectSet r => Sys2Proof.Machine.execCoveObjectSet r s
  | .coveErase r => Sys2Proof.Machine.execCoveErase r s
  | .imageKeyEnrol r => Sys2Proof.Machine.execImageKeyEnrol r s
  | .imageKeyRemove r => Sys2Proof.Machine.execImageKeyRemove r s
  | .streamOpen r => Sys2Proof.Machine.execStreamOpen r s
  | .streamGenerate r => Sys2Proof.Machine.execStreamGenerate r s
  | .streamStop r => Sys2Proof.Machine.execStreamStop r s
  | .streamClose r => Sys2Proof.Machine.execStreamClose r s
  | .streamPark r => Sys2Proof.Machine.execStreamPark r s
  | .streamResume r => Sys2Proof.Machine.execStreamResume r s
  | .streamSet r => Sys2Proof.Machine.execStreamSet r s
  | .streamQuery r => Sys2Proof.Machine.execStreamQuery r s
  | .streamList r => Sys2Proof.Machine.execStreamList r s
  | .ownerStreamStop r => Sys2Proof.Machine.execOwnerStreamStop r s
  | .ownerClose r => Sys2Proof.Machine.execOwnerClose r s
  | .ownerPark r => Sys2Proof.Machine.execOwnerPark r s
  | .ownerStreamSet r => Sys2Proof.Machine.execOwnerStreamSet r s
  | .ownerStreamQuery r => Sys2Proof.Machine.execOwnerStreamQuery r s
  | .ownerStreamList r => Sys2Proof.Machine.execOwnerStreamList r s
  | .prefixPublish r => Sys2Proof.Machine.execPrefixPublish r s
  | .prefixDrop r => Sys2Proof.Machine.execPrefixDrop r s
  | .prefixQuery r => Sys2Proof.Machine.execPrefixQuery r s
  | .policySet r => Sys2Proof.Machine.execPolicySet r s
  | .policyQuery r => Sys2Proof.Machine.execPolicyQuery r s
  | .thermalPolicySet r => Sys2Proof.Machine.execThermalPolicySet r s
  | .faultPolicySet r => Sys2Proof.Machine.execFaultPolicySet r s
  | .portConfigSet r => Sys2Proof.Machine.execPortConfigSet r s
  | .noticeConfigSet r => Sys2Proof.Machine.execNoticeConfigSet r s
  | .telemetrySelect r => Sys2Proof.Machine.execTelemetrySelect r s
  | .powerPolicySet r => Sys2Proof.Machine.execPowerPolicySet r s
  | .telemetryRead r => Sys2Proof.Machine.execTelemetryRead r s
  | .counterQuery r => Sys2Proof.Machine.execCounterQuery r s
  | .faultQuery r => Sys2Proof.Machine.execFaultQuery r s
  | .slotQuery r => Sys2Proof.Machine.execSlotQuery r s
  | .servingQuery r => Sys2Proof.Machine.execServingQuery r s
  | .attestQuote r => Sys2Proof.Machine.execAttestQuote r s
  | .firmwareChunk r => Sys2Proof.Machine.execFirmwareChunk r s
  | .firmwareActivate r => Sys2Proof.Machine.execFirmwareActivate r s
  | .presencePendingWriteDone => Sys2Proof.Machine.execPresencePendingWriteDone s
  | .presencePress closureMs stamp => Sys2Proof.Machine.execPresencePress closureMs stamp s
  | .presenceRefusal => Sys2Proof.Machine.execPresenceRefusal s
  | .presenceWindowExpiry => Sys2Proof.Machine.execPresenceWindowExpiry s
  | .prompt f => Sys2Proof.Machine.execPrompt f s
  | .hostNak f => Sys2Proof.Machine.execHostNak f s
  | .tokenEmission record => Sys2Proof.Machine.execTokenEmission record s
  | .stateFrameRepeat => Sys2Proof.Machine.execStateFrameRepeat s
  | .tideBoundary => Sys2Proof.Machine.execTideBoundary s
  | .servingIntervalBoundary => Sys2Proof.Machine.execServingIntervalBoundary s
  | .epochBoundary => Sys2Proof.Machine.execEpochBoundary s
  | .stepBoundary => Sys2Proof.Machine.execStepBoundary s
  | .dataPlaneStart => Sys2Proof.Machine.execDataPlaneStart s
  | .prologueLanded => Sys2Proof.Machine.execPrologueLanded s
  | .prologueTimeout channels => Sys2Proof.Machine.execPrologueTimeout channels s
  | .wait issue => Sys2Proof.Machine.execWait issue s
  | .dot issue o out => Sys2Proof.Machine.execDot issue o out s
  | .emit issue o out => Sys2Proof.Machine.execEmit issue o out s
  | .row issue o => Sys2Proof.Machine.execRow issue o s
  | .shelf issue o => Sys2Proof.Machine.execShelf issue o s
  | .fabric issue o => Sys2Proof.Machine.execFabric issue o s
  | .rotate issue o => Sys2Proof.Machine.execRotate issue o s
  | .fbwin issue => Sys2Proof.Machine.execFbwin issue s
  | .slot issue o => Sys2Proof.Machine.execSlot issue o s
  | .done issue => Sys2Proof.Machine.execDone issue s
  | .fallbackWindowClose comb => Sys2Proof.Machine.execFallbackWindowClose comb s
  | .rowLands comb ra parity => Sys2Proof.Machine.execRowLands comb ra parity s
  | .linkFrameReceive link dir group f wide => Sys2Proof.Machine.execLinkFrameReceive link dir group f wide s
  | .expertPageinComplete stack vcomb layer expert => Sys2Proof.Machine.execExpertPageinComplete stack vcomb layer expert s
  | .expertPromotionComplete layer expert => Sys2Proof.Machine.execExpertPromotionComplete layer expert s
  | .samplingPhase rows => Sys2Proof.Machine.execSamplingPhase rows s
  | .holdRaise cause point source => Sys2Proof.Machine.execHoldRaise cause point source s
  | .holdRelease index elapsed => Sys2Proof.Machine.execHoldRelease index elapsed s
  | .knownHoldEnd index => Sys2Proof.Machine.execKnownHoldEnd index s
  | .slackTimeout index => Sys2Proof.Machine.execSlackTimeout index s
  | .mend comb t => Sys2Proof.Machine.execMend comb t s
  | .scrubRow comb ra => Sys2Proof.Machine.execScrubRow comb ra s
  | .shelfScrub stack unit => Sys2Proof.Machine.execShelfScrub stack unit s
  | .shelfRefresh stack point => Sys2Proof.Machine.execShelfRefresh stack point s
  | .channelRetirement stack channel => Sys2Proof.Machine.execChannelRetirement stack channel s
  | .remap selfTestFails => Sys2Proof.Machine.execRemap selfTestFails s
  | .classify index x => Sys2Proof.Machine.execClassify index x s
  | .classifyExpiry index => Sys2Proof.Machine.execClassifyExpiry index s
  | .serveNextInterval => Sys2Proof.Machine.execServeNextInterval s
  | .parkDelayExpiry record => Sys2Proof.Machine.execParkDelayExpiry record s
  | .readyParkDelayExpiry record => Sys2Proof.Machine.execReadyParkDelayExpiry record s
  | .parkCommit record => Sys2Proof.Machine.execParkCommit record s
  | .resumeLanded record => Sys2Proof.Machine.execResumeLanded record s
  | .prefixReadbackComplete index => Sys2Proof.Machine.execPrefixReadbackComplete index s
  | .prefixCopyDone index => Sys2Proof.Machine.execPrefixCopyDone index s
  | .closedRecordExpiry mailbox streamId => Sys2Proof.Machine.execClosedRecordExpiry mailbox streamId s
  | .loadPayloadStart => Sys2Proof.Machine.execLoadPayloadStart s
  | .shardRangeLanded index data => Sys2Proof.Machine.execShardRangeLanded index data s
  | .loadComplete => Sys2Proof.Machine.execLoadComplete s
  | .rdmaReadResponse qp reads ce => Sys2Proof.Machine.execRdmaReadResponse qp reads ce s
  | .rdmaTimeout qp psn => Sys2Proof.Machine.execRdmaTimeout qp psn s
  | .cnpReceive qp => Sys2Proof.Machine.execCnpReceive qp s
  | .cnpRecoveryTick qp => Sys2Proof.Machine.execCnpRecoveryTick qp s
  | .stageCommit digestsMatch => Sys2Proof.Machine.execStageCommit digestsMatch s
  | .extentDurable object extent => Sys2Proof.Machine.execExtentDurable object extent s
  | .holdupRetry => Sys2Proof.Machine.execHoldupRetry s
  | .coveExpiryCheck now => Sys2Proof.Machine.execCoveExpiryCheck now s
  | .coveChunkRead object extent chunk found network => Sys2Proof.Machine.execCoveChunkRead object extent chunk found network s
  | .coveScrub object extent ok => Sys2Proof.Machine.execCoveScrub object extent ok s
  | .journalCompaction stack => Sys2Proof.Machine.execJournalCompaction stack s
  | .configDurabilityWrite => Sys2Proof.Machine.execConfigDurabilityWrite s
  | .telemetryWindowEnd w => Sys2Proof.Machine.execTelemetryWindowEnd w s
  | .thermalResume => Sys2Proof.Machine.execThermalResume s
  | .sensorCheckIdle => Sys2Proof.Machine.execSensorCheckIdle s
  | .reportPeriodEnd => Sys2Proof.Machine.execReportPeriodEnd s
  | .busConverterCheck failed => Sys2Proof.Machine.execBusConverterCheck failed s
  | .warningClear code index => Sys2Proof.Machine.execWarningClear code index s
  | .overcurrentLatch domain => Sys2Proof.Machine.execOvercurrentLatch domain s
  | .powerFailureDecision cause => Sys2Proof.Machine.execPowerFailureDecision cause s
  | .goDark => Sys2Proof.Machine.execGoDark s
  | .lidSealOpen => Sys2Proof.Machine.execLidSealOpen s
  | .powerUp x => Sys2Proof.Machine.execPowerUp x s
  | .capacitanceTest dischargeMs => Sys2Proof.Machine.execCapacitanceTest dischargeMs s
  | .coveMount => Sys2Proof.Machine.execCoveMount s
  | .calibration x => Sys2Proof.Machine.execCalibration x s
  | .readyPoint => Sys2Proof.Machine.execReadyPoint s
  | .portLinkUp pmd powerW trained => Sys2Proof.Machine.execPortLinkUp pmd powerW trained s
  | .portLinkDown => Sys2Proof.Machine.execPortLinkDown s
  | .pluggableMonitor alarm corrected uncorrected => Sys2Proof.Machine.execPluggableMonitor alarm corrected uncorrected s
  | .pfcFrameReceive classes quanta => Sys2Proof.Machine.execPfcFrameReceive classes quanta s
  | .arpNdRequest family target from_ => Sys2Proof.Machine.execArpNdRequest family target from_ s
  | .echoRequest family target from_ bytes => Sys2Proof.Machine.execEchoRequest family target from_ bytes s
  | .portConfigRevert => Sys2Proof.Machine.execPortConfigRevert s
  | .ptpSyncReceive master offsetNs time ppb => Sys2Proof.Machine.execPtpSyncReceive master offsetNs time ppb s
  | .ptpDelayReq => Sys2Proof.Machine.execPtpDelayReq s
  | .ptpHoldover => Sys2Proof.Machine.execPtpHoldover s
  | .keeperCoreFailure core => Sys2Proof.Machine.execKeeperCoreFailure core s
  | .ptpAnnounceReceive master priority1 cls accuracy variance priority2 steps => Sys2Proof.Machine.execPtpAnnounceReceive master priority1 cls accuracy variance priority2 steps s
  | .ptpDelayRespReceive master delayNs => Sys2Proof.Machine.execPtpDelayRespReceive master delayNs s
  | .frameFilterDrop frame => Sys2Proof.Machine.execFrameFilterDrop frame s
  | .pfcPauseExpiry priority => Sys2Proof.Machine.execPfcPauseExpiry priority s
  | .pfcBufferThreshold priority level => Sys2Proof.Machine.execPfcBufferThreshold priority level s
  | .arpNdReply family addr mac => Sys2Proof.Machine.execArpNdReply family addr mac s
  | .undefinedOpcodeRequest r opcode => Sys2Proof.Machine.execUndefinedOpcodeRequest r opcode s

end Sys2Proof.Machine
end

