-- ==== Sys2Proof/Safety.lean ====
section
/-! DEFINITION. The terms in which statements speak of commands and states: a legal state, a request that the mailbox engine
executes and what it executes it on, the opcodes by class, and what an answer may change. -/

namespace Sys2Proof.Machine

/-! ## States -/

/-- A comb's scratchpad and its program memory have the canonical form. -/
def Comb.memoryWf (c : Comb) : Prop := Memory.wf c.mem = true ∧ Memory.wf c.code = true

/-- Every addressed memory stands in its canonical form. -/
def State.memoryWf (s : State) : Prop :=
  (∀ c ∈ s.combs, c.memoryWf) ∧ (∀ k ∈ s.shelf.stk, Memory.wf k.mem = true)

/-! ## Requests -/

/-- A request that the treatments of R343 before execution do not catch. -/
def Fresh (r : Request) (s : State) : Prop :=
  (cacheOf r.mailbox s).find? (fun e => e.sequence = r.sequence) = none
    ∧ ¬(64 ≤ (cacheOf r.mailbox s).length ∧ ((cacheOf r.mailbox s).head?.map fun e => newer r.sequence e.sequence) = some false)
    ∧ (s.mbox.outstanding.filter fun o => o.mailbox = r.mailbox).length < 16

/-- The state on which an authenticated request is executed: the frame and the message are counted, and a message of the
owner confirms a port configuration (R330, R361). -/
def taken (r : Request) (s : State) : State :=
  countMailbox r.mailbox.toNat (fun m => { m with msgsAccepted := satInc m.msgsAccepted }) (confirmPort r (received s))

/-- A request that arrives while the firmware runs, is authentic, is fresh, and passes every check of its opcode. -/
def Served (op : Op) (r : Request) (s : State) : Prop :=
  s.awake = true ∧ arrival op r s = .pass ∧ Fresh r s ∧ checks op r (taken r s) = Status.ok

/-- A request of an authentic sender that is fresh and fails a check. -/
def Rejected (op : Op) (r : Request) (s : State) : Prop :=
  s.awake = true ∧ arrival op r s = .pass ∧ Fresh r s ∧ checks op r (taken r s) ≠ Status.ok

/-- The commands of class Query, and ATTEST_QUOTE, which changes nothing either (R362, R387). -/
def queryRows : List ((Request → Instr) × Op) :=
  [(.moduleInfo, opModuleInfo), (.identityCert, opIdentityCert), (.tenantQuery, opTenantQuery), (.imageQuery, opImageQuery),
   (.coveObjectQuery, opCoveObjectQuery), (.streamQuery, queryOp false), (.streamList, listOp false)] ++
  [(.ownerStreamQuery, queryOp true), (.ownerStreamList, listOp true), (.prefixQuery, opPrefixQuery),
   (.policyQuery, opPolicyQuery), (.telemetryRead, opTelemetryRead), (.counterQuery, opCounterQuery)] ++
  [(.faultQuery, opFaultQuery), (.slotQuery, opSlotQuery), (.servingQuery, opServingQuery), (.attestQuote, opAttestQuote)]

/-- Opcodes that change something and are done with their response. -/
def commandRows : List ((Request → Instr) × Op) :=
  [(.imageSourceSet, opImageSourceSet), (.imageStop, opImageStop), (.imageStart, opImageStart),
   (.quarantineClear, opQuarantineClear), (.coveObjectSet, opCoveObjectSet), (.streamOpen, opStreamOpen)] ++
  [(.streamGenerate, opStreamGenerate), (.streamStop, stopOp false), (.streamClose, closeOp false), (.streamPark, parkOp false),
   (.streamResume, opStreamResume), (.streamSet, setOp false), (.ownerStreamStop, stopOp true)] ++
  [(.ownerClose, closeOp true), (.ownerPark, parkOp true), (.ownerStreamSet, setOp true), (.prefixDrop, opPrefixDrop),
   (.thermalPolicySet, opThermalPolicySet), (.faultPolicySet, opFaultPolicySet)] ++
  [(.telemetrySelect, opTelemetrySelect), (.powerPolicySet, opPowerPolicySet), (.firmwareChunk, opFirmwareChunk)]

/-- The presence-pending opcodes, with the key that a request may bring (R373). -/
def presenceRows (key : Option Key) : List ((Request → Instr) × PresenceOp × Option Key) :=
  [((.ownerClaim · key), ownerClaim, key), ((.ownerTransfer · key), ownerTransfer, key),
   (.ownerRelease, ownerRelease, none), ((.tenantEnrol · key), tenantEnrol, key), (.tenantRemove, tenantRemove, none)] ++
  [(.coveErase, coveErase, none), (.imageKeyEnrol, imageKeyEnrol, none), (.imageKeyRemove, imageKeyRemove, none),
   (.policySet, policySet, none), (.firmwareActivate, firmwareActivate, none)]

/-- Requests whose meaning is their service by the mailbox engine alone, with the key that a presence-pending one may
bring. -/
def requestRows (key : Option Key) : List ((Request → Instr) × Op) :=
  queryRows ++ commandRows ++ (presenceRows key).map fun y => (y.1, y.2.1.op y.2.2)

/-- What an answer may change besides what its opcode did: the port's counts and its output, the response cache, the
outstanding messages and the change records of the mailbox engine. -/
def OnlyAnswers (s t : State) : Prop :=
  { t with
    outbox := s.outbox
    eth := { t.eth with tx := s.eth.tx, droppedFilter := s.eth.droppedFilter, held := s.eth.held }
    mbox := { t.mbox with cache := s.mbox.cache, outstanding := s.mbox.outstanding, changes := s.mbox.changes
                          moduleChange := s.mbox.moduleChange, imageChange := s.mbox.imageChange
                          wordChanges := s.mbox.wordChanges, tenantChanges := s.mbox.tenantChanges } } = s

/-- s with everything blanked that answering a request changes of itself (R343, R344, R350): the port's output and counts,
the response cache, the outstanding messages, and the records of last changes. Two states that agree here differ in nothing
else. -/
def unanswered (s : State) : State :=
  let f (p : Nat × Stream) : Nat × Stream := (p.1, { p.2 with lastChange := Change.zero })
  let g (t : Stream) : Stream := { t with lastChange := Change.zero }
  let h (p : Prefix) : Prefix := { p with lastChange := Change.zero }
  let k (o : CoveObject) : CoveObject := { o with lastChange := Change.zero }
  { s with
    outbox := []
    eth := { s.eth with tx := 0, droppedFilter := 0, held := [] }
    mbox := { s.mbox with cache := [], outstanding := [], changes := 0, moduleChange := Change.zero
                          imageChange := Change.zero, wordChanges := [], tenantChanges := [] }
    str := { s.str with live := s.str.live.map f, parked := s.str.parked.map g, closed := s.str.closed.map g
                        prefixes := s.str.prefixes.map h }
    cove := { s.cove with objects := s.cove.objects.map k } }

/-- The newest entry of the response caches is the response to a request, with this status; its payload is that of R365 for
the status, with the outcome block of some object as it stands and, where the opcode changes something, this effect. A
message that is not final is outstanding, with the number at which the effect is due (R343, R344, R351, R365). -/
def Answers (op : Op) (r : Request) (status : Status) (effect : Nat × Nat) (t : State) : Prop :=
  (∃ e serial k body, t.mbox.cache.getLast? = some e ∧ e.mailbox = r.mailbox ∧ e.sequence = r.sequence
    ∧ e.digest = requestDigest op.code r ∧ e.opcode = op.code ∧ e.status = status
    ∧ e.payload = payloadOf op.changes serial status k effect body t) ∧
  (leavesOpen status = true → ∃ o ∈ t.mbox.outstanding, o.mailbox = r.mailbox ∧ o.sequence = r.sequence
    ∧ o.opcode = op.code ∧ o.effectAt = BitVec.ofNat 64 effect.2)

/-- A request ends in a next state: it is answered with a status and an effect, and besides its answer the state becomes
u. -/
def CompletesWith (c : Instr) (op : Op) (r : Request) (s : State) (status : Status) (effect : Nat × Nat) (u : State) : Prop :=
  ∃ t, exec c s = .next t ∧ unanswered t = unanswered u ∧ Answers op r status effect t

/-- A message that a command of s was about has ended by t: its response is the final one, with a status, and what is
outstanding is what was before it came (R344). -/
def Ended (r : Request) (status : Status) (s t : State) : Prop :=
  t.mbox.outstanding = s.mbox.outstanding ∧
    ∃ e ∈ t.mbox.cache, e.mailbox = r.mailbox ∧ e.sequence = r.sequence ∧ e.status = status

/-- A stream frame of a kind that passes R341 and R353, for a stream that its mailbox holds. -/
def FramePasses (kind : Nat) (f : Frame) (t : Stream) (s : State) : Prop :=
  s.awake = true ∧ frameWellFormed kind f = true ∧
    authenticate f.mailbox.toNat false f.src (receivedHeader kind f ++ f.entries) f.tag (received s) = .pass ∧
    findStream f.mailbox.toNat f.streamId.toNat (received s) = some t

/-! ## Frames -/

/-- Every byte of every scratchpad and of every shelf stack reads as before. -/
def SameMemory (s t : State) : Prop :=
  (∀ p a, Memory.read (t.comb p).mem a = Memory.read (s.comb p).mem a)
    ∧ ∀ n a, Memory.read (t.stack n).mem a = Memory.read (s.stack n).mem a

/-- Identity, configuration, firmware and config copies are as before. -/
def SameConfig (s t : State) : Prop := t.ident = s.ident ∧ t.cfg = s.cfg ∧ t.live = s.live ∧ t.flash = s.flash

/-- The data plane's own groups are as before: the tide and its holds, the image, combs, fabric and shelf. -/
def SameDataPlane (s t : State) : Prop :=
  t.tide = s.tide ∧ t.img = s.img ∧ t.combs = s.combs ∧ t.fabric = s.fabric ∧ t.shelf = s.shelf

end Sys2Proof.Machine
end

