-- ==== Sys2Proof/WellFormed.lean ====
section
/-! DEFINITION. Which commands are well formed: operands that name something the module has, and the body ranges of the
tide-program instructions (R131). -/

namespace Sys2Proof

/-- The body ranges of R131. -/
def TideOp.wellFormed : TideOp → Bool
  | .wait => true
  | .dot o => o.laneGroups != 0 && decide (3 ≤ o.a.toNat) && decide (o.a.toNat ≤ 9) && decide (o.b.toNat ≤ 4)
  | .emit _ => true
  | .row o => o.count != 0 && decide (o.laneWidth.toNat ≤ 2)
  | .shelf _ => true
  | .fabric _ => true
  | .rotate o => decide (6 ≤ o.k.toNat) && decide (o.k.toNat ≤ 14)
  | .fbwin => true
  | .slot o => o.count != 0 && decide (o.count.toNat ≤ 256) && decide (o.cls.toNat ≤ 2)
  | .done => true

/-- An instruction issues on one of the 96 physical combs. -/
def Issue.wellFormed (i : Issue) : Bool := decide (i.comb < 96)

/-- The opcodes of the catalogue (R362) and the owner forms (R376). -/
def definedOpcodes : List Nat :=
  [0x0101, 0x0102, 0x0103, 0x0104, 0x0105, 0x0106, 0x0201, 0x0202, 0x0203, 0x0301, 0x0302, 0x0303, 0x0304, 0x0305] ++
  [0x0306, 0x0307, 0x0308, 0x0309, 0x030A, 0x030B, 0x030C, 0x030D, 0x0401, 0x0402, 0x0403, 0x0404, 0x0405, 0x0406] ++
  [0x0407, 0x0408, 0x0409, 0x0483, 0x0484, 0x0485, 0x0487, 0x0488, 0x0489, 0x0501, 0x0502, 0x0503, 0x0601, 0x0602] ++
  [0x0603, 0x0604, 0x0605, 0x0606, 0x0607, 0x0608, 0x0701, 0x0801, 0x0802, 0x0803, 0x0804, 0x0901, 0x0902, 0x0903]

/-- Operands that name something the module has: a comb, a link, a stack, a live record, a priority, a queue pair, a
slack cause, a domain. Requests and frames are well formed whatever bytes they carry. -/
def Instr.wellFormed : Instr → Bool
  | .tokenEmission r => decide (r < 4096)
  | .prologueTimeout cs => decide (cs.length = 24)
  | .wait i => i.wellFormed
  | .dot i o _ => i.wellFormed && TideOp.wellFormed (.dot o)
  | .emit i _ _ => i.wellFormed
  | .row i o => i.wellFormed && TideOp.wellFormed (.row o)
  | .shelf i _ => i.wellFormed
  | .fabric i _ => i.wellFormed
  | .rotate i o => i.wellFormed && TideOp.wellFormed (.rotate o)
  | .fbwin i => i.wellFormed
  | .slot i o => i.wellFormed && TideOp.wellFormed (.slot o)
  | .done i => i.wellFormed
  | .fallbackWindowClose c => decide (c < 96)
  | .rowLands c ra _ => decide (c < 96) && decide (ra.toNat < 2621440)
  | .linkFrameReceive l _ g _ _ => decide (l < 40) && decide (g < 16)
  | .expertPageinComplete k _ _ _ => decide (k < 24)
  | .holdRaise c _ _ => decide (1 ≤ c.toNat) && decide (c.toNat ≤ 9)
  | .mend c _ => decide (c < 96)
  | .scrubRow c ra => decide (c < 96) && decide (ra.toNat < 2621440)
  | .shelfScrub k u => decide (k < 24) && decide (u < 1610612736)
  | .shelfRefresh k _ => decide (k < 24)
  | .channelRetirement k c => decide (k < 24) && decide (c < 32)
  | .parkDelayExpiry r => decide (r < 4096)
  | .readyParkDelayExpiry r => decide (r < 4096)
  | .parkCommit r => decide (r < 4096)
  | .resumeLanded r => decide (r < 4096)
  | .rdmaReadResponse q _ _ => decide (q < 64)
  | .rdmaTimeout q _ => decide (q < 64)
  | .cnpReceive q => decide (q < 64)
  | .cnpRecoveryTick q => decide (q < 64)
  | .journalCompaction k => decide (k < 8)
  | .overcurrentLatch d => decide (d < 196)
  | .powerUp x => decide (x.laneGroups.length = 80) && decide (x.channelsFailed.length = 24) && decide (x.coresFailed ≤ 10)
    && (match x.hiveLatched with | some k => decide (k < 4) | none => true)
  | .calibration x => decide (x.trims.length = 328) && decide (x.fits.length = 146) && decide (x.combTests.length = 96)
  | .capacitanceTest t => decide (t < 328)
  | .pfcPauseExpiry p => decide (p < 8)
  | .pfcBufferThreshold p _ => decide (p < 8)
  | .keeperCoreFailure c => decide (c < 10)
  | .arpNdRequest f _ _ => decide (f = 4 ∨ f = 6)
  | .echoRequest f _ _ _ => decide (f = 4 ∨ f = 6)
  | .arpNdReply f _ _ => decide (f = 4 ∨ f = 6)
  | .undefinedOpcodeRequest _ o => !(definedOpcodes.contains o.toNat)
  | _ => true

end Sys2Proof
end

