-- ==== Sys2Proof/Certificates/Slice0/Obligations.lean ====
section
/-! DEFINITION. The statements for the provers. Where a command waits for something the state does not show, its
hypotheses name what must stand; u is the state that a request is executed on (taken). -/

open Sys2Proof Sys2Proof.Machine

/-! ## The step, reset and the queue -/

/-- The module takes the command at the front of its queue and acts on the state with the queue's rest. With nothing
pending the module idles. The model's choice: log 1. -/
def Obligations.StepRunsTheFrontCommand : Prop :=
  (∀ (c : Instr) (rest : List Instr) (s : State), s.pending = c :: rest →
     step s = exec c { s with pending := rest }) ∧
  (∀ s : State, s.pending = [] → step s = .next s)

/-- No command is refused; the one fault is a shelf address that R217 says does not exist, and only commands that
address the shelf raise it. -/
def Obligations.FaultsAreShelfAddresses : Prop :=
  (∀ c s r, exec c s ≠ .refused r) ∧
  ∀ c s f, exec c s = .fault f → f = .shelfAddressOutside ∧
    match c with
    | .shelf _ _ | .shelfScrub _ _ | .dataPlaneStart => True
    | _ => False

/-- The module after reset (R15, R430, R431): dark and unpowered, unclaimed, with no image, stream, message or notice,
the data plane Idle, every counter of the tide at zero, and the configuration that it left manufacture with, which its
selected copy holds. The values of the configuration are the model's where the spec gives none: log 3. Every memory
after reset has the canonical form. -/
def Obligations.ResetIsDarkAndUnclaimed : Prop :=
  (let s := State.reset
   s.pow.stage = .dark ∧ s.awake = false ∧ s.cfg.claimed = false ∧ s.cfg.tenants = [] ∧ s.cfg.quarantine = [] ∧ s.tide.dp = .idle ∧
     s.tide.number = 0 ∧ s.tide.runCycles = 0 ∧ s.tide.slackCycles = 0 ∧ s.tide.holds = [] ∧ s.img.image = none ∧ s.img.load = none ∧
     s.str.live = [] ∧ s.str.parked = [] ∧ s.str.prefixes = [] ∧ s.mbox.cache = [] ∧ s.mbox.outstanding = [] ∧ s.mbox.notices = [] ∧
     s.outbox = [] ∧ s.pending = [] ∧ s.live = s.cfg.words ∧ (selectedCopy s).map (·.content) = some s.cfg ∧
     s.combs.length = 96 ∧ s.fabric.links.length = 80 ∧ s.fabric.ports.length = 25 ∧ s.shelf.stk.length = 24 ∧
     s.cool.sensors.length = 328 ∧ s.pow.domains.length = 196) ∧
  (State.reset.memoryWf)

/-- Whatever the module does, every memory keeps its canonical form: addresses rise and no zero byte is listed, so
that memories with equal contents are equal. -/
def Obligations.EveryStepKeepsMemoryCanonical : Prop :=
  ∀ s t : State, s.memoryWf → step s = .next t → t.memoryWf

/-! ## Requests -/

/-- A query that passes its checks is answered OK, with the outcome block and the opcode's payload, and changes
nothing but what an answer is (R362, R365, R387). -/
def Obligations.QueriesChangeNothing : Prop :=
  ∀ x ∈ queryRows, ∀ (r : Request) (s : State), Served x.2 r s →
    ∃ t, exec (x.1 r) s = .next t ∧ OnlyAnswers (taken r s) t ∧
      ∃ e k, t.mbox.cache.getLast? = some e ∧ e.mailbox = r.mailbox ∧ e.sequence = r.sequence ∧ e.opcode = x.2.code
        ∧ e.status = Status.ok
        ∧ e.payload = outcomeBlock 0 k (taken r s) ++ (x.2.run r (taken r s)).body

/-- What answering an executed request changes of itself, whatever the opcode did: where it committed no change, the
answer alone; its payload carries the outcome block and the effect of R365; and one change more is counted where it
committed one (R343, R344, R350, R351, R365). -/
def Obligations.AnsweringChangesNothingElse : Prop :=
  ∀ (op : Op) (r : Request) (a : Answer),
    unanswered (respond op r a) = unanswered a.state ∧
    (a.changed = false → OnlyAnswers a.state (respond op r a)) ∧
    Answers op r a.status a.effect (respond op r a) ∧
    (respond op r a).mbox.changes = a.state.mbox.changes + (if a.changed then 1 else 0)

/-- R343: an authenticated request is treated by the first row that matches; only the last one executes it. -/
def Obligations.RequestsAreTreatedBySequence : Prop :=
  ∀ (op : Op) (r : Request) (s : State),
    let cached := (cacheOf r.mailbox s).find? fun e => e.sequence = r.sequence
    let k := keyOf r.mailbox.toNat s
    let count (f : MailboxRecord → MailboxRecord) : State := countMailbox r.mailbox.toNat f s
    let next4 := bytesBE 4 (nextSequence r.mailbox s).toNat
    (∀ e, cached = some e → e.digest = requestDigest op.code r →
      sequenceCheck op r s = reply k r 0xA0 e.opcode e.status e.stamp e.payload
        (count fun m => { m with duplicates := satInc m.duplicates })) ∧
    (∀ e, cached = some e → e.digest ≠ requestDigest op.code r →
      sequenceCheck op r s = reply k r 0x80 op.code Status.seqReused r.stamp.time next4
        (count fun m => { m with staleOrReused := satInc m.staleOrReused })) ∧
    (∀ e es, cached = none → cacheOf r.mailbox s = e :: es → 64 ≤ (e :: es).length → newer r.sequence e.sequence = false →
      sequenceCheck op r s = reply k r 0x80 op.code Status.stale r.stamp.time next4
        (count fun m => { m with staleOrReused := satInc m.staleOrReused })) ∧
    (cached = none →
      ¬(64 ≤ (cacheOf r.mailbox s).length ∧ ((cacheOf r.mailbox s).head?.map fun e => newer r.sequence e.sequence) = some false) →
      16 ≤ (s.mbox.outstanding.filter fun o => o.mailbox = r.mailbox).length →
      sequenceCheck op r s = reply k r 0x80 op.code Status.windowFull r.stamp.time (outcomeBlock 0 .module s)
        (count fun m => { m with windowFull := satInc m.windowFull })) ∧
    (Fresh r s → sequenceCheck op r s = execute op r s)

/-- A datagram that R341 drops changes nothing but the counts of the drop and of the frame, and nothing is sent in
reply. -/
def Obligations.DropsAreSilent : Prop :=
  ∀ (key : Option Key), ∀ x ∈ requestRows key, ∀ (r : Request) (s : State), s.awake = true →
    (arrival x.2 r s = .filter → ∃ t, exec (x.1 r) s = .next t ∧
      t = { s with eth := { s.eth with rx := s.eth.rx + 1, droppedFilter := satInc s.eth.droppedFilter } }) ∧
    (arrival x.2 r s = .auth → ∃ t, exec (x.1 r) s = .next t ∧
      t = { s with eth := { s.eth with rx := s.eth.rx + 1 }
                   mbox := { s.mbox with records := (s.mbox.records.modify r.mailbox.toNat
                     (fun m => { m with droppedAuth := satInc m.droppedAuth })) } })

/-- R364: a request that fails a check is answered with the status of the first check that fails, and changes nothing.
An opcode outside the catalogue is answered BAD_OPCODE, and its mailbox's record counts it as accepted (R362, R364). -/
def Obligations.RejectedRequestsChangeNothing : Prop :=
  (∀ (key : Option Key), ∀ x ∈ requestRows key, ∀ (r : Request) (s : State), Rejected x.2 r s →
     ∃ t, exec (x.1 r) s = .next t ∧ OnlyAnswers (taken r s) t ∧ Answers x.2 r (checks x.2 r (taken r s)) (0, 0) t ∧
       t.mbox.changes = s.mbox.changes) ∧
  (∀ (r : Request) (code : BitVec 16) (s : State), s.awake = true → arrival (opUndefined code) r s = .pass → Fresh r s →
     ∃ t, exec (.undefinedOpcodeRequest r code) s = .next t ∧ OnlyAnswers (taken r s) t ∧
       Answers (opUndefined code) r Status.badOpcode (0, 0) t)

/-! ## Images, the cove, firmware -/

/-- IMAGE_STOP waits for the step boundary while Running and changes no state of the data plane while Stopped, but for
withdrawing a start (log 20); IMAGE_START makes the data plane enter Running next (R375). QUARANTINE_CLEAR takes a
digest off the list; the image it names, if still loaded and Halted by a fault, resumes (R216). IMAGE_SOURCE_SET puts
a storage source record in place, its queue pair starting afresh at local_psn_start. COVE_OBJECT_SET destroys an
object or gives it a new TTL that counts from the commit (R240, R245, R375). FIRMWARE_CHUNK writes its bytes over the
inactive copy. -/
def Obligations.ImageAndCoveCommandsComplete : Prop :=
  ((∀ r s, Served opImageStop r s → s.tide.dp = .running →
     CompletesWith (.imageStop r) opImageStop r s Status.ok (3, nextStep s)
       { taken r s with tide := { s.tide with stopPending := true } }) ∧
   (∀ r s, Served opImageStop r s → s.tide.dp = .stopped →
     CompletesWith (.imageStop r) opImageStop r s Status.ok (0, 0)
       { taken r s with tide := { s.tide with startPending := false } }) ∧
   (∀ r s, Served opImageStart r s →
     CompletesWith (.imageStart r) opImageStart r s Status.ok (0, 0)
       { taken r s with tide := { s.tide with startPending := true } })) ∧
  (∀ (r : Request) (s : State), Served opQuarantineClear r s →
     let d : Digest := BitVec.ofNat 512 (field r.payload 0 64)
     let u := taken r s
     let v : State := { u with cfg := { u.cfg with quarantine := u.cfg.quarantine.filter fun e => e.1 ≠ d }
                               flash := { u.flash with dirty := true } }
     (s.tide.dp = .halted ∧ s.tide.halt = .fault ∧ s.img.digest = d →
       CompletesWith (.quarantineClear r) opQuarantineClear r s Status.ok (0, 0)
         { v with tide := { v.tide with halt := .none, startPending := true } }) ∧
     (¬(s.tide.dp = .halted ∧ s.tide.halt = .fault ∧ s.img.digest = d) →
       CompletesWith (.quarantineClear r) opQuarantineClear r s Status.ok (0, 0) v)) ∧
  (∀ (r : Request) (s : State), Served opImageSourceSet r s →
     let q : QueuePair := { QueuePair.reset with record := sourceRecord r
                                                 psn := BitVec.ofNat 24 (bits (sourceRecord r) 359 336) }
     CompletesWith (.imageSourceSet r) opImageSourceSet r s Status.ok (0, 0)
       { taken r s with cove := { s.cove with qps := s.cove.qps.modify (field r.payload 0 1) fun _ => q } }) ∧
  (∀ (r : Request) (s : State) (o : CoveObject), Served opCoveObjectSet r s → namedObject r s = some o →
     let u := taken r s
     (field r.payload 16 1 = 1 →
       CompletesWith (.coveObjectSet r) opCoveObjectSet r s Status.ok (0, 0) (freeObject o.id.toNat u)) ∧
     (field r.payload 16 1 = 0 →
       CompletesWith (.coveObjectSet r) opCoveObjectSet r s Status.ok (0, 0)
         (setObject o.id.toNat (fun _ => { o with expiresAt := expiresAt (field r.payload 20 4) u
                                                  serial := s.cove.journalSerial + 1, dated := seconds u.now }) (journal u)))) ∧
  (∀ (r : Request) (s : State), Served opFirmwareChunk r s →
     let off := field r.payload 0 4
     let f (c : FirmwareCopy) : FirmwareCopy :=
       { c with chunks := c.chunks ++ [(off, r.payload.drop 8)], written := max c.written (off + field r.payload 4 2) }
     let u := taken r s
     CompletesWith (.firmwareChunk r) opFirmwareChunk r s Status.ok (0, 0)
       (if s.cfg.activeCopyB then { u with flash := { u.flash with firmwareA := f u.flash.firmwareA } }
         else { u with flash := { u.flash with firmwareB := f u.flash.firmwareB } }))

/-! ## Streams -/

/-- STREAM_OPEN takes the lowest free live record for a stream in READY with an empty history, under an identifier
that no other stream of its mailbox holds (R251, R254). STREAM_GENERATE puts its stream in PREFILL; where it finds a
shared prefix it maps or waits for it, and the prefix is used (R258, R277). -/
def Obligations.StreamsOpenAndGenerate : Prop :=
  (∀ (r : Request) (s : State), Served opStreamOpen r s →
     ∃ n id draws t,
       freeRecord (taken r s) = some n ∧
       (∀ y ∈ s.str.live.map (·.2) ++ s.str.parked, y.mailbox = r.mailbox → y.id ≠ id) ∧
       t = newStream id r (settingsOf (settingsAt r.payload 0)) (taken r s) ∧
       t.state = .ready ∧ history t = [] ∧ t.out = r.src ∧ t.draftDepth = t.live.draftDepthMax ∧
       CompletesWith (.streamOpen r) opStreamOpen r s Status.ok (0, 0)
         { taken r s with draws := draws, str := { s.str with live := s.str.live ++ [(n, t)] } }) ∧
  (∀ (r : Request) (s : State) (t : Stream), Served opStreamGenerate r s → namedStream false r s = some t →
     let u := taken r s
     let v : Stream := { t with state := .prefill, maxNew := field r.payload 12 4, generated := 0, out := r.src
                                admission := s.cfg.powerUpCount ++ (s.mbox.changes + 1), pauseReason := 0 }
     let e := enterPrefill v u
     let put (w : State) : State := setStreamById t.id.toNat (fun x => if x.mailbox = t.mailbox then e.1 else x) w
     e.1.state = .prefill ∧ history e.1 = history t ∧
     (e.2 = none → CompletesWith (.streamGenerate r) opStreamGenerate r s Status.ok (0, 0) (put u)) ∧
     (∀ p, e.2 = some p →
       let w := setPrefix p (fun x => { x with lastUse := s.str.useCount + 1 }) u
       CompletesWith (.streamGenerate r) opStreamGenerate r s Status.ok (0, 0)
         (put { w with str := { w.str with useCount := s.str.useCount + 1 } })))

/-- STREAM_STOP, STREAM_PARK and their owner forms are answered with the step boundary at which they take effect; there a
stopped stream is READY with its history kept, and one whose object finds room in the cove is PARKING; the park stays
outstanding until then and beyond (R252, R253, R365, R376, R377). STREAM_CLOSE and OWNER_CLOSE: a parked stream closes at
once, its object freed; any other that is not PARKING closes at the step boundary; the closed record has close_reason 1,
or 3 by the owner's form (R252, R376). -/
def Obligations.StopParkAndCloseWaitForTheStep : Prop :=
  (∀ x ∈ [(Instr.streamStop, false), (Instr.ownerStreamStop, true)], ∀ (r : Request) (s : State) (t : Stream),
     Served (stopOp x.2) r s → namedStream x.2 r s = some t →
     ∃ w, exec (x.1 r) s = .next w ∧ Answers (stopOp x.2) r Status.ok (3, nextStep s) w ∧
       unanswered w = unanswered (setEvent t.mailbox.toNat t.id.toNat (fun e => { e with stop := true }) (taken r s)) ∧
       ∀ n, liveAt n s = some t → ∃ y, liveAt n (stopAtBoundary n w) = some y ∧ y.state = .ready ∧ history y = history t) ∧
  (∀ x ∈ [(Instr.streamPark, false), (Instr.ownerPark, true)], ∀ (r : Request) (s : State) (t : Stream),
     Served (parkOp x.2) r s → namedStream x.2 r s = some t →
     let own := decide (r.mailbox = t.mailbox)
     ∃ w, exec (x.1 r) s = .next w ∧ Answers (parkOp x.2) r Status.accepted (3, nextStep s) w ∧
       unanswered w = unanswered (setEvent t.mailbox.toNat t.id.toNat (fun e => { e with park := true, own := own }) (taken r s)) ∧
       ∀ n, liveAt n s = some t → parkAtBoundary n w = (beginPark n own (emitAll n w)).2 ∧
         ((beginPark n own (emitAll n w)).1 = true →
           ∃ y, liveAt n (parkAtBoundary n w) = some y ∧ y.state = .parking ∧ history y = history t)) ∧
  (∀ x ∈ [(Instr.streamClose, false), (Instr.ownerClose, true)], ∀ (r : Request) (s : State) (t : Stream),
     Served (closeOp x.2) r s → namedStream x.2 r s = some t →
     let reason : BitVec 5 := if x.2 then 3 else 1
     let own := decide (r.mailbox = t.mailbox)
     let gone (w : State) : Prop := (∀ y ∈ w.str.live.map (·.2) ++ w.str.parked, ¬(y.id = t.id ∧ y.mailbox = t.mailbox)) ∧
       ∃ c ∈ w.str.closed, c.id = t.id ∧ c.mailbox = t.mailbox ∧ c.state = .closed ∧ c.closeReason = reason
     (t.state = .parked →
       ∃ w, exec (x.1 r) s = .next w ∧ Answers (closeOp x.2) r Status.ok (0, 0) w ∧
         unanswered w = unanswered (closeParked t reason own (taken r s)) ∧ gone w ∧
         ∀ o, t.parkObject = some o → findObject o.toNat w = none) ∧
     (t.state ≠ .parked →
       ∃ w, exec (x.1 r) s = .next w ∧ Answers (closeOp x.2) r Status.ok (3, nextStep s) w ∧
         unanswered w = unanswered
           (setEvent t.mailbox.toNat t.id.toNat (fun e => { e with close := some reason, own := own }) (taken r s)) ∧
         ∀ n, liveAt n s = some t → t.state ≠ .parking → gone (closeAtBoundary n w)))

/-- STREAM_RESUME: from PARKING the park is cancelled at the step boundary, where the stream goes on from the state it
parked in; from PARKED the stream takes a live record in RESUMING, and its object is being read (R252, R377). STREAM_SET
and its owner form: a live stream's shadow takes the fields that the mask selects, and they are in force from the next
tide boundary; a parked stream's TTL takes effect at once, and its object's with it (R366, R377). -/
def Obligations.ResumeAndSettingsComplete : Prop :=
  (∀ (r : Request) (s : State) (t : Stream), Served opStreamResume r s → namedStream false r s = some t →
     let u := taken r s
     let serial : BitVec 64 := s.cfg.powerUpCount ++ (s.mbox.changes + 1)
     let adm := if t.resumeTo = some .prefill ∨ t.resumeTo = some .decode then serial else t.admission
     (t.state = .parking →
       ∃ w, exec (.streamResume r) s = .next w ∧ Answers opStreamResume r Status.accepted (3, nextStep s) w ∧
         unanswered w = unanswered (setStreamById t.id.toNat (fun x => if x.mailbox = t.mailbox then
           { x with out := r.src, admission := adm, event := { x.event with cancelPark := true, own := true } } else x) u) ∧
         ∀ n, liveAt n s = some t → ∃ y, liveAt n (cancelPark n w) = some y ∧ y.state = t.resumeTo.getD .ready ∧
           history y = history t) ∧
     (t.state = .parked →
       ∃ n, freeRecord u = some n ∧
         let w := match t.parkObject with
           | some o => setObject o.toNat (fun x => { x with readers := x.readers + 1 }) u
           | none => u
         CompletesWith (.streamResume r) opStreamResume r s Status.accepted (3, nextStep s)
           { w with str := { s.str with
             live := s.str.live ++ [(n, { t with state := .resuming, out := r.src, admission := adm })]
             parked := s.str.parked.filter fun x => !(x.id = t.id && x.mailbox = t.mailbox) } })) ∧
  (∀ x ∈ [(Instr.streamSet, false), (Instr.ownerStreamSet, true)], ∀ (r : Request) (s : State) (t : Stream),
     Served (setOp x.2) r s → namedStream x.2 r s = some t →
     let p := (target x.2 r).2
     let mask := field p 8 4
     let y := mergeSettings mask t.shadow (settingsOf (settingsAt p 16))
     let u := taken r s
     (t.state ≠ .parked →
       ∃ w, exec (x.1 r) s = .next w ∧ Answers (setOp x.2) r Status.ok (1, nextTide s) w ∧
         unanswered w = unanswered (setStreamById t.id.toNat (fun x => if x.mailbox = t.mailbox then
           { x with shadow := y, depthWritten := x.depthWritten || mask.testBit 9 } else x) u) ∧
         ∀ n, liveAt n s = some t → ∃ z, liveAt n w = some z ∧ z.live = t.live ∧ (latchStream z).live = y) ∧
     (t.state = .parked →
       let v := setStreamById t.id.toNat (fun x => if x.mailbox = t.mailbox then { x with live := y, shadow := y } else x) u
       CompletesWith (x.1 r) (setOp x.2) r s Status.ok (0, 0)
         (match t.parkObject with
           | some o => setObject o.toNat (fun c => { c with expiresAt := expiresAt y.parkTtl.toNat (journal v)
                                                            serial := s.cove.journalSerial + 1
                                                            dated := seconds u.now }) (journal v)
           | none => v)))

/-- PREFIX_PUBLISH of tokens that no prefix of the publisher holds takes an index for a copy of them, in copying, and
stays outstanding; one that the publisher has published already changes nothing, and completes at once unless its copy is
still being made (R276). PREFIX_DROP withdraws a prefix: no stream finds it in lookup from then on (R278). -/
def Obligations.PrefixesArePublishedAndDropped : Prop :=
  (∀ (r : Request) (s : State) (t : Stream), Served opPrefixPublish r s → namedStream false r s = some t →
    let u := taken r s
    let m := field r.payload 8 4 / 64
    let h := contentAddress t.digest t.committed m
    let held := u.str.prefixes.find? fun p => p.publisher = t.mailbox && p.address = h
    (held = none →
      ∃ n v w, prefixRoom u = some (n, v) ∧ exec (.prefixPublish r) s = .next w ∧
        Answers opPrefixPublish r Status.accepted (0, 0) w ∧
        unanswered w = unanswered (extendMap { v with str := { v.str with
          prefixes := v.str.prefixes ++ [⟨n, h, t.mailbox, m, t.committed.take (64 * m), 0, v.str.useCount + 1, true,
            publishPages m v, t.chosen.filter fun x => x.2.1 = m, [], Change.zero⟩]
          useCount := v.str.useCount + 1 } })) ∧
    (∀ p, held = some p → p.index < 2 ^ 64 → (s.str.prefixes.find? fun q => q.index = p.index) = some p →
      CompletesWith (.prefixPublish r) opPrefixPublish r s (if p.copying then Status.accepted else Status.ok) (0, 0) u)) ∧
  (∀ (r : Request) (s : State), Served opPrefixDrop r s →
    CompletesWith (.prefixDrop r) opPrefixDrop r s Status.ok (0, 0) (withdrawPrefix (field r.payload 0 2) (taken r s)) ∧
    ∀ p ∈ (withdrawPrefix (field r.payload 0 2) (taken r s)).str.prefixes, p.index = field r.payload 0 2 →
      ∀ mb, prefixVisible mb p s = false)

/-! ## Words -/

/-- A word write is answered OK with the boundary at which it takes effect; besides its answer the state becomes that in
which the write is committed: the configuration waits to become durable, and neither the data plane nor a stream changes
(R362, R366, R367). NOTICE_CONFIG_SET also sends the notices that waited (R359). What a committed write does to each
field is WordFieldsLatchByClass. -/
def Obligations.WordWritesCommit : Prop :=
  ∀ (r : Request) (s : State),
    let n := field r.payload 0 2
    let mask := field r.payload 4 4
    let v := applyWord n (field r.payload 2 2) mask (wordValue r.payload) (taken r s)
    let effect := (maskKind n mask, effectAt (maskKind n mask) s)
    v.flash.dirty = true ∧ v.mbox.notices = s.mbox.notices ∧ SameDataPlane s v ∧ v.str = s.str ∧
    (∀ x ∈ [(Instr.thermalPolicySet, opThermalPolicySet), (Instr.faultPolicySet, opFaultPolicySet),
        (Instr.telemetrySelect, opTelemetrySelect), (Instr.powerPolicySet, opPowerPolicySet)], Served x.2 r s →
      CompletesWith (x.1 r) x.2 r s Status.ok effect v) ∧
    (Served opNoticeConfigSet r s →
      ∃ w, unanswered w = unanswered v ∧ Answers opNoticeConfigSet r Status.ok effect w ∧
        exec (.noticeConfigSet r) s = .next (if s.eth.link = 2 then sendWaitingNotices w else w))

/-- A word write changes the fields that its mask selects, in the order of R366, and no other bit of a committed word;
Q fields are in force at once, T and E fields not before their boundary (R16, R17, R20, R366). A latch class takes
effect as a whole: at its boundary every field of the class reads as committed and every other field as before (R16,
R17). -/
def Obligations.WordFieldsLatchByClass : Prop :=
  (∀ (n i j mask x : Nat) (s : State), 1 ≤ n → n ≤ 14 → (n = 6 → j < 96 ∧ (i = j ∨ i = 0xFFFF)) → (n ≠ 6 → i = 0 ∧ j = 0) →
     selected mask (wordFields n) ≠ [] → s.cfg.words.w6.length = 96 → s.live.w6.length = 96 →
     let t := applyWord n i mask x s
     (∀ k f, (wordFields n)[k]? = some f →
       nbits (t.cfg.words.get n j) f.hi f.lo = nbits (if mask.testBit k then x else s.cfg.words.get n j) f.hi f.lo ∧
       (maskKind n mask = 0 → f.latch = .q → nbits (t.live.get n j) f.hi f.lo = nbits (t.cfg.words.get n j) f.hi f.lo) ∧
       (f.latch ≠ .q → nbits (t.live.get n j) f.hi f.lo = nbits (s.live.get n j) f.hi f.lo)) ∧
     (∀ b, (∀ f ∈ wordFields n, b < f.lo ∨ f.hi < b) → (t.cfg.words.get n j).testBit b = (s.cfg.words.get n j).testBit b) ∧
     (∀ m k, 1 ≤ m → m ≤ 14 → m ≠ n → t.cfg.words.get m k = s.cfg.words.get m k ∧ t.live.get m k = s.live.get m k) ∧
     (n = 6 → i = j → ∀ k < 96, k ≠ j → t.cfg.words.get 6 k = s.cfg.words.get 6 k)) ∧
  (∀ (n : Nat) (late : List Nat) (live new : Words), 1 ≤ n → n ≤ 14 → n ≠ 6 →
     (∀ f ∈ wordFields n, f.latch = .t → n ∉ late → nbits ((latchT late live new).get n 0) f.hi f.lo = nbits (new.get n 0) f.hi f.lo) ∧
     (∀ f ∈ wordFields n, f.latch ≠ .t ∨ n ∈ late →
       nbits ((latchT late live new).get n 0) f.hi f.lo = nbits (live.get n 0) f.hi f.lo) ∧
     (∀ f ∈ wordFields n, f.latch = .e ∨ (f.latch = .t ∧ n ∈ late) →
       nbits ((latchE late live new).get n 0) f.hi f.lo = nbits (new.get n 0) f.hi f.lo) ∧
     (∀ f ∈ wordFields n, f.latch = .q ∨ (f.latch = .t ∧ n ∉ late) →
       nbits ((latchE late live new).get n 0) f.hi f.lo = nbits (live.get n 0) f.hi f.lo))

/-! ## Long operations and presence -/

/-- IMAGE_UNLOAD is accepted; with no live stream the data plane is Idle with no image and the unload completes; a live
stream is parked first (R375). MODULE_SHUTDOWN is accepted; what waits for presence and the staging end; while Running the
data plane is to stop at the step boundary, and once it rests with nothing live or outstanding the comb-die domains are
off and the shutdown is complete (R438). IMAGE_LOAD and COVE_STAGE are accepted, and what they begin follows at once: a
source that returns no image ends them with STORAGE_ERROR; a load that the loader's checks or its placement reject ends
with what they found, and any other stands with its mapping; a staging of an image that the cove already holds ends with
OK, one of another digest than named is rejected, and any other stands with an object of its own (R202, R203, R246, R247).
PORT_CONFIG_SET is accepted; where the hold-up check allows the write, the new configuration is in force and durable at
once, its reversion is armed, and it completes; otherwise it waits. PORT_CONFIG_REVERT brings the old values back under
the same check (R330). -/
def Obligations.LongOperationsBegin : Prop :=
  (∀ (r : Request) (s : State), Served opImageUnload r s →
     let w := serve opImageUnload r s
     Answers opImageUnload r Status.accepted (0, 0) w ∧
     unanswered w = unanswered { taken r s with img := { s.img with unloading := true }
                                                tide := { s.tide with startPending := false } } ∧
     exec (.imageUnload r) s = .next (advanceService (parkAll (·.img.unloading) unloadFull w)) ∧
     (s.str.live = [] → (∀ o ∈ s.mbox.outstanding, o.opcode ≠ 0x0306) →
       ∃ t, exec (.imageUnload r) s = .next t ∧ t.tide.dp = .idle ∧ t.img.image = none ∧ t.img.unloading = false ∧
         t.str.live = [] ∧ t.str.parked = s.str.parked ∧ t.cove = s.cove ∧ SameConfig s t ∧ Ended r Status.ok s t) ∧
     (∀ n t, s.str.live = [(n, t)] → t.event.close = none → t.state ≠ .parking → t.state ≠ .resuming → s.img.load = none →
       (beginPark n false w).1 = true →
       exec (.imageUnload r) s = .next (beginPark n false w).2 ∧
         ∃ y, liveAt n (beginPark n false w).2 = some y ∧ y.state = .parking ∧ history y = history t)) ∧
  (∀ (r : Request) (s : State), Served opModuleShutdown r s →
     let w := serve opModuleShutdown r s
     Answers opModuleShutdown r Status.accepted (3, nextStep s) w ∧
     unanswered w = unanswered { taken r s with
       mbox := { (taken r s).mbox with shutdown := .accepted }
       tide := { s.tide with stopPending := s.tide.stopPending || s.tide.dp = .running } } ∧
     exec (.moduleShutdown r) s =
       .next (advanceService (endStaging Status.badState (abandonPresence Status.presenceTimeout w))) ∧
     (s.img.load = none → s.img.unloading = false →
       (s.tide.dp = .running → ∃ t, exec (.moduleShutdown r) s = .next t ∧ t.mbox.shutdown = .accepted ∧
         t.tide = { s.tide with stopPending := true } ∧ t.pres.cmd = none ∧ t.img.staging = none ∧ t.str.live.length = s.str.live.length) ∧
       (s.tide.dp ≠ .running → s.str.live = [] → s.mbox.outstanding = [] → s.pres.cmd = none → s.img.staging = none →
         (s.flash.dirty = false ∨ configWriteAllowed s = true) →
         ∃ t, exec (.moduleShutdown r) s = .next t ∧ t.mbox.shutdown = .complete ∧ t.tide.dp = .idle ∧ t.img.image = none ∧
           t.flash.dirty = false ∧ t.cfg = s.cfg ∧ t.cove.objects = s.cove.objects ∧ Ended r Status.ok s t ∧
           ∀ d, d < 192 → d < s.pow.domains.length → (s.domain d).state = 0 ∨ (s.domain d).state = 4 → (t.domain d).state = 3))) ∧
  (∀ (r : Request) (x : Option Image) (s : State), Served (opImageLoad x) r s →
     let w := serve (opImageLoad x) r s
     Answers (opImageLoad x) r Status.accepted (0, 0) w ∧ unanswered w = unanswered (taken r s) ∧
     (newLoad x r s = none →
       exec (.imageLoad r x) s = .next (complete [0x0302] 0 false Status.storageError .image (0, 0) (loadReport w) w)) ∧
     (∀ l, newLoad x r s = some l → (holdSource l w).img.load = some l ∧
       (l.waiting = true → exec (.imageLoad r x) s = .next (holdSource l w)) ∧
       (l.waiting = false →
         let v := if l.network then startPull (holdSource l w) else holdSource l w
         let d := if loadDigest r = 0 then none else some (loadDigest r)
         (checkImage l.image d v ≠ [] → exec (.imageLoad r x) s = .next (rejectLoad (checkImage l.image d v) v)) ∧
         (checkImage l.image d v = [] →
           (∀ fs, placeImage l.image v = .inr fs → exec (.imageLoad r x) s = .next (rejectLoad fs v)) ∧
           (∀ p, placeImage l.image v = .inl p → s.str.live = [] → s.img.unloading = false →
             exec (.imageLoad r x) s =
               .next { v with img := { v.img with load := some { l with place := p.1, parents := p.2 } } }))))) ∧
  (∀ (r : Request) (x : Option Image) (s : State), Served (opCoveStage x) r s →
     let w := serve (opCoveStage x) r s
     let d := stageDigest r
     let done (status : Status) (e : Digest) : State := complete [0x0303] 0 false status .image (0, 0) (bytesBE 64 e.toNat) w
     Answers (opCoveStage x) r Status.accepted (0, 0) w ∧ unanswered w = unanswered (taken r s) ∧
     ((imageObject d s).isSome → exec (.coveStage r x) s = .next (done Status.ok d)) ∧
     (imageObject d s = none →
       (pulled x = none → exec (.coveStage r x) s = .next (done Status.storageError d)) ∧
       (∀ i, pulled x = some i →
         (d ≠ 0 → d ≠ i.digestField → exec (.coveStage r x) s = .next (rejectStage i.digestField 0x0104 w)) ∧
         (d = 0 ∨ d = i.digestField →
           (writesThrough i s = false → exec (.coveStage r x) s = .next (done Status.ok i.digestField)) ∧
           (writesThrough i s = true →
             let g : Staging := ⟨i, i.digestField, stageTtl r, false⟩
             let v : State := { w with img := { w.img with staging := some g } }
             ∃ o, createObject (.image i) 0 (imageBytes i) i.digestField 0 v = some o ∧
               exec (.coveStage r x) s = .next (startPull o.2) ∧ (startPull o.2).img.staging = some g ∧
               ∃ y ∈ (startPull o.2).cove.objects, y.id = o.1 ∧ y.kind = 1 ∧ y.digest = i.digestField ∧ y.committed = false))))) ∧
  (∀ (r : Request) (s : State), Served opPortConfigSet r s →
     let w := serve opPortConfigSet r s
     let new := BitVec.ofNat 512 (mergeFields (selected (field r.payload 4 4) (wordFields 11)) s.live.w11.toNat (wordValue r.payload))
     Answers opPortConfigSet r Status.accepted (0, 0) w ∧ unanswered w = unanswered (taken r s) ∧
     (configWriteAllowed s = true → (∀ o ∈ s.mbox.outstanding, o.opcode ≠ 0x0605) →
       ∃ t, exec (.portConfigSet r) s = .next t ∧ t.live.w11 = new ∧ t.cfg.words.w11 = new ∧ t.eth.revert = some s.live.w11 ∧
         t.eth.portWrite = none ∧ t.eth.addressFlags = 0 ∧ t.flash.dirty = false ∧ Ended r Status.ok s t ∧
         (s.pres.cmd = none → ∃ c, selectedCopy t = some c ∧ c.content = t.cfg ∧ c.pending = false) ∧
         SameDataPlane s t ∧ { t.cfg with words := s.cfg.words } = s.cfg) ∧
     (configWriteAllowed s = false → exec (.portConfigSet r) s =
       .next { w with eth := { w.eth with portWrite := some new }, cove := { w.cove with deferred := true } })) ∧
  (∀ (s : State) (old : BitVec 512), s.awake = true → s.eth.revert = some old → s.eth.portWrite = none →
     (∀ o ∈ s.mbox.outstanding, o.opcode ≠ 0x0605) →
     (configWriteAllowed s = true → ∃ t, exec .portConfigRevert s = .next t ∧
       t.live.w11 = old ∧ t.cfg.words.w11 = old ∧ t.eth.revert = none ∧ t.eth.portWrite = none ∧ SameDataPlane s t) ∧
     (configWriteAllowed s = false → exec .portConfigRevert s =
       .next { s with eth := { s.eth with portWrite := some old }, cove := { s.cove with deferred := true } }))

/-- A presence-pending command that passes its checks is answered PENDING_PRESENCE and waits; the LEDs show the first
half of its code, byte 0 of the datagram's digest (R374, R395). -/
def Obligations.PresenceCommandsWait : Prop :=
  ∀ (key : Option Key), ∀ x ∈ presenceRows key, ∀ (r : Request) (s : State),
    Served (x.2.1.op x.2.2) r s →
    let cmd : PresenceCmd := ⟨r, x.2.1.code, x.2.2,
      BitVec.ofNat 8 (bits (requestDigest x.2.1.code r) 511 504), false, none⟩
    s.pres.cmd = none ∧
    CompletesWith (x.1 r) (x.2.1.op x.2.2) r s Status.pendingPresence (0, 0)
      { taken r s with pres := ⟨some cmd, .presenceCycle, BitVec.ofNat 4 (bits cmd.code 7 4)⟩ }

/-- Step 2 of R374: the keepers write the PENDING copy, with the configuration as committed in its undo section, to
the slot that does not hold the selected copy; the command goes on waiting for its press, which the standing-presence
strap supplies at once. A press of 100 ms to 5 s released within the window stands as the command's press, any other
changes nothing; once the copy is written the checks are made again: where they pass, the command's effect is committed,
where they fail, it ends without effect, and the module waits for presence no more (R374, R394). A closure of 5 s, and the end of
the window, end a waiting command without its effect: PRESENCE_TIMEOUT, or HOLDUP_DEFERRED where the write had not
completed or the press could not be committed (R374, R394). -/
def Obligations.PresenceCommandsEnd : Prop :=
  (∀ (s : State) (c : PresenceCmd) (p : PresenceOp), s.awake = true → s.pres.cmd = some c → presenceOp c.opcode = some p →
     c.written = false → c.press = none → s.ident.standingPresence = false → configWriteAllowed s = true →
     ∃ t copy, exec .presencePendingWriteDone s = .next t ∧
       t.pres = { s.pres with cmd := some { c with written := true } } ∧
       copy.pending = true ∧ copy.content = (p.commit c s).state.cfg ∧ copy.undo = some s.cfg ∧
       (if s.flash.selectedB then t.flash.copyA = some copy ∧ t.flash.copyB = s.flash.copyB ∧ t.flash.selectedB = false
         else t.flash.copyB = some copy ∧ t.flash.copyA = s.flash.copyA ∧ t.flash.selectedB = true) ∧
       t.cfg = s.cfg ∧ SameDataPlane s t ∧ t.mbox = s.mbox) ∧
  (∀ (s : State) (c : PresenceCmd) (p : PresenceOp), s.awake = true → s.pres.cmd = some c → presenceOp c.opcode = some p →
     c.written = false → configWriteAllowed s = true → s.ident.standingPresence = true →
     let v := writeConfig true 0 (p.commit c s).state.cfg (some s.cfg) s
     let s0 : State := { v with pres := { s.pres with cmd := none } }
     let c' : PresenceCmd := { c with written := true, press := some s.now }
     pressChecks p c' s0 = Status.ok →
       ∃ t, exec .presencePendingWriteDone s = .next t ∧ t.cfg = (p.commit c' s0).state.cfg ∧ t.pres.cmd = none ∧ t.pres.leds = 0xF) ∧
  (∀ (s : State) (c : PresenceCmd) (p : PresenceOp) (ms : Nat) (stamp : Stamp), s.awake = true → s.pres.cmd = some c →
     presenceOp c.opcode = some p → c.press = none → 100 ≤ ms → ms < 5000 →
     nanos stamp.time ≤ nanos c.request.stamp.time + 30 * 10 ^ 9 →
     (c.written = false → exec (.presencePress ms stamp) s =
       .next { s with pres := { s.pres with cmd := some { c with press := some stamp.time } } }) ∧
     (c.written = true → configWriteAllowed s = true →
       let s0 : State := { s with pres := { s.pres with cmd := none } }
       let c' : PresenceCmd := { c with press := some stamp.time }
       ∃ t, exec (.presencePress ms stamp) s = .next t ∧ t.pres.cmd = none ∧
         (pressChecks p c' s0 = Status.ok → t.cfg = (p.commit c' s0).state.cfg ∧ t.pres.leds = 0xF) ∧
         (pressChecks p c' s0 ≠ Status.ok → t.cfg = s.cfg ∧ t.pres.led = .redThrice))) ∧
  (∀ (s : State) (c : PresenceCmd) (ms : Nat) (stamp : Stamp), s.pres.cmd = some c →
     (ms < 100 ∨ 5000 ≤ ms ∨ c.press ≠ none ∨ nanos c.request.stamp.time + 30 * 10 ^ 9 < nanos stamp.time) →
     exec (.presencePress ms stamp) s = .next s) ∧
  (∀ (s : State) (c : PresenceCmd), s.awake = true → s.pres.cmd = some c →
     (∃ t, exec .presenceRefusal s = .next t ∧ t.pres.cmd = none ∧ t.pres.led = .redThrice ∧ t.cfg = s.cfg ∧ t.live = s.live ∧
       SameDataPlane s t ∧ t = abandonPresence Status.presenceTimeout s) ∧
     (∃ t, exec .presenceWindowExpiry s = .next t ∧ t.pres.cmd = none ∧ t.pres.led = .redThrice ∧ t.cfg = s.cfg ∧
       t.live = s.live ∧ SameDataPlane s t ∧
       t = abandonPresence (if c.written ∧ c.press = none then Status.presenceTimeout else Status.holdupDeferred) s))

/-! ## The stream port -/

/-- R354: what the module does with a PROMPT frame, and what a refusal sends. -/
def Obligations.PromptFramesAreTreated : Prop :=
  ∀ (f : Frame) (t : Stream) (s : State), FramePasses 1 f t s →
    let u := received s
    let e := historyLength t
    let first := f.firstPosition.toNat
    let n := f.entryCount.toNat
    let ready := t.state = .ready
    (∀ reason, nakTooSoon t f.stamp.time = true → moduleNak reason f t u = u) ∧
    (∀ reason, nakTooSoon t f.stamp.time = false → moduleNak reason f t u =
      countMailbox t.mailbox.toNat (fun m => { m with naksSent := satInc m.naksSent })
        (sendFrame f.src 3 0 reason t.mailbox 0 t.id e []
          (setStreamById t.id.toNat (fun x => if x.mailbox = t.mailbox then { x with nakAt := f.stamp.time } else x) u))) ∧
    (¬ready → exec (.prompt f) s = .next (moduleNak 1 f t u)) ∧
    (ready → first + n ≤ e → exec (.prompt f) s = .next u) ∧
    (ready → first < e → e < first + n → exec (.prompt f) s = .next (moduleNak 0 f t u)) ∧
    (ready → e < first → exec (.prompt f) s = .next (moduleNak 0 f t u)) ∧
    (ready → first = e → contextLimit u < e + n → exec (.prompt f) s = .next (moduleNak 2 f t u)) ∧
    (ready → first = e → e + n ≤ contextLimit u → (∃ x ∈ promptTokens f, vocabSize u ≤ x.toNat) →
      exec (.prompt f) s = .next (moduleNak 3 f t u)) ∧
    (ready → first = e → e + n ≤ contextLimit u → (∀ x ∈ promptTokens f, x.toNat < vocabSize u) →
      exec (.prompt f) s = .next (countMailbox t.mailbox.toNat (fun m => { m with framesInAccepted := satInc m.framesInAccepted })
        (setStreamById t.id.toNat (fun x =>
          if x.mailbox = t.mailbox then { x with pending := x.pending ++ promptTokens f } else x) u)))

/-- A host's NAK is counted; what was emitted of the range it names is sent again in frames of at most the capacity of
R356, and a range that is no longer kept, or a stream without a live record, is refused (R358). A step's tokens leave
in one frame and are kept for resends, 65,536 entries at most, and a frame with the last token of a generation waits for
its repeat; the oldest frame that waits is sent again with the repeat flag. Neither touches the data plane or the
configuration (R355, R357, R358). -/
def Obligations.TokensAreEmittedKeptAndResent : Prop :=
  (∀ (f : Frame) (t : Stream) (s : State), FramePasses 3 f t s →
     let u := countMailbox t.mailbox.toNat (fun m => { m with naksReceived := satInc m.naksReceived }) (received s)
     let p := f.firstPosition.toNat
     let stop := min (p + f.aux.toNat) (emittedEnd t u)
     (liveRecord t.mailbox.toNat t.id.toNat u = none → exec (.hostNak f) s = .next (moduleNak 5 f t u)) ∧
     (∀ n, liveRecord t.mailbox.toNat t.id.toNat u = some n → (∀ e es, t.kept = e :: es → p < e.position.toNat) → p < stop →
       exec (.hostNak f) s = .next (moduleNak 4 f t u)) ∧
     (∀ n, liveRecord t.mailbox.toNat t.id.toNat u = some n → (stop ≤ p ∨ ∃ e es, t.kept = e :: es ∧ e.position.toNat ≤ p) →
       exec (.hostNak f) s = .next ((frameRuns (frameCapacity t.out u)
         (t.kept.filter fun e => p ≤ e.position.toNat && decide (e.position.toNat < stop))).foldl
           (fun w run => sendTokens t 1 run w) u))) ∧
  ((∀ (n : Nat) (s : State) (es : List TokenEntry) (t : Stream), s.awake = true →
     s.str.emit.find? (fun p => p.1 = n) = some (n, es) → liveAt n s = some t →
     let first := (es.head?.map (·.position)).getD 0
     ∃ w, exec (.tokenEmission n) s = .next w ∧ w.str.emit = s.str.emit.erase (n, es) ∧
       (es ≠ [] → { w with str := s.str } =
         countFrames t.mailbox.toNat 1 (sendFrame t.out 2 0 0 t.mailbox first t.id 0 (es.map tokenEntry) s)) ∧
       w.str.repeats = s.str.repeats ++ (if es ≠ [] ∧ lastToken es = true then
         (streamFrame t.out 2 2 0 t.mailbox first t.id 0 (es.map tokenEntry) s).toList else []) ∧
       (liveAt n w).map (fun u => u.kept) = some (lastN 65536 (t.kept ++ es)) ∧
       (∀ m, m ≠ n → liveAt m w = liveAt m s) ∧ SameConfig s w ∧ SameDataPlane s w) ∧
   (∀ (s : State) (x : Sent) (rest : List Sent), s.awake = true → s.str.repeats = x :: rest →
     let u : State := { s with str := { s.str with repeats := rest } }
     ∃ w, exec .stateFrameRepeat s = .next w ∧ w.str = u.str ∧ SameConfig s w ∧ SameDataPlane s w ∧
       ∀ dest kind flags reason mb first id aux entries tag, x = .frame dest kind flags reason mb first id aux entries tag →
         ∀ y, streamFrame dest kind.toNat (setBits flags 1 1 1).toNat reason.toNat mb first id aux.toNat entries s = some y →
           w = countFrames mb.toNat 1 (send y u)))

/-! ## The port -/

/-- The link comes up with PFC state cleared, the neighbour cache restarted and the addresses probed, unless the cage
is empty, holds a type that the port does not support or one that draws more than 20 W; going down discards what is
queued and is counted (R319 to R322). A frame with a bad FCS or of more than 9,216 B is dropped and counted as an error;
one with two tags or a VID that the port does not accept, for another unicast address or a group that it has not
joined, a PAUSE frame, a TCP segment, and an IP fragment or one with options is dropped and counted as filtered (R323,
R324). An alarm of the pluggable is kept and notified (R320). R327: a PFC frame pauses the enabled priorities that it marks for the
quanta it states; a pause that has run out is over and what waited is sent; the port asks for a pause above 6 MiB and
releases it below 4 MiB. -/
def Obligations.PortLinkAndPausesFollow : Prop :=
  ((∀ (pmd : BitVec 8) (w : Nat) (trained : Bool) (s : State), s.awake = true → s.eth.link ≠ 2 → pmd.toNat ≤ 5 →
     let c : Instr := .portLinkUp pmd w trained
     (pmd = 0 → exec c s = .next { s with eth := { s.eth with pmd := pmd, link := 0, lowPower := false } }) ∧
     (pmd ≠ 0 → (pmd = 5 ∨ 20 < w) →
       exec c s = .next { s with eth := { s.eth with pmd := pmd, link := 0, lowPower := true } }) ∧
     (pmd ≠ 0 → pmd ≠ 5 → w ≤ 20 → trained = false →
       exec c s = .next { s with eth := { s.eth with pmd := pmd, link := 1, lowPower := false } }) ∧
     (pmd ≠ 0 → pmd ≠ 5 → w ≤ 20 → trained = true → ∃ t, exec c s = .next t ∧ t.eth.link = 2 ∧ t.eth.pmd = pmd ∧
       t.eth.paused = [] ∧ t.eth.pauseSent = [] ∧ t.eth.cache = [] ∧ t.eth.addressFlags = 0 ∧
       .neighbourProbe 6 (linkLocalAddress s.ident.macAddress) ∈ t.outbox ∧ SameConfig s t ∧
       SameDataPlane s t ∧ t.str = s.str ∧ ∀ n ∈ t.mbox.notices, n.sent = true)) ∧
   (∀ s : State, s.eth.link = 2 → exec .portLinkDown s =
     .next { s with eth := { s.eth with link := 0, linkDowns := satInc s.eth.linkDowns, held := [], paused := [] } })) ∧
  ((∀ (f : PortFrame) (s : State), s.awake = true → s.eth.link = 2 →
     let c : Instr := .frameFilterDrop f
     let n : BitVec 64 := if f.fcsGood = true then s.eth.rx + 1 else s.eth.rx
     (f.fcsGood = false ∨ 9216 < f.bytes →
       exec c s = .next { s with eth := { s.eth with rx := n, droppedError := satInc s.eth.droppedError } }) ∧
     (f.fcsGood = true → f.bytes ≤ 9216 →
       (2 ≤ f.tags.length ∨ (f.tags = [] ∧ bits s.live.w11 177 166 ≠ 0) ∨ (∃ t, f.tags = [t] ∧ t.toNat ≠ bits s.live.w11 177 166) ∨
         (∃ m, f.dest = .unicast m ∧ m ≠ s.ident.macAddress) ∨ f.dest = .otherGroup ∨ f.body = .pause ∨
         (∃ a b x, f.body = .ip a b x ∧ (x = .tcp ∨ ((a = true ∨ b = true) ∧ icrcFails f.body = false)))) →
       exec c s = .next { s with eth := { s.eth with rx := n, droppedFilter := satInc s.eth.droppedFilter } }) ∧
     (frameDropped f s = none → exec c s = .next s)) ∧
   (∀ (a : BitVec 256) (c d : Nat) (s : State), s.awake = true → s.eth.pmd ≠ 0 →
     let u : State := { s with eth := { s.eth with alarm := a, fecCorrected := satAdd s.eth.fecCorrected c
                                                   fecUncorrected := satAdd s.eth.fecUncorrected d } }
     exec (.pluggableMonitor a c d) s = .next (if a = 0 then u else raiseNotice 0x0202 none 9 0 0 a.toNat u))) ∧
  ((∀ (classes : BitVec 8) (quanta : List (BitVec 16)) (s : State), s.awake = true → s.eth.link = 2 →
     ∃ t, exec (.pfcFrameReceive classes quanta) s = .next t ∧ t.eth.pfcRx = satInc s.eth.pfcRx ∧
       (∀ p q, p < 8 → ((p, q) ∈ t.eth.paused ↔
         if bit classes p = true ∧ bit s.live.w11 (96 + p) = true then q = nth quanta p 0 ∧ q ≠ 0 else (p, q) ∈ s.eth.paused))) ∧
   (∀ (p : Nat) (s : State),
     let v : State := { s with eth := { s.eth with paused := s.eth.paused.filter fun x => x.1 ≠ p } }
     ∃ t, exec (.pfcPauseExpiry p) s = .next t ∧ t.eth.paused = v.eth.paused ∧
       t.eth.held = s.eth.held.filter (fun x => pausedPriority (priorityOf x v) v) ∧
       (s.eth.link = 2 → ∀ x ∈ s.eth.held, pausedPriority (priorityOf x v) v = false →
         (∀ a, destinationOf x = some a → routable a s = true) → x ∈ t.outbox)) ∧
   (∀ (p level : Nat) (s : State), s.awake = true → s.eth.link = 2 → p < 8 →
     let e : Eth := { s.eth with levels := s.eth.levels.set p (min level 8388608) }
     let c : Instr := .pfcBufferThreshold p level
     (6291456 < level → bit s.live.w11 (96 + p) = true → p ∉ s.eth.pauseSent → exec c s =
       .next (send (.pfc p true) { s with eth := { e with pauseSent := e.pauseSent ++ [p], pfcTx := satInc e.pfcTx } })) ∧
     (level < 4194304 → p ∈ s.eth.pauseSent → exec c s =
       .next (send (.pfc p false) { s with eth := { e with pauseSent := e.pauseSent.filter (· ≠ p), pfcTx := satInc e.pfcTx } })) ∧
     ((level ≤ 6291456 ∨ bit s.live.w11 (96 + p) = false ∨ p ∈ s.eth.pauseSent) → (4194304 ≤ level ∨ p ∉ s.eth.pauseSent) →
       exec c s = .next { s with eth := e })))

/-- Requests for an address that the module uses are answered within their rate, and others are not; a neighbour that
answers is cached, and one that uses an address of the module's marks the conflict (R325, R328). No kind of reply
leaves more than 100 times in a second of the clock (R325). -/
def Obligations.NeighboursAndEchoAreAnswered : Prop :=
  (∀ (family : Nat) (a : BitVec 128) (from_ : Endpoint) (bytes : Nat) (mac : BitVec 48) (s : State),
     s.awake = true → s.eth.link = 2 →
     let u := received s
     (usedAddress family a u = true →
       exec (.arpNdRequest family a from_) s = .next (rateReply (if family = 4 then 0 else 1) (.neighbourReply family from_) u) ∧
       (bytes ≤ 1500 → exec (.echoRequest family a from_ bytes) s = .next (rateReply (if family = 4 then 2 else 3) (.echoReply from_ bytes) u)) ∧
       (1500 < bytes → exec (.echoRequest family a from_ bytes) s = .next u)) ∧
     (usedAddress family a u = false →
       exec (.arpNdRequest family a from_) s = .next u ∧ exec (.echoRequest family a from_ bytes) s = .next u) ∧
     (∀ k, ownAddress family a u = some k →
       (mac ≠ s.ident.macAddress → exec (.arpNdReply family a mac) s =
         .next { u with eth := { u.eth with addressFlags := setBits u.eth.addressFlags k k 1 } }) ∧
       (mac = s.ident.macAddress → exec (.arpNdReply family a mac) s = .next u)) ∧
     (ownAddress family a u = none → ∃ t, exec (.arpNdReply family a mac) s = .next t ∧
       (family, a, mac) ∈ t.eth.cache ∧ { t with eth := { t.eth with cache := s.eth.cache } } = u)) ∧
  (∀ (kind : Nat) (x : Sent) (s : State), kind < s.eth.replies.length →
     let t := rateReply kind x s
     let n := if (nth s.eth.replies kind (0, 0)).1 = seconds s.now then (nth s.eth.replies kind (0, 0)).2 else 0
     (100 ≤ n → t = s) ∧
     (n < 100 → t = send x { s with eth := { s.eth with replies := s.eth.replies.set kind (seconds s.now, n + 1) } }) ∧
     ((∀ y ∈ s.eth.replies, y.2 ≤ 100) → ∀ y ∈ t.eth.replies, y.2 ≤ 100))

/-- The PTP clock (R334, R335): a Sync of the selected master steps an Unlocked clock once, 16 Syncs in a row within
100 ns lock it, and in Holdover an offset below 1 ms locks it again; a lost master leaves it in Holdover; delay
requests and responses pair, and a better master is taken. A Sync of another master, and an Announce of a worse one, are
only counted. From Holdover any master may take over (the model's choice: log 26). -/
def Obligations.PtpClockFollowsItsMaster : Prop :=
  (∀ (m : BitVec 64) (off : Int) (time : PtpTime) (ppb : Int) (s : State), s.awake = true → s.eth.link = 2 →
    s.eth.ptp.master = some m →
    ∃ t, exec (.ptpSyncReceive m off time ppb) s = .next t ∧ t.eth.ptp.now = time ∧ t.eth.ptp.offsetNs = off ∧
      t.eth.ptp.ppb = ppb ∧ t.eth.ptp.master = some m ∧ { t with eth := { t.eth with ptp := s.eth.ptp } } = received s ∧
      (s.eth.ptp.state = .unlocked → t.eth.ptp.state = .locking ∧ t.eth.ptp.steps = s.eth.ptp.steps + 1) ∧
      (s.eth.ptp.state = .locking → off.natAbs < 100 → 15 ≤ s.eth.ptp.goodSyncs → t.eth.ptp.state = .locked ∧ t.eth.ptp.valid = true) ∧
      (s.eth.ptp.state = .locking → off.natAbs < 100 → s.eth.ptp.goodSyncs < 15 →
        t.eth.ptp.state = .locking ∧ t.eth.ptp.goodSyncs = s.eth.ptp.goodSyncs + 1) ∧
      (s.eth.ptp.state = .locking → 100 ≤ off.natAbs → t.eth.ptp.state = .locking ∧ t.eth.ptp.goodSyncs = 0) ∧
      (s.eth.ptp.state = .locked → t.eth.ptp.state = .locked ∧ t.eth.ptp.steps = s.eth.ptp.steps) ∧
      (s.eth.ptp.state = .holdover → off.natAbs < 1000000 → t.eth.ptp.state = .locked ∧ t.eth.ptp.steps = s.eth.ptp.steps) ∧
      (s.eth.ptp.state = .holdover → 1000000 ≤ off.natAbs → t.eth.ptp.state = .locking ∧ t.eth.ptp.steps = s.eth.ptp.steps + 1)) ∧
  (∀ (m : BitVec 64) (off : Int) (time : PtpTime) (ppb : Int) (s : State), s.awake = true → s.eth.link = 2 →
    s.eth.ptp.master ≠ some m → exec (.ptpSyncReceive m off time ppb) s = .next (received s)) ∧
  (∀ (m : BitVec 64) (d : Int) (s : State), s.awake = true → s.eth.link = 2 → s.eth.ptp.master = some m →
    exec .ptpDelayReq s = .next (send .delayReq { s with eth := { s.eth with ptp := { s.eth.ptp with delayAsked := true } } }) ∧
    (s.eth.ptp.delayAsked = true → exec (.ptpDelayRespReceive m d) s =
      .next { (received s) with eth := { (received s).eth with ptp := { s.eth.ptp with delayNs := d, delayAsked := false } } })) ∧
  (∀ s : State, (s.eth.ptp.state = .locking ∨ s.eth.ptp.state = .locked) →
    exec .ptpHoldover s = .next { s with eth := { s.eth with ptp := { s.eth.ptp with state := .holdover, masterRank := worstRank } } }) ∧
  (∀ (m : BitVec 64) (p1 c a v p2 n : Nat) (s : State), s.awake = true → s.eth.link = 2 →
    let rank := (p1, c, a, v, p2, m.toNat, n)
    let better := s.eth.ptp.masterRank = worstRank ∨ lexLess (rankList rank) (rankList s.eth.ptp.masterRank) = true
    (s.eth.ptp.master = some m ∨ s.eth.ptp.master = none ∨ better →
      ∃ t, exec (.ptpAnnounceReceive m p1 c a v p2 n) s = .next t ∧ t.eth.ptp.master = some m ∧ t.eth.ptp.masterRank = rank ∧
        { t with eth := { t.eth with ptp := s.eth.ptp } } = received s) ∧
    (s.eth.ptp.master ≠ some m → s.eth.ptp.master ≠ none → ¬better →
      exec (.ptpAnnounceReceive m p1 c a v p2 n) s = .next (received s)))

/-! ## Loading -/

/-- Step 6 begins once every stream is parked: the old image and the prefixes in the shelf are gone and the data plane is
Loading; the load goes on under the mapping formed now, or is rejected where there is none, the shelf has no room, or the
image has been quarantined (R202, R203, R216, R220). A range that lands whole and unspoiled is written to its
place in its stack, word by word, and counted as landed; a range that fails its digest or holds a forbidden code
rejects the load (R198, R199, R205). With every range landed the load ends: the image is in place under the load's
mapping, and the data plane is about to enter Running; an image quarantined meanwhile is rejected (R202, R203, R216). -/
def Obligations.PayloadLandsAndTheLoadCompletes : Prop :=
  (∀ (s : State) (l : Load), payloadReady s = true → s.img.load = some l → quarantined l.digest s = false →
     let drop := dropShelfPrefixes (dropImage s)
     let put (y : Load) (x : State) : State := { x with img := { x.img with load := some y } }
     let w := put { l with payload := true, reserve := none }
       (writeThrough l { put { l with payload := true } drop with tide := { drop.tide with dp := .loading } })
     exec .loadPayloadStart s = .next (startWrites (mapPayload (fun _ _ landed => landed) w)) ∧
     w.tide.dp = .loading ∧ w.img.image = none ∧ w.combs = s.combs.map Comb.clearPhase ∧ w.shelf = s.shelf ∧ w.cfg = s.cfg ∧
     (∀ p ∈ w.str.prefixes, p.place = 1) ∧
     (∀ fs, placeImage l.image w = .inr fs → exec .loadPayloadStart s = .next (startWrites (rejectLoad fs w))) ∧
     (∀ p, placeImage l.image w = .inl p →
       let fs := shelfFit l.image p.1 (bits s.cfg.words.w2 63 47) w
       (fs ≠ [] → exec .loadPayloadStart s = .next (startWrites (rejectLoad fs w))) ∧
       (fs = [] → ∃ t, exec .loadPayloadStart s = .next t ∧ t.tide.dp = .loading ∧ t.img.image = none ∧ t.shelf = s.shelf ∧
         t.img.load = some { l with payload := true, reserve := none, place := p.1, parents := p.2 }))) ∧
  (∀ (s : State) (l : Load), payloadReady s = true → s.img.load = some l → quarantined l.digest s = true →
     exec .loadPayloadStart s = .next (rejectLoad [quarantineFailure] s)) ∧
  (∀ (n : Nat) (data : Bytes) (s : State) (l : Load), s.awake = true → s.img.load = some l →
     l.payload = true → n < l.image.shards.length → n ∉ l.landed →
     let e := nth l.image.shards n 0
     data.length = Shard.length e →
     let c : Instr := .shardRangeLanded n data
     let slice : Bool := Shard.kind e = 1 || Shard.kind e = 2
     let j := dieOf (nth l.place (Shard.vcomb e) 0)
     let stack : Memory := match shardUnit l.image l.place n with
       | some u => if j < s.shelf.stk.length then writeUnits (s.stack j).mem u (wordsOf data) else (s.stack j).mem
       | none => (s.stack j).mem
     let landed := landedOf l (Shard.vcomb e)
     let fs := rangeFailures l.image n data landed (scratchpadOf l.image l.place (if slice then [] else n :: landed) stack)
     (fs ≠ [] → exec c s = .next (rejectLoad fs s)) ∧
     (fs = [] → ∃ t, exec c s = .next t ∧
       t.img.load = some { l with landed := l.landed ++ [n], ranges := assign l.ranges n data } ∧
       t.combs = s.combs ∧ t.tide = s.tide ∧ SameConfig s t ∧
       match shardUnit l.image l.place n with
       | none => t.shelf = s.shelf
       | some u => ∀ k, (t.stack k).mem =
           if k = dieOf (nth l.place (Shard.vcomb e) 0) ∧ k < s.shelf.stk.length then writeUnits (s.stack k).mem u (wordsOf data)
           else (s.stack k).mem)) ∧
  (∀ (s : State) (l : Load), s.awake = true → s.img.load = some l → l.payload = true →
     (∀ n < l.image.shards.length, n ∈ l.landed) → quarantined l.digest s = false → s.img.unloading = false → s.mbox.shutdown = .no →
     ∃ t, exec .loadComplete s = .next t ∧ t.img.image = some l.image ∧ t.img.digest = l.digest ∧ t.img.place = l.place ∧
       t.img.parents = l.parents ∧ t.img.load = none ∧ t.img.kvStacks = kvStackSet l.place ∧ t.tide.startPending = true ∧
       t.tide.number = 0 ∧ t.tide.runCycles = 0 ∧ t.tide.dp = s.tide.dp ∧ t.tide.contractHolds = contractTable l.image s.ident.stepping ∧ t.cfg = s.cfg ∧ t.live = s.live) ∧
  (∀ (s : State) (l : Load), s.awake = true → s.img.load = some l → l.payload = true →
     (∀ n < l.image.shards.length, n ∈ l.landed) → quarantined l.digest s = true →
     exec .loadComplete s = .next (rejectLoad [quarantineFailure] s))

/-- An enabled queue pair while a pull runs: a read that ends makes room and more are asked for within the window; a read
that times out is asked for again, up to seven times; then the queue pair is reset and its read goes to the next enabled
one, three times at most, and after that the pull fails. A congestion notification halves the window, and a millisecond
without one adds a read back. A packet for a queue pair that is not enabled is dropped (R246, R331 to R333). -/
def Obligations.ReadsAreRequestedAndRetried : Prop :=
  ∀ (n : Nat) (s : State), s.awake = true →
    let q := nth s.cove.qps n QueuePair.reset
    (qpEnabled n s = false → ∀ reads ce,
      exec (.rdmaReadResponse n reads ce) s = .next (dropRoce s) ∧ exec (.cnpReceive n) s = .next (dropRoce s)) ∧
    (qpEnabled n s = true →
      exec (.cnpReceive n) s = .next (setQp n (fun q => { q with window := max 1 (q.window / 2) })
        { s with eth := { s.eth with cnpRx := satInc s.eth.cnpRx } }) ∧
      exec (.cnpRecoveryTick n) s = .next (setQp n (fun q => { q with window := min (bits q.record 215 211) (q.window + 1) }) s) ∧
      (pullRuns s = true →
        (∀ reads ce,
          let u := setQp n (fun q => { q with outstanding := q.outstanding - 1, retries := 0 }) s
          exec (.rdmaReadResponse n reads ce) s =
            .next ((List.range reads).foldl (fun w _ => issueRead n w) (if ce then answerCe n u else u))) ∧
        (∀ psn, q.retries < 7 → exec (.rdmaTimeout n psn) s =
          .next (send (.rdmaRead n psn) (setQp n (fun q => { q with retries := q.retries + 1 }) s))) ∧
        (∀ psn, 7 ≤ q.retries → (∀ m < 64, m ≠ n → qpEnabled m s = false) → exec (.rdmaTimeout n psn) s =
          .next (failPull (setQp n (fun q => { q with retries := 0, outstanding := 0, error := true
                                                      psn := BitVec.ofNat 24 (bits q.record 359 336) }) s))) ∧
        (∀ psn m, 7 ≤ q.retries → (((List.range 64).map fun k => (n + 1 + k) % 64).find? fun m => m ≠ n && qpEnabled m s) = some m →
          let u := setQp n (fun q => { q with retries := 0, outstanding := 0, error := true
                                              psn := BitVec.ofNat 24 (bits q.record 359 336) }) s
          (3 ≤ s.cove.pullRetries → exec (.rdmaTimeout n psn) s = .next (failPull u)) ∧
          (s.cove.pullRetries < 3 → exec (.rdmaTimeout n psn) s =
            .next (send (.rdmaRead m (nth s.cove.qps m QueuePair.reset).psn)
              (setQp m (fun q => { q with outstanding := q.outstanding + 1, psn := q.psn + 256, error := false })
                { u with cove := { u.cove with pullRetries := s.cove.pullRetries + 1 } }))))) ∧
      (pullRuns s = false → ∀ reads ce psn, exec (.rdmaReadResponse n reads ce) s = .next s ∧ exec (.rdmaTimeout n psn) s = .next s))

/-! ## The cove -/

/-- An extent that becomes durable is recorded and counted on its stack; what can commit or start then does. During
hold-up nothing starts (R240, R243). The commit of a staging: with every extent durable and every digest right the
object is committed under its TTL in place of any other of its digest, and the staging is over; with a wrong digest it
is freed (R237, R247). Deferred writes are tried again once 1 ms has passed; command-class changes become durable
under the hold-up check, in a COMMITTED copy while no presence command waits (R242, R367, R384). -/
def Obligations.CoveWritesCommit : Prop :=
  (∀ (id : BitVec 128) (k : Nat) (s : State) (o : CoveObject) (w : ExtentWrite), findObject id.toNat s = some o →
     o.writes.find? (fun y => y.index = k) = some w → w.started = true → w.durable = false →
     let u := journal (countCove w.stack (fun r =>
         { r with extentsCommitted := satInc r.extentsCommitted, writeEpoch := satAdd r.writeEpoch (mibOf (extentLength o k)) })
       (setObject o.id.toNat (fun x => { x with writes := x.writes.map fun y => if y.index = k then { y with durable := true } else y }) s))
     (s.awake = true → exec (.extentDurable id k) s = .next (advanceService (startWrites (commitReady (freeCancelled u))))) ∧
     (s.pow.stage = .holdup → exec (.extentDurable id k) s = .next u)) ∧
  (∀ (ok : Bool) (s : State) (g : Staging) (o : CoveObject), s.awake = true → s.img.staging = some g → g.paused = false →
     s.cove.objects.find? (fun x => !x.committed && x.kind = 1 && x.digest = g.digest) = some o → allDurable o = true →
     holdupAllows (inFlightNs s) s = true →
     let u : State := { s with img := { s.img with staging := none } }
     (ok = true → g.image.computedDigest = g.digest → exec (.stageCommit ok) s =
       .next (resumeLoad o.id.toNat (complete [0x0303] 0 false Status.ok .image (0, 0) (bytesBE 64 g.digest.toNat)
         (replaceImageObjects o.id.toNat g.digest (commitObject o.id.toNat g.ttl.toNat u))))) ∧
     (ok = true → g.image.computedDigest ≠ g.digest → exec (.stageCommit ok) s =
       .next (orphanLoad (rejectStage g.digest 0x0104 (freeObject o.id.toNat u)))) ∧
     (ok = false → exec (.stageCommit ok) s =
       .next (orphanLoad (rejectStage g.digest 0x0109 (freeObject o.id.toNat u))))) ∧
  ((∀ s : State, s.awake = true → exec .holdupRetry s =
     .next (advanceService (applyPort (commitPress (startWrites (commitReady { s with cove := { s.cove with deferred := false } })))))) ∧
   (∀ s : State, s.awake = true → s.flash.dirty = true → configWriteAllowed s = true → s.pres.cmd = none →
     s.img.load = none → s.img.unloading = false → s.mbox.shutdown = .no →
     ∃ t copy, exec .configDurabilityWrite s = .next t ∧ t.flash.dirty = false ∧ selectedCopy t = some copy ∧
       copy.pending = false ∧ copy.content = s.cfg ∧ t = { s with flash := t.flash } ∧
       t.flash.selectedB = !s.flash.selectedB))

/-- Cove reads: a chunk that reads well clears its count of re-reads and restores what it backs in the shelf, where no unit
that reads is changed; the first two failures are counted and read again; the third damages an object, unless network
storage serves it, which then rewrites the extent. Scrub counts what it reads and what fails;
compaction copies the standing records forward; the expiry check dates, bounds and ends objects (R226, R239, R241, R244,
R304). A park whose extents are durable commits its object's record, unless the hold-up check defers it, and the stream
leaves its live record for PARKED; with a close committed meanwhile it closes (R240, R242, R252). A resumption that has
landed takes pages for its records and its token history, and the step boundary finds the stream in the state it goes on from. A prefix whose
copy is done is no longer in copying and its publications end, one that is read back is in the shelf and maps the streams
that waited for it. Where no pages are free, unreferenced prefixes move out, and the event waits for the pages. A closed
stream's record goes (R252, R255, R276 to R278). -/
def Obligations.CoveReadsParksAndPrefixes : Prop :=
  ((∀ (id : BitVec 128) (e k : Nat) (net : Bool) (s : State) (o : CoveObject), s.awake = true → s.cove.mounted = true →
     findObject id.toNat s = some o → o.committed = true → o.keyAlive = true → e < o.extents → k < 64 →
     k * 4194304 < extentLength o e →
     let j := (o.startStack + e) % 8
     let r := countCove j (fun r => { r with readEpoch := satAdd r.readEpoch 4 }) s
     let bad (x : ChunkRead) : State := countCove j (failedRead x) r
     (∃ t, exec (.coveChunkRead id e k .good net) s = .next t ∧
       t.cove = { r.cove with rereads := s.cove.rereads.filter (· ≠ (id, e, k)) } ∧ t.cfg = s.cfg ∧ t.combs = s.combs ∧
       ((o.kind ≠ 1 ∨ o.digest ≠ s.img.digest) → t.shelf = s.shelf) ∧
       ∀ n u, ((readUnit (s.stack n).mem u).any (·.poison)) = false → readUnit (t.stack n).mem u = readUnit (s.stack n).mem u) ∧
     (∀ x, x ≠ .good → s.cove.rereads.count (id, e, k) < 2 → exec (.coveChunkRead id e k x net) s =
       .next { bad x with cove := { (bad x).cove with rereads := s.cove.rereads ++ [(id, e, k)] } }) ∧
     (∀ x, x ≠ .good → 2 ≤ s.cove.rereads.count (id, e, k) →
       let v := settleReads (id, e, k) (bad x)
       ((o.kind ≠ 1 ∨ net = false ∨ sourceEnabled s = false) → exec (.coveChunkRead id e k x net) s =
         .next (advanceService (damageObject o v))) ∧
       (o.kind = 1 → net = true → sourceEnabled s = true → exec (.coveChunkRead id e k x net) s =
         .next (refetchChunk o e k (journal (countCove j (fun r => { r with extentsCommitted := satInc r.extentsCommitted }) v)))))) ∧
   (∀ (id : BitVec 128) (e : Nat) (ok : Bool) (s : State) (o : CoveObject), s.awake = true → s.cove.mounted = true →
     findObject id.toNat s = some o → o.committed = true → e < o.extents →
     exec (.coveScrub id e ok) s = .next (countCove ((o.startStack + e) % 8) (fun r =>
       { r with readEpoch := satAdd r.readEpoch (mibOf (extentLength o e))
                digestFailures := if ok then r.digestFailures else satInc r.digestFailures }) s)) ∧
   (∀ (j : Nat) (s : State), s.awake = true → s.cove.mounted = true → j < 8 → holdupAllows (inFlightNs s) s = true →
     exec (.journalCompaction j) s =
       .next { s with cove := { s.cove with journalSerial := s.cove.journalSerial + BitVec.ofNat 64 (standingRecords j s) } }) ∧
   (∀ (now : PtpTime) (s : State), s.awake = true → s.cove.mounted = true → s.eth.ptp.valid = true →
     ∃ t, exec (.coveExpiryCheck now) s = .next t ∧
       t = eachObject (expireObject (seconds now)) (eachObject clampObject (eachObject (dateObject (seconds now)) s)) ∧
       t.cfg = s.cfg ∧ t.live = s.live ∧ SameDataPlane s t)) ∧
  ((∀ (n : Nat) (s : State) (t : Stream) (id : BitVec 128) (o : CoveObject), s.awake = true → liveAt n s = some t →
     t.state = .parking → t.event.cancelPark = false → t.parkObject = some id → findObject id.toNat s = some o →
     allDurable o = true → o.committed = false → o.cancelled = false →
     let u := commitObject o.id.toNat t.live.parkTtl.toNat s
     let d := countCove o.startStack (fun r => { r with deferrals := satInc r.deferrals }) s
     (holdupAllows (inFlightNs s) s = false → exec (.parkCommit n) s = .next { d with cove := { d.cove with deferred := true } }) ∧
     (holdupAllows (inFlightNs s) s = true → exec (.parkCommit n) s = .next (advanceService (startWrites (sweepPrefixes (match t.event.close with
       | some r => closeParked t r t.event.own u
       | none => enterParked n t u))))) ∧
     (∀ y, liveAt n (enterParked n t u) ≠ some y) ∧
     ∃ y ∈ (enterParked n t u).str.parked, y.id = t.id ∧ y.mailbox = t.mailbox ∧ y.state = .parked ∧ history y = history t) ∧
   (∀ (n : Nat) (s : State) (t : Stream) (i : Image), s.awake = true → liveAt n s = some t → s.img.image = some i →
     t.state = .resuming →
     (∀ v, resumePages i (historyLength t) s = (none, v) → exec (.resumeLanded n) s = .next v) ∧
     (∀ ps v, resumePages i (historyLength t) s = (some ps, v) →
       let w := storeHistory { t with pages := ps } 0 (restoreRecords i ps t.copies (extendMap (setLive n (fun u =>
         { u with pages := ps, copies := [], event := { u.event with resumeDone := true } }) v)))
       exec (.resumeLanded n) s = .next w ∧ w.combs = s.combs ∧ w.tide = s.tide ∧ SameConfig s w ∧
         ∃ y, liveAt n (endResume n w) = some y ∧ y.state = t.resumeTo.getD .ready ∧ y.pages = ps ∧ history y = history t))) ∧
  ((∀ (n : Nat) (s : State) (p : Prefix) (i : Image), s.awake = true → s.str.prefixes.find? (fun p => p.index = n) = some p →
     s.img.image = some i → p.copying = true → s.img.load = none → s.img.unloading = false → s.mbox.shutdown = .no →
     (∀ v, prefixPages i p s = (none, v) → exec (.prefixCopyDone n) s = .next v) ∧
     (∀ ps v, prefixPages i p s = (some ps, v) →
       let u := copyPrefix i p ps (givePages n ps v)
       ∃ t, exec (.prefixCopyDone n) s = .next t ∧ t.str = (setPrefix n (fun p => { p with copying := false }) u).str ∧
         (∀ o ∈ t.mbox.outstanding, ¬(o.opcode = 0x0501 ∧ o.subject.toNat = n)) ∧ t.shelf = u.shelf ∧
         SameConfig s t ∧ t.tide = s.tide ∧ t.img = s.img ∧ t.combs = s.combs ∧ t.fabric = s.fabric)) ∧
   (∀ (n : Nat) (s : State) (p : Prefix) (i : Image), s.awake = true → s.str.prefixes.find? (fun p => p.index = n) = some p →
     s.img.image = some i → p.place = 1 →
     (∀ v, prefixPages i { p with pages := [] } s = (none, v) → exec (.prefixReadbackComplete n) s = .next v) ∧
     (∀ ps v, prefixPages i { p with pages := [] } s = (some ps, v) →
       let u := restoreRecords i ps p.copies (givePages n ps v)
       ∃ t, exec (.prefixReadbackComplete n) s = .next t ∧
         t.str.prefixes = (setPrefix n (fun p => { p with place := 0 }) u).str.prefixes ∧ t.shelf = u.shelf ∧
         (∀ m y, (m, y) ∈ s.str.live → y.waitPrefix = true → y.prefixIndex = some n → (m, mapPrefix p y) ∈ t.str.live) ∧
         SameConfig s t ∧ t.tide = s.tide ∧ t.img = s.img ∧ t.combs = s.combs ∧ t.fabric = s.fabric)) ∧
   (∀ (mb : BitVec 16) (id : BitVec 64) (s : State), exec (.closedRecordExpiry mb id) s =
     .next { s with str := { s.str with closed := s.str.closed.filter fun t => t.mailbox ≠ mb || t.id ≠ id } }))

/-! ## Power and cooling -/

/-- R411: the effective cap is the least of the four figures, in 0.01 W. -/
def Obligations.EffectiveCapIsTheLeast : Prop :=
  ∀ s : State,
    let n := s.pow.converters.countP (· = true)
    let figures := [bits s.live.w14 31 24 * 10000, 2000000, 200000 * (n - 1), 420 * s.pow.vinCv.toNat]
    effectiveCap s ∈ figures ∧ ∀ x ∈ figures, effectiveCap s ≤ x

/-- A window of power control (R412): k_p goes up by one while P4 exceeds 98 % of the cap, at most every fourth
window, and down by one after 16 windows in a row below 90 %. A telemetry window (R409, R417, R418): domains and
sensors take their samples and the clock its end; the thermal controller and the thermal stop act while the data plane
runs. -/
def Obligations.WindowsDriveTheControllers : Prop :=
  (∀ (w : WindowData) (s : State),
     let t := powerControl w s
     let k := s.pow.kP
     let cap := effectiveCap t
     let p4 := 25000 * t.pow.powers.sum
     let n := s.pow.window + 1
     t.pow.vinCv = w.vinCv ∧ t.pow.window = n ∧ t.pow.powers = lastN 4 (s.pow.powers ++ [w.pinW10.toNat]) ∧
     (98 * cap < p4 → k < 15 → 4 ≤ (n : Int) - s.pow.lastUp → t.pow.kP = k + 1 ∧ t.pow.lastUp = n ∧ t.pow.below = 0) ∧
     (¬(98 * cap < p4 ∧ k < 15 ∧ 4 ≤ (n : Int) - s.pow.lastUp) → t.pow.lastUp = s.pow.lastUp ∧
       (p4 < 90 * cap → 16 ≤ s.pow.below + 1 → 0 < k → t.pow.kP = k - 1 ∧ t.pow.below = 0) ∧
       (p4 < 90 * cap → (s.pow.below + 1 < 16 ∨ k = 0) → t.pow.kP = k ∧ t.pow.below = s.pow.below + 1) ∧
       (90 * cap ≤ p4 → t.pow.kP = k ∧ t.pow.below = 0))) ∧
  (∀ (w : WindowData) (s : State), s.awake = true → w.domains.length = s.pow.domains.length →
     w.sensors.length = s.cool.sensors.length →
     let v := addEpoch (inputWarnings (powerControl w (markHot (checkPairs (capCombs w (judgeSensors w (stepSpots w (takeSamples w s))))))))
     exec (.telemetryWindowEnd w) s = .next (if s.tide.dp = .running then checkStop (thermalControl w v) else v) ∧
     SameConfig s v ∧ v.tide = s.tide ∧ v.img = s.img ∧ v.combs = s.combs ∧ v.str = s.str ∧ v.eth.ptp.now = w.endTime ∧
     v.cool.kT = s.cool.kT ∧ v.cool.f = s.cool.f ∧
     v.pow.domains = (s.pow.domains.zip w.domains).map (fun p => sampleDomain w.endTime p.2 p.1) ∧
     ∀ i raw y, s.cool.sensors[i]?.isSome → w.sensors[i]? = some raw → goodSample (s.sensor i) raw = some y →
       (v.sensor i).reading = BitVec.ofInt 16 y)

/-- A thermal stop of the data plane, the sensors' check while it rests, and its resumption (R424, R426). Report
periods end, warnings clear once their condition is absent, bus converters found faulty are switched off, and a stage
that latches off is recorded and its unit retired, or stops the module (R402, R407 to R409, R414). -/
def Obligations.StopsWarningsAndLatchesAct : Prop :=
  ((∀ s : State, s.awake = true → s.tide.dp = .halted → s.tide.halt = .thermal → s.err.failed = [] →
     (∀ h ∈ s.cool.spots, h.model < thermalTarget s - 10) →
     exec .thermalResume s = .next { s with tide := { s.tide with startPending := true } }) ∧
   (∀ s : State, s.awake = true → s.tide.dp ≠ .running → ∃ t, exec .sensorCheckIdle s = .next t ∧
     (∀ i, i < 324 → i < s.cool.sensors.length → (s.sensor i).state = 1 → (t.sensor i).state = 2) ∧
     (∀ i, ((s.sensor i).state ≠ 1 ∨ 324 ≤ i) → t.sensor i = s.sensor i) ∧ SameDataPlane s t ∧ SameConfig s t) ∧
   (∀ (h : Nat) (s : State), s.tide.dp = .running →
     let t := thermalStop h s
     t.cool.kT = 15 ∧ t.cool.f = 4 ∧ t.cool.stack = [] ∧
     (t.tide.thermalStops < 3 → t.tide.dp = .halted ∧ t.tide.halt = .thermal) ∧ (3 ≤ t.tide.thermalStops → t.tide.dp = .stopped))) ∧
  ((∀ s : State, s.awake = true → ∃ t, exec .reportPeriodEnd s = .next t ∧
     t.pow.domains = s.pow.domains.map endPeriod ∧ SameConfig s t ∧ SameDataPlane s t ∧
     ∀ w ∈ s.pow.warnings, w ∈ t.pow.warnings) ∧
   (∀ (c i : Nat) (s : State), s.awake = true → warningHolds c i s = false →
     exec (.warningClear c i) s =
       .next { s with pow := { s.pow with warnings := s.pow.warnings.filter fun w => !(w.1 = c && w.2.1 = i) } }) ∧
   (∀ (failed : List Nat) (s : State), s.awake = true → 4 < convertersWorking (failed.foldl loseConverter s) →
     ∃ t, exec (.busConverterCheck failed) s = .next t ∧
       (∀ n, nth t.pow.converters n false = (nth s.pow.converters n false && !failed.contains n)) ∧
       SameConfig s t ∧ SameDataPlane s t ∧ t.str = s.str) ∧
   (∀ (failed : List Nat) (s : State), s.awake = true → s.pow.stage = .ready → 4 < convertersWorking s →
     convertersWorking (failed.foldl loseConverter s) ≤ 4 → exec (.busConverterCheck failed) s =
       .next (advanceService (lowPower (failed.getLast?.getD 0) (failed.foldl loseConverter s)))) ∧
   (∀ (d : Nat) (s : State), s.awake = true → d < 192 → (s.domain d).state = 0 →
     exec (.overcurrentLatch d) s = .next (advanceService (failNow (.domain d) (recordLatch d s))) ∧
     d ∈ (recordLatch d s).cfg.latched ∧ (d < s.pow.domains.length → ((recordLatch d s).domain d).state = 1)) ∧
   (∀ (d : Nat) (s : State), s.awake = true → 192 ≤ d → d < 196 → (s.domain d).state = 0 → s.pow.stage ≠ .holdup →
     exec (.overcurrentLatch d) s = .next (stopModule (setDomain d (fun x => { x with state := 1 }) s))))

/-- A power failure (R439 to R442): with writes that may be in flight the module enters hold-up, its step discarded,
deaf and with the comb-die domains off; otherwise it goes dark at once. At the end of hold-up the hive domains switch
off: what remains is the config flash, the cove's objects with the records that the hold-up appended, and the parked
streams and prefixes that have theirs (R243, R436, R441). R398: with the lid open the cove keys are gone at once and
every object's key with them; the module then leaves its image, is unclaimed and answers nothing; during hold-up the
keys alone go. -/
def Obligations.PowerLossKeepsFlashAndCove : Prop :=
  (∀ (c : PowerCause) (s : State), s.awake = true → causeStands c s = true →
     (s.cove.mounted = true → s.mbox.shutdown ≠ .complete → ∃ t, exec (.powerFailureDecision c) s = .next t ∧
       t.pow.stage = .holdup ∧ t.pres = ⟨none, .off, 0⟩ ∧ t.eth.link = 0 ∧ t.cove = s.cove ∧ SameConfig s t ∧ t.awake = false ∧
       (s.tide.dp = .running → t.tide.dp = .halted) ∧ (s.tide.dp ≠ .running → t.tide = s.tide) ∧
       (∀ d, d < 192 → (s.domain d).state = 0 → d < s.pow.domains.length → (t.domain d).state = 3)) ∧
     (s.cove.mounted = false → ∃ t, exec (.powerFailureDecision c) s = .next t ∧
       t.pow.stage = .dark ∧ t.tide = Tide.reset ∧ t.str.live = [] ∧ SameConfig s t ∧ t.cove.objects = s.cove.objects)) ∧
  (∀ s : State, s.pow.stage = .holdup → ∃ t, exec .goDark s = .next t ∧ t.pow.stage = .dark ∧ SameConfig s t ∧
     t.mbox = Mbox.reset ∧ t.combs = State.reset.combs ∧ t.shelf = State.reset.shelf ∧ t.img = Img.reset ∧ t.tide = Tide.reset ∧
     t.str.live = [] ∧ t.cove.objects.map (·.id) = s.cove.objects.map (·.id) ∧
     (∀ o ∈ s.cove.objects, o.committed = true → ∃ x ∈ t.cove.objects, x.id = o.id ∧ x.committed = true) ∧
     (∀ y ∈ t.str.parked, ∃ o x, y.parkObject = some o ∧ x ∈ t.cove.objects ∧ x.id = o ∧ x.committed = true)) ∧
  (∀ s : State, s.pow.lidOpen = false → (s.awake = true ∨ s.pow.stage = .holdup) →
     ∃ t, exec .lidSealOpen s = .next t ∧ t.cfg.coveMasterKey = none ∧ t.pow.lidOpen = true ∧
       (∀ o ∈ t.cove.objects, o.keyAlive = false) ∧
       (s.awake = true → t.cfg.claimed = false ∧ t.cfg.tenants = [] ∧ t.cfg.imageKeys = [] ∧ t.img.image = none ∧
         t.str.live = [] ∧ t.awake = false ∧ t.tide.dp = .idle ∧
         (configWriteAllowed s = true → t.flash.copyA = t.flash.copyB ∧ ∃ x, t.flash.copyA = some x ∧ x.content = t.cfg ∧ x.pending = false)) ∧
       (s.pow.stage = .holdup → t.cfg.ownerKey = s.cfg.ownerKey ∧ t.pow.stage = .holdup))

/-- POWER_UP with nothing in its way (R431): the valid copy of the higher serial is selected, a PENDING one undone,
the power-up count goes up, the configured firmware boots, and mailboxes, data plane and caches start empty. A start
that cannot boot leaves the module answering nothing (R433): a hive domain that latches, a failed physical function,
or no firmware copy that verifies. The capacitance test takes C = 2.00 A × t ÷ 10 V and warns below 24.0 mF; the mount
frees what has no object record and makes up the free extents; calibration trims, fits, ramps and tests; the ready
point makes the module answer everything (R413, R241, R420, R431). -/
def Obligations.PowerUpGoesThroughItsSteps : Prop :=
  (∀ (x : PowerUpInput) (s : State) (f : Firmware), s.pow.stage = .dark → x.hiveLatched = none → x.pufOk = true →
     bootChoice x (bootConfig x { loseVolatile s with pow := { (loseVolatile s).pow with enableHigh := false, insertOpen := false, pwrGood := true } }) = some f →
     ∃ t, exec (.powerUp x) s = .next t ∧ t.pow.stage = .booted ∧ t.ident.firmware = f ∧ t.ident.strapInstalled = x.strap ∧
       t.tide.dp = .idle ∧ t.img.image = none ∧ t.str.live = [] ∧ t.mbox.cache = [] ∧ t.mbox.outstanding = [] ∧
       t.mbox.changes = 0 ∧ t.pow.measured = false ∧ t.cove.mounted = false ∧ t.awake = true ∧
       (x.lidOpen = false → s.pow.lidOpen = false → ∀ c,
         (if slotSerial s.flash.copyA < slotSerial s.flash.copyB then s.flash.copyB else s.flash.copyA) = some c →
         t.cfg.powerUpCount = (copyConfig c).powerUpCount + 1 ∧ t.cfg.claimed = (copyConfig c).claimed ∧
         t.cfg.ownerKey = (copyConfig c).ownerKey ∧ t.cfg.tenants = (copyConfig c).tenants)) ∧
  (∀ (x : PowerUpInput) (s : State), s.pow.stage = .dark → (x.hiveLatched.isSome ∨ x.pufOk = false) →
     ∃ t, exec (.powerUp x) s = .next t ∧ t.pow.stage = .nothing ∧ t.awake = false ∧ t.tide.dp = .idle ∧ SameConfig s t ∧
       ∀ k, x.hiveLatched = some k → k < 4 → (t.domain (192 + k)).state = 1) ∧
  ((∀ (ms : Nat) (s : State), s.pow.stage = .booted → s.pow.measured = false → ms < 328 →
     ∃ t, exec (.capacitanceTest ms) s = .next t ∧ t.pow.measured = true ∧ t.pow.capacitanceUf.toNat = min (200 * ms) 65535 ∧
       t.pow.bankCv = 10000 ∧ SameConfig s t ∧ SameDataPlane s t ∧
       (200 * ms < 24000 → ∃ w ∈ t.pow.warnings, w.1 = 3) ∧ (24000 ≤ 200 * ms → t.pow.warnings = s.pow.warnings)) ∧
   (∀ s : State, s.pow.stage = .booted → s.pow.measured = true → s.cove.mounted = false →
     ∃ t, exec .coveMount s = .next t ∧ t.cove.mounted = true ∧ t.cove.reserved = List.replicate 8 0 ∧
       t.cove.objects = (s.cove.objects.filter (·.committed)).map (fun o => { o with readers := 0, writes := [] }) ∧
       (∀ j, j < s.cove.records.length → (nth t.cove.records j CoveRecord.reset).extentsFree.toNat =
         (16376 - ((t.cove.objects.map fun o => extentShare o.startStack o.extents j).sum)) % 2 ^ 32) ∧
       { t with cove := s.cove } = s) ∧
   (∀ (x : CalibrationInput) (s : State), s.pow.stage = .booted → s.ident.strapInstalled = false → calibrated s = false →
     s.combs.length = 96 → s.pow.domains.length = 196 → s.cool.sensors.length = 328 →
     ∃ t, exec (.calibration x) s = .next t ∧ t.cool.rc0 = x.baseline ∧ t.cool.baselineTime = x.time ∧ t.eth.ptp.now = x.time ∧
       t.pow.stage = .booted ∧ t.tide = s.tide ∧ t.img = s.img ∧ t.shelf = s.shelf ∧
       (flowFails x { s with cool := { s.cool with sensors := s.cool.sensors.zipIdx.map (fun p => trimSensor p.2 (nth x.trims p.2 0) p.1) } } = true →
         t.pow.noStart = true) ∧
       ∀ p, p < 96 → (t.comb p).good = true → (t.comb p).mem = []) ∧
   (∀ s : State, powerUpEnds s = true →
     ∃ t, exec .readyPoint s = .next t ∧ t.pow.stage = .ready ∧ t.awake = true ∧ t.cfg = s.cfg ∧ SameDataPlane s t ∧
       t.str = s.str ∧ ∃ n ∈ t.mbox.notices, n.code = 0x0001))

/-! ## Failures and errors -/

/-- A unit that fails while an image that a remap can bring back depends on it Halts the data plane and waits for the
remap; nothing displaced, it is retired at once (R312, R407). A keeper core that fails is recorded, once (R34). A remap that finds a mapping puts it in place, resumes where the failure alone halted the data plane, and is
counted; one that finds none ends in INSUFFICIENT_SPARES, from which a start alone does not resume (R208,
R210, R312). -/
def Obligations.FailuresAreRemapped : Prop :=
  ((∀ (x : Source) (s : State), s.tide.dp ≠ .loading → remapApplies s = true → needsRemap x s = true →
     let t := declareFailed x s
     t.tide.dp = .halted ∧ t.err.failed = s.err.failed ++ [x] ∧ t.img = s.img ∧ t.shelf = s.shelf ∧ SameConfig s t ∧
       (∀ p, (t.comb p).mem = (s.comb p).mem ∧ (t.comb p).good = (s.comb p).good)) ∧
   (∀ (x : Source) (s : State), s.tide.dp ≠ .loading → (remapApplies s = false ∨ needsRemap x s = false) →
     declareFailed x s = retireSource x s) ∧
   (∀ (core : Nat) (s : State), s.awake = true → core < 10 → core ∉ s.err.coresFailed →
     ∃ t, exec (.keeperCoreFailure core) s = .next t ∧ t.err = { s.err with coresFailed := s.err.coresFailed ++ [core] } ∧
       SameConfig s t ∧ SameDataPlane s t ∧ t.str = s.str)) ∧
  (∀ (x : List Nat) (s : State) (i : Image), s.awake = true → s.img.image = some i → s.tide.dp = .halted → s.err.failed ≠ [] →
     let u := retireFailed s
     let r := settleMapping i x 97 u
     u.pow.stage ≠ .nothing →
     (∀ place tree, r.2 = .inl (place, tree) →
       exec (.remap x) s = .next (advanceService (completeRemap i place tree r.1)) ∧
       (completeRemap i place tree r.1).img.place = place ∧ (completeRemap i place tree r.1).img.parents = tree ∧
       (completeRemap i place tree r.1).err.failed = [] ∧
       (completeRemap i place tree r.1).img.report.remapCount = satInc r.1.img.report.remapCount ∧
       ((r.1.tide.halt = .remap ∨ r.1.tide.halt = .timeout) → (completeRemap i place tree r.1).tide.startPending = true)) ∧
     (∀ v, r.2 = .inr v →
       exec (.remap x) s = .next (advanceService (failRemap i v r.1)) ∧
       (failRemap i v r.1).tide.halt = .insufficientSpares ∧ (failRemap i v r.1).tide.startPending = false ∧
       (failRemap i v r.1).img.place = r.1.img.place ∧ (failRemap i v r.1).err.failed = []))

/-- The entry of the lowest tide is classified, and one still unclassified four epochs after its tide is unresolved:
its entry leaves the buffer, the record of its violation gets the outcome, and outcomes are counted; a schedule fault in
the repeat is recorded as one, and a comb found permanently faulty is retired. A repeat of another image, one that was
disturbed, or one that met poison is unresolved; otherwise one with other outputs than the first is a transient
(R214, R308 to R310, R318). -/
def Obligations.ViolationsAreClassified : Prop :=
  (∀ (n : Nat) (x : ClassifyInput) (s : State) (e : Repeat), s.awake = true → s.err.repeats[n]? = some e →
    (∀ y ∈ s.err.repeats, e.tide.toNat ≤ y.tide.toNat) →
    ∃ v t, v = verdictOf e x s ∧ exec (.classify n x) s = .next t ∧
      ((s.img.image = none ∨ s.img.digest ≠ e.digest ∨ x.disturbed = true ∨ x.fault.isSome = true ∨
        ∃ y ∈ x.reads, RepeatReads.poisoned y = true) → v = .unresolved) ∧
      (s.img.image.isSome = true → s.img.digest = e.digest → (∀ c ∈ e.contributors, nth e.place c 0 = nth s.img.place c 0) →
        x.disturbed = false → x.fault = none → (∀ y ∈ x.reads, RepeatReads.poisoned y = false) → x.sameOutputs = false → v = .transient) ∧
      (x.fault = none → (∀ p, v ≠ .permanent p) →
        t.err.repeats = s.err.repeats.filter (fun y => y.serial ≠ e.serial) ∧
        t.err.suspects = s.err.suspects.map (fillOutcome e.serial v) ∧
        t.err.record = countVerdict v (x.reads.foldl countRepeat s).err.record ∧
        SameConfig s t ∧ (x.reads = [] → SameDataPlane s t)) ∧
      (∀ f, x.fault = some f → t = endClassification e .unresolved (repeatFault (unitSite f) (x.reads.foldl countRepeat s))) ∧
      (∀ p, v = .permanent p → t = endClassification e v (x.reads.foldl countRepeat s))) ∧
  (∀ (n : Nat) (s : State) (e : Repeat), s.awake = true → s.err.repeats[n]? = some e →
    e.tide.toNat + 4 * 2 ^ 20 ≤ s.tide.number.toNat →
    ∃ t, exec (.classifyExpiry n) s = .next t ∧ t.err.repeats = s.err.repeats.filter (fun y => y.serial ≠ e.serial) ∧
      t.err.suspects = s.err.suspects.map (fillOutcome e.serial .unresolved) ∧
      t.err.record.unresolved = satInc s.err.record.unresolved ∧ SameConfig s t ∧ SameDataPlane s t)

/-! ## The tide -/

/-- A hold of an item that is late freezes the counters at its consumption point and is counted under its cause; its
release counts the slack since the freeze, once, under the hold that is counted; what remains of a known hold passes,
and a throttle slack tide ends with the boundary's last action; a time-out is counted, Halts the data plane and declares
the source failed, also where a schedule fault Halted it in that cycle (R169, R175, R177, R179 to R181, R214). -/
def Obligations.HoldsFreezeAndRelease : Prop :=
  (∀ (cause : BitVec 8) (point : BitVec 13) (x : Source) (s : State), s.awake = true → lateItem cause x s = true →
    pointOk cause point.toNat = true → counting s = true → ahead point.toNat s = true →
    ∃ t, exec (.holdRaise cause point x) s = .next t ∧ t = freezeAt cause point.toNat x s ∧
      t.tide.holds.head? = some ⟨cause, x, none, 0, 0⟩ ∧ (∀ h ∈ t.tide.holds.tail, h.cause = 8 ∧ h.known.isSome = true) ∧
      t.tide.tideCycle = BitVec.ofNat 13 (point.toNat - tideBase s) ∧ { t with tide := s.tide } = s ∧
      (s.tide.slack.length = 10 →
        (nth t.tide.slack cause.toNat {}).holdsTotal = satInc (nth s.tide.slack cause.toNat {}).holdsTotal) ∧
      (s.tide.contractHolds = [] → t.tide.holds = [⟨cause, x, none, 0, 0⟩] ∧
        t.tide.runCycles = s.tide.runCycles + BitVec.ofNat 64 (point.toNat - phaseCycle s))) ∧
  (∀ (i n : Nat) (s : State) (h : Hold), s.awake = true → s.tide.dp = .running → s.tide.holds[i]? = some h → h.known = none →
    h.age ≤ n → slackFits i (n - h.age) s = true → (∀ m ∈ holdLeft h, n - h.age < m) →
    exec (.holdRelease i n) s = .next (releaseHold i (passSlack (n - h.age) s))) ∧
  (∀ (n : Nat) (s : State) (h : Hold), s.awake = true → s.tide.dp = .running → s.tide.holds = [h] → h.known = none →
    h.age ≤ n → (∀ m ∈ holdLeft h, n - h.age < m) → s.tide.slack.length = 10 → h.cause.toNat < 10 →
    ∃ t, exec (.holdRelease 0 n) s = .next t ∧ t.tide.holds = [] ∧
      t.tide.slackCycles = s.tide.slackCycles + BitVec.ofNat 64 (n - h.age) ∧
      t.tide.runCycles = s.tide.runCycles + BitVec.ofNat 64 (n - h.age) ∧ t.tide.tideCycle = s.tide.tideCycle ∧
      (nth t.tide.slack h.cause.toNat {}).cyclesTotal =
        (nth s.tide.slack h.cause.toNat {}).cyclesTotal + BitVec.ofNat 64 (n - h.age) ∧
      { t with tide := s.tide } = s) ∧
  (∀ (i d : Nat) (s : State) (h : Hold), s.awake = true → s.tide.dp = .running → s.tide.holds[i]? = some h → h.known = some d →
    slackFits i (d - h.age) s = true →
    let t := releaseHold i (passSlack (d - h.age) s)
    (h.cause ≠ 9 → exec (.knownHoldEnd i) s = .next t) ∧
    (h.cause = 9 → s.tide.servingDue = false → s.tide.epochDue = false → s.tide.stepDue = false →
      exec (.knownHoldEnd i) s = .next (endBoundary t)) ∧
    (h.cause = 9 → (s.tide.servingDue = true ∨ s.tide.epochDue = true ∨ s.tide.stepDue = true) →
      exec (.knownHoldEnd i) s = .next s)) ∧
  (∀ (i n : Nat) (s : State) (h : Hold), s.awake = true → s.tide.dp = .running → s.tide.holds[i]? = some h → h.known = none →
    holdTimeout h.cause.toNat = some n → slackFits i (n - h.quiet) s = true →
    let u := passSlack (n - h.quiet) s
    exec (.slackTimeout i) s = .next (advanceService (timeOut h.source (timeoutNotice h (releaseHold i
      (countSlack h.cause.toNat (fun r => { r with timeoutsTotal := satInc r.timeoutsTotal }) u))))) ∧
    ∀ x w, (∀ j, x ≠ .coveStack j) → timeOut x w = declareFailed x (halt .timeout w)) ∧
  (∀ (i : Nat) (s : State) (h : Hold), s.awake = true → s.tide.holds[i]? = none → s.tide.lapsed[i]? = some h →
    s.tide.dp = .halted → s.tide.halt = .fault → h.known = none → (holdTimeout h.cause.toNat).isSome = true →
    exec (.slackTimeout i) s = .next (advanceService (declareFailed h.source
      (timeoutNotice h (countSlack h.cause.toNat (fun r => { r with timeoutsTotal := satInc r.timeoutsTotal })
        { s with tide := { s.tide with lapsed := s.tide.lapsed.eraseIdx i } })))))

/-- At a tide boundary the tide number goes up by one, the T shadows take effect, what is due at the new number is
noted, and with throttle k in force the pattern of R182 inserts a slack tide of the tide length; where the phase ends,
every comb's slots are forgotten and its next program has not ended; nothing passes while the gate does not (R168, R169,
R182). At a serving interval boundary the committed tables and the prefill factor take effect and the next decision may
be taken (R26, R169, R264, R422). An epoch boundary follows it: the E fields take effect, the expert area's size only as
R221 lets it (R16, R169). -/
def Obligations.BoundariesAdvanceTheTide : Prop :=
  ((∀ (s : State) (i : Image), s.awake = true → counting s = true → s.img.image = some i → gatePasses i s = false →
     exec .tideBoundary s = .next s) ∧
   (∀ (s : State) (i : Image), s.awake = true → counting s = true → s.img.image = some i → gatePasses i s = true →
     let n := s.tide.number + 1
     ∃ t, exec .tideBoundary s = .next t ∧ t.tide.number = n ∧ t.tide.dp = .running ∧
       t.tide.servingDue = decide (n.toNat % 1024 = 0) ∧ t.tide.epochDue = decide (n.toNat % 2 ^ 20 = 0) ∧
       t.tide.stepDue = decide (n.toNat % s.period = 0) ∧ t.live = latchT s.mbox.lateT s.live s.cfg.words ∧ t.cfg = s.cfg ∧
       t.str.live = s.str.live.map (fun p => (p.1, latchStream p.2)) ∧
       (lastTide i s = true → ∀ c ∈ t.combs, c.slots = [] ∧ c.ended = false) ∧
       (lastTide i s = false → s.tide.contractHolds = [] → t.tide.tideCycle = 0 ∧ t.combs = s.combs ∧ t.shelf = s.shelf ∧
         t.tide.holds = (if throttleDue s.tide.number.toNat t.tide.throttleK.toNat then [⟨9, .none, some s.tideLen, 0, 0⟩] else [])))) ∧
  ((∀ s : State, s.awake = true → s.tide.dp = .running → s.tide.prologue = false → s.tide.servingDue = true →
     ∃ t, exec .servingIntervalBoundary s = .next t ∧ t.tide.servingDue = false ∧ t.str.decided = false ∧
       t.str.tables = s.str.committedTables.getD s.str.tables ∧ t.str.committedTables = none ∧
       t.cool.f = s.cool.fPending.getD s.cool.f ∧ t.cool.fPending = none ∧ SameConfig s t ∧ t.combs = s.combs) ∧
   (∀ s : State, s.awake = true → s.tide.dp = .running → s.tide.prologue = false → s.tide.epochDue = true →
     s.tide.servingDue = false → ∃ t, exec .epochBoundary s = .next t ∧ t.tide.epochDue = false ∧ t.mbox.lateT = [] ∧
       { t.live with w2 := s.live.w2 } = { latchE s.mbox.lateT s.live s.cfg.words with w2 := s.live.w2 } ∧
       t = afterStop (endBoundary (epochActions { s with tide := { s.tide with epochDue := false } }))) ∧
   (∀ s : State, s.tide.dp = .running → s.tide.prologue = false → s.tide.epochDue = true → s.tide.servingDue = true →
     exec .epochBoundary s = .next s))

/-- The data plane enters Running with a boundary of every kind and fills its prologue; once every transfer has landed
the first tide starts, and channels that do not deliver in 65,536 cycles are declared failed (R172, R174, R181). -/
def Obligations.DataPlaneStarts : Prop :=
  (∀ (s : State) (i : Image), s.img.image = some i → canStart s = true →
    let t := startBoundary s
    let ops := if t.tide.dp = .running then prologueOps i t else []
    (∀ x ∈ ops, x.2.gather = true ∨ shelfOutside x.1 x.2 t = false) →
    exec .dataPlaneStart s = .next (prologueFills i ops t) ∧
    (t.tide.dp = .running → t.tide.prologue = true ∧ t.tide.startPending = false ∧ t.tide.holds = [])) ∧
  (∀ s : State, s.awake = true → s.tide.dp = .running → s.tide.prologue = true → prologueComplete s = true →
    s.combs.length = 96 →
    ∃ t extra, exec .prologueLanded s = .next t ∧ t.tide.prologue = false ∧ t.tide.number = s.tide.number ∧
      (∀ c ∈ t.combs, c.pending = []) ∧ SameConfig s t ∧ t.shelf = s.shelf ∧ extra.toNat < 2 ^ 16 ∧
      (s.tide.contractHolds = [] → t.tide.runCycles = s.tide.runCycles + 64 + extra)) ∧
  (∀ (chs : List (BitVec 32)) (s : State), s.awake = true → s.tide.dp = .running → s.tide.prologue = true →
    undelivered chs ≠ [] → (∀ n < 24, nth chs n 0 ≠ 0 ↔ dieAwaits n s = true) →
    exec (.prologueTimeout chs) s = .next (advanceService ((undelivered chs).foldl
      (fun w x => declareFailed (.channels x.1 x.2) w) (halt .timeout
        { s with tide := { s.tide with runCycles := s.tide.runCycles + 65536 } }))))

/-- A schedule fault of a running image is recorded under the next serial, puts the image on the quarantine list as
its newest entry and Halts the data plane with the step discarded; further faults while Halted are only counted, up to
65,535, in the list's copy of the record too. Of the faults that combs detect in one cycle the record names one of the
lowest rule code, and counts the rest with those before the stop is complete (R213 to R215). -/
def Obligations.ScheduleFaultsHalt : Prop :=
  (∀ (f : FaultSite) (s : State), s.tide.dp = .running →
    let t := scheduleFault f s
    t.tide.dp = .halted ∧ t.tide.halt = .fault ∧ t.tide.holds = [] ∧ t.cfg.faultSerial = satInc s.cfg.faultSerial ∧
      t.err.fault = faultRecord f false (satInc s.cfg.faultSerial).toNat s ∧
      t.cfg.quarantine.getLast? = some (s.img.digest, t.err.fault) ∧ t.cfg.quarantine.length ≤ 64 ∧ t.flash.dirty = true ∧
      t.str.slots = List.replicate 256 none ∧ t.err.reports = [] ∧ t.img = s.img ∧ t.shelf = s.shelf ∧ t.live = s.live ∧
      ∀ p, (t.comb p).mem = (s.comb p).mem ∧ (t.comb p).cells = []) ∧
  (∀ (f : FaultSite) (s : State), s.tide.dp = .halted → s.tide.halt = .fault →
    let t := scheduleFault f s
    bits t.err.fault 239 224 = min (bits s.err.fault 239 224 + 1) 0xFFFF ∧
      t.cfg.quarantine.map (·.1) = s.cfg.quarantine.map (·.1) ∧
      (∀ e ∈ t.cfg.quarantine, e.1 = s.img.digest → e.2 = t.err.fault) ∧ { t with err := s.err, cfg := s.cfg } = s) ∧
  (∀ (i : Issue) (f : FaultSite) (u : State), u.tide.dp = .running → f.rule < 256 → f.die < 256 → (∀ p, f.comb = some p → p < 256) →
    let n := (otherFaults i).length
    let t := stopWith i u (scheduleFault f u)
    (∀ x : State, x.tide.dp = .running ∨ i.others = [] → stopWith i u x = x) ∧
    t.tide = (scheduleFault f u).tide ∧ bits t.err.fault 239 224 = min n 0xFFFF ∧ t.cfg.faultSerial = satInc u.cfg.faultSerial ∧
      bits t.err.fault 358 351 = min f.rule (((otherFaults i).filter fun x => x.cycle = i.cycle.toNat).foldl (fun a x => min a x.rule) f.rule))

/-! ## The tide program -/

/-- An instruction issues where the sequencer stands at it: the counters reach its cycle, the sequencer goes on to the next
program counter, and nothing else changes but the units taken; then WAIT does nothing, END ends the comb's phase program,
FBWIN opens its replay window, and SLOT declares a range, unless a slot is occupied by a class that the declaration shuts
out (R102, R130, R131, R134, R162). -/
def Obligations.ControlInstructionsIssue : Prop :=
  ∀ (i : Issue) (o : SlotOp) (s : State), i.comb < s.combs.length →
    (∀ op, canIssue i op s = true →
      let u := issued i op s
      { u with tide := s.tide, combs := s.combs } = s ∧ u.tide.dp = .running ∧ u.tide.number = s.tide.number ∧
      u.tide.tideCycle = BitVec.ofNat 13 (i.cycle.toNat - tideBase s) ∧ (s.comb i.comb).pc = i.pc.toNat ∧
      (u.comb i.comb).pc = i.pc.toNat + 1 ∧ (u.comb i.comb).mem = (s.comb i.comb).mem ∧
      (u.comb i.comb).cells = (s.comb i.comb).cells ∧ ∀ q, q ≠ i.comb → u.comb q = s.comb q) ∧
    (canIssue i .wait s = true → exec (.wait i) s = .next (issued i .wait s)) ∧
    (canIssue i .done s = true → exec (.done i) s = .next (setComb i.comb (fun c => { c with ended := true }) (issued i .done s))) ∧
    (canIssue i .fbwin s = true →
      exec (.fbwin i) s = .next (setComb i.comb (fun c => { c with windowOpen := true, windowAt := i.cycle }) (issued i .fbwin s))) ∧
    (canIssue i (.slot o) s = true →
      let u := issued i (.slot o) s
      ((∀ k < o.count.toNat, slotClash o (o.first.toNat + k) u = false) →
        exec (.slot i o) s = .next (setComb i.comb (fun c => { c with slots := c.slots ++ [o] }) u)) ∧
      (∀ k < o.count.toNat, slotClash o (o.first.toNat + k) u = true → (∀ j < k, slotClash o (o.first.toNat + j) u = false) →
        exec (.slot i o) s =
          .next (advanceService (stopWith i u (scheduleFault { combSite i 1 5 with slot := o.first.toNat + k } u)))))

/-- A ROW moves its source rows into its destination rows in its write mode, row by row, and nothing else of any
memory; what it finds wrong at its issue is a schedule fault, and then it moves nothing (R112, R114, R115, R118). -/
def Obligations.RowMovesRows : Prop :=
  ∀ (i : Issue) (o : RowOp) (s : State), canIssue i (.row o) s = true → rowsReady i.comb (rowInputs o) s = true →
    let u := issued i (.row o) s
    let fs := rowOpFaults i o u
    exec (.row i o) s = .next (afterStop (stopWith i u (runRow i o u))) ∧
    (fs ≠ [] → runRow i o u = raiseFaults fs u ∧
      (∀ p, ((raiseFaults fs u).comb p).mem = (s.comb p).mem)) ∧
    (fs = [] → i.parity = [] → (∀ r, (s.comb i.comb).mends.count r < 2) → i.comb < s.combs.length →
      ∃ t, exec (.row i o) s = .next t ∧
        (t.comb i.comb).mem = (List.range o.count.toNat).foldl (fun m k =>
          writeRow m (o.dst.toNat + k) (writeMode o.mode.toNat o.laneWidth.toNat (carried (readRow m (o.src.toNat + k)))
            (carried (readRow m (o.dst.toNat + k))))) (s.comb i.comb).mem ∧
        (t.comb i.comb).cells = (s.comb i.comb).cells ∧ (∀ q, q ≠ i.comb → t.comb q = s.comb q) ∧
        t.shelf = s.shelf ∧ t.str = s.str ∧ SameConfig s t ∧ t.tide = u.tide)

/-- A DOT whose reads find nothing wrong writes no row: each active cell of its region takes the products of its lane
groups, other regions stay, the lane groups in which an operand fell back join the comb's replay queue, and the region's
shape is the DOT's; what it finds wrong is a schedule fault (R79, R101, R105). An EMIT to rows adds the region's
partials into skW rows, an EMIT to the fabric sends them, and either clears the region's accumulators (R118, R131); a
flow that does not run in the phase is a schedule fault (R152). -/
def Obligations.DotAndEmitUseTheirRegion : Prop :=
  (∀ (i : Issue) (o : DotOp) (out : OutRef) (s : State), canIssue i (.dot o) s = true →
    rowsReady i.comb (dotRows i o s) s = true → i.comb < s.combs.length →
    let u := issued i (.dot o) s
    let t := runDot i o out u
    exec (.dot i o out) s = .next (afterStop (stopWith i u t)) ∧
    (dotFaults i o u ≠ [] → t = raiseFaults (dotFaults i o u) u ∧ ∀ p, (t.comb p).mem = (s.comb p).mem) ∧
    (dotFaults i o u = [] → i.parity = [] → (∀ r, (s.comb i.comb).mends.count r < 2) →
      let region := regionOf o.quadMode o.quad
      let sl := slotDeclaration (s.comb i.comb)
      let l := dotSide false i.comb o sl u
      let x := dotSide true i.comb o sl u
      let ls := sideBlocks (s.comb i.comb).mem l
      let ss := sideBlocks (s.comb i.comb).mem x
      let es := replaysOf i o out sl l x ls ss
      exec (.dot i o out) s = .next t ∧ (∀ p, (t.comb p).mem = (s.comb p).mem) ∧ t.shelf = s.shelf ∧ SameConfig s t ∧ t.str = s.str ∧
      ((t.comb i.comb).shape.find? fun y => y.1 = region) = some (region, o.a.toNat, o.b.toNat) ∧
      ((s.comb i.comb).fallback.length + es.length ≤ 4096 →
        (t.comb i.comb).fallback = (s.comb i.comb).fallback ++ es ∧
        (∀ key : Nat × Nat × Nat × Nat, key.1 ≠ region → lookup (t.comb i.comb).cells key = lookup (s.comb i.comb).cells key) ∧
        ∀ r ∈ l.vectors, ∀ c ∈ x.vectors, ∀ j < (dotShape o).2.2,
          (lookup (t.comb i.comb).cells (region, r, c, j)).getD (freshCell out u) =
            dotCell o (runLimit (Desc.format x.d)) ls ss r c j
              ((lookup (s.comb i.comb).cells (region, r, c, j)).getD (freshCell out u))))) ∧
  (∀ (i : Issue) (o : EmitOp) (out : BitVec 3) (s : State), canIssue i (.emit o) s = true → (s.comb i.comb).fallback = [] →
    rowsReady i.comb (emitRows i o s) s = true → i.comb < s.combs.length →
    let u := issued i (.emit o) s
    let region := regionOf o.quadMode o.quad
    let ref : OutRef := ⟨o.layer, out⟩
    let flow := o.flow.toNat
    exec (.emit i o out) s = .next (afterStop (stopWith i u (runEmit i o out u))) ∧
    (o.toRow = false → flowRuns 2 flow u = false →
      runEmit i o out u = scheduleFault { combSite i 0x0A 4 with flow := flow } u) ∧
    (o.toRow = false → flowRuns 2 flow u = true →
      let n := Flow.elements (flowRecord flow u)
      let x := (regionPartials (s.comb i.comb) region).getD (n, List.replicate n (0, false, false))
      ∃ v, runEmit i o out u = sendPartials i flow ref x.1 x.2 v ∧ (∀ y ∈ (v.comb i.comb).cells, y.1.1 ≠ region) ∧
        ((v.comb i.comb).shape.find? fun y => y.1 = region) = none ∧ (v.fabric.named.any fun y => y.flow = o.flow) = true ∧
        { v with combs := u.combs, fabric := u.fabric } = u ∧ { v.fabric with named := u.fabric.named } = u.fabric ∧
        ∀ p, (v.comb p).mem = (s.comb p).mem) ∧
    (o.toRow = true → regionPartials (s.comb i.comb) region = none → exec (.emit i o out) s = .next u) ∧
    (o.toRow = true → ∀ cols xs, regionPartials (s.comb i.comb) region = some (cols, xs) → i.parity = [] →
      destFaults i 4 ((emitWrites i o xs.length).map (·.1)) = [] →
      bankFaults i 4 (bankCycles true (emitWrites i o xs.length)) u = [] → (∀ r, (s.comb i.comb).mends.count r < 2) →
      ∃ t, exec (.emit i o out) s = .next t ∧ (∀ y ∈ (t.comb i.comb).cells, y.1.1 ≠ region) ∧
        (t.comb i.comb).mem = (List.range ((xs.length + 31) / 32)).foldl (fun m k =>
          writeRow m (o.firstRow.toNat + k) (skwAddRow (carried (readRow m (o.firstRow.toNat + k)))
            (((xs.drop (32 * k)).take 32).map partialEntry))) (s.comb i.comb).mem ∧
        (∀ q, q ≠ i.comb → t.comb q = s.comb q) ∧ t.shelf = s.shelf ∧ SameConfig s t))

/-- A FABRIC and a ROTATE write no scratchpad row at their issue: a receive leaves its rows pending, a send takes its
rows' partials into the flow, a rotation waits for partials or rotates those that wait (R91, R116, R145, R147); a flow
of another kind or of another phase is a schedule fault (R152). A replay window that closes has replayed its comb's whole queue, and what does not fit it is slack (R102, R103). -/
def Obligations.FabricRotateAndReplayIssue : Prop :=
  ((∀ (i : Issue) (o : FabricOp) (s : State), canIssue i (.fabric o) s = true → rowsReady i.comb (sendRows i o s) s = true →
     let u := issued i (.fabric o) s
     exec (.fabric i o) s = .next (afterStop (stopWith i u (runFabric i o u))) ∧
     (flowRuns (if o.send then 2 else 1) o.flow.toNat u = false →
       runFabric i o u = scheduleFault { combSite i 0x0A 3 with flow := o.flow.toNat } u) ∧
     (flowRuns 2 o.flow.toNat u = true → o.send = true → i.comb < s.combs.length → i.parity = [] →
       (∀ r, (s.comb i.comb).mends.count r < 2) →
       (sendReads i o u).flatMap (rowFaults i 3 u) ++ bankFaults i 3 (bankCycles false (sendReads i o u)) u = [] →
       let rows := sendRows i o u
       let n := Flow.elements (flowRecord o.flow.toNat u)
       let x := (rows.findSome? (lookup (s.comb i.comb).rowOuts)).getD (⟨0, 0⟩, n)
       ∃ v, runFabric i o u = sendPartials i o.flow.toNat x.1 x.2
           ((rows.flatMap fun r => rowPartials (carried (readRow (s.comb i.comb).mem r))).take n) v ∧
         (v.fabric.named.any fun y => y.flow = o.flow) = true ∧ { v.fabric with named := u.fabric.named } = u.fabric ∧
         (∀ p, (v.comb p).mem = (s.comb p).mem ∧ (v.comb p).cells = (s.comb p).cells) ∧ v.shelf = s.shelf ∧
         v.str = s.str ∧ v.tide = u.tide ∧ SameConfig s v) ∧
     (flowRuns 1 o.flow.toNat u = true → o.send = false → i.comb < s.combs.length →
       (let c := u.comb i.comb
        destFaults i 3 (receiveRows i o u ++ tailRows c (flowRecord o.flow.toNat u) o.desc)) = [] →
       (∀ p, ((runFabric i o u).comb p).mem = (s.comb p).mem) ∧
       (Flow.tailRows (flowRecord o.flow.toNat u) = 0 →
         ∀ r ∈ receiveRows i o u, rowPending ((runFabric i o u).comb i.comb) r = true))) ∧
   (∀ (i : Issue) (o : RotateOp) (s : State), canIssue i (.rotate o) s = true →
     let u := issued i (.rotate o) s
     ((∀ x ∈ (s.comb i.comb).drained, x.1 ≠ o.flow) →
       exec (.rotate i o) s = .next (setComb i.comb (fun c => { c with rotations := c.rotations ++ [o] }) u)) ∧
     (∀ x, (s.comb i.comb).drained.find? (fun x => x.1 = o.flow) = some x →
       exec (.rotate i o) s = .next (afterStop (stopWith i u (enterRotated i o x.2.1 x.2.2
         (setComb i.comb (fun c => { c with drained := c.drained.erase x }) u))))))) ∧
  (∀ (p : Nat) (s : State), s.awake = true → (s.comb p).windowOpen = true → replayReady p s = true → counting s = true →
     let w := windowLength s
     let c := windowEnd p w s
     ahead c s = true → p < s.combs.length →
     ∃ t, exec (.fallbackWindowClose p) s = .next (afterStop t) ∧
       ((∀ r, (s.comb p).mends.count r < 2) → afterStop t = t) ∧
       t = (if windowOverrun p w s = 0 then closeWindow p w (advanceTo c s)
         else raiseContract (phaseCycle s) c (closeWindow p w (reachBefore c s))) ∧
       (t.comb p).fallback = [] ∧ (t.comb p).windowOpen = false ∧ ∀ q, (t.comb q).mem = (s.comb q).mem) ∧
  (∀ (p : Nat) (s : State), s.awake = true → s.tide.dp = .running → (s.comb p).windowOpen = true → replayReady p s = true →
     s.tide.holds ≠ [] →
     (phaseCycle s = windowEnd p (windowLength s) s →
       exec (.fallbackWindowClose p) s = .next (afterStop (closeWindow p (windowLength s) s))) ∧
     (phaseCycle s ≠ windowEnd p (windowLength s) s → exec (.fallbackWindowClose p) s = .next s))

/-- A SHELF at its issue writes no row: the rows that its descriptor names become pending, in the row set of the
following phase; a shelf address that does not exist faults. A row lands when its data is complete (R116, R217, R222
to R224); words that arrive with a parity error become the poison word and are counted (R125, R138). -/
def Obligations.ShelfRowsArePendingUntilTheyLand : Prop :=
  (∀ (i : Issue) (o : ShelfOp) (s : State), canIssue i (.shelf o) s = true →
    rowsReady i.comb (indexRows i.comb o s) s = true →
    (shelfOutside i.comb o s = true → exec (.shelf i o) s = .fault .shelfAddressOutside) ∧
    (shelfOutside i.comb o s = false →
      let u := issued i (.shelf o) s
      let rows := shelfRows i.comb o ((phaseParity u + 1) % 2) u
      exec (.shelf i o) s = .next (afterStop (stopWith i u (runShelf i o u))) ∧ (∀ p, ((runShelf i o u).comb p).mem = (s.comb p).mem) ∧
      (o.gather = false → i.comb < s.combs.length → destFaults i 2 rows = [] →
        ∀ r ∈ rows, rowPending ((runShelf i o u).comb i.comb) r = true))) ∧
  (∀ (p : Nat) (ra : BitVec 22) (x : Pending) (s : State), s.awake = true → s.tide.dp = .running → p < s.combs.length →
    (s.comb p).pending.find? (fun y => y.ra.toNat = ra.toNat) = some x → x.data.length = 576 →
    (∀ r, x.after = some r → rowPending (s.comb p) r.toNat = false) → ∀ parity : List Nat,
    ∃ t, exec (.rowLands p ra parity) s = .next (afterStop (spoilRow p ra parity t)) ∧
      (parity = [] → exec (.rowLands p ra parity) s = .next t) ∧ (t.comb p).mem = Memory.write (s.comb p).mem (ra.toNat * 576) x.data ∧
      (∀ y ∈ (t.comb p).pending, y.ra ≠ ra) ∧ (∀ q, q ≠ p → t.comb q = s.comb q) ∧
      { t with combs := s.combs, tide := s.tide } = s ∧ { t.tide with holds := s.tide.holds } = s.tide)

/-- A frame on a link (R137 to R139): one that fails its CRC is counted and discarded, and its resend is asked for on
the opposite direction; one out of sequence is dropped; one in sequence is taken once. The acknowledgement frees the
replay buffer, and a nak sends what remains of it again. -/
def Obligations.LinkFramesAreTakenInOrder : Prop :=
  ∀ (link : Nat) (dir : Bool) (group : Nat) (f : LinkFrame) (wide : WideData) (s : State), s.awake = true → link < 40 →
    group < 16 → (s.link link dir).state ≠ 2 → bit (s.link link dir).groupsActive group = true → s.fabric.links.length = 80 →
    let c : Instr := .linkFrameReceive link dir group f wide
    (f.crc ≠ crc32 (linkBytes f) →
      let t := frameFails link dir group f s
      exec c s = .next (afterStop t) ∧
      ((s.link link dir).failures + 1 < 16 →
        (t.link link dir).nak = true ∧ (t.link link dir).expectSeq = (s.link link dir).expectSeq ∧
        (t.link link dir).crcFailTotal = satInc (s.link link dir).crcFailTotal ∧
        (∃ g : LinkFrame, t.outbox = s.outbox ++ [.linkFrame link (!dir) g] ∧ g.kind = 0 ∧ g.nak = true ∧
          g.ackSeq = (s.link link dir).expectSeq - 1) ∧ { t with fabric := s.fabric, outbox := s.outbox } = s)) ∧
    (f.crc = crc32 (linkBytes f) →
      let u := setLink link (!dir) (fun d => { d with replay := pruneReplay f.ackSeq d.replay }) s
      let v := if f.nak then resendFrames link (!dir) u else u
      v.link link dir = s.link link dir ∧
      (f.nak = true → ((v.link link (!dir)).replay.map fun g => (g.seq, g.flow, g.flitIndex, g.payload)) =
        ((u.link link (!dir)).replay.map fun g => (g.seq, g.flow, g.flitIndex, g.payload)) ∧
        v.outbox = s.outbox ++ (v.link link (!dir)).replay.map fun g => .linkFrame link (!dir) g) ∧
      (f.kind = 0 → exec c s = .next (afterStop (atRoot link dir f wide v)) ∧
        ((linkEnds link dir).2 ≠ 24 → s.tide.dp = .running → exec c s = .next v)) ∧
      (f.kind ≠ 0 → f.seq ≠ (s.link link dir).expectSeq → exec c s = .next v) ∧
      (f.kind ≠ 0 → f.seq = (s.link link dir).expectSeq →
        let w := setLink link dir (fun d => { d with expectSeq := d.expectSeq + 1, nak := false, failures := 0 }) v
        exec c s = .next (afterStop (takeFrame link dir f wide (progress (.link link) w))) ∧ (w.link link dir).expectSeq = f.seq + 1))

/-! ## Mending, scrub and experts -/

/-- A mend rewrites a weight row that does not read from its backing copy and is counted; so it does an instruction or an
operand descriptor that does not read (R126, R130, R302); what reads stays. Scrub writes corrected words back and what
cannot be corrected as the poison word, and a row that was mended twice in the epoch and fails again retires its comb
(R127, R128, R311). -/
def Obligations.MendAndScrubRestoreRows : Prop :=
  (∀ (p : Nat) (ra : BitVec 22) (s : State) (i : Image) (u : Nat), s.img.image = some i → s.awake = true → p < 96 →
    p < s.combs.length → (s.comb p).good = true → mapped p s = true →
    backingUnit i s.img.place (vcombOn p s) ra.toNat = some u → ((readRow (s.comb p).mem ra.toNat).any (·.poison)) = true →
    let r := readUnits (dieOf p) u 8 s
    (r.1.any (·.2) = true → exec (.mend p (.row ra)) s = .next r.2 ∧ r.2.combs = s.combs) ∧
    (r.1.any (·.2) = false → ∃ t, exec (.mend p (.row ra)) s = .next t ∧
      (t.comb p).mem = writeRow (s.comb p).mem ra.toNat r.1 ∧ (t.comb p).mends = (s.comb p).mends ++ [ra] ∧
      t.err.record.mendsTotal = satInc s.err.record.mendsTotal ∧ (∀ q, q ≠ p → t.comb q = s.comb q) ∧
      (∀ k, (t.stack k).mem = (s.stack k).mem) ∧ SameConfig s t ∧ t.tide = s.tide)) ∧
  (∀ (p : Nat) (ra : BitVec 22) (s : State), (s.img.image = none ∨
      (readRow (s.comb p).mem ra.toNat).any (·.poison) = false) → exec (.mend p (.row ra)) s = .next s) ∧
  (∀ (p : Nat) (s : State) (i : Image), s.img.image = some i → s.awake = true → p < 96 → p < s.combs.length →
    (s.comb p).good = true → mapped p s = true →
    let instructions := (programWords i (vcombOn p s)).length
    ∀ x : MendTarget × Nat × Nat × Nat,
      ((∃ pc : BitVec 16, pc.toNat < instructions ∧ x = (.program pc, 16 * pc.toNat, instructionSlot pc.toNat, 2)) ∨
       (∃ n : BitVec 10, n.toNat < (descriptorWords i (vcombOn p s)).length ∧
         x = (.descriptor n, 16 * instructions + 32 * n.toNat, descriptorSlot n.toNat, 4))) →
    let at_ := codeOffset i s.img.place (vcombOn p s) + x.2.1
    let n := x.2.2.2
    let r := readUnits (dieOf p) (codeUnit i s.img.place (dieOf p) + at_ / 64) ((at_ % 64 + 8 * n + 63) / 64) s
    let unreadable := (readSlots (s.comb p).code x.2.2.1 n).any (·.uncorrectable)
    (r.1.any (·.2) = true ∨ unreadable = false → exec (.mend p x.1) s = .next r.2 ∧ r.2.combs = s.combs) ∧
    (r.1.any (·.2) = false → unreadable = true → ∃ t, exec (.mend p x.1) s = .next t ∧
      (t.comb p).code = writeSlots (s.comb p).code x.2.2.1 (wordsOf (((bytesOf r.1).drop (at_ % 64)).take (8 * n))) ∧
      (t.comb p).mem = (s.comb p).mem ∧ t.err.record.mendsTotal = satInc s.err.record.mendsTotal ∧
      (∀ q, q ≠ p → t.comb q = s.comb q) ∧ SameConfig s t ∧ t.tide = s.tide)) ∧
  (∀ (p : Nat) (ra : BitVec 22) (s : State), s.awake = true → p < 96 → p < s.combs.length → (s.comb p).good = true →
    rowIndex ra.toNat < 10240 →
    let rs := readRow (s.comb p).mem ra.toNat
    let again := rs.any (·.uncorrectable) && decide (2 ≤ (s.comb p).mends.count ra)
    ∃ t, exec (.scrubRow p ra) s = .next (afterStop (if again then declareFailed (.comb p) t else t)) ∧
      (again = false → s.tide.dp = .running → exec (.scrubRow p ra) s = .next t) ∧
      (t.comb p).mem = (if rs.any (fun w => w.corrected || w.poison) then writeRow (s.comb p).mem ra.toNat (carried rs) else (s.comb p).mem) ∧
      (t.comb p).record.eccCorrected = satAdd (s.comb p).record.eccCorrected (rs.countP (·.corrected)) ∧
      (t.comb p).record.eccUncorrectable = satAdd (s.comb p).record.eccUncorrectable (rs.countP (·.uncorrectable)) ∧
      (rs.any (·.uncorrectable) = true → resident p ra.toNat s = true → ra ∈ (t.comb p).mendQueue) ∧
      (∀ q, q ≠ p → t.comb q = s.comb q) ∧ { t with combs := s.combs } = s)

/-- Shelf scrub, refresh and the retirement of a channel at its eighth uncorrectable word (R166, R219, R234, R311). A
slice that lands by a page-in, or by re-staging as the hottest of its stack that waits for it, is no longer awaited;
where the expert area, or for re-staging the reserve, has free room, its words stand there and its map entry names the
place (R232, R316); a promotion's copy that is complete is noted (R233). -/
def Obligations.ShelfServiceAndExperts : Prop :=
  ((∀ (j u : Nat) (s : State), s.awake = true → j < 24 → (s.stack j).lost = false → u < unitCount → j < s.shelf.stk.length →
     let rs := readUnit (s.stack j).mem u
     ∃ t, (t.stack j).mem = (if rs.any (fun w => w.corrected || w.poison) then writeUnits (s.stack j).mem u (carried rs) else (s.stack j).mem) ∧
       (t.stack j).eccCorrected = satAdd (s.stack j).eccCorrected (rs.countP (·.corrected)) ∧
       (t.stack j).eccUncorrectable = satAdd (s.stack j).eccUncorrectable (rs.countP (·.uncorrectable)) ∧
       (∀ k, k ≠ j → t.stack k = s.stack k) ∧ { t with shelf := s.shelf } = s ∧
       exec (.shelfScrub j u) s = .next (afterStop (if rs.any (·.uncorrectable) then scrubRegion j u t else t)) ∧
       (rs.any (·.uncorrectable) = false → s.tide.dp = .running → exec (.shelfScrub j u) s = .next t)) ∧
   (∀ (j u : Nat) (s : State), s.awake = true → j < 24 → (s.stack j).lost = false → unitCount ≤ u →
     exec (.shelfScrub j u) s = .fault .shelfAddressOutside) ∧
   (∀ (j : Nat) (point : BitVec 13) (s : State), s.awake = true → j < 24 → (s.stack j).lost = false →
     (counting s = false →
       exec (.shelfRefresh j point) s = .next (setStack j (fun k => { k with refreshes := k.refreshes + 1 }) s)) ∧
     (counting s = true → ahead point.toNat s = false → exec (.shelfRefresh j point) s = .next s) ∧
     (counting s = true → ahead point.toNat s = true → j < s.shelf.stk.length →
       (refreshWindow point.toNat s = true → ∃ t, exec (.shelfRefresh j point) s = .next t ∧
         (t.stack j).refreshes = (s.stack j).refreshes + 1 ∧ (t.stack j).refreshedAt = (s.stack j).refreshedAt ∧
         phaseCycle t = point.toNat ∧ t.combs = s.combs) ∧
       (refreshWindow point.toNat s = false → (s.stack j).hot = true → ∃ t, exec (.shelfRefresh j point) s = .next t ∧
         (t.stack j).refreshes = (s.stack j).refreshes + 1 ∧ (t.stack j).refreshedAt = some s.tide.number ∧
         phaseCycle t = point.toNat ∧ t.combs = s.combs) ∧
       (refreshWindow point.toNat s = false → (s.stack j).hot = false → exec (.shelfRefresh j point) s = .next s))) ∧
   (∀ (j c : Nat) (s : State), s.awake = true → j < 24 → j < s.shelf.stk.length → c < 32 → (s.stack j).lost = false →
     bit (s.stack j).channelsRetired c = false → 8 ≤ nth (s.stack j).uncorrectableEpoch c 0 →
     ∃ t, exec (.channelRetirement j c) s = .next t ∧ bit (t.stack j).channelsRetired c = true ∧
       (∀ d < 32, d ≠ c → bit (t.stack j).channelsRetired d = bit (s.stack j).channelsRetired d) ∧
       (∀ k, k ≠ j → t.stack k = s.stack k) ∧ t.combs = s.combs ∧ SameConfig s t ∧ t.tide = s.tide)) ∧
  ((∀ (j v l e : Nat) (s : State) (i : Image) (x : ExpertEntry), s.awake = true → s.tide.dp ≠ .loading →
     s.img.image = some i → expertEntry j v l e s = some x → (x.pending = true ∨ restageNext j x s = true) →
     let w := setExpert j v l e (fun y => { y with pending := false }) s
     let free := if x.pending = true then freePlace i j (sliceUnits i v l e) w else freeReserve i j (sliceUnits i v l e) w
     ∃ t, exec (.expertPageinComplete j v l e) s = .next t ∧
       (∀ y, expertEntry j v l e t = some y → y.pending = false) ∧
       (∀ u, free = some u →
         expertEntry j v l e t = some { x with pending := false, inShelf := true, restage := false, offset := BitVec.ofNat 38 u } ∧
         (t.stack j).mem = writeUnits (s.stack j).mem u (sliceWords i v l e s)) ∧
       (∀ k, k ≠ j → t.stack k = s.stack k) ∧ (∀ p, (t.comb p).mem = (s.comb p).mem) ∧
       SameConfig s t ∧ t.tide = s.tide ∧ t.str = s.str) ∧
   (∀ (l e : Nat) (s : State), s.awake = true → exec (.expertPromotionComplete l e) s =
     .next { s with shelf := { s.shelf with promotions := s.shelf.promotions.map fun p =>
       if p.layer = l ∧ p.expert = e then { p with complete := true } else p } }))

/-! ## Steps, sampling and serving -/

/-- The sampling phase, once every row that samples has its logits: the verified trees and first tokens stand as the
step's outcome; poison of a weight or of the transport discards the batch instead, and nothing of the step counts
(R283, R286, R299, R300). What the shelf holds changes in the records of the KV that waits for its verification alone, at the
words of the places that R228 and the page map of R313 give. -/
def Obligations.SamplingSettlesTheStep : Prop :=
  ∀ (heads : List HeadRow) (s : State) (i : Image), s.awake = true → s.img.image = some i →
    s.tide.dp = .running → s.tide.prologue = false → inSampling s = true → (∀ p ∈ s.str.live, p.2.stepOut = none) →
    let u := runHead i heads s
    let rows := heads.filterMap fun h => logitRow h u
    headComplete i rows s = true →
    let t := runSampling i rows u
    exec (.samplingPhase heads) s = .next t ∧ t.tide = s.tide ∧ t.img = s.img ∧ t.combs = s.combs ∧ SameConfig s t ∧
    { t.fabric with wide := s.fabric.wide, heldKv := s.fabric.heldKv } = s.fabric ∧ t.fabric.heldKv = [] ∧
    t.err.reports = [] ∧ t.str.live.map (fun p => (p.1, history p.2)) = s.str.live.map (fun p => (p.1, history p.2)) ∧
    (batchPoisoned s = true → (∀ p ∈ t.str.live, p.2.rows = 0 ∧ p.2.stepOut = none) ∧ t.err.raised = [] ∧
      t.err.record.batchDiscarded = satInc s.err.record.batchDiscarded) ∧
    (batchPoisoned s = false → t.err.raised = u.err.raised ∧
      ∀ n y, s.str.live = [(n, y)] → n ∉ poisonedRecords s → y.rows ≠ 0 → (y.state = .prefill ∨ y.tree ≠ []) →
        ∃ z, t.str.live = [(n, z)] ∧ { z with taken := y.taken, chosen := y.chosen } =
          { y with stepOut := some (if y.state = .prefill then prefillStream i rows n y u else (verifyStream i rows n y u).1) }) ∧
    ∀ k a, (∀ x ∈ s.fabric.heldKv, ∀ y, liveAt x.record s = some y → ∀ p, recordAt i y x.layer (x.position / 64) s = some p →
        ∀ w, let q := kvUnit i p.1 p.2 (w / 8) s
          q.1 = k → a < 9 * (q.2 * 8 + w % 8) ∨ 9 * (q.2 * 8 + w % 8) + 9 ≤ a) →
      Memory.read (t.stack k).mem a = Memory.read (s.stack k).mem a

/-- The verification of a tree (R286): the accepted nodes are tree nodes in path order, each the child of the one
before that carries the sampled token, none of them an end token; the bonus is the sample at the last of them. -/
def Obligations.VerifyFollowsTheTree : Prop :=
  ∀ (i : Image) (rows : List LogitRow) (n : Nat) (t : Stream) (fuel v : Nat) (acc : List Nat) (h : List Token),
    let r := verify i rows n t fuel v acc h
    let sample (u : Nat) (g : List Token) : Token := sampleToken ((headRow rows n u).elim [] (·.logits)) t.live g.length g
    ∃ path : List Nat, r.1 = acc ++ path ∧ path.length ≤ fuel ∧ r.2.1 = path.getLast?.getD v ∧
      (∀ k, k < path.length → ∃ x, t.tree[nth path k 0]? = some x ∧ nth path k 0 ≠ 0 ∧
        x.parent = (if k = 0 then v else nth path (k - 1) 0) ∧
        x.token = sample x.parent (h ++ (path.take k).map fun u => (nth t.tree u ⟨0, 0, 0⟩).token) ∧
        i.endTokens.contains x.token = false) ∧
      (path.length < fuel → r.2.2 = sample r.2.1 (h ++ path.map fun u => (nth t.tree u ⟨0, 0, 0⟩).token))

/-- A step commits at its final boundary: a verify step the root and the accepted nodes, with the bonus as the new
tail; a prefill step the tokens that it took. What was sampled waits to be emitted, and the counts grow by it (R256,
R287, R288); of the shelf only the words of the stream's token history change (R256). Depth and countdown after a verify step, by the first matching row of the table of R289; a probe that the
clamps bring to depth 0 leaves both as they were. -/
def Obligations.StepsCommitAndDepthAdapts : Prop :=
  (∀ (n : Nat) (s : State) (t : Stream) (o : StepOut), liveAt n s = some t → t.stepOut = some o →
     let w := commitStep n s
     (∀ m, m ≠ n → liveAt m w = liveAt m s) ∧ SameConfig s w ∧ w.tide = s.tide ∧ w.img = s.img ∧ w.combs = s.combs ∧
     w.fabric = s.fabric ∧ { w.shelf with stk := s.shelf.stk } = s.shelf ∧
     (∀ k, { w.stack k with mem := (s.stack k).mem } = s.stack k) ∧
     (∀ k a, (∀ m q, historySlot t m s = some q → q.1 = k → a < 9 * q.2 ∨ 9 * q.2 + 9 ≤ a) →
       Memory.read (w.stack k).mem a = Memory.read (s.stack k).mem a) ∧
     (t.state = .decode → ∃ y, liveAt n w = some y ∧
       y.committed = t.committed ++ t.tail.toList ++ o.accepted ∧ y.tail = o.bonus ∧ y.pending = t.pending ∧
       y.generated = t.generated + o.accepted.length + (if o.bonus.isSome then 1 else 0) ∧
       y.state = (if o.ends ∨ o.truncated ∨ o.limit then .ready else .decode) ∧ y.stepOut = none ∧ y.rows = 0 ∧
       w.str.emit = (if o.accepted = [] ∧ o.bonus = none then s.str.emit
         else s.str.emit ++ [(n, stepEntries (t.committed.length + 1) t.suspectMark o)])) ∧
     (t.state = .prefill → ∃ y, liveAt n w = some y ∧
       y.committed = t.committed ++ (t.tail.toList ++ t.pending).take t.rows ∧
       y.pending = (t.tail.toList ++ t.pending).drop t.rows ∧ y.tail = o.bonus ∧
       (prefillEnds t = false → y.state = .prefill) ∧
       (prefillEnds t = true → o.bonus.isSome = true → o.ends = false → o.truncated = false → o.limit = false → y.state = .decode) ∧
       (prefillEnds t = true → (o.bonus = none ∨ o.ends = true ∨ o.truncated = true ∨ o.limit = true) → y.state = .ready))) ∧
  (∀ (t : Stream) (d a : Nat), a ≤ d →
     let cur := t.draftDepth
     let r := adaptDepth t d a
     let probing := 1 ≤ d ∧ probeDue t = true
     (probing → a ≠ 0 → r = (1, 0)) ∧
     (probing → a = 0 → r = (0, 63)) ∧
     (¬probing → 1 ≤ d → a = 0 → 2 ≤ cur.toNat → r = (BitVec.ofNat 4 (cur.toNat / 2), t.probe)) ∧
     (¬probing → 1 ≤ d → a = 0 → cur.toNat < 2 → r = (0, 63)) ∧
     (¬probing → 1 ≤ d → a = d → r = (BitVec.ofNat 4 (min (cur.toNat + 1) t.live.draftDepthMax.toNat), t.probe)) ∧
     (d = 0 → cur = 0 → r.1 = cur ∧ r.2.toNat = t.probe.toNat - 1) ∧
     (¬probing → 0 < a → a < d → r = (cur, t.probe)) ∧
     (d = 0 → cur ≠ 0 → r = (cur, t.probe)))

/-- STEP_BOUNDARY: the step commits, the events of the streams take effect and the next step gets its slots, or a
committed stop stops the data plane at this boundary; actions of the slower classes of the same boundary come first
(R169, R252, R264). What a committed event does to its stream at the step boundary (R252, R377). -/
def Obligations.StepBoundaryOpensTheNextStep : Prop :=
  (∀ s : State, s.awake = true → s.tide.dp = .running → s.tide.prologue = false → s.tide.stepDue = true →
     ((s.tide.servingDue = true ∨ s.tide.epochDue = true) → exec .stepBoundary s = .next s) ∧
     (s.tide.servingDue = false → s.tide.epochDue = false →
       let u := commitSteps { s with tide := { s.tide with stepDue := false } }
       exec .stepBoundary s = .next (endBoundary (openStep u)) ∧
       u.tide = { s.tide with stepDue := false } ∧ u.img = s.img ∧ SameConfig s u ∧
       (s.img.load = none → s.img.unloading = false → s.mbox.shutdown = .no →
         (s.tide.stopPending = true → (openStep u).tide.dp = .stopped ∧ (openStep u).tide.number = s.tide.number ∧
           (openStep u).tide.stopPending = false ∧ (openStep u).str.slots = List.replicate 256 none ∧
           ∀ p ∈ (openStep u).str.live, p.2.rows = 0) ∧
         (∀ i, s.tide.stopPending = false → s.img.image = some i → (openStep u).tide = u.tide ∧
           ∀ p ∈ (openStep u).str.live, p.2.stepOut = none ∧ p.2.rows = p.2.slotCount)))) ∧
  (∀ (n : Nat) (s : State) (t : Stream), liveAt n s = some t →
     (t.event.stop = true → ∃ y, liveAt n (stopAtBoundary n s) = some y ∧ y.event.stop = false ∧ history y = history t ∧
       y.state = (if t.state = .decode ∨ t.state = .paused then .ready else t.state)) ∧
     (t.event.stop = false → liveAt n (stopAtBoundary n s) = some t) ∧
     (t.event.cancelPark = true → t.state = .parking → ∃ y, liveAt n (cancelPark n s) = some y ∧ history y = history t ∧
       y.state = t.resumeTo.getD .ready ∧ y.parkObject = none ∧ y.event.cancelPark = false) ∧
     (t.event.resumeDone = true → t.state = .resuming → ∃ y, liveAt n (endResume n s) = some y ∧ history y = history t ∧
       y.state = t.resumeTo.getD .ready ∧ y.parkObject = none) ∧
     (t.event.close = none ∨ t.state = .parking → closeAtBoundary n s = s) ∧
     (∀ r, t.event.close = some r → t.state ≠ .parking →
       ∀ y ∈ (closeAtBoundary n s).str.live, ¬(y.2.id = t.id ∧ y.2.mailbox = t.mailbox)) ∧
     (s.str.fresh = true → ∃ y, liveAt n (underNewTable s) = some y ∧ history y = history t ∧
       y.state = (if t.state = .decode ∧ inTable n s = false then .paused
         else if t.state = .paused ∧ inTable n s = true then .decode else t.state)))

/-- A serving decision, once in an interval, commits a slot table of 256 slots and a prefill queue of at most 64 streams,
each with the prefill-capable slots as its rows, for the next interval: the tables in force, the streams' states and
their histories stay (R26, R264, R267). A stream paused for park_delay_ms, or in READY without a command or frame for ready_park_delay_s,
is to be parked at the next step boundary; a delay of 0 parks none (R252, R268). -/
def Obligations.ServingDecisionsCommitTables : Prop :=
  (∀ s : State, s.str.decided = true → exec .serveNextInterval s = .next s) ∧
  (∀ (s : State) (i : Image), s.awake = true → s.img.image = some i → s.tide.dp = .running → s.tide.prologue = false →
     s.str.decided = false →
     ∃ t x, exec .serveNextInterval s = .next t ∧ t.str.decided = true ∧ t.str.committedTables = some x ∧ x.slots.length = 256 ∧ x.queue.length ≤ 64 ∧
       (∀ q ∈ x.queue, q.2 = prefillSlotCount i ∧ ∃ y, liveAt q.1 t = some y) ∧
       (∀ k n j, x.slots[k]? = some (some (n, j)) → decodeCapable i k = true) ∧
       t.str.tables = s.str.tables ∧ t.str.slots = s.str.slots ∧ t.tide = s.tide ∧ t.img = s.img ∧ t.combs = s.combs ∧
       (∀ k, (t.stack k).mem = (s.stack k).mem) ∧ SameConfig s t ∧
       t.str.live.map (fun p => (p.1, p.2.state, history p.2)) = s.str.live.map (fun p => (p.1, p.2.state, history p.2))) ∧
  (∀ (n : Nat) (s : State) (t : Stream), s.awake = true → s.tide.dp = .running → liveAt n s = some t →
     let parked := setLive n (fun t => { t with event := { t.event with park := true, own := (t.event.close.isSome && t.event.own) } }) s
     (t.state = .paused → bits s.live.w4 255 240 ≠ 0 → exec (.parkDelayExpiry n) s = .next parked) ∧
     (t.state = .ready → bits s.live.w4 239 224 ≠ 0 → exec (.readyParkDelayExpiry n) s = .next parked) ∧
     (bits s.live.w4 255 240 = 0 → exec (.parkDelayExpiry n) s = .next s) ∧
     (bits s.live.w4 239 224 = 0 → exec (.readyParkDelayExpiry n) s = .next s))

/-! ## Words, arithmetic and formats -/

/-- The columns of R122 and the check byte that they give. One flipped bit of a stored word, data or check byte, reads
as the word that was stored, and is counted as corrected; a stored poison word reads as poison (R122 to R124). -/
def Obligations.CheckByteFollowsItsColumns : Prop :=
  ((∀ d < 56, ∃ h, columns[d]? = some h ∧ h < 256 ∧ weight8 h = 3 ∧ ((List.range h).countP fun x => weight8 x = 3) = d) ∧
   (∀ d, 56 ≤ d → d < 64 → ∃ h, columns[d]? = some h ∧ h < 256 ∧ weight8 h = 5 ∧ ((List.range h).countP fun x => weight8 x = 5) = d - 56) ∧
   columns.length = 64 ∧
   ∀ (d : BitVec 64) (i : Nat), (checkByte d).testBit i =
     decide (((List.range 64).countP fun k => d.getLsbD k && (nth columns k 0).testBit i) % 2 = 1)) ∧
  ((∀ (d : BitVec 64) (k : Nat), k < 64 → decodeWord (d ^^^ BitVec.ofNat 64 (2 ^ k)) (checkByte d) = ⟨d, false, true, false⟩) ∧
   (∀ (d : BitVec 64) (k : Nat), k < 8 → decodeWord d (Nat.xor (checkByte d) (2 ^ k)) = ⟨d, false, true, false⟩) ∧
   (∀ d : BitVec 64, decodeWord d (checkByte d) = ⟨d, false, false, false⟩) ∧ decodeWord 0 0xFF = ⟨0, true, false, false⟩)

/-- R123: what a read gives by its syndrome. -/
def Obligations.ReadsDecodeBySyndrome : Prop :=
  ∀ (d : BitVec 64) (c : Nat), c < 256 →
    let y := Nat.xor c (checkByte d)
    (y = 0 → decodeWord d c = ⟨d, false, false, false⟩) ∧
    (weight8 y = 1 → decodeWord d c = ⟨d, false, true, false⟩) ∧
    (∀ k, columns[k]? = some y → decodeWord d c = ⟨d ^^^ BitVec.ofNat 64 (2 ^ k), false, true, false⟩) ∧
    (y = 0xFF → (decodeWord d c).poison = true ∧ (decodeWord d c).corrected = false ∧ (decodeWord d c).uncorrectable = false) ∧
    (y ≠ 0 → weight8 y ≠ 1 → y ∉ columns → y ≠ 0xFF →
      (decodeWord d c).poison = true ∧ (decodeWord d c).corrected = false ∧ (decodeWord d c).uncorrectable = true)

/-- A row or a unit reads as what was written to it, poison as poison, and no other row or unit changes (R122, R124,
R217). -/
def Obligations.MemoryReadsWhatWasWritten : Prop :=
  ∀ (m : Memory) (n k : Nat) (ws : List Word64),
    let r (w : Word64) : WordRead := if w.2 then ⟨0, true, false, false⟩ else ⟨w.1, false, false, false⟩
    (ws.length = 64 → readRow (writeRow m n ws) n = ws.map r ∧ (k ≠ n → readRow (writeRow m n ws) k = readRow m k)) ∧
    (ws.length = 8 → readUnit (writeUnits m n ws) n = ws.map r ∧ (k ≠ n → readUnit (writeUnits m n ws) k = readUnit m k)) ∧
    (Memory.wf m = true → Memory.wf (writeRow m n ws) = true)

/-- Reduction on the way is exact: an entry's sum becomes the sum of what it was and what arrives, its flags their OR,
the input is noted, and every other entry is as before (R80, R149). R119: an integer accumulate wraps in every lane,
exactly and independently of order. An skW add forms the exact sum and the OR of the flags; a sum beyond 72 bits
saturates and sets the overflow flag. The stored words hold it in the layout of R120. -/
def Obligations.AdditionIsExact : Prop :=
  (∀ (flow element input : Nat) (x : SkW) (es : List RedEntry),
     let f : BitVec 16 := BitVec.ofNat 16 flow
     let at_ (l : List RedEntry) (g : BitVec 16) (n : Nat) : Option RedEntry := l.find? fun e => e.flow = g && e.element = n
     let t := addEntry flow element input x es
     (at_ es f element = none → at_ t f element = some ⟨f, element, x.sum, x.overflow, x.poison, [input]⟩) ∧
     (∀ e, at_ es f element = some e → at_ t f element =
       some ⟨f, element, e.sum + x.sum, e.overflow || x.overflow, e.poison || x.poison, e.inputs ++ [input]⟩) ∧
     ∀ g n, (g ≠ f ∨ n ≠ element) → at_ t g n = at_ es g n) ∧
  (∀ (k : Nat) (x y z : BitVec 64), k ≤ 2 →
     let w := 2 ^ (4 + k)
     let lane (v : BitVec 64) (j : Nat) : Nat := bits v (w * j + w - 1) (w * j)
     (∀ j < 64 / w, lane (addLanes w x y) j = (lane x j + lane y j) % 2 ^ w) ∧
     addLanes w x y = addLanes w y x ∧ addLanes w (addLanes w x y) z = addLanes w x (addLanes w y z) ∧
     writeMode 1 k [(x, false)] [(y, false)] = [(addLanes w x y, false)]) ∧
  (∀ x y : SkW,
     let v := x.sum + y.sum
     let z := SkW.add x y
     z.poison = (x.poison || y.poison) ∧
     (-(2 ^ 71) ≤ v → v < 2 ^ 71 → z.sum = v ∧ z.overflow = (x.overflow || y.overflow)) ∧
     (2 ^ 71 ≤ v → z.sum = 2 ^ 71 - 1 ∧ z.overflow = true) ∧ (v < -(2 ^ 71) → z.sum = -(2 ^ 71) ∧ z.overflow = true) ∧
     (-(2 ^ 71) ≤ x.sum → x.sum < 2 ^ 71 → skwOf (SkW.bytes x) = x) ∧
     (∀ w0 w1 : BitVec 64, addToWords x (w0, false) (w1, false) =
       wordsOf (SkW.bytes (SkW.add (skwOf (bytesOf [(w0, false), (w1, false)])) x) ++ List.replicate 6 0)))

/-- R95: the chosen experts have the largest logits, equal logits by lower index. -/
def Obligations.ExpertsWithTheLargestLogits : Prop :=
  ∀ (n : Nat) (logits : List F32),
    let top := topExperts n logits
    let value (e : Nat) : Machine.Dyadic := f32 (nth logits e 0)
    top.length = min n logits.length ∧ top.Nodup ∧ (∀ e ∈ top, e < logits.length) ∧
    ∀ e ∈ top, ∀ g < logits.length, g ∉ top →
      (value g).lt (value e) = true ∨ ((value e).lt (value g) = false ∧ e < g)

/-- Words of R130 and R131 written out field by field. -/
def Obligations.TideWordsDecode : Prop :=
  decodeTide 0x00000000000000000000000000000000 = some (0, .wait) ∧
  decodeTide 0xF00A0000000000000000000000000000 = some (5 * 4, .done) ∧
  decodeTide (0x1#4 ++ 100#13 ++ 0#15 ++ 3#10 ++ 4#10 ++ 7#12 ++ 9#4 ++ 4#3 ++ 1#1 ++ 2#2 ++ 0#54) =
    some (100, .dot ⟨3, 4, 7, 9, 4, true, 2⟩) ∧
  decodeTide (0x2#4 ++ 8191#13 ++ 0#15 ++ 5#12 ++ 0#1 ++ 0#2 ++ 1#1 ++ 0#16 ++ 640#22 ++ 0#42) =
    some (8191, .emit ⟨5, false, 0, true, 0, 640⟩) ∧
  decodeTide (0x3#4 ++ 1#13 ++ 0#15 ++ 1#22 ++ 2#22 ++ 3#12 ++ 1#2 ++ 2#2 ++ 0#36) = some (1, .row ⟨1, 2, 3, 1, 2⟩) ∧
  decodeTide (0x4#4 ++ 2#13 ++ 0#15 ++ 77#38 ++ 6#10 ++ 1#12 ++ 1#1 ++ 9#22 ++ 0#13) = some (2, .shelf ⟨77, 6, 1, true, 9⟩) ∧
  decodeTide (0x5#4 ++ 2#13 ++ 0#15 ++ 11#16 ++ 1#1 ++ 6#10 ++ 2#12 ++ 0#57) = some (2, .fabric ⟨11, true, 6, 2⟩) ∧
  decodeTide (0x6#4 ++ 2#13 ++ 0#15 ++ 14#4 ++ 5#12 ++ 1#4 ++ 11#16 ++ 0#60) = some (2, .rotate ⟨14, 5, 1, 11⟩) ∧
  decodeTide (0x7#4 ++ 3#13 ++ 0#15 ++ 0#96) = some (3, .fbwin) ∧
  decodeTide (0x8#4 ++ 0#13 ++ 0#15 ++ 0#8 ++ 256#9 ++ 2#2 ++ 0#77) = some (0, .slot ⟨0, 256, 2⟩) ∧
  decodeTide (0x9#4 ++ 0#13 ++ 0#15 ++ 0#96) = none ∧ decodeTide (0x0#4 ++ 0#13 ++ 1#15 ++ 0#96) = none ∧
  decodeTide (0x6#4 ++ 2#13 ++ 0#15 ++ 5#4 ++ 5#12 ++ 1#4 ++ 11#16 ++ 0#60) = none ∧
  decodeTide (0x8#4 ++ 0#13 ++ 0#15 ++ 0#8 ++ 257#9 ++ 2#2 ++ 0#77) = none

/-- Every well-formed instruction, with every operand at every value that the encoding admits, decodes from its word
with its issue cycle (R130, R131). -/
def Obligations.TideInstructionsRoundTrip : Prop :=
  ∀ (cycle : BitVec 13) (o : TideOp), o.wellFormed = true → decodeTide (encodeTide cycle o) = some (cycle, o)

/-- A word that decodes is the encoding of what it decodes to, which is well formed: reserved classes, reserved bits
and values out of range are all rejected, and no two words mean the same (R130, R131). -/
def Obligations.TideWordsHaveOneMeaning : Prop :=
  ∀ (w : BitVec 128) (cycle : BitVec 13) (o : TideOp), decodeTide w = some (cycle, o) →
    o.wellFormed = true ∧ encodeTide cycle o = w
end

