-- ==== Sys2Proof/Laws/Memory.lean ====
section
/-! SUPPORT. Laws of the addressed memories: read after write, canonicity of memories with equal contents, and that every
memory operation keeps the canonical form. -/

namespace Sys2Proof.Machine

/-- The canonical form, as a proposition. -/
theorem Memory.wf_iff (m : Memory) :
    Memory.wf m = true ↔ m.Pairwise (fun a b => a.1 < b.1) ∧ ∀ c ∈ m, c.2 ≠ 0 := by
  simp [Memory.wf]

theorem Memory.wf_nil : Memory.wf [] = true := by simp [Memory.wf_iff]

theorem cellsFrom_cons (a : Nat) (b : Byte) (bs : Bytes) :
    cellsFrom a (b :: bs) = if b = 0 then cellsFrom (a + 1) bs else (a, b) :: cellsFrom (a + 1) bs := rfl

/-- The cells of bytes stand at the addresses of the bytes and list no zero. -/
theorem cellsFrom_mem {a : Nat} {bs : Bytes} {c : Host.Cell} (h : c ∈ cellsFrom a bs) :
    a ≤ c.1 ∧ c.1 < a + bs.length ∧ c.2 ≠ 0 := by
  induction bs generalizing a with
  | nil => simp [cellsFrom] at h
  | cons b bs ih =>
    rw [cellsFrom_cons] at h
    rw [List.length_cons]
    split at h
    · have := ih h
      exact ⟨by omega, by omega, this.2.2⟩
    · rcases List.mem_cons.mp h with rfl | h
      · simp_all
      · have := ih h
        exact ⟨by omega, by omega, this.2.2⟩

theorem cellsFrom_pairwise (a : Nat) (bs : Bytes) : (cellsFrom a bs).Pairwise fun x y => x.1 < y.1 := by
  induction bs generalizing a with
  | nil => simp [cellsFrom]
  | cons b bs ih =>
    rw [cellsFrom_cons]
    split
    · exact ih _
    · refine List.pairwise_cons.mpr ⟨fun c hc => ?_, ih _⟩
      have := cellsFrom_mem hc; simp; omega

/-- A store keeps the canonical form. -/
theorem Memory.write_wf {m : Memory} (h : Memory.wf m = true) (a : Nat) (bs : Bytes) : Memory.wf (m.write a bs) = true := by
  rw [Memory.wf_iff] at *
  obtain ⟨hp, hz⟩ := h
  refine ⟨?_, ?_⟩
  · unfold Memory.write
    refine List.pairwise_append.mpr ⟨List.pairwise_append.mpr ⟨hp.filter _, cellsFrom_pairwise a bs, ?_⟩, hp.filter _, ?_⟩
    · intro x hx y hy
      have := cellsFrom_mem hy
      simp at hx; omega
    · intro x hx y hy
      simp at hy
      rcases List.mem_append.mp hx with hx | hx
      · simp at hx; omega
      · have := cellsFrom_mem hx; omega
  · intro c hc
    simp only [Memory.write, List.mem_append, List.mem_filter] at hc
    rcases hc with (⟨hc, -⟩ | hc) | ⟨hc, -⟩
    · exact hz c hc
    · exact (cellsFrom_mem hc).2.2
    · exact hz c hc

theorem writeSlots_wf {m : Memory} (h : Memory.wf m = true) (i : Nat) (ws : List Word64) :
    Memory.wf (writeSlots m i ws) = true := Memory.write_wf h _ _

theorem writeRow_wf {m : Memory} (h : Memory.wf m = true) (i : Nat) (ws : List Word64) :
    Memory.wf (writeRow m i ws) = true := Memory.write_wf h _ _

theorem writeUnits_wf {m : Memory} (h : Memory.wf m = true) (i : Nat) (ws : List Word64) :
    Memory.wf (writeUnits m i ws) = true := Memory.write_wf h _ _

/-- A property that every step of a fold keeps holds after it. -/
theorem foldl_inv {α β : Type} (P : α → Prop) (f : α → β → α) (h : ∀ a b, P a → P (f a b)) (l : List β) (a : α) (ha : P a) :
    P (l.foldl f a) := by
  induction l generalizing a with
  | nil => exact ha
  | cons b l ih => exact ih _ (h a b ha)

/-- A value that no step of a fold changes is the same after it. -/
theorem foldl_keeps {α β γ : Type} (g : α → γ) (f : α → β → α) (h : ∀ a b, g (f a b) = g a) (l : List β) (a : α) :
    g (l.foldl f a) = g a := by
  induction l generalizing a with
  | nil => rfl
  | cons b l ih => rw [List.foldl_cons, ih, h]

theorem copyChannel_wf {m : Memory} (h : Memory.wf m = true) (c : Nat) : Memory.wf (copyChannel m c) = true := by
  unfold copyChannel
  refine foldl_inv (fun m => Memory.wf m = true) _ ?_ _ _ h
  intro m u hm
  dsimp only
  split
  · exact writeUnits_wf hm _ _
  · exact hm

/-! ## Reading -/

theorem lookup_append {α β : Type} [DecidableEq α] (l r : List (α × β)) (k : α) :
    lookup (l ++ r) k = (lookup l k).or (lookup r k) := by
  unfold lookup
  rw [List.find?_append]
  cases List.find? (fun p => decide (p.1 = k)) l <;> rfl

theorem lookup_none {α β : Type} [DecidableEq α] {l : List (α × β)} {k : α} (h : ∀ c ∈ l, c.1 ≠ k) : lookup l k = none := by
  unfold lookup
  rw [List.find?_eq_none.mpr (by simpa using h)]
  rfl

theorem lookup_filter {α β : Type} [DecidableEq α] (l : List (α × β)) (p : α → Bool) (k : α) :
    lookup (l.filter fun c => p c.1) k = if p k then lookup l k else none := by
  induction l with
  | nil => simp [lookup]
  | cons c l ih =>
    unfold lookup at *
    cases hp : p c.1 <;> by_cases hk : c.1 = k
    · subst hk
      rw [List.filter_cons_of_neg (by simp [hp]), ih, hp]
      rfl
    · rw [List.filter_cons_of_neg (by simp [hp]), ih, List.find?_cons_of_neg (by simpa using hk)]
    · subst hk
      simp [hp]
    · rw [List.filter_cons_of_pos (by simp [hp]), List.find?_cons_of_neg (by simpa using hk),
        List.find?_cons_of_neg (by simpa using hk), ih]

theorem cellsFrom_lookup (a : Nat) (bs : Bytes) (x : Nat) :
    (lookup (cellsFrom a bs) x).getD 0 = if a ≤ x then bs.getD (x - a) 0 else 0 := by
  induction bs generalizing a with
  | nil => simp [cellsFrom, lookup]
  | cons b bs ih =>
    have hcons : (lookup (cellsFrom a (b :: bs)) x).getD 0
        = if a = x then b else (lookup (cellsFrom (a + 1) bs) x).getD 0 := by
      rw [cellsFrom_cons]
      by_cases hb : b = 0
      · rw [if_pos hb]
        by_cases hx : a = x
        · rw [if_pos hx, lookup_none, hb]
          · rfl
          · intro c hc; have := cellsFrom_mem hc; omega
        · rw [if_neg hx]
      · rw [if_neg hb]
        by_cases hx : a = x
        · simp [lookup, hx]
        · simp [lookup, hx]
    rw [hcons, ih]
    by_cases hx : a = x
    · subst hx; simp
    · rw [if_neg hx]
      by_cases hle : a ≤ x
      · have h1 : a + 1 ≤ x := by omega
        have h2 : x - a = (x - (a + 1)) + 1 := by omega
        rw [if_pos hle, if_pos h1, h2, List.getD_cons_succ]
      · rw [if_neg hle, if_neg (by omega)]

/-- Read after write: a stored byte reads as stored, every other byte as before. -/
theorem Memory.read_write (m : Memory) (a : Nat) (bs : Bytes) (x : Nat) :
    (m.write a bs).read x = if a ≤ x ∧ x < a + bs.length then bs.getD (x - a) 0 else m.read x := by
  unfold Memory.read Memory.write
  have hc := cellsFrom_lookup a bs x
  have hout (h : x < a ∨ a + bs.length ≤ x) : lookup (cellsFrom a bs) x = none :=
    lookup_none fun c hc => by have := cellsFrom_mem hc; omega
  rw [lookup_append, lookup_append, lookup_filter m (fun k => decide (k < a)) x,
    lookup_filter m (fun k => decide (a + bs.length ≤ k)) x]
  by_cases h1 : x < a
  · have h2 : ¬(a ≤ x ∧ x < a + bs.length) := by omega
    have h3 : ¬(a + bs.length ≤ x) := by omega
    rw [hout (.inl h1), if_neg h2]
    simp [h1, h3]
  · by_cases h2 : x < a + bs.length
    · have h3 : ¬(a + bs.length ≤ x) := by omega
      rw [if_pos (by omega : a ≤ x)] at hc
      rw [if_pos (by omega : a ≤ x ∧ x < a + bs.length), ← hc]
      simp [h1, h3]
    · have h3 : a + bs.length ≤ x := by omega
      have h4 : ¬(a ≤ x ∧ x < a + bs.length) := by omega
      rw [hout (.inr h3), if_neg h4]
      simp [h1, h3]

/-- A stored byte reads as stored. -/
theorem Memory.read_write_in (m : Memory) (a : Nat) (bs : Bytes) (x : Nat) (h : a ≤ x) (h' : x < a + bs.length) :
    (m.write a bs).read x = bs.getD (x - a) 0 := by
  rw [Memory.read_write, if_pos ⟨h, h'⟩]

/-- A byte outside a store reads as before. -/
theorem Memory.read_write_out (m : Memory) (a : Nat) (bs : Bytes) (x : Nat) (h : x < a ∨ a + bs.length ≤ x) :
    (m.write a bs).read x = m.read x := by
  rw [Memory.read_write, if_neg (by omega)]

@[simp] theorem encodeWord_length (d : BitVec 64) (p : Bool) : (encodeWord d p).length = 9 := by
  cases p <;> simp [encodeWord, bytesLE]

/-- A store of words leaves every byte outside their slots as it was. -/
theorem read_writeSlots_out (m : Memory) (i : Nat) (ws : List Word64) (x : Nat)
    (h : x < 9 * i ∨ 9 * (i + ws.length) ≤ x) : (writeSlots m i ws).read x = m.read x := by
  have hl : (ws.flatMap fun w => encodeWord w.1 w.2).length = 9 * ws.length := by
    induction ws with
    | nil => rfl
    | cons w ws ih => simp [List.flatMap_cons] at *; omega
  exact Memory.read_write_out _ _ _ _ (by rw [hl]; omega)

end Sys2Proof.Machine
end

