-- ==== Sys2Proof/Laws/State.lean ====
section
/-! SUPPORT. The frame of every shared operation on State: which groups it leaves as they were, one conjunction per
operation, each conjunct a simp lemma. A group that a conjunction does not list is one that the operation may write. -/

namespace Sys2Proof.Machine

@[simp] theorem send_frame (x : Sent) (s : State) :
    (send x s).ident = s.ident ∧ (send x s).cfg = s.cfg ∧ (send x s).live = s.live ∧ (send x s).flash = s.flash ∧
    (send x s).mbox = s.mbox ∧ (send x s).pres = s.pres ∧ (send x s).tide = s.tide ∧ (send x s).img = s.img ∧
    (send x s).combs = s.combs ∧ (send x s).fabric = s.fabric ∧ (send x s).shelf = s.shelf ∧ (send x s).cove = s.cove ∧
    (send x s).str = s.str ∧ (send x s).err = s.err ∧ (send x s).pow = s.pow ∧ (send x s).cool = s.cool ∧
    (send x s).draws = s.draws ∧ (send x s).pending = s.pending :=
  by simp [send, apply_ite State.ident, apply_ite State.cfg, apply_ite State.live, apply_ite State.flash,
    apply_ite State.mbox, apply_ite State.pres, apply_ite State.tide, apply_ite State.img, apply_ite State.combs,
    apply_ite State.fabric, apply_ite State.shelf, apply_ite State.cove, apply_ite State.str, apply_ite State.err,
    apply_ite State.pow, apply_ite State.cool, apply_ite State.draws, apply_ite State.pending]

@[simp] theorem received_frame (s : State) :
    (received s).ident = s.ident ∧ (received s).cfg = s.cfg ∧ (received s).live = s.live ∧ (received s).flash = s.flash ∧
    (received s).mbox = s.mbox ∧ (received s).outbox = s.outbox ∧ (received s).pres = s.pres ∧ (received s).tide = s.tide ∧
    (received s).img = s.img ∧ (received s).combs = s.combs ∧ (received s).fabric = s.fabric ∧ (received s).shelf = s.shelf ∧
    (received s).cove = s.cove ∧ (received s).str = s.str ∧ (received s).err = s.err ∧ (received s).pow = s.pow ∧
    (received s).cool = s.cool ∧ (received s).draws = s.draws ∧ (received s).pending = s.pending :=
  ⟨rfl, rfl, rfl, rfl, rfl, rfl, rfl, rfl, rfl, rfl, rfl, rfl, rfl, rfl, rfl, rfl, rfl, rfl, rfl⟩

@[simp] theorem countMailbox_frame (mb : Nat) (f : MailboxRecord → MailboxRecord) (s : State) :
    (countMailbox mb f s).ident = s.ident ∧ (countMailbox mb f s).cfg = s.cfg ∧ (countMailbox mb f s).live = s.live ∧
    (countMailbox mb f s).flash = s.flash ∧ (countMailbox mb f s).outbox = s.outbox ∧ (countMailbox mb f s).pres = s.pres ∧
    (countMailbox mb f s).tide = s.tide ∧ (countMailbox mb f s).img = s.img ∧ (countMailbox mb f s).combs = s.combs ∧
    (countMailbox mb f s).fabric = s.fabric ∧ (countMailbox mb f s).shelf = s.shelf ∧ (countMailbox mb f s).cove = s.cove ∧
    (countMailbox mb f s).str = s.str ∧ (countMailbox mb f s).err = s.err ∧ (countMailbox mb f s).eth = s.eth ∧
    (countMailbox mb f s).pow = s.pow ∧ (countMailbox mb f s).cool = s.cool ∧ (countMailbox mb f s).draws = s.draws ∧
    (countMailbox mb f s).pending = s.pending :=
  ⟨rfl, rfl, rfl, rfl, rfl, rfl, rfl, rfl, rfl, rfl, rfl, rfl, rfl, rfl, rfl, rfl, rfl, rfl, rfl⟩

@[simp] theorem raiseNotice_frame (code : Nat) (severity : Option Nat) (kind subject related : Nat) (detail : Nat) (s : State) :
    (raiseNotice code severity kind subject related detail s).ident = s.ident ∧
    (raiseNotice code severity kind subject related detail s).cfg = s.cfg ∧
    (raiseNotice code severity kind subject related detail s).live = s.live ∧
    (raiseNotice code severity kind subject related detail s).flash = s.flash ∧
    (raiseNotice code severity kind subject related detail s).pres = s.pres ∧
    (raiseNotice code severity kind subject related detail s).tide = s.tide ∧
    (raiseNotice code severity kind subject related detail s).img = s.img ∧
    (raiseNotice code severity kind subject related detail s).combs = s.combs ∧
    (raiseNotice code severity kind subject related detail s).fabric = s.fabric ∧
    (raiseNotice code severity kind subject related detail s).shelf = s.shelf ∧
    (raiseNotice code severity kind subject related detail s).cove = s.cove ∧
    (raiseNotice code severity kind subject related detail s).str = s.str ∧
    (raiseNotice code severity kind subject related detail s).err = s.err ∧
    (raiseNotice code severity kind subject related detail s).pow = s.pow ∧
    (raiseNotice code severity kind subject related detail s).cool = s.cool ∧
    (raiseNotice code severity kind subject related detail s).pending = s.pending :=
  ⟨by cases severity <;> simp [raiseNotice, draw, apply_ite State.ident],
   by cases severity <;> simp [raiseNotice, draw, apply_ite State.cfg],
   by cases severity <;> simp [raiseNotice, draw, apply_ite State.live],
   by cases severity <;> simp [raiseNotice, draw, apply_ite State.flash],
   by cases severity <;> simp [raiseNotice, draw, apply_ite State.pres],
   by cases severity <;> simp [raiseNotice, draw, apply_ite State.tide],
   by cases severity <;> simp [raiseNotice, draw, apply_ite State.img],
   by cases severity <;> simp [raiseNotice, draw, apply_ite State.combs],
   by cases severity <;> simp [raiseNotice, draw, apply_ite State.fabric],
   by cases severity <;> simp [raiseNotice, draw, apply_ite State.shelf],
   by cases severity <;> simp [raiseNotice, draw, apply_ite State.cove],
   by cases severity <;> simp [raiseNotice, draw, apply_ite State.str],
   by cases severity <;> simp [raiseNotice, draw, apply_ite State.err],
   by cases severity <;> simp [raiseNotice, draw, apply_ite State.pow],
   by cases severity <;> simp [raiseNotice, draw, apply_ite State.cool],
   by cases severity <;> simp [raiseNotice, draw, apply_ite State.pending]⟩

@[simp] theorem sendWaitingNotices_frame (s : State) :
    (sendWaitingNotices s).ident = s.ident ∧ (sendWaitingNotices s).cfg = s.cfg ∧ (sendWaitingNotices s).live = s.live ∧
    (sendWaitingNotices s).flash = s.flash ∧ (sendWaitingNotices s).pres = s.pres ∧ (sendWaitingNotices s).tide = s.tide ∧
    (sendWaitingNotices s).img = s.img ∧ (sendWaitingNotices s).combs = s.combs ∧ (sendWaitingNotices s).fabric = s.fabric ∧
    (sendWaitingNotices s).shelf = s.shelf ∧ (sendWaitingNotices s).cove = s.cove ∧ (sendWaitingNotices s).str = s.str ∧
    (sendWaitingNotices s).err = s.err ∧ (sendWaitingNotices s).pow = s.pow ∧ (sendWaitingNotices s).cool = s.cool ∧
    (sendWaitingNotices s).draws = s.draws ∧ (sendWaitingNotices s).pending = s.pending :=
  ⟨by unfold sendWaitingNotices; exact foldl_keeps State.ident _ (fun s x => by simp [apply_ite State.ident]) _ _,
   by unfold sendWaitingNotices; exact foldl_keeps State.cfg _ (fun s x => by simp [apply_ite State.cfg]) _ _,
   by unfold sendWaitingNotices; exact foldl_keeps State.live _ (fun s x => by simp [apply_ite State.live]) _ _,
   by unfold sendWaitingNotices; exact foldl_keeps State.flash _ (fun s x => by simp [apply_ite State.flash]) _ _,
   by unfold sendWaitingNotices; exact foldl_keeps State.pres _ (fun s x => by simp [apply_ite State.pres]) _ _,
   by unfold sendWaitingNotices; exact foldl_keeps State.tide _ (fun s x => by simp [apply_ite State.tide]) _ _,
   by unfold sendWaitingNotices; exact foldl_keeps State.img _ (fun s x => by simp [apply_ite State.img]) _ _,
   by unfold sendWaitingNotices; exact foldl_keeps State.combs _ (fun s x => by simp [apply_ite State.combs]) _ _,
   by unfold sendWaitingNotices; exact foldl_keeps State.fabric _ (fun s x => by simp [apply_ite State.fabric]) _ _,
   by unfold sendWaitingNotices; exact foldl_keeps State.shelf _ (fun s x => by simp [apply_ite State.shelf]) _ _,
   by unfold sendWaitingNotices; exact foldl_keeps State.cove _ (fun s x => by simp [apply_ite State.cove]) _ _,
   by unfold sendWaitingNotices; exact foldl_keeps State.str _ (fun s x => by simp [apply_ite State.str]) _ _,
   by unfold sendWaitingNotices; exact foldl_keeps State.err _ (fun s x => by simp [apply_ite State.err]) _ _,
   by unfold sendWaitingNotices; exact foldl_keeps State.pow _ (fun s x => by simp [apply_ite State.pow]) _ _,
   by unfold sendWaitingNotices; exact foldl_keeps State.cool _ (fun s x => by simp [apply_ite State.cool]) _ _,
   by unfold sendWaitingNotices; exact foldl_keeps State.draws _ (fun s x => by simp [apply_ite State.draws]) _ _,
   by unfold sendWaitingNotices; exact foldl_keeps State.pending _ (fun s x => by simp [apply_ite State.pending]) _ _⟩

@[simp] theorem discardStep_frame (s : State) :
    (discardStep s).ident = s.ident ∧ (discardStep s).cfg = s.cfg ∧ (discardStep s).live = s.live ∧
    (discardStep s).flash = s.flash ∧ (discardStep s).mbox = s.mbox ∧ (discardStep s).outbox = s.outbox ∧
    (discardStep s).pres = s.pres ∧ (discardStep s).tide = s.tide ∧ (discardStep s).img = s.img ∧
    (discardStep s).shelf = s.shelf ∧ (discardStep s).cove = s.cove ∧ (discardStep s).eth = s.eth ∧
    (discardStep s).pow = s.pow ∧ (discardStep s).cool = s.cool ∧ (discardStep s).draws = s.draws ∧
    (discardStep s).pending = s.pending :=
  ⟨rfl, rfl, rfl, rfl, rfl, rfl, rfl, rfl, rfl, rfl, rfl, rfl, rfl, rfl, rfl, rfl⟩

@[simp] theorem halt_frame (cause : HaltCause) (s : State) :
    (halt cause s).ident = s.ident ∧ (halt cause s).cfg = s.cfg ∧ (halt cause s).live = s.live ∧
    (halt cause s).flash = s.flash ∧ (halt cause s).mbox = s.mbox ∧ (halt cause s).outbox = s.outbox ∧
    (halt cause s).pres = s.pres ∧ (halt cause s).img = s.img ∧ (halt cause s).shelf = s.shelf ∧
    (halt cause s).cove = s.cove ∧ (halt cause s).eth = s.eth ∧ (halt cause s).pow = s.pow ∧ (halt cause s).cool = s.cool ∧
    (halt cause s).draws = s.draws ∧ (halt cause s).pending = s.pending :=
  ⟨rfl, rfl, rfl, rfl, rfl, rfl, rfl, rfl, rfl, rfl, rfl, rfl, rfl, rfl, rfl⟩

@[simp] theorem dropImage_frame (s : State) :
    (dropImage s).ident = s.ident ∧ (dropImage s).cfg = s.cfg ∧ (dropImage s).live = s.live ∧ (dropImage s).flash = s.flash ∧
    (dropImage s).mbox = s.mbox ∧ (dropImage s).outbox = s.outbox ∧ (dropImage s).pres = s.pres ∧
    (dropImage s).shelf = s.shelf ∧ (dropImage s).cove = s.cove ∧ (dropImage s).eth = s.eth ∧ (dropImage s).pow = s.pow ∧
    (dropImage s).cool = s.cool ∧ (dropImage s).draws = s.draws ∧ (dropImage s).pending = s.pending :=
  ⟨rfl, rfl, rfl, rfl, rfl, rfl, rfl, rfl, rfl, rfl, rfl, rfl, rfl, rfl⟩

@[simp] theorem countSlack_frame (cause : Nat) (f : SlackRecord → SlackRecord) (s : State) :
    (countSlack cause f s).ident = s.ident ∧ (countSlack cause f s).cfg = s.cfg ∧ (countSlack cause f s).live = s.live ∧
    (countSlack cause f s).flash = s.flash ∧ (countSlack cause f s).mbox = s.mbox ∧ (countSlack cause f s).outbox = s.outbox ∧
    (countSlack cause f s).pres = s.pres ∧ (countSlack cause f s).img = s.img ∧ (countSlack cause f s).combs = s.combs ∧
    (countSlack cause f s).fabric = s.fabric ∧ (countSlack cause f s).shelf = s.shelf ∧ (countSlack cause f s).cove = s.cove ∧
    (countSlack cause f s).str = s.str ∧ (countSlack cause f s).err = s.err ∧ (countSlack cause f s).eth = s.eth ∧
    (countSlack cause f s).pow = s.pow ∧ (countSlack cause f s).cool = s.cool ∧ (countSlack cause f s).draws = s.draws ∧
    (countSlack cause f s).pending = s.pending :=
  ⟨rfl, rfl, rfl, rfl, rfl, rfl, rfl, rfl, rfl, rfl, rfl, rfl, rfl, rfl, rfl, rfl, rfl, rfl, rfl⟩

@[simp] theorem passSlack_frame (n : Nat) (s : State) :
    (passSlack n s).ident = s.ident ∧ (passSlack n s).cfg = s.cfg ∧ (passSlack n s).live = s.live ∧
    (passSlack n s).flash = s.flash ∧ (passSlack n s).mbox = s.mbox ∧ (passSlack n s).outbox = s.outbox ∧
    (passSlack n s).pres = s.pres ∧ (passSlack n s).img = s.img ∧ (passSlack n s).combs = s.combs ∧
    (passSlack n s).fabric = s.fabric ∧ (passSlack n s).shelf = s.shelf ∧ (passSlack n s).cove = s.cove ∧
    (passSlack n s).str = s.str ∧ (passSlack n s).err = s.err ∧ (passSlack n s).eth = s.eth ∧ (passSlack n s).pow = s.pow ∧
    (passSlack n s).cool = s.cool ∧ (passSlack n s).draws = s.draws ∧ (passSlack n s).pending = s.pending :=
  by refine ⟨?_, ?_, ?_, ?_, ?_, ?_, ?_, ?_, ?_, ?_, ?_, ?_, ?_, ?_, ?_, ?_, ?_, ?_, ?_⟩ <;> (unfold passSlack; split <;> rfl)

@[simp] theorem raiseHold_frame (cause : BitVec 8) (source : Source) (known : Option Nat) (s : State) :
    (raiseHold cause source known s).ident = s.ident ∧ (raiseHold cause source known s).cfg = s.cfg ∧
    (raiseHold cause source known s).live = s.live ∧ (raiseHold cause source known s).flash = s.flash ∧
    (raiseHold cause source known s).mbox = s.mbox ∧ (raiseHold cause source known s).outbox = s.outbox ∧
    (raiseHold cause source known s).pres = s.pres ∧ (raiseHold cause source known s).img = s.img ∧
    (raiseHold cause source known s).combs = s.combs ∧ (raiseHold cause source known s).fabric = s.fabric ∧
    (raiseHold cause source known s).shelf = s.shelf ∧ (raiseHold cause source known s).cove = s.cove ∧
    (raiseHold cause source known s).str = s.str ∧ (raiseHold cause source known s).err = s.err ∧
    (raiseHold cause source known s).eth = s.eth ∧ (raiseHold cause source known s).pow = s.pow ∧
    (raiseHold cause source known s).cool = s.cool ∧ (raiseHold cause source known s).draws = s.draws ∧
    (raiseHold cause source known s).pending = s.pending :=
  ⟨rfl, rfl, rfl, rfl, rfl, rfl, rfl, rfl, rfl, rfl, rfl, rfl, rfl, rfl, rfl, rfl, rfl, rfl, rfl⟩

@[simp] theorem releaseHold_frame (i : Nat) (s : State) :
    (releaseHold i s).ident = s.ident ∧ (releaseHold i s).cfg = s.cfg ∧ (releaseHold i s).live = s.live ∧
    (releaseHold i s).flash = s.flash ∧ (releaseHold i s).mbox = s.mbox ∧ (releaseHold i s).outbox = s.outbox ∧
    (releaseHold i s).pres = s.pres ∧ (releaseHold i s).img = s.img ∧ (releaseHold i s).combs = s.combs ∧
    (releaseHold i s).fabric = s.fabric ∧ (releaseHold i s).shelf = s.shelf ∧ (releaseHold i s).cove = s.cove ∧
    (releaseHold i s).str = s.str ∧ (releaseHold i s).err = s.err ∧ (releaseHold i s).eth = s.eth ∧
    (releaseHold i s).pow = s.pow ∧ (releaseHold i s).cool = s.cool ∧ (releaseHold i s).draws = s.draws ∧
    (releaseHold i s).pending = s.pending :=
  by refine ⟨?_, ?_, ?_, ?_, ?_, ?_, ?_, ?_, ?_, ?_, ?_, ?_, ?_, ?_, ?_, ?_, ?_, ?_, ?_⟩ <;> (unfold releaseHold; split <;> rfl)

@[simp] theorem progress_frame (source : Source) (s : State) :
    (progress source s).ident = s.ident ∧ (progress source s).cfg = s.cfg ∧ (progress source s).live = s.live ∧
    (progress source s).flash = s.flash ∧ (progress source s).mbox = s.mbox ∧ (progress source s).outbox = s.outbox ∧
    (progress source s).pres = s.pres ∧ (progress source s).img = s.img ∧ (progress source s).combs = s.combs ∧
    (progress source s).fabric = s.fabric ∧ (progress source s).shelf = s.shelf ∧ (progress source s).cove = s.cove ∧
    (progress source s).str = s.str ∧ (progress source s).err = s.err ∧ (progress source s).eth = s.eth ∧
    (progress source s).pow = s.pow ∧ (progress source s).cool = s.cool ∧ (progress source s).draws = s.draws ∧
    (progress source s).pending = s.pending :=
  ⟨rfl, rfl, rfl, rfl, rfl, rfl, rfl, rfl, rfl, rfl, rfl, rfl, rfl, rfl, rfl, rfl, rfl, rfl, rfl⟩

@[simp] theorem quarantine_frame (d : Digest) (record : BitVec 1024) (s : State) :
    (quarantine d record s).ident = s.ident ∧ (quarantine d record s).live = s.live ∧ (quarantine d record s).pres = s.pres ∧
    (quarantine d record s).tide = s.tide ∧ (quarantine d record s).img = s.img ∧ (quarantine d record s).combs = s.combs ∧
    (quarantine d record s).fabric = s.fabric ∧ (quarantine d record s).shelf = s.shelf ∧
    (quarantine d record s).cove = s.cove ∧ (quarantine d record s).str = s.str ∧ (quarantine d record s).err = s.err ∧
    (quarantine d record s).pow = s.pow ∧ (quarantine d record s).cool = s.cool ∧
    (quarantine d record s).pending = s.pending :=
  by refine ⟨?_, ?_, ?_, ?_, ?_, ?_, ?_, ?_, ?_, ?_, ?_, ?_, ?_, ?_⟩ <;> (unfold quarantine; dsimp only; (repeat' split) <;> simp)

@[simp] theorem recordFault_frame (f : FaultSite) (rep : Bool) (s : State) :
    (recordFault f rep s).ident = s.ident ∧ (recordFault f rep s).live = s.live ∧ (recordFault f rep s).pres = s.pres ∧
    (recordFault f rep s).tide = s.tide ∧ (recordFault f rep s).img = s.img ∧ (recordFault f rep s).combs = s.combs ∧
    (recordFault f rep s).shelf = s.shelf ∧ (recordFault f rep s).cove = s.cove ∧ (recordFault f rep s).str = s.str ∧
    (recordFault f rep s).pow = s.pow ∧ (recordFault f rep s).cool = s.cool ∧ (recordFault f rep s).pending = s.pending :=
  by simp [recordFault]

@[simp] theorem countOther_frame (s : State) :
    (countOther s).ident = s.ident ∧ (countOther s).live = s.live ∧ (countOther s).pres = s.pres ∧
    (countOther s).tide = s.tide ∧ (countOther s).img = s.img ∧ (countOther s).combs = s.combs ∧
    (countOther s).shelf = s.shelf ∧ (countOther s).cove = s.cove ∧ (countOther s).str = s.str ∧
    (countOther s).pow = s.pow ∧ (countOther s).cool = s.cool ∧ (countOther s).pending = s.pending :=
  ⟨rfl, rfl, rfl, rfl, rfl, rfl, rfl, rfl, rfl, rfl, rfl, rfl⟩

@[simp] theorem scheduleFault_frame (f : FaultSite) (s : State) :
    (scheduleFault f s).ident = s.ident ∧ (scheduleFault f s).live = s.live ∧ (scheduleFault f s).pres = s.pres ∧
    (scheduleFault f s).img = s.img ∧ (scheduleFault f s).shelf = s.shelf ∧ (scheduleFault f s).cove = s.cove ∧
    (scheduleFault f s).pow = s.pow ∧ (scheduleFault f s).cool = s.cool ∧ (scheduleFault f s).pending = s.pending :=
  by simp [scheduleFault, apply_ite State.ident, apply_ite State.live, apply_ite State.pres, apply_ite State.img,
    apply_ite State.shelf, apply_ite State.cove, apply_ite State.pow, apply_ite State.cool, apply_ite State.pending]

@[simp] theorem reportPoison_frame (r : PoisonReport) (s : State) :
    (reportPoison r s).ident = s.ident ∧ (reportPoison r s).cfg = s.cfg ∧ (reportPoison r s).live = s.live ∧
    (reportPoison r s).flash = s.flash ∧ (reportPoison r s).mbox = s.mbox ∧ (reportPoison r s).outbox = s.outbox ∧
    (reportPoison r s).pres = s.pres ∧ (reportPoison r s).tide = s.tide ∧ (reportPoison r s).img = s.img ∧
    (reportPoison r s).combs = s.combs ∧ (reportPoison r s).fabric = s.fabric ∧ (reportPoison r s).shelf = s.shelf ∧
    (reportPoison r s).cove = s.cove ∧ (reportPoison r s).str = s.str ∧ (reportPoison r s).eth = s.eth ∧
    (reportPoison r s).pow = s.pow ∧ (reportPoison r s).cool = s.cool ∧ (reportPoison r s).draws = s.draws ∧
    (reportPoison r s).pending = s.pending :=
  ⟨rfl, rfl, rfl, rfl, rfl, rfl, rfl, rfl, rfl, rfl, rfl, rfl, rfl, rfl, rfl, rfl, rfl, rfl, rfl⟩

@[simp] theorem setComb_frame (p : Nat) (f : Comb → Comb) (s : State) :
    (setComb p f s).ident = s.ident ∧ (setComb p f s).cfg = s.cfg ∧ (setComb p f s).live = s.live ∧
    (setComb p f s).flash = s.flash ∧ (setComb p f s).mbox = s.mbox ∧ (setComb p f s).outbox = s.outbox ∧
    (setComb p f s).pres = s.pres ∧ (setComb p f s).tide = s.tide ∧ (setComb p f s).img = s.img ∧
    (setComb p f s).fabric = s.fabric ∧ (setComb p f s).shelf = s.shelf ∧ (setComb p f s).cove = s.cove ∧
    (setComb p f s).str = s.str ∧ (setComb p f s).err = s.err ∧ (setComb p f s).eth = s.eth ∧ (setComb p f s).pow = s.pow ∧
    (setComb p f s).cool = s.cool ∧ (setComb p f s).draws = s.draws ∧ (setComb p f s).pending = s.pending :=
  ⟨rfl, rfl, rfl, rfl, rfl, rfl, rfl, rfl, rfl, rfl, rfl, rfl, rfl, rfl, rfl, rfl, rfl, rfl, rfl⟩

@[simp] theorem setStack_frame (n : Nat) (f : Stack → Stack) (s : State) :
    (setStack n f s).ident = s.ident ∧ (setStack n f s).cfg = s.cfg ∧ (setStack n f s).live = s.live ∧
    (setStack n f s).flash = s.flash ∧ (setStack n f s).mbox = s.mbox ∧ (setStack n f s).outbox = s.outbox ∧
    (setStack n f s).pres = s.pres ∧ (setStack n f s).tide = s.tide ∧ (setStack n f s).img = s.img ∧
    (setStack n f s).combs = s.combs ∧ (setStack n f s).fabric = s.fabric ∧ (setStack n f s).cove = s.cove ∧
    (setStack n f s).str = s.str ∧ (setStack n f s).err = s.err ∧ (setStack n f s).eth = s.eth ∧
    (setStack n f s).pow = s.pow ∧ (setStack n f s).cool = s.cool ∧ (setStack n f s).draws = s.draws ∧
    (setStack n f s).pending = s.pending :=
  ⟨rfl, rfl, rfl, rfl, rfl, rfl, rfl, rfl, rfl, rfl, rfl, rfl, rfl, rfl, rfl, rfl, rfl, rfl, rfl⟩

@[simp] theorem countLayer_frame (l : Nat) (f : LayerRecord → LayerRecord) (s : State) :
    (countLayer l f s).ident = s.ident ∧ (countLayer l f s).cfg = s.cfg ∧ (countLayer l f s).live = s.live ∧
    (countLayer l f s).flash = s.flash ∧ (countLayer l f s).mbox = s.mbox ∧ (countLayer l f s).outbox = s.outbox ∧
    (countLayer l f s).pres = s.pres ∧ (countLayer l f s).tide = s.tide ∧ (countLayer l f s).img = s.img ∧
    (countLayer l f s).combs = s.combs ∧ (countLayer l f s).fabric = s.fabric ∧ (countLayer l f s).shelf = s.shelf ∧
    (countLayer l f s).cove = s.cove ∧ (countLayer l f s).str = s.str ∧ (countLayer l f s).eth = s.eth ∧
    (countLayer l f s).pow = s.pow ∧ (countLayer l f s).cool = s.cool ∧ (countLayer l f s).draws = s.draws ∧
    (countLayer l f s).pending = s.pending :=
  ⟨rfl, rfl, rfl, rfl, rfl, rfl, rfl, rfl, rfl, rfl, rfl, rfl, rfl, rfl, rfl, rfl, rfl, rfl, rfl⟩

@[simp] theorem writeConfig_frame (pending : Bool) (press : PtpTime) (content : Cfg) (undo : Option Cfg) (s : State) :
    (writeConfig pending press content undo s).ident = s.ident ∧ (writeConfig pending press content undo s).cfg = s.cfg ∧
    (writeConfig pending press content undo s).live = s.live ∧ (writeConfig pending press content undo s).mbox = s.mbox ∧
    (writeConfig pending press content undo s).outbox = s.outbox ∧ (writeConfig pending press content undo s).pres = s.pres ∧
    (writeConfig pending press content undo s).tide = s.tide ∧ (writeConfig pending press content undo s).img = s.img ∧
    (writeConfig pending press content undo s).combs = s.combs ∧
    (writeConfig pending press content undo s).fabric = s.fabric ∧
    (writeConfig pending press content undo s).shelf = s.shelf ∧ (writeConfig pending press content undo s).cove = s.cove ∧
    (writeConfig pending press content undo s).str = s.str ∧ (writeConfig pending press content undo s).err = s.err ∧
    (writeConfig pending press content undo s).eth = s.eth ∧ (writeConfig pending press content undo s).pow = s.pow ∧
    (writeConfig pending press content undo s).cool = s.cool ∧ (writeConfig pending press content undo s).draws = s.draws ∧
    (writeConfig pending press content undo s).pending = s.pending :=
  by refine ⟨?_, ?_, ?_, ?_, ?_, ?_, ?_, ?_, ?_, ?_, ?_, ?_, ?_, ?_, ?_, ?_, ?_, ?_, ?_⟩ <;> (unfold writeConfig; split <;> rfl)

@[simp] theorem commitCopy_frame (press : PtpTime) (content : Cfg) (s : State) :
    (commitCopy press content s).ident = s.ident ∧ (commitCopy press content s).cfg = s.cfg ∧
    (commitCopy press content s).live = s.live ∧ (commitCopy press content s).mbox = s.mbox ∧
    (commitCopy press content s).outbox = s.outbox ∧ (commitCopy press content s).pres = s.pres ∧
    (commitCopy press content s).tide = s.tide ∧ (commitCopy press content s).img = s.img ∧
    (commitCopy press content s).combs = s.combs ∧ (commitCopy press content s).fabric = s.fabric ∧
    (commitCopy press content s).shelf = s.shelf ∧ (commitCopy press content s).cove = s.cove ∧
    (commitCopy press content s).str = s.str ∧ (commitCopy press content s).err = s.err ∧
    (commitCopy press content s).eth = s.eth ∧ (commitCopy press content s).pow = s.pow ∧
    (commitCopy press content s).cool = s.cool ∧ (commitCopy press content s).draws = s.draws ∧
    (commitCopy press content s).pending = s.pending :=
  by refine ⟨?_, ?_, ?_, ?_, ?_, ?_, ?_, ?_, ?_, ?_, ?_, ?_, ?_, ?_, ?_, ?_, ?_, ?_, ?_⟩ <;> (unfold commitCopy; split <;> rfl)

@[simp] theorem writeCommitted_frame (s : State) :
    (writeCommitted s).ident = s.ident ∧ (writeCommitted s).cfg = s.cfg ∧ (writeCommitted s).live = s.live ∧
    (writeCommitted s).mbox = s.mbox ∧ (writeCommitted s).outbox = s.outbox ∧ (writeCommitted s).pres = s.pres ∧
    (writeCommitted s).tide = s.tide ∧ (writeCommitted s).img = s.img ∧ (writeCommitted s).combs = s.combs ∧
    (writeCommitted s).fabric = s.fabric ∧ (writeCommitted s).shelf = s.shelf ∧ (writeCommitted s).cove = s.cove ∧
    (writeCommitted s).str = s.str ∧ (writeCommitted s).err = s.err ∧ (writeCommitted s).eth = s.eth ∧
    (writeCommitted s).pow = s.pow ∧ (writeCommitted s).cool = s.cool ∧ (writeCommitted s).draws = s.draws ∧
    (writeCommitted s).pending = s.pending :=
  by refine ⟨?_, ?_, ?_, ?_, ?_, ?_, ?_, ?_, ?_, ?_, ?_, ?_, ?_, ?_, ?_, ?_, ?_, ?_, ?_⟩ <;> (unfold writeCommitted; (repeat' split) <;> simp)

@[simp] theorem makeDurable_frame (s : State) :
    (makeDurable s).ident = s.ident ∧ (makeDurable s).cfg = s.cfg ∧ (makeDurable s).live = s.live ∧
    (makeDurable s).mbox = s.mbox ∧ (makeDurable s).outbox = s.outbox ∧ (makeDurable s).pres = s.pres ∧
    (makeDurable s).tide = s.tide ∧ (makeDurable s).img = s.img ∧ (makeDurable s).combs = s.combs ∧
    (makeDurable s).fabric = s.fabric ∧ (makeDurable s).shelf = s.shelf ∧ (makeDurable s).cove = s.cove ∧
    (makeDurable s).str = s.str ∧ (makeDurable s).err = s.err ∧ (makeDurable s).eth = s.eth ∧ (makeDurable s).pow = s.pow ∧
    (makeDurable s).cool = s.cool ∧ (makeDurable s).draws = s.draws ∧ (makeDurable s).pending = s.pending :=
  by simp [makeDurable]

@[simp] theorem setStreamById_frame (id : Nat) (f : Stream → Stream) (s : State) :
    (setStreamById id f s).ident = s.ident ∧ (setStreamById id f s).cfg = s.cfg ∧ (setStreamById id f s).live = s.live ∧
    (setStreamById id f s).flash = s.flash ∧ (setStreamById id f s).mbox = s.mbox ∧ (setStreamById id f s).outbox = s.outbox ∧
    (setStreamById id f s).pres = s.pres ∧ (setStreamById id f s).tide = s.tide ∧ (setStreamById id f s).img = s.img ∧
    (setStreamById id f s).combs = s.combs ∧ (setStreamById id f s).fabric = s.fabric ∧
    (setStreamById id f s).shelf = s.shelf ∧ (setStreamById id f s).cove = s.cove ∧ (setStreamById id f s).err = s.err ∧
    (setStreamById id f s).eth = s.eth ∧ (setStreamById id f s).pow = s.pow ∧ (setStreamById id f s).cool = s.cool ∧
    (setStreamById id f s).draws = s.draws ∧ (setStreamById id f s).pending = s.pending :=
  ⟨rfl, rfl, rfl, rfl, rfl, rfl, rfl, rfl, rfl, rfl, rfl, rfl, rfl, rfl, rfl, rfl, rfl, rfl, rfl⟩

@[simp] theorem noteChange_frame (k : ObjKey) (c : Change) (s : State) :
    (noteChange k c s).ident = s.ident ∧ (noteChange k c s).cfg = s.cfg ∧ (noteChange k c s).live = s.live ∧
    (noteChange k c s).flash = s.flash ∧ (noteChange k c s).outbox = s.outbox ∧ (noteChange k c s).pres = s.pres ∧
    (noteChange k c s).tide = s.tide ∧ (noteChange k c s).img = s.img ∧ (noteChange k c s).combs = s.combs ∧
    (noteChange k c s).fabric = s.fabric ∧ (noteChange k c s).shelf = s.shelf ∧ (noteChange k c s).err = s.err ∧
    (noteChange k c s).eth = s.eth ∧ (noteChange k c s).pow = s.pow ∧ (noteChange k c s).cool = s.cool ∧
    (noteChange k c s).draws = s.draws ∧ (noteChange k c s).pending = s.pending :=
  by refine ⟨?_, ?_, ?_, ?_, ?_, ?_, ?_, ?_, ?_, ?_, ?_, ?_, ?_, ?_, ?_, ?_, ?_⟩ <;> (unfold noteChange; split <;> rfl)

@[simp] theorem commitChange_frame (k : ObjKey) (mb : BitVec 16) (s : State) :
    (commitChange k mb s).ident = s.ident ∧ (commitChange k mb s).cfg = s.cfg ∧ (commitChange k mb s).live = s.live ∧
    (commitChange k mb s).flash = s.flash ∧ (commitChange k mb s).outbox = s.outbox ∧ (commitChange k mb s).pres = s.pres ∧
    (commitChange k mb s).tide = s.tide ∧ (commitChange k mb s).img = s.img ∧ (commitChange k mb s).combs = s.combs ∧
    (commitChange k mb s).fabric = s.fabric ∧ (commitChange k mb s).shelf = s.shelf ∧ (commitChange k mb s).err = s.err ∧
    (commitChange k mb s).eth = s.eth ∧ (commitChange k mb s).pow = s.pow ∧ (commitChange k mb s).cool = s.cool ∧
    (commitChange k mb s).draws = s.draws ∧ (commitChange k mb s).pending = s.pending :=
  by simp [commitChange]

@[simp] theorem countDrop_frame (a : Arrival) (mb : Nat) (s : State) :
    (countDrop a mb s).ident = s.ident ∧ (countDrop a mb s).cfg = s.cfg ∧ (countDrop a mb s).live = s.live ∧
    (countDrop a mb s).flash = s.flash ∧ (countDrop a mb s).outbox = s.outbox ∧ (countDrop a mb s).pres = s.pres ∧
    (countDrop a mb s).tide = s.tide ∧ (countDrop a mb s).img = s.img ∧ (countDrop a mb s).combs = s.combs ∧
    (countDrop a mb s).fabric = s.fabric ∧ (countDrop a mb s).shelf = s.shelf ∧ (countDrop a mb s).cove = s.cove ∧
    (countDrop a mb s).str = s.str ∧ (countDrop a mb s).err = s.err ∧ (countDrop a mb s).pow = s.pow ∧
    (countDrop a mb s).cool = s.cool ∧ (countDrop a mb s).draws = s.draws ∧ (countDrop a mb s).pending = s.pending :=
  by refine ⟨?_, ?_, ?_, ?_, ?_, ?_, ?_, ?_, ?_, ?_, ?_, ?_, ?_, ?_, ?_, ?_, ?_, ?_⟩ <;> (unfold countDrop; split <;> rfl)

@[simp] theorem confirmPort_frame (r : Request) (s : State) :
    (confirmPort r s).ident = s.ident ∧ (confirmPort r s).cfg = s.cfg ∧ (confirmPort r s).live = s.live ∧
    (confirmPort r s).flash = s.flash ∧ (confirmPort r s).mbox = s.mbox ∧ (confirmPort r s).outbox = s.outbox ∧
    (confirmPort r s).pres = s.pres ∧ (confirmPort r s).tide = s.tide ∧ (confirmPort r s).img = s.img ∧
    (confirmPort r s).combs = s.combs ∧ (confirmPort r s).fabric = s.fabric ∧ (confirmPort r s).shelf = s.shelf ∧
    (confirmPort r s).cove = s.cove ∧ (confirmPort r s).str = s.str ∧ (confirmPort r s).err = s.err ∧
    (confirmPort r s).pow = s.pow ∧ (confirmPort r s).cool = s.cool ∧ (confirmPort r s).draws = s.draws ∧
    (confirmPort r s).pending = s.pending :=
  by refine ⟨?_, ?_, ?_, ?_, ?_, ?_, ?_, ?_, ?_, ?_, ?_, ?_, ?_, ?_, ?_, ?_, ?_, ?_, ?_⟩ <;> (unfold confirmPort; split <;> rfl)

@[simp] theorem finish_frame (k : Option Key) (o : Outstanding) (changes changedNow : Bool) (status : Status) (key : ObjKey)
    (effect : Nat × Nat) (body : Bytes) (s : State) :
    (finish k o changes changedNow status key effect body s).ident = s.ident ∧
    (finish k o changes changedNow status key effect body s).cfg = s.cfg ∧
    (finish k o changes changedNow status key effect body s).live = s.live ∧
    (finish k o changes changedNow status key effect body s).flash = s.flash ∧
    (finish k o changes changedNow status key effect body s).pres = s.pres ∧
    (finish k o changes changedNow status key effect body s).tide = s.tide ∧
    (finish k o changes changedNow status key effect body s).img = s.img ∧
    (finish k o changes changedNow status key effect body s).combs = s.combs ∧
    (finish k o changes changedNow status key effect body s).fabric = s.fabric ∧
    (finish k o changes changedNow status key effect body s).shelf = s.shelf ∧
    (finish k o changes changedNow status key effect body s).err = s.err ∧
    (finish k o changes changedNow status key effect body s).pow = s.pow ∧
    (finish k o changes changedNow status key effect body s).cool = s.cool ∧
    (finish k o changes changedNow status key effect body s).draws = s.draws ∧
    (finish k o changes changedNow status key effect body s).pending = s.pending :=
  by simp [finish, apply_ite State.ident, apply_ite State.cfg, apply_ite State.live, apply_ite State.flash,
    apply_ite State.pres, apply_ite State.tide, apply_ite State.img, apply_ite State.combs, apply_ite State.fabric,
    apply_ite State.shelf, apply_ite State.err, apply_ite State.pow, apply_ite State.cool, apply_ite State.draws,
    apply_ite State.pending]

@[simp] theorem complete_frame (codes : List Nat) (subject : Nat) (changedNow : Bool) (status : Status) (key : ObjKey) (effect : Nat × Nat)
    (body : Bytes) (s : State) :
    (complete codes subject changedNow status key effect body s).ident = s.ident ∧
    (complete codes subject changedNow status key effect body s).cfg = s.cfg ∧
    (complete codes subject changedNow status key effect body s).live = s.live ∧
    (complete codes subject changedNow status key effect body s).flash = s.flash ∧
    (complete codes subject changedNow status key effect body s).pres = s.pres ∧
    (complete codes subject changedNow status key effect body s).tide = s.tide ∧
    (complete codes subject changedNow status key effect body s).img = s.img ∧
    (complete codes subject changedNow status key effect body s).combs = s.combs ∧
    (complete codes subject changedNow status key effect body s).fabric = s.fabric ∧
    (complete codes subject changedNow status key effect body s).shelf = s.shelf ∧
    (complete codes subject changedNow status key effect body s).err = s.err ∧
    (complete codes subject changedNow status key effect body s).pow = s.pow ∧
    (complete codes subject changedNow status key effect body s).cool = s.cool ∧
    (complete codes subject changedNow status key effect body s).draws = s.draws ∧
    (complete codes subject changedNow status key effect body s).pending = s.pending :=
  by refine ⟨?_, ?_, ?_, ?_, ?_, ?_, ?_, ?_, ?_, ?_, ?_, ?_, ?_, ?_, ?_⟩ <;> (unfold complete; (repeat' split) <;> simp)

@[simp] theorem countCove_frame (j : Nat) (f : CoveRecord → CoveRecord) (s : State) :
    (countCove j f s).ident = s.ident ∧ (countCove j f s).cfg = s.cfg ∧ (countCove j f s).live = s.live ∧
    (countCove j f s).flash = s.flash ∧ (countCove j f s).mbox = s.mbox ∧ (countCove j f s).outbox = s.outbox ∧
    (countCove j f s).pres = s.pres ∧ (countCove j f s).tide = s.tide ∧ (countCove j f s).img = s.img ∧
    (countCove j f s).combs = s.combs ∧ (countCove j f s).fabric = s.fabric ∧ (countCove j f s).shelf = s.shelf ∧
    (countCove j f s).str = s.str ∧ (countCove j f s).err = s.err ∧ (countCove j f s).eth = s.eth ∧
    (countCove j f s).pow = s.pow ∧ (countCove j f s).cool = s.cool ∧ (countCove j f s).draws = s.draws ∧
    (countCove j f s).pending = s.pending :=
  ⟨rfl, rfl, rfl, rfl, rfl, rfl, rfl, rfl, rfl, rfl, rfl, rfl, rfl, rfl, rfl, rfl, rfl, rfl, rfl⟩

@[simp] theorem moveExtents_frame (back : Bool) (a n : Nat) (s : State) :
    (moveExtents back a n s).ident = s.ident ∧ (moveExtents back a n s).cfg = s.cfg ∧ (moveExtents back a n s).live = s.live ∧
    (moveExtents back a n s).flash = s.flash ∧ (moveExtents back a n s).mbox = s.mbox ∧
    (moveExtents back a n s).outbox = s.outbox ∧ (moveExtents back a n s).pres = s.pres ∧
    (moveExtents back a n s).tide = s.tide ∧ (moveExtents back a n s).img = s.img ∧ (moveExtents back a n s).combs = s.combs ∧
    (moveExtents back a n s).fabric = s.fabric ∧ (moveExtents back a n s).shelf = s.shelf ∧
    (moveExtents back a n s).str = s.str ∧ (moveExtents back a n s).err = s.err ∧ (moveExtents back a n s).eth = s.eth ∧
    (moveExtents back a n s).pow = s.pow ∧ (moveExtents back a n s).cool = s.cool ∧ (moveExtents back a n s).draws = s.draws ∧
    (moveExtents back a n s).pending = s.pending :=
  ⟨by unfold moveExtents; refine foldl_keeps State.ident _ ?_ _ _; intros; simp,
   by unfold moveExtents; refine foldl_keeps State.cfg _ ?_ _ _; intros; simp,
   by unfold moveExtents; refine foldl_keeps State.live _ ?_ _ _; intros; simp,
   by unfold moveExtents; refine foldl_keeps State.flash _ ?_ _ _; intros; simp,
   by unfold moveExtents; refine foldl_keeps State.mbox _ ?_ _ _; intros; simp,
   by unfold moveExtents; refine foldl_keeps State.outbox _ ?_ _ _; intros; simp,
   by unfold moveExtents; refine foldl_keeps State.pres _ ?_ _ _; intros; simp,
   by unfold moveExtents; refine foldl_keeps State.tide _ ?_ _ _; intros; simp,
   by unfold moveExtents; refine foldl_keeps State.img _ ?_ _ _; intros; simp,
   by unfold moveExtents; refine foldl_keeps State.combs _ ?_ _ _; intros; simp,
   by unfold moveExtents; refine foldl_keeps State.fabric _ ?_ _ _; intros; simp,
   by unfold moveExtents; refine foldl_keeps State.shelf _ ?_ _ _; intros; simp,
   by unfold moveExtents; refine foldl_keeps State.str _ ?_ _ _; intros; simp,
   by unfold moveExtents; refine foldl_keeps State.err _ ?_ _ _; intros; simp,
   by unfold moveExtents; refine foldl_keeps State.eth _ ?_ _ _; intros; simp,
   by unfold moveExtents; refine foldl_keeps State.pow _ ?_ _ _; intros; simp,
   by unfold moveExtents; refine foldl_keeps State.cool _ ?_ _ _; intros; simp,
   by unfold moveExtents; refine foldl_keeps State.draws _ ?_ _ _; intros; simp,
   by unfold moveExtents; refine foldl_keeps State.pending _ ?_ _ _; intros; simp⟩

@[simp] theorem journal_frame (s : State) :
    (journal s).ident = s.ident ∧ (journal s).cfg = s.cfg ∧ (journal s).live = s.live ∧ (journal s).flash = s.flash ∧
    (journal s).mbox = s.mbox ∧ (journal s).outbox = s.outbox ∧ (journal s).pres = s.pres ∧ (journal s).tide = s.tide ∧
    (journal s).img = s.img ∧ (journal s).combs = s.combs ∧ (journal s).fabric = s.fabric ∧ (journal s).shelf = s.shelf ∧
    (journal s).str = s.str ∧ (journal s).err = s.err ∧ (journal s).eth = s.eth ∧ (journal s).pow = s.pow ∧
    (journal s).cool = s.cool ∧ (journal s).draws = s.draws ∧ (journal s).pending = s.pending :=
  ⟨rfl, rfl, rfl, rfl, rfl, rfl, rfl, rfl, rfl, rfl, rfl, rfl, rfl, rfl, rfl, rfl, rfl, rfl, rfl⟩

@[simp] theorem setObject_frame (id : Nat) (f : CoveObject → CoveObject) (s : State) :
    (setObject id f s).ident = s.ident ∧ (setObject id f s).cfg = s.cfg ∧ (setObject id f s).live = s.live ∧
    (setObject id f s).flash = s.flash ∧ (setObject id f s).mbox = s.mbox ∧ (setObject id f s).outbox = s.outbox ∧
    (setObject id f s).pres = s.pres ∧ (setObject id f s).tide = s.tide ∧ (setObject id f s).img = s.img ∧
    (setObject id f s).combs = s.combs ∧ (setObject id f s).fabric = s.fabric ∧ (setObject id f s).shelf = s.shelf ∧
    (setObject id f s).str = s.str ∧ (setObject id f s).err = s.err ∧ (setObject id f s).eth = s.eth ∧
    (setObject id f s).pow = s.pow ∧ (setObject id f s).cool = s.cool ∧ (setObject id f s).draws = s.draws ∧
    (setObject id f s).pending = s.pending :=
  ⟨rfl, rfl, rfl, rfl, rfl, rfl, rfl, rfl, rfl, rfl, rfl, rfl, rfl, rfl, rfl, rfl, rfl, rfl, rfl⟩

@[simp] theorem freeObject_frame (id : Nat) (s : State) :
    (freeObject id s).ident = s.ident ∧ (freeObject id s).cfg = s.cfg ∧ (freeObject id s).live = s.live ∧
    (freeObject id s).flash = s.flash ∧ (freeObject id s).mbox = s.mbox ∧ (freeObject id s).outbox = s.outbox ∧
    (freeObject id s).pres = s.pres ∧ (freeObject id s).tide = s.tide ∧ (freeObject id s).img = s.img ∧
    (freeObject id s).combs = s.combs ∧ (freeObject id s).fabric = s.fabric ∧ (freeObject id s).shelf = s.shelf ∧
    (freeObject id s).str = s.str ∧ (freeObject id s).err = s.err ∧ (freeObject id s).eth = s.eth ∧
    (freeObject id s).pow = s.pow ∧ (freeObject id s).cool = s.cool ∧ (freeObject id s).draws = s.draws ∧
    (freeObject id s).pending = s.pending :=
  by refine ⟨?_, ?_, ?_, ?_, ?_, ?_, ?_, ?_, ?_, ?_, ?_, ?_, ?_, ?_, ?_, ?_, ?_, ?_, ?_⟩ <;> (unfold freeObject; (repeat' split) <;> simp)

@[simp] theorem startWrite_frame (j : Nat) (s : State) :
    (startWrite j s).ident = s.ident ∧ (startWrite j s).cfg = s.cfg ∧ (startWrite j s).live = s.live ∧
    (startWrite j s).flash = s.flash ∧ (startWrite j s).mbox = s.mbox ∧ (startWrite j s).outbox = s.outbox ∧
    (startWrite j s).pres = s.pres ∧ (startWrite j s).tide = s.tide ∧ (startWrite j s).img = s.img ∧
    (startWrite j s).combs = s.combs ∧ (startWrite j s).fabric = s.fabric ∧ (startWrite j s).shelf = s.shelf ∧
    (startWrite j s).str = s.str ∧ (startWrite j s).err = s.err ∧ (startWrite j s).eth = s.eth ∧
    (startWrite j s).pow = s.pow ∧ (startWrite j s).cool = s.cool ∧ (startWrite j s).draws = s.draws ∧
    (startWrite j s).pending = s.pending :=
  by refine ⟨?_, ?_, ?_, ?_, ?_, ?_, ?_, ?_, ?_, ?_, ?_, ?_, ?_, ?_, ?_, ?_, ?_, ?_, ?_⟩ <;> (unfold startWrite; dsimp only; (repeat' split) <;> simp)

@[simp] theorem startWrites_frame (s : State) :
    (startWrites s).ident = s.ident ∧ (startWrites s).cfg = s.cfg ∧ (startWrites s).live = s.live ∧
    (startWrites s).flash = s.flash ∧ (startWrites s).mbox = s.mbox ∧ (startWrites s).outbox = s.outbox ∧
    (startWrites s).pres = s.pres ∧ (startWrites s).tide = s.tide ∧ (startWrites s).img = s.img ∧
    (startWrites s).combs = s.combs ∧ (startWrites s).fabric = s.fabric ∧ (startWrites s).shelf = s.shelf ∧
    (startWrites s).str = s.str ∧ (startWrites s).err = s.err ∧ (startWrites s).eth = s.eth ∧ (startWrites s).pow = s.pow ∧
    (startWrites s).cool = s.cool ∧ (startWrites s).draws = s.draws ∧ (startWrites s).pending = s.pending :=
  ⟨by unfold startWrites; refine foldl_keeps State.ident _ ?_ _ _; intros; simp,
   by unfold startWrites; refine foldl_keeps State.cfg _ ?_ _ _; intros; simp,
   by unfold startWrites; refine foldl_keeps State.live _ ?_ _ _; intros; simp,
   by unfold startWrites; refine foldl_keeps State.flash _ ?_ _ _; intros; simp,
   by unfold startWrites; refine foldl_keeps State.mbox _ ?_ _ _; intros; simp,
   by unfold startWrites; refine foldl_keeps State.outbox _ ?_ _ _; intros; simp,
   by unfold startWrites; refine foldl_keeps State.pres _ ?_ _ _; intros; simp,
   by unfold startWrites; refine foldl_keeps State.tide _ ?_ _ _; intros; simp,
   by unfold startWrites; refine foldl_keeps State.img _ ?_ _ _; intros; simp,
   by unfold startWrites; refine foldl_keeps State.combs _ ?_ _ _; intros; simp,
   by unfold startWrites; refine foldl_keeps State.fabric _ ?_ _ _; intros; simp,
   by unfold startWrites; refine foldl_keeps State.shelf _ ?_ _ _; intros; simp,
   by unfold startWrites; refine foldl_keeps State.str _ ?_ _ _; intros; simp,
   by unfold startWrites; refine foldl_keeps State.err _ ?_ _ _; intros; simp,
   by unfold startWrites; refine foldl_keeps State.eth _ ?_ _ _; intros; simp,
   by unfold startWrites; refine foldl_keeps State.pow _ ?_ _ _; intros; simp,
   by unfold startWrites; refine foldl_keeps State.cool _ ?_ _ _; intros; simp,
   by unfold startWrites; refine foldl_keeps State.draws _ ?_ _ _; intros; simp,
   by unfold startWrites; refine foldl_keeps State.pending _ ?_ _ _; intros; simp⟩

@[simp] theorem commitObject_frame (id ttl : Nat) (s : State) :
    (commitObject id ttl s).ident = s.ident ∧ (commitObject id ttl s).cfg = s.cfg ∧ (commitObject id ttl s).live = s.live ∧
    (commitObject id ttl s).flash = s.flash ∧ (commitObject id ttl s).mbox = s.mbox ∧
    (commitObject id ttl s).outbox = s.outbox ∧ (commitObject id ttl s).pres = s.pres ∧
    (commitObject id ttl s).tide = s.tide ∧ (commitObject id ttl s).img = s.img ∧ (commitObject id ttl s).combs = s.combs ∧
    (commitObject id ttl s).fabric = s.fabric ∧ (commitObject id ttl s).shelf = s.shelf ∧
    (commitObject id ttl s).str = s.str ∧ (commitObject id ttl s).err = s.err ∧ (commitObject id ttl s).eth = s.eth ∧
    (commitObject id ttl s).pow = s.pow ∧ (commitObject id ttl s).cool = s.cool ∧ (commitObject id ttl s).draws = s.draws ∧
    (commitObject id ttl s).pending = s.pending :=
  ⟨rfl, rfl, rfl, rfl, rfl, rfl, rfl, rfl, rfl, rfl, rfl, rfl, rfl, rfl, rfl, rfl, rfl, rfl, rfl⟩

@[simp] theorem sendFrame_frame (dest : Endpoint) (kind flags reason : Nat) (mb : BitVec 16) (first : BitVec 32) (id : BitVec 64)
    (aux : Nat) (entries : List (BitVec 128)) (s : State) :
    (sendFrame dest kind flags reason mb first id aux entries s).ident = s.ident ∧
    (sendFrame dest kind flags reason mb first id aux entries s).cfg = s.cfg ∧
    (sendFrame dest kind flags reason mb first id aux entries s).live = s.live ∧
    (sendFrame dest kind flags reason mb first id aux entries s).flash = s.flash ∧
    (sendFrame dest kind flags reason mb first id aux entries s).mbox = s.mbox ∧
    (sendFrame dest kind flags reason mb first id aux entries s).pres = s.pres ∧
    (sendFrame dest kind flags reason mb first id aux entries s).tide = s.tide ∧
    (sendFrame dest kind flags reason mb first id aux entries s).img = s.img ∧
    (sendFrame dest kind flags reason mb first id aux entries s).combs = s.combs ∧
    (sendFrame dest kind flags reason mb first id aux entries s).fabric = s.fabric ∧
    (sendFrame dest kind flags reason mb first id aux entries s).shelf = s.shelf ∧
    (sendFrame dest kind flags reason mb first id aux entries s).cove = s.cove ∧
    (sendFrame dest kind flags reason mb first id aux entries s).str = s.str ∧
    (sendFrame dest kind flags reason mb first id aux entries s).err = s.err ∧
    (sendFrame dest kind flags reason mb first id aux entries s).pow = s.pow ∧
    (sendFrame dest kind flags reason mb first id aux entries s).cool = s.cool ∧
    (sendFrame dest kind flags reason mb first id aux entries s).draws = s.draws ∧
    (sendFrame dest kind flags reason mb first id aux entries s).pending = s.pending :=
  by refine ⟨?_, ?_, ?_, ?_, ?_, ?_, ?_, ?_, ?_, ?_, ?_, ?_, ?_, ?_, ?_, ?_, ?_, ?_⟩ <;> (unfold sendFrame; (repeat' split) <;> simp)

@[simp] theorem countFrames_frame (mb n : Nat) (s : State) :
    (countFrames mb n s).ident = s.ident ∧ (countFrames mb n s).cfg = s.cfg ∧ (countFrames mb n s).live = s.live ∧
    (countFrames mb n s).flash = s.flash ∧ (countFrames mb n s).outbox = s.outbox ∧ (countFrames mb n s).pres = s.pres ∧
    (countFrames mb n s).tide = s.tide ∧ (countFrames mb n s).img = s.img ∧ (countFrames mb n s).combs = s.combs ∧
    (countFrames mb n s).fabric = s.fabric ∧ (countFrames mb n s).shelf = s.shelf ∧ (countFrames mb n s).cove = s.cove ∧
    (countFrames mb n s).str = s.str ∧ (countFrames mb n s).err = s.err ∧ (countFrames mb n s).eth = s.eth ∧
    (countFrames mb n s).pow = s.pow ∧ (countFrames mb n s).cool = s.cool ∧ (countFrames mb n s).draws = s.draws ∧
    (countFrames mb n s).pending = s.pending :=
  by refine ⟨?_, ?_, ?_, ?_, ?_, ?_, ?_, ?_, ?_, ?_, ?_, ?_, ?_, ?_, ?_, ?_, ?_, ?_, ?_⟩ <;> (unfold countFrames; split <;> rfl)

@[simp] theorem repeatLater_frame (x : Option Sent) (s : State) :
    (repeatLater x s).ident = s.ident ∧ (repeatLater x s).cfg = s.cfg ∧ (repeatLater x s).live = s.live ∧
    (repeatLater x s).flash = s.flash ∧ (repeatLater x s).mbox = s.mbox ∧ (repeatLater x s).outbox = s.outbox ∧
    (repeatLater x s).pres = s.pres ∧ (repeatLater x s).tide = s.tide ∧ (repeatLater x s).img = s.img ∧
    (repeatLater x s).combs = s.combs ∧ (repeatLater x s).fabric = s.fabric ∧ (repeatLater x s).shelf = s.shelf ∧
    (repeatLater x s).cove = s.cove ∧ (repeatLater x s).err = s.err ∧ (repeatLater x s).eth = s.eth ∧
    (repeatLater x s).pow = s.pow ∧ (repeatLater x s).cool = s.cool ∧ (repeatLater x s).draws = s.draws ∧
    (repeatLater x s).pending = s.pending :=
  ⟨rfl, rfl, rfl, rfl, rfl, rfl, rfl, rfl, rfl, rfl, rfl, rfl, rfl, rfl, rfl, rfl, rfl, rfl, rfl⟩

@[simp] theorem stateFrame_frame (t : Stream) (st : StreamState) (aux : Nat) (s : State) :
    (stateFrame t st aux s).ident = s.ident ∧ (stateFrame t st aux s).cfg = s.cfg ∧ (stateFrame t st aux s).live = s.live ∧
    (stateFrame t st aux s).flash = s.flash ∧ (stateFrame t st aux s).pres = s.pres ∧ (stateFrame t st aux s).tide = s.tide ∧
    (stateFrame t st aux s).img = s.img ∧ (stateFrame t st aux s).combs = s.combs ∧
    (stateFrame t st aux s).fabric = s.fabric ∧ (stateFrame t st aux s).shelf = s.shelf ∧
    (stateFrame t st aux s).cove = s.cove ∧ (stateFrame t st aux s).err = s.err ∧ (stateFrame t st aux s).pow = s.pow ∧
    (stateFrame t st aux s).cool = s.cool ∧ (stateFrame t st aux s).draws = s.draws ∧
    (stateFrame t st aux s).pending = s.pending :=
  by refine ⟨?_, ?_, ?_, ?_, ?_, ?_, ?_, ?_, ?_, ?_, ?_, ?_, ?_, ?_, ?_, ?_⟩ <;> (unfold stateFrame; simp)

@[simp] theorem setLive_frame (n : Nat) (f : Stream → Stream) (s : State) :
    (setLive n f s).ident = s.ident ∧ (setLive n f s).cfg = s.cfg ∧ (setLive n f s).live = s.live ∧
    (setLive n f s).flash = s.flash ∧ (setLive n f s).mbox = s.mbox ∧ (setLive n f s).outbox = s.outbox ∧
    (setLive n f s).pres = s.pres ∧ (setLive n f s).tide = s.tide ∧ (setLive n f s).img = s.img ∧
    (setLive n f s).combs = s.combs ∧ (setLive n f s).fabric = s.fabric ∧ (setLive n f s).shelf = s.shelf ∧
    (setLive n f s).cove = s.cove ∧ (setLive n f s).err = s.err ∧ (setLive n f s).eth = s.eth ∧ (setLive n f s).pow = s.pow ∧
    (setLive n f s).cool = s.cool ∧ (setLive n f s).draws = s.draws ∧ (setLive n f s).pending = s.pending :=
  ⟨rfl, rfl, rfl, rfl, rfl, rfl, rfl, rfl, rfl, rfl, rfl, rfl, rfl, rfl, rfl, rfl, rfl, rfl, rfl⟩

@[simp] theorem completeAll_frame (codes : List Nat) (subject : Nat) (status : Status) (key : ObjKey) (body : Bytes) (s : State) :
    (completeAll codes subject status key body s).ident = s.ident ∧
    (completeAll codes subject status key body s).cfg = s.cfg ∧ (completeAll codes subject status key body s).live = s.live ∧
    (completeAll codes subject status key body s).flash = s.flash ∧
    (completeAll codes subject status key body s).pres = s.pres ∧
    (completeAll codes subject status key body s).tide = s.tide ∧ (completeAll codes subject status key body s).img = s.img ∧
    (completeAll codes subject status key body s).combs = s.combs ∧
    (completeAll codes subject status key body s).fabric = s.fabric ∧
    (completeAll codes subject status key body s).shelf = s.shelf ∧
    (completeAll codes subject status key body s).err = s.err ∧ (completeAll codes subject status key body s).pow = s.pow ∧
    (completeAll codes subject status key body s).cool = s.cool ∧
    (completeAll codes subject status key body s).draws = s.draws ∧
    (completeAll codes subject status key body s).pending = s.pending :=
  ⟨by unfold completeAll; refine foldl_keeps State.ident _ ?_ _ _; intro s x; (repeat' split) <;> simp,
   by unfold completeAll; refine foldl_keeps State.cfg _ ?_ _ _; intro s x; (repeat' split) <;> simp,
   by unfold completeAll; refine foldl_keeps State.live _ ?_ _ _; intro s x; (repeat' split) <;> simp,
   by unfold completeAll; refine foldl_keeps State.flash _ ?_ _ _; intro s x; (repeat' split) <;> simp,
   by unfold completeAll; refine foldl_keeps State.pres _ ?_ _ _; intro s x; (repeat' split) <;> simp,
   by unfold completeAll; refine foldl_keeps State.tide _ ?_ _ _; intro s x; (repeat' split) <;> simp,
   by unfold completeAll; refine foldl_keeps State.img _ ?_ _ _; intro s x; (repeat' split) <;> simp,
   by unfold completeAll; refine foldl_keeps State.combs _ ?_ _ _; intro s x; (repeat' split) <;> simp,
   by unfold completeAll; refine foldl_keeps State.fabric _ ?_ _ _; intro s x; (repeat' split) <;> simp,
   by unfold completeAll; refine foldl_keeps State.shelf _ ?_ _ _; intro s x; (repeat' split) <;> simp,
   by unfold completeAll; refine foldl_keeps State.err _ ?_ _ _; intro s x; (repeat' split) <;> simp,
   by unfold completeAll; refine foldl_keeps State.pow _ ?_ _ _; intro s x; (repeat' split) <;> simp,
   by unfold completeAll; refine foldl_keeps State.cool _ ?_ _ _; intro s x; (repeat' split) <;> simp,
   by unfold completeAll; refine foldl_keeps State.draws _ ?_ _ _; intro s x; (repeat' split) <;> simp,
   by unfold completeAll; refine foldl_keeps State.pending _ ?_ _ _; intro s x; (repeat' split) <;> simp⟩

@[simp] theorem closeStream_frame (t : Stream) (reason : BitVec 5) (own : Bool) (resumeStatus : Status) (s : State) :
    (closeStream t reason own resumeStatus s).ident = s.ident ∧ (closeStream t reason own resumeStatus s).cfg = s.cfg ∧
    (closeStream t reason own resumeStatus s).live = s.live ∧ (closeStream t reason own resumeStatus s).flash = s.flash ∧
    (closeStream t reason own resumeStatus s).pres = s.pres ∧ (closeStream t reason own resumeStatus s).tide = s.tide ∧
    (closeStream t reason own resumeStatus s).img = s.img ∧ (closeStream t reason own resumeStatus s).combs = s.combs ∧
    (closeStream t reason own resumeStatus s).fabric = s.fabric ∧ (closeStream t reason own resumeStatus s).shelf = s.shelf ∧
    (closeStream t reason own resumeStatus s).pow = s.pow ∧ (closeStream t reason own resumeStatus s).cool = s.cool ∧
    (closeStream t reason own resumeStatus s).draws = s.draws ∧
    (closeStream t reason own resumeStatus s).pending = s.pending :=
  by refine ⟨?_, ?_, ?_, ?_, ?_, ?_, ?_, ?_, ?_, ?_, ?_, ?_, ?_, ?_⟩ <;> (unfold closeStream; (repeat' split) <;> simp)

@[simp] theorem closeParked_frame (t : Stream) (reason : BitVec 5) (own : Bool) (s : State) :
    (closeParked t reason own s).ident = s.ident ∧ (closeParked t reason own s).cfg = s.cfg ∧
    (closeParked t reason own s).live = s.live ∧ (closeParked t reason own s).flash = s.flash ∧
    (closeParked t reason own s).pres = s.pres ∧ (closeParked t reason own s).tide = s.tide ∧
    (closeParked t reason own s).img = s.img ∧ (closeParked t reason own s).combs = s.combs ∧
    (closeParked t reason own s).fabric = s.fabric ∧ (closeParked t reason own s).shelf = s.shelf ∧
    (closeParked t reason own s).pow = s.pow ∧ (closeParked t reason own s).cool = s.cool ∧
    (closeParked t reason own s).draws = s.draws ∧ (closeParked t reason own s).pending = s.pending :=
  by refine ⟨?_, ?_, ?_, ?_, ?_, ?_, ?_, ?_, ?_, ?_, ?_, ?_, ?_, ?_⟩ <;> (unfold closeParked; (repeat' split) <;> simp)

@[simp] theorem setPrefix_frame (index : Nat) (f : Prefix → Prefix) (s : State) :
    (setPrefix index f s).ident = s.ident ∧ (setPrefix index f s).cfg = s.cfg ∧ (setPrefix index f s).live = s.live ∧
    (setPrefix index f s).flash = s.flash ∧ (setPrefix index f s).mbox = s.mbox ∧ (setPrefix index f s).outbox = s.outbox ∧
    (setPrefix index f s).pres = s.pres ∧ (setPrefix index f s).tide = s.tide ∧ (setPrefix index f s).img = s.img ∧
    (setPrefix index f s).combs = s.combs ∧ (setPrefix index f s).fabric = s.fabric ∧ (setPrefix index f s).shelf = s.shelf ∧
    (setPrefix index f s).cove = s.cove ∧ (setPrefix index f s).err = s.err ∧ (setPrefix index f s).eth = s.eth ∧
    (setPrefix index f s).pow = s.pow ∧ (setPrefix index f s).cool = s.cool ∧ (setPrefix index f s).draws = s.draws ∧
    (setPrefix index f s).pending = s.pending :=
  ⟨rfl, rfl, rfl, rfl, rfl, rfl, rfl, rfl, rfl, rfl, rfl, rfl, rfl, rfl, rfl, rfl, rfl, rfl, rfl⟩

@[simp] theorem destroyPrefix_frame (index : Nat) (s : State) :
    (destroyPrefix index s).ident = s.ident ∧ (destroyPrefix index s).cfg = s.cfg ∧ (destroyPrefix index s).live = s.live ∧
    (destroyPrefix index s).flash = s.flash ∧ (destroyPrefix index s).mbox = s.mbox ∧
    (destroyPrefix index s).outbox = s.outbox ∧ (destroyPrefix index s).pres = s.pres ∧
    (destroyPrefix index s).tide = s.tide ∧ (destroyPrefix index s).img = s.img ∧ (destroyPrefix index s).combs = s.combs ∧
    (destroyPrefix index s).fabric = s.fabric ∧ (destroyPrefix index s).shelf = s.shelf ∧
    (destroyPrefix index s).err = s.err ∧ (destroyPrefix index s).eth = s.eth ∧ (destroyPrefix index s).pow = s.pow ∧
    (destroyPrefix index s).cool = s.cool ∧ (destroyPrefix index s).draws = s.draws ∧
    (destroyPrefix index s).pending = s.pending :=
  by refine ⟨?_, ?_, ?_, ?_, ?_, ?_, ?_, ?_, ?_, ?_, ?_, ?_, ?_, ?_, ?_, ?_, ?_, ?_⟩ <;> (unfold destroyPrefix; (repeat' split) <;> simp)

@[simp] theorem withdrawPrefix_frame (index : Nat) (s : State) :
    (withdrawPrefix index s).ident = s.ident ∧ (withdrawPrefix index s).cfg = s.cfg ∧ (withdrawPrefix index s).live = s.live ∧
    (withdrawPrefix index s).flash = s.flash ∧ (withdrawPrefix index s).mbox = s.mbox ∧
    (withdrawPrefix index s).outbox = s.outbox ∧ (withdrawPrefix index s).pres = s.pres ∧
    (withdrawPrefix index s).tide = s.tide ∧ (withdrawPrefix index s).img = s.img ∧ (withdrawPrefix index s).combs = s.combs ∧
    (withdrawPrefix index s).fabric = s.fabric ∧ (withdrawPrefix index s).shelf = s.shelf ∧
    (withdrawPrefix index s).err = s.err ∧ (withdrawPrefix index s).eth = s.eth ∧ (withdrawPrefix index s).pow = s.pow ∧
    (withdrawPrefix index s).cool = s.cool ∧ (withdrawPrefix index s).draws = s.draws ∧
    (withdrawPrefix index s).pending = s.pending :=
  by refine ⟨?_, ?_, ?_, ?_, ?_, ?_, ?_, ?_, ?_, ?_, ?_, ?_, ?_, ?_, ?_, ?_, ?_, ?_⟩ <;> (unfold withdrawPrefix; (repeat' split) <;> simp)

@[simp] theorem sweepPrefixes_frame (s : State) :
    (sweepPrefixes s).ident = s.ident ∧ (sweepPrefixes s).cfg = s.cfg ∧ (sweepPrefixes s).live = s.live ∧
    (sweepPrefixes s).flash = s.flash ∧ (sweepPrefixes s).mbox = s.mbox ∧ (sweepPrefixes s).outbox = s.outbox ∧
    (sweepPrefixes s).pres = s.pres ∧ (sweepPrefixes s).tide = s.tide ∧ (sweepPrefixes s).img = s.img ∧
    (sweepPrefixes s).combs = s.combs ∧ (sweepPrefixes s).fabric = s.fabric ∧ (sweepPrefixes s).shelf = s.shelf ∧
    (sweepPrefixes s).err = s.err ∧ (sweepPrefixes s).eth = s.eth ∧ (sweepPrefixes s).pow = s.pow ∧
    (sweepPrefixes s).cool = s.cool ∧ (sweepPrefixes s).draws = s.draws ∧ (sweepPrefixes s).pending = s.pending :=
  ⟨by unfold sweepPrefixes; refine foldl_keeps State.ident _ ?_ _ _; intros; simp,
   by unfold sweepPrefixes; refine foldl_keeps State.cfg _ ?_ _ _; intros; simp,
   by unfold sweepPrefixes; refine foldl_keeps State.live _ ?_ _ _; intros; simp,
   by unfold sweepPrefixes; refine foldl_keeps State.flash _ ?_ _ _; intros; simp,
   by unfold sweepPrefixes; refine foldl_keeps State.mbox _ ?_ _ _; intros; simp,
   by unfold sweepPrefixes; refine foldl_keeps State.outbox _ ?_ _ _; intros; simp,
   by unfold sweepPrefixes; refine foldl_keeps State.pres _ ?_ _ _; intros; simp,
   by unfold sweepPrefixes; refine foldl_keeps State.tide _ ?_ _ _; intros; simp,
   by unfold sweepPrefixes; refine foldl_keeps State.img _ ?_ _ _; intros; simp,
   by unfold sweepPrefixes; refine foldl_keeps State.combs _ ?_ _ _; intros; simp,
   by unfold sweepPrefixes; refine foldl_keeps State.fabric _ ?_ _ _; intros; simp,
   by unfold sweepPrefixes; refine foldl_keeps State.shelf _ ?_ _ _; intros; simp,
   by unfold sweepPrefixes; refine foldl_keeps State.err _ ?_ _ _; intros; simp,
   by unfold sweepPrefixes; refine foldl_keeps State.eth _ ?_ _ _; intros; simp,
   by unfold sweepPrefixes; refine foldl_keeps State.pow _ ?_ _ _; intros; simp,
   by unfold sweepPrefixes; refine foldl_keeps State.cool _ ?_ _ _; intros; simp,
   by unfold sweepPrefixes; refine foldl_keeps State.draws _ ?_ _ _; intros; simp,
   by unfold sweepPrefixes; refine foldl_keeps State.pending _ ?_ _ _; intros; simp⟩

@[simp] theorem setLink_frame (link : Nat) (dir : Bool) (f : LinkDir → LinkDir) (s : State) :
    (setLink link dir f s).ident = s.ident ∧ (setLink link dir f s).cfg = s.cfg ∧ (setLink link dir f s).live = s.live ∧
    (setLink link dir f s).flash = s.flash ∧ (setLink link dir f s).mbox = s.mbox ∧ (setLink link dir f s).outbox = s.outbox ∧
    (setLink link dir f s).pres = s.pres ∧ (setLink link dir f s).tide = s.tide ∧ (setLink link dir f s).img = s.img ∧
    (setLink link dir f s).combs = s.combs ∧ (setLink link dir f s).shelf = s.shelf ∧ (setLink link dir f s).cove = s.cove ∧
    (setLink link dir f s).str = s.str ∧ (setLink link dir f s).err = s.err ∧ (setLink link dir f s).eth = s.eth ∧
    (setLink link dir f s).pow = s.pow ∧ (setLink link dir f s).cool = s.cool ∧ (setLink link dir f s).draws = s.draws ∧
    (setLink link dir f s).pending = s.pending :=
  ⟨rfl, rfl, rfl, rfl, rfl, rfl, rfl, rfl, rfl, rfl, rfl, rfl, rfl, rfl, rfl, rfl, rfl, rfl, rfl⟩

@[simp] theorem fillComb_frame (i : Image) (place : List Nat) (v : Nat) (s : State) :
    (fillComb i place v s).ident = s.ident ∧ (fillComb i place v s).cfg = s.cfg ∧ (fillComb i place v s).live = s.live ∧
    (fillComb i place v s).flash = s.flash ∧ (fillComb i place v s).mbox = s.mbox ∧ (fillComb i place v s).outbox = s.outbox ∧
    (fillComb i place v s).pres = s.pres ∧ (fillComb i place v s).tide = s.tide ∧ (fillComb i place v s).img = s.img ∧
    (fillComb i place v s).fabric = s.fabric ∧ (fillComb i place v s).shelf = s.shelf ∧ (fillComb i place v s).cove = s.cove ∧
    (fillComb i place v s).str = s.str ∧ (fillComb i place v s).err = s.err ∧ (fillComb i place v s).eth = s.eth ∧
    (fillComb i place v s).pow = s.pow ∧ (fillComb i place v s).cool = s.cool ∧ (fillComb i place v s).draws = s.draws ∧
    (fillComb i place v s).pending = s.pending :=
  ⟨rfl, rfl, rfl, rfl, rfl, rfl, rfl, rfl, rfl, rfl, rfl, rfl, rfl, rfl, rfl, rfl, rfl, rfl, rfl⟩

@[simp] theorem setEvent_frame (mb id : Nat) (f : StreamEvent → StreamEvent) (s : State) :
    (setEvent mb id f s).ident = s.ident ∧ (setEvent mb id f s).cfg = s.cfg ∧ (setEvent mb id f s).live = s.live ∧
    (setEvent mb id f s).flash = s.flash ∧ (setEvent mb id f s).mbox = s.mbox ∧ (setEvent mb id f s).outbox = s.outbox ∧
    (setEvent mb id f s).pres = s.pres ∧ (setEvent mb id f s).tide = s.tide ∧ (setEvent mb id f s).img = s.img ∧
    (setEvent mb id f s).combs = s.combs ∧ (setEvent mb id f s).fabric = s.fabric ∧ (setEvent mb id f s).shelf = s.shelf ∧
    (setEvent mb id f s).cove = s.cove ∧ (setEvent mb id f s).err = s.err ∧ (setEvent mb id f s).eth = s.eth ∧
    (setEvent mb id f s).pow = s.pow ∧ (setEvent mb id f s).cool = s.cool ∧ (setEvent mb id f s).draws = s.draws ∧
    (setEvent mb id f s).pending = s.pending :=
  ⟨rfl, rfl, rfl, rfl, rfl, rfl, rfl, rfl, rfl, rfl, rfl, rfl, rfl, rfl, rfl, rfl, rfl, rfl, rfl⟩

@[simp] theorem setQp_frame (n : Nat) (f : QueuePair → QueuePair) (s : State) :
    (setQp n f s).ident = s.ident ∧ (setQp n f s).cfg = s.cfg ∧ (setQp n f s).live = s.live ∧ (setQp n f s).flash = s.flash ∧
    (setQp n f s).mbox = s.mbox ∧ (setQp n f s).outbox = s.outbox ∧ (setQp n f s).pres = s.pres ∧
    (setQp n f s).tide = s.tide ∧ (setQp n f s).img = s.img ∧ (setQp n f s).combs = s.combs ∧
    (setQp n f s).fabric = s.fabric ∧ (setQp n f s).shelf = s.shelf ∧ (setQp n f s).str = s.str ∧ (setQp n f s).err = s.err ∧
    (setQp n f s).eth = s.eth ∧ (setQp n f s).pow = s.pow ∧ (setQp n f s).cool = s.cool ∧ (setQp n f s).draws = s.draws ∧
    (setQp n f s).pending = s.pending :=
  ⟨rfl, rfl, rfl, rfl, rfl, rfl, rfl, rfl, rfl, rfl, rfl, rfl, rfl, rfl, rfl, rfl, rfl, rfl, rfl⟩

@[simp] theorem setDomain_frame (d : Nat) (f : Domain → Domain) (s : State) :
    (setDomain d f s).ident = s.ident ∧ (setDomain d f s).cfg = s.cfg ∧ (setDomain d f s).live = s.live ∧
    (setDomain d f s).flash = s.flash ∧ (setDomain d f s).mbox = s.mbox ∧ (setDomain d f s).outbox = s.outbox ∧
    (setDomain d f s).pres = s.pres ∧ (setDomain d f s).tide = s.tide ∧ (setDomain d f s).img = s.img ∧
    (setDomain d f s).combs = s.combs ∧ (setDomain d f s).fabric = s.fabric ∧ (setDomain d f s).shelf = s.shelf ∧
    (setDomain d f s).cove = s.cove ∧ (setDomain d f s).str = s.str ∧ (setDomain d f s).err = s.err ∧
    (setDomain d f s).eth = s.eth ∧ (setDomain d f s).cool = s.cool ∧ (setDomain d f s).draws = s.draws ∧
    (setDomain d f s).pending = s.pending :=
  ⟨rfl, rfl, rfl, rfl, rfl, rfl, rfl, rfl, rfl, rfl, rfl, rfl, rfl, rfl, rfl, rfl, rfl, rfl, rfl⟩

@[simp] theorem offDomain_frame (d : Nat) (s : State) :
    (offDomain d s).ident = s.ident ∧ (offDomain d s).cfg = s.cfg ∧ (offDomain d s).live = s.live ∧
    (offDomain d s).flash = s.flash ∧ (offDomain d s).mbox = s.mbox ∧ (offDomain d s).outbox = s.outbox ∧
    (offDomain d s).pres = s.pres ∧ (offDomain d s).tide = s.tide ∧ (offDomain d s).img = s.img ∧
    (offDomain d s).combs = s.combs ∧ (offDomain d s).fabric = s.fabric ∧ (offDomain d s).shelf = s.shelf ∧
    (offDomain d s).cove = s.cove ∧ (offDomain d s).str = s.str ∧ (offDomain d s).err = s.err ∧ (offDomain d s).eth = s.eth ∧
    (offDomain d s).cool = s.cool ∧ (offDomain d s).draws = s.draws ∧ (offDomain d s).pending = s.pending :=
  ⟨rfl, rfl, rfl, rfl, rfl, rfl, rfl, rfl, rfl, rfl, rfl, rfl, rfl, rfl, rfl, rfl, rfl, rfl, rfl⟩

@[simp] theorem passKnown_frame (cause : BitVec 8) (n : Nat) (s : State) :
    (passKnown cause n s).ident = s.ident ∧ (passKnown cause n s).cfg = s.cfg ∧ (passKnown cause n s).live = s.live ∧
    (passKnown cause n s).flash = s.flash ∧ (passKnown cause n s).mbox = s.mbox ∧ (passKnown cause n s).outbox = s.outbox ∧
    (passKnown cause n s).pres = s.pres ∧ (passKnown cause n s).img = s.img ∧ (passKnown cause n s).combs = s.combs ∧
    (passKnown cause n s).fabric = s.fabric ∧ (passKnown cause n s).shelf = s.shelf ∧ (passKnown cause n s).cove = s.cove ∧
    (passKnown cause n s).str = s.str ∧ (passKnown cause n s).err = s.err ∧ (passKnown cause n s).eth = s.eth ∧
    (passKnown cause n s).pow = s.pow ∧ (passKnown cause n s).cool = s.cool ∧ (passKnown cause n s).draws = s.draws ∧
    (passKnown cause n s).pending = s.pending :=
  by simp [passKnown, apply_ite State.ident, apply_ite State.cfg, apply_ite State.live, apply_ite State.flash,
    apply_ite State.mbox, apply_ite State.outbox, apply_ite State.pres, apply_ite State.img, apply_ite State.combs,
    apply_ite State.fabric, apply_ite State.shelf, apply_ite State.cove, apply_ite State.str, apply_ite State.err,
    apply_ite State.eth, apply_ite State.pow, apply_ite State.cool, apply_ite State.draws, apply_ite State.pending]

@[simp] theorem countTo_frame (c : Nat) (s : State) :
    (countTo c s).ident = s.ident ∧ (countTo c s).cfg = s.cfg ∧ (countTo c s).live = s.live ∧ (countTo c s).flash = s.flash ∧
    (countTo c s).mbox = s.mbox ∧ (countTo c s).outbox = s.outbox ∧ (countTo c s).pres = s.pres ∧ (countTo c s).img = s.img ∧
    (countTo c s).combs = s.combs ∧ (countTo c s).fabric = s.fabric ∧ (countTo c s).shelf = s.shelf ∧
    (countTo c s).cove = s.cove ∧ (countTo c s).str = s.str ∧ (countTo c s).err = s.err ∧ (countTo c s).eth = s.eth ∧
    (countTo c s).pow = s.pow ∧ (countTo c s).cool = s.cool ∧ (countTo c s).draws = s.draws ∧
    (countTo c s).pending = s.pending :=
  ⟨rfl, rfl, rfl, rfl, rfl, rfl, rfl, rfl, rfl, rfl, rfl, rfl, rfl, rfl, rfl, rfl, rfl, rfl, rfl⟩

@[simp] theorem passContract_frame (hs : List (Nat × Nat × Nat)) (s : State) :
    (passContract hs s).ident = s.ident ∧ (passContract hs s).cfg = s.cfg ∧ (passContract hs s).live = s.live ∧
    (passContract hs s).flash = s.flash ∧ (passContract hs s).mbox = s.mbox ∧ (passContract hs s).outbox = s.outbox ∧
    (passContract hs s).pres = s.pres ∧ (passContract hs s).img = s.img ∧ (passContract hs s).combs = s.combs ∧
    (passContract hs s).fabric = s.fabric ∧ (passContract hs s).shelf = s.shelf ∧ (passContract hs s).cove = s.cove ∧
    (passContract hs s).str = s.str ∧ (passContract hs s).err = s.err ∧ (passContract hs s).eth = s.eth ∧
    (passContract hs s).pow = s.pow ∧ (passContract hs s).cool = s.cool ∧ (passContract hs s).draws = s.draws ∧
    (passContract hs s).pending = s.pending :=
  ⟨by unfold passContract; exact foldl_keeps State.ident _ (fun s x => by simp) _ _,
   by unfold passContract; exact foldl_keeps State.cfg _ (fun s x => by simp) _ _,
   by unfold passContract; exact foldl_keeps State.live _ (fun s x => by simp) _ _,
   by unfold passContract; exact foldl_keeps State.flash _ (fun s x => by simp) _ _,
   by unfold passContract; exact foldl_keeps State.mbox _ (fun s x => by simp) _ _,
   by unfold passContract; exact foldl_keeps State.outbox _ (fun s x => by simp) _ _,
   by unfold passContract; exact foldl_keeps State.pres _ (fun s x => by simp) _ _,
   by unfold passContract; exact foldl_keeps State.img _ (fun s x => by simp) _ _,
   by unfold passContract; exact foldl_keeps State.combs _ (fun s x => by simp) _ _,
   by unfold passContract; exact foldl_keeps State.fabric _ (fun s x => by simp) _ _,
   by unfold passContract; exact foldl_keeps State.shelf _ (fun s x => by simp) _ _,
   by unfold passContract; exact foldl_keeps State.cove _ (fun s x => by simp) _ _,
   by unfold passContract; exact foldl_keeps State.str _ (fun s x => by simp) _ _,
   by unfold passContract; exact foldl_keeps State.err _ (fun s x => by simp) _ _,
   by unfold passContract; exact foldl_keeps State.eth _ (fun s x => by simp) _ _,
   by unfold passContract; exact foldl_keeps State.pow _ (fun s x => by simp) _ _,
   by unfold passContract; exact foldl_keeps State.cool _ (fun s x => by simp) _ _,
   by unfold passContract; exact foldl_keeps State.draws _ (fun s x => by simp) _ _,
   by unfold passContract; exact foldl_keeps State.pending _ (fun s x => by simp) _ _⟩

@[simp] theorem advanceTo_frame (c : Nat) (s : State) :
    (advanceTo c s).ident = s.ident ∧ (advanceTo c s).cfg = s.cfg ∧ (advanceTo c s).live = s.live ∧
    (advanceTo c s).flash = s.flash ∧ (advanceTo c s).mbox = s.mbox ∧ (advanceTo c s).outbox = s.outbox ∧
    (advanceTo c s).pres = s.pres ∧ (advanceTo c s).img = s.img ∧ (advanceTo c s).combs = s.combs ∧
    (advanceTo c s).fabric = s.fabric ∧ (advanceTo c s).shelf = s.shelf ∧ (advanceTo c s).cove = s.cove ∧
    (advanceTo c s).str = s.str ∧ (advanceTo c s).err = s.err ∧ (advanceTo c s).eth = s.eth ∧ (advanceTo c s).pow = s.pow ∧
    (advanceTo c s).cool = s.cool ∧ (advanceTo c s).draws = s.draws ∧ (advanceTo c s).pending = s.pending :=
  by simp [advanceTo]

@[simp] theorem raiseFaults_frame (fs : List FaultSite) (s : State) :
    (raiseFaults fs s).ident = s.ident ∧ (raiseFaults fs s).live = s.live ∧ (raiseFaults fs s).pres = s.pres ∧
    (raiseFaults fs s).img = s.img ∧ (raiseFaults fs s).shelf = s.shelf ∧ (raiseFaults fs s).cove = s.cove ∧
    (raiseFaults fs s).pow = s.pow ∧ (raiseFaults fs s).cool = s.cool ∧ (raiseFaults fs s).pending = s.pending :=
  ⟨by unfold raiseFaults; exact foldl_keeps State.ident _ (fun s x => by simp) _ _,
   by unfold raiseFaults; exact foldl_keeps State.live _ (fun s x => by simp) _ _,
   by unfold raiseFaults; exact foldl_keeps State.pres _ (fun s x => by simp) _ _,
   by unfold raiseFaults; exact foldl_keeps State.img _ (fun s x => by simp) _ _,
   by unfold raiseFaults; exact foldl_keeps State.shelf _ (fun s x => by simp) _ _,
   by unfold raiseFaults; exact foldl_keeps State.cove _ (fun s x => by simp) _ _,
   by unfold raiseFaults; exact foldl_keeps State.pow _ (fun s x => by simp) _ _,
   by unfold raiseFaults; exact foldl_keeps State.cool _ (fun s x => by simp) _ _,
   by unfold raiseFaults; exact foldl_keeps State.pending _ (fun s x => by simp) _ _⟩

@[simp] theorem noteAccesses_frame (i : Issue) (bs : List (Nat × Nat)) (s : State) :
    (noteAccesses i bs s).ident = s.ident ∧ (noteAccesses i bs s).cfg = s.cfg ∧ (noteAccesses i bs s).live = s.live ∧
    (noteAccesses i bs s).flash = s.flash ∧ (noteAccesses i bs s).mbox = s.mbox ∧ (noteAccesses i bs s).outbox = s.outbox ∧
    (noteAccesses i bs s).pres = s.pres ∧ (noteAccesses i bs s).tide = s.tide ∧ (noteAccesses i bs s).img = s.img ∧
    (noteAccesses i bs s).fabric = s.fabric ∧ (noteAccesses i bs s).shelf = s.shelf ∧ (noteAccesses i bs s).cove = s.cove ∧
    (noteAccesses i bs s).str = s.str ∧ (noteAccesses i bs s).err = s.err ∧ (noteAccesses i bs s).eth = s.eth ∧
    (noteAccesses i bs s).pow = s.pow ∧ (noteAccesses i bs s).cool = s.cool ∧ (noteAccesses i bs s).draws = s.draws ∧
    (noteAccesses i bs s).pending = s.pending :=
  ⟨rfl, rfl, rfl, rfl, rfl, rfl, rfl, rfl, rfl, rfl, rfl, rfl, rfl, rfl, rfl, rfl, rfl, rfl, rfl⟩

@[simp] theorem noteWrites_frame (i : Issue) (op : TideOp) (xs : List (Nat × Nat)) (s : State) :
    (noteWrites i op xs s).ident = s.ident ∧ (noteWrites i op xs s).cfg = s.cfg ∧
    (noteWrites i op xs s).live = s.live ∧ (noteWrites i op xs s).flash = s.flash ∧
    (noteWrites i op xs s).mbox = s.mbox ∧ (noteWrites i op xs s).outbox = s.outbox ∧
    (noteWrites i op xs s).pres = s.pres ∧ (noteWrites i op xs s).tide = s.tide ∧
    (noteWrites i op xs s).img = s.img ∧ (noteWrites i op xs s).fabric = s.fabric ∧
    (noteWrites i op xs s).shelf = s.shelf ∧ (noteWrites i op xs s).cove = s.cove ∧
    (noteWrites i op xs s).str = s.str ∧ (noteWrites i op xs s).err = s.err ∧
    (noteWrites i op xs s).eth = s.eth ∧ (noteWrites i op xs s).pow = s.pow ∧
    (noteWrites i op xs s).cool = s.cool ∧ (noteWrites i op xs s).draws = s.draws ∧
    (noteWrites i op xs s).pending = s.pending :=
  ⟨rfl, rfl, rfl, rfl, rfl, rfl, rfl, rfl, rfl, rfl, rfl, rfl, rfl, rfl, rfl, rfl, rfl, rfl, rfl⟩

@[simp] theorem reportRows_frame (p operand : Nat) (slot : Nat → Nat) (reads : List (Nat × List WordRead)) (s : State) :
    (reportRows p operand slot reads s).ident = s.ident ∧ (reportRows p operand slot reads s).cfg = s.cfg ∧
    (reportRows p operand slot reads s).live = s.live ∧ (reportRows p operand slot reads s).flash = s.flash ∧
    (reportRows p operand slot reads s).mbox = s.mbox ∧ (reportRows p operand slot reads s).outbox = s.outbox ∧
    (reportRows p operand slot reads s).pres = s.pres ∧ (reportRows p operand slot reads s).tide = s.tide ∧
    (reportRows p operand slot reads s).img = s.img ∧ (reportRows p operand slot reads s).combs = s.combs ∧
    (reportRows p operand slot reads s).fabric = s.fabric ∧ (reportRows p operand slot reads s).shelf = s.shelf ∧
    (reportRows p operand slot reads s).cove = s.cove ∧ (reportRows p operand slot reads s).str = s.str ∧
    (reportRows p operand slot reads s).eth = s.eth ∧ (reportRows p operand slot reads s).pow = s.pow ∧
    (reportRows p operand slot reads s).cool = s.cool ∧ (reportRows p operand slot reads s).draws = s.draws ∧
    (reportRows p operand slot reads s).pending = s.pending :=
  ⟨by unfold reportRows; exact foldl_keeps State.ident _ (fun s x => by simp) _ _,
   by unfold reportRows; exact foldl_keeps State.cfg _ (fun s x => by simp) _ _,
   by unfold reportRows; exact foldl_keeps State.live _ (fun s x => by simp) _ _,
   by unfold reportRows; exact foldl_keeps State.flash _ (fun s x => by simp) _ _,
   by unfold reportRows; exact foldl_keeps State.mbox _ (fun s x => by simp) _ _,
   by unfold reportRows; exact foldl_keeps State.outbox _ (fun s x => by simp) _ _,
   by unfold reportRows; exact foldl_keeps State.pres _ (fun s x => by simp) _ _,
   by unfold reportRows; exact foldl_keeps State.tide _ (fun s x => by simp) _ _,
   by unfold reportRows; exact foldl_keeps State.img _ (fun s x => by simp) _ _,
   by unfold reportRows; exact foldl_keeps State.combs _ (fun s x => by simp) _ _,
   by unfold reportRows; exact foldl_keeps State.fabric _ (fun s x => by simp) _ _,
   by unfold reportRows; exact foldl_keeps State.shelf _ (fun s x => by simp) _ _,
   by unfold reportRows; exact foldl_keeps State.cove _ (fun s x => by simp) _ _,
   by unfold reportRows; exact foldl_keeps State.str _ (fun s x => by simp) _ _,
   by unfold reportRows; exact foldl_keeps State.eth _ (fun s x => by simp) _ _,
   by unfold reportRows; exact foldl_keeps State.pow _ (fun s x => by simp) _ _,
   by unfold reportRows; exact foldl_keeps State.cool _ (fun s x => by simp) _ _,
   by unfold reportRows; exact foldl_keeps State.draws _ (fun s x => by simp) _ _,
   by unfold reportRows; exact foldl_keeps State.pending _ (fun s x => by simp) _ _⟩

@[simp] theorem pendRow_frame (p ra : Nat) (data : Bytes) (cause : BitVec 8) (s : State) :
    (pendRow p ra data cause s).ident = s.ident ∧ (pendRow p ra data cause s).cfg = s.cfg ∧
    (pendRow p ra data cause s).live = s.live ∧ (pendRow p ra data cause s).flash = s.flash ∧
    (pendRow p ra data cause s).mbox = s.mbox ∧ (pendRow p ra data cause s).outbox = s.outbox ∧
    (pendRow p ra data cause s).pres = s.pres ∧ (pendRow p ra data cause s).tide = s.tide ∧
    (pendRow p ra data cause s).img = s.img ∧ (pendRow p ra data cause s).fabric = s.fabric ∧
    (pendRow p ra data cause s).shelf = s.shelf ∧ (pendRow p ra data cause s).cove = s.cove ∧
    (pendRow p ra data cause s).str = s.str ∧ (pendRow p ra data cause s).err = s.err ∧
    (pendRow p ra data cause s).eth = s.eth ∧ (pendRow p ra data cause s).pow = s.pow ∧
    (pendRow p ra data cause s).cool = s.cool ∧ (pendRow p ra data cause s).draws = s.draws ∧
    (pendRow p ra data cause s).pending = s.pending :=
  ⟨rfl, rfl, rfl, rfl, rfl, rfl, rfl, rfl, rfl, rfl, rfl, rfl, rfl, rfl, rfl, rfl, rfl, rfl, rfl⟩

@[simp] theorem landRow_frame (p ra : Nat) (s : State) :
    (landRow p ra s).ident = s.ident ∧ (landRow p ra s).cfg = s.cfg ∧ (landRow p ra s).live = s.live ∧
    (landRow p ra s).flash = s.flash ∧ (landRow p ra s).mbox = s.mbox ∧ (landRow p ra s).outbox = s.outbox ∧
    (landRow p ra s).pres = s.pres ∧ (landRow p ra s).tide = s.tide ∧ (landRow p ra s).img = s.img ∧
    (landRow p ra s).fabric = s.fabric ∧ (landRow p ra s).shelf = s.shelf ∧ (landRow p ra s).cove = s.cove ∧
    (landRow p ra s).str = s.str ∧ (landRow p ra s).err = s.err ∧ (landRow p ra s).eth = s.eth ∧
    (landRow p ra s).pow = s.pow ∧ (landRow p ra s).cool = s.cool ∧ (landRow p ra s).draws = s.draws ∧
    (landRow p ra s).pending = s.pending :=
  ⟨rfl, rfl, rfl, rfl, rfl, rfl, rfl, rfl, rfl, rfl, rfl, rfl, rfl, rfl, rfl, rfl, rfl, rfl, rfl⟩

@[simp] theorem countUnit_frame (j u : Nat) (rs : List WordRead) (s : State) :
    (countUnit j u rs s).ident = s.ident ∧ (countUnit j u rs s).cfg = s.cfg ∧ (countUnit j u rs s).live = s.live ∧
    (countUnit j u rs s).flash = s.flash ∧ (countUnit j u rs s).mbox = s.mbox ∧ (countUnit j u rs s).outbox = s.outbox ∧
    (countUnit j u rs s).pres = s.pres ∧ (countUnit j u rs s).tide = s.tide ∧ (countUnit j u rs s).img = s.img ∧
    (countUnit j u rs s).combs = s.combs ∧ (countUnit j u rs s).fabric = s.fabric ∧ (countUnit j u rs s).cove = s.cove ∧
    (countUnit j u rs s).str = s.str ∧ (countUnit j u rs s).err = s.err ∧ (countUnit j u rs s).eth = s.eth ∧
    (countUnit j u rs s).pow = s.pow ∧ (countUnit j u rs s).cool = s.cool ∧ (countUnit j u rs s).draws = s.draws ∧
    (countUnit j u rs s).pending = s.pending :=
  by simp [countUnit, apply_ite State.ident, apply_ite State.cfg, apply_ite State.live, apply_ite State.flash,
    apply_ite State.mbox, apply_ite State.outbox, apply_ite State.pres, apply_ite State.tide, apply_ite State.img,
    apply_ite State.combs, apply_ite State.fabric, apply_ite State.cove, apply_ite State.str, apply_ite State.err,
    apply_ite State.eth, apply_ite State.pow, apply_ite State.cool, apply_ite State.draws, apply_ite State.pending]

@[simp] theorem setExpert_frame (j v layer expert : Nat) (f : ExpertEntry → ExpertEntry) (s : State) :
    (setExpert j v layer expert f s).ident = s.ident ∧ (setExpert j v layer expert f s).cfg = s.cfg ∧
    (setExpert j v layer expert f s).live = s.live ∧ (setExpert j v layer expert f s).flash = s.flash ∧
    (setExpert j v layer expert f s).mbox = s.mbox ∧ (setExpert j v layer expert f s).outbox = s.outbox ∧
    (setExpert j v layer expert f s).pres = s.pres ∧ (setExpert j v layer expert f s).tide = s.tide ∧
    (setExpert j v layer expert f s).img = s.img ∧ (setExpert j v layer expert f s).combs = s.combs ∧
    (setExpert j v layer expert f s).fabric = s.fabric ∧ (setExpert j v layer expert f s).cove = s.cove ∧
    (setExpert j v layer expert f s).str = s.str ∧ (setExpert j v layer expert f s).err = s.err ∧
    (setExpert j v layer expert f s).eth = s.eth ∧ (setExpert j v layer expert f s).pow = s.pow ∧
    (setExpert j v layer expert f s).cool = s.cool ∧ (setExpert j v layer expert f s).draws = s.draws ∧
    (setExpert j v layer expert f s).pending = s.pending :=
  ⟨rfl, rfl, rfl, rfl, rfl, rfl, rfl, rfl, rfl, rfl, rfl, rfl, rfl, rfl, rfl, rfl, rfl, rfl, rfl⟩

@[simp] theorem setDiePort_frame (n : Nat) (f : Port → Port) (s : State) :
    (setDiePort n f s).ident = s.ident ∧ (setDiePort n f s).cfg = s.cfg ∧ (setDiePort n f s).live = s.live ∧
    (setDiePort n f s).flash = s.flash ∧ (setDiePort n f s).mbox = s.mbox ∧ (setDiePort n f s).outbox = s.outbox ∧
    (setDiePort n f s).pres = s.pres ∧ (setDiePort n f s).tide = s.tide ∧ (setDiePort n f s).img = s.img ∧
    (setDiePort n f s).combs = s.combs ∧ (setDiePort n f s).shelf = s.shelf ∧ (setDiePort n f s).cove = s.cove ∧
    (setDiePort n f s).str = s.str ∧ (setDiePort n f s).err = s.err ∧ (setDiePort n f s).eth = s.eth ∧
    (setDiePort n f s).pow = s.pow ∧ (setDiePort n f s).cool = s.cool ∧ (setDiePort n f s).draws = s.draws ∧
    (setDiePort n f s).pending = s.pending :=
  ⟨rfl, rfl, rfl, rfl, rfl, rfl, rfl, rfl, rfl, rfl, rfl, rfl, rfl, rfl, rfl, rfl, rfl, rfl, rfl⟩

end Sys2Proof.Machine
end

