-- ==== Sys2Proof/Laws/Ops.lean ====
section
/-! SUPPORT. What the shared operations do: which unit they change and what a reader of any unit then finds, which
operations keep every memory in its canonical form, and how the mailbox engine treats a request that is served or turned
away. -/

namespace Sys2Proof.Machine

/-! ## Units -/

theorem nth_upd {α : Type} (l : List α) (i j : Nat) (f : α → α) (d : α) :
    nth (upd l i f) j d = if i = j ∧ j < l.length then f (nth l j d) else nth l j d := by
  unfold nth upd
  rw [List.getD_eq_getElem?_getD, List.getD_eq_getElem?_getD, List.getElem?_modify]
  by_cases h : i = j
  · by_cases hj : j < l.length
    · simp [h, hj]
    · simp [h, hj]
  · simp [h]

theorem mem_upd {α : Type} {l : List α} {i : Nat} {f : α → α} {x : α} (h : x ∈ upd l i f) : x ∈ l ∨ ∃ y ∈ l, x = f y := by
  unfold upd at h
  obtain ⟨n, hn⟩ := List.mem_iff_getElem?.mp h
  rw [List.getElem?_modify] at hn
  cases hl : l[n]? with
  | none => simp [hl] at hn
  | some y =>
    rw [hl] at hn
    have hy : y ∈ l := List.mem_iff_getElem?.mpr ⟨n, hl⟩
    by_cases hi : i = n
    · simp only [hi, if_true, Option.map_eq_map, Option.map_some, Option.some.injEq] at hn
      exact .inr ⟨y, hy, hn.symm⟩
    · simp only [hi, if_false, Option.map_eq_map, Option.map_some, Option.some.injEq] at hn
      exact .inl (hn ▸ hy)

/-- What a reader of any comb finds after comb p was changed. -/
theorem setComb_comb (p q : Nat) (f : Comb → Comb) (s : State) :
    (setComb p f s).comb q = if p = q ∧ q < s.combs.length then f (s.comb q) else s.comb q := nth_upd _ _ _ _ _

/-- What a reader of any stack finds after stack n was changed. -/
theorem setStack_stack (n j : Nat) (f : Stack → Stack) (s : State) :
    (setStack n f s).stack j = if n = j ∧ j < s.shelf.stk.length then f (s.stack j) else s.stack j := nth_upd _ _ _ _ _

/-- What a reader of any link direction finds after one was changed. -/
theorem setLink_link (l k : Nat) (d e : Bool) (f : LinkDir → LinkDir) (s : State) :
    (setLink l d f s).link k e
      = if linkIndex l d = linkIndex k e ∧ linkIndex k e < s.fabric.links.length then f (s.link k e) else s.link k e :=
  nth_upd _ _ _ _ _

@[simp] theorem setComb_length (p : Nat) (f : Comb → Comb) (s : State) : (setComb p f s).combs.length = s.combs.length :=
  List.length_modify _ _ _

@[simp] theorem setStack_length (n : Nat) (f : Stack → Stack) (s : State) :
    (setStack n f s).shelf.stk.length = s.shelf.stk.length := List.length_modify _ _ _

@[simp] theorem setLink_length (l : Nat) (d : Bool) (f : LinkDir → LinkDir) (s : State) :
    (setLink l d f s).fabric.links.length = s.fabric.links.length := List.length_modify _ _ _

/-- What a reader of any live record finds after record n was changed. -/
theorem setLive_liveAt (n m : Nat) (f : Stream → Stream) (s : State) :
    liveAt m (setLive n f s) = if n = m then (liveAt m s).map f else liveAt m s := by
  unfold liveAt setLive lookup
  dsimp only
  induction s.str.live with
  | nil => simp
  | cons p l ih =>
    rw [List.map_cons]
    by_cases hp : p.1 = n <;> by_cases hm : p.1 = m <;> by_cases hn : n = m <;> simp_all

/-! ## Memories keep their form -/

/-- Memories keep their form where combs and stacks are as before. -/
theorem State.memoryWf_of_eq {s t : State} (h : s.memoryWf) (hc : t.combs = s.combs) (hs : t.shelf = s.shelf) :
    t.memoryWf := by
  unfold State.memoryWf at *
  rw [hc, hs]; exact h

theorem setComb_memoryWf {s : State} (h : s.memoryWf) (p : Nat) (f : Comb → Comb)
    (hf : ∀ c : Comb, c.memoryWf → (f c).memoryWf) : (setComb p f s).memoryWf := by
  refine ⟨fun c hc => ?_, by simpa using h.2⟩
  rcases mem_upd hc with hc | ⟨y, hy, rfl⟩
  · exact h.1 c hc
  · exact hf y (h.1 y hy)

theorem setStack_memoryWf {s : State} (h : s.memoryWf) (n : Nat) (f : Stack → Stack)
    (hf : ∀ k : Stack, Memory.wf k.mem = true → Memory.wf (f k).mem = true) : (setStack n f s).memoryWf := by
  refine ⟨by simpa using h.1, fun k hk => ?_⟩
  rcases mem_upd hk with hk | ⟨y, hy, rfl⟩
  · exact h.2 k hk
  · exact hf y (h.2 y hy)

/-- The memories of a comb in a state whose memories have the form have it. -/
theorem comb_wf {s : State} (h : s.memoryWf) (p : Nat) : (s.comb p).memoryWf := by
  unfold State.comb nth
  rw [List.getD_eq_getElem?_getD]
  cases hl : s.combs[p]? with
  | none => exact ⟨rfl, rfl⟩
  | some c => exact h.1 c (List.mem_iff_getElem?.mpr ⟨p, hl⟩)

/-- The memory of a stack in a state whose memories have the form has it. -/
theorem stack_wf {s : State} (h : s.memoryWf) (n : Nat) : Memory.wf (s.stack n).mem = true := by
  unfold State.stack nth
  rw [List.getD_eq_getElem?_getD]
  cases hl : s.shelf.stk[n]? with
  | none => rfl
  | some k => exact h.2 k (List.mem_iff_getElem?.mpr ⟨n, hl⟩)

/-- Forgetting the step in flight leaves every scratchpad as it was. -/
theorem discardStep_memoryWf {s : State} (h : s.memoryWf) : (discardStep s).memoryWf := by
  refine ⟨fun c hc => ?_, h.2⟩
  obtain ⟨y, hy, rfl⟩ := List.mem_map.mp hc
  exact h.1 y hy

theorem halt_memoryWf {s : State} (h : s.memoryWf) (x : HaltCause) : (halt x s).memoryWf := discardStep_memoryWf h

theorem dropImage_memoryWf {s : State} (h : s.memoryWf) : (dropImage s).memoryWf := discardStep_memoryWf h

theorem raiseNotice_memoryWf {s : State} (h : s.memoryWf) (code : Nat) (severity : Option Nat) (kind subject related detail : Nat) :
    (raiseNotice code severity kind subject related detail s).memoryWf := State.memoryWf_of_eq h (by simp) (by simp)

theorem scheduleFault_memoryWf {s : State} (h : s.memoryWf) (f : FaultSite) : (scheduleFault f s).memoryWf := by
  unfold scheduleFault
  split
  · exact halt_memoryWf (State.memoryWf_of_eq h (by simp) (by simp)) _
  · split
    · exact State.memoryWf_of_eq h rfl rfl
    · exact h

theorem raiseFaults_memoryWf {s : State} (h : s.memoryWf) (fs : List FaultSite) : (raiseFaults fs s).memoryWf :=
  foldl_inv State.memoryWf _ (fun _ _ h => scheduleFault_memoryWf h _) _ _ h

theorem countOthers_memoryWf {s : State} (h : s.memoryWf) (n : Nat) : (countOthers n s).memoryWf :=
  foldl_inv State.memoryWf (fun s (_ : Nat) => countOther s) (fun _ _ h => State.memoryWf_of_eq h rfl rfl) (List.range n) _ h

/-- Faults of other combs touch no memory (R213). -/
theorem stopWith_memoryWf {u t : State} (hu : u.memoryWf) (ht : t.memoryWf) (i : Issue) : (stopWith i u t).memoryWf := by
  unfold stopWith
  split
  · dsimp only
    split
    · split
      · exact countOthers_memoryWf (scheduleFault_memoryWf hu _) _
      · exact countOthers_memoryWf ht _
    · exact countOthers_memoryWf ht _
  · exact ht

/-- An instruction that leaves the data plane running has met no fault, of whatever comb (R213). -/
theorem stopWith_running (i : Issue) (u : State) {t : State} (h : t.tide.dp = .running) : stopWith i u t = t := by
  simp [stopWith, h]

theorem landRow_memoryWf {s : State} (h : s.memoryWf) (p ra : Nat) : (landRow p ra s).memoryWf := by
  refine setComb_memoryWf h p _ fun c hc => ?_
  split
  · exact ⟨Memory.write_wf hc.1 _ _, hc.2⟩
  · exact hc

theorem pendRow_memoryWf {s : State} (h : s.memoryWf) (p ra : Nat) (data : Bytes) (cause : BitVec 8) :
    (pendRow p ra data cause s).memoryWf := setComb_memoryWf h p _ fun _ hc => hc

theorem countUnit_memoryWf {s : State} (h : s.memoryWf) (j u : Nat) (rs : List WordRead) : (countUnit j u rs s).memoryWf := by
  unfold countUnit
  dsimp only
  split
  · exact h
  · exact setStack_memoryWf h _ _ fun _ hk => hk

theorem readUnits_memoryWf {s : State} (h : s.memoryWf) (j u n : Nat) : (readUnits j u n s).2.memoryWf :=
  foldl_inv State.memoryWf _ (fun _ _ h => countUnit_memoryWf h _ _ _) _ _ h

theorem codeMemory_wf (i : Image) (v : Nat) : Memory.wf (codeMemory i v) = true := writeSlots_wf (writeSlots_wf Memory.wf_nil _ _) _ _

theorem restoreUnits_memoryWf {s : State} (h : s.memoryWf) (j u : Nat) (ws : List Word64) : (restoreUnits j u ws s).memoryWf :=
  foldl_inv State.memoryWf _ (fun _ _ h => setStack_memoryWf h _ _ fun _ hk => writeUnits_wf hk _ _) _ _ h

/-- Part of a memory moved to where the target's own cells are left out keeps the form. -/
theorem copyPage_memoryWf {s : State} (h : s.memoryWf) (i : Image) (k v : Nat) (src dst : Nat × Nat) :
    (copyPage i k v src dst s).memoryWf := by
  refine setStack_memoryWf h _ _ fun x hx => ?_
  have hs := stack_wf h src.1
  rw [Memory.wf_iff] at *
  refine ⟨?_, fun c hc => ?_⟩
  · refine List.pairwise_append.mpr ⟨List.pairwise_append.mpr ⟨hx.1.filter _, ?_, ?_⟩, hx.1.filter _, ?_⟩
    · refine List.pairwise_map.mpr ((hs.1.filter _).imp_of_mem fun ha hb hab => ?_)
      simp at ha hb ⊢
      omega
    · intro a ha b hb
      obtain ⟨y, hy, rfl⟩ := List.mem_map.mp hb
      simp at ha hy ⊢
      omega
    · intro a ha b hb
      simp at hb
      rcases List.mem_append.mp ha with ha | ha
      · simp at ha
        omega
      · obtain ⟨y, hy, rfl⟩ := List.mem_map.mp ha
        simp at hy ⊢
        omega
  · rcases List.mem_append.mp hc with hc | hc
    · rcases List.mem_append.mp hc with hc | hc
      · exact hx.2 c (List.mem_of_mem_filter hc)
      · obtain ⟨y, hy, rfl⟩ := List.mem_map.mp hc
        exact hs.2 y (List.mem_of_mem_filter hy)
    · exact hx.2 c (List.mem_of_mem_filter hc)

theorem writeKvWord_memoryWf {s : State} (h : s.memoryWf) (i : Image) (page idx w : Nat) (bs : List (Byte × Bool)) :
    (writeKvWord i page idx w bs s).memoryWf := setStack_memoryWf h _ _ fun _ hk => writeSlots_wf hk _ _

theorem writeKv_memoryWf {s : State} (h : s.memoryWf) (i : Image) (page idx first : Nat) (bs : List (Byte × Bool)) :
    (writeKv i page idx first bs s).memoryWf := foldl_inv State.memoryWf _ (fun _ _ h => writeKvWord_memoryWf h _ _ _ _ _) _ _ h

theorem storeHistory_memoryWf {s : State} (h : s.memoryWf) (t : Stream) (first : Nat) : (storeHistory t first s).memoryWf := by
  refine foldl_inv State.memoryWf _ (fun w k h => ?_) _ _ h
  dsimp only
  split
  · exact setStack_memoryWf h _ _ fun _ hk => writeSlots_wf hk _ _
  · exact h

theorem restoreRecords_memoryWf {s : State} (h : s.memoryWf) (i : Image) (ps : List KvPage) (cs : List KvCopy) :
    (restoreRecords i ps cs s).memoryWf := by
  refine foldl_inv State.memoryWf _ (fun w c h => ?_) _ _ h
  split
  · exact writeKv_memoryWf h _ _ _ _ _
  · exact h

/-! ## Stopping -/

/-- The data plane after halt: Halted for its cause, no hold left, no boundary due, no start pending (R171, R213). -/
theorem halt_tide (x : HaltCause) (s : State) :
    (halt x s).tide = { s.tide with dp := .halted, halt := x, number := resumeNumber s, holds := [], lapsed := if x = .fault then s.tide.holds else [], prologue := false,
                                    servingDue := false, epochDue := false, stepDue := false, stopPending := false,
                                    startPending := false } := rfl

/-- A schedule fault while Running ends in Halted for a fault (R213). -/
theorem scheduleFault_running {s : State} (h : s.tide.dp = .running) (f : FaultSite) :
    (scheduleFault f s).tide.dp = .halted ∧ (scheduleFault f s).tide.halt = .fault := by
  unfold scheduleFault
  rw [if_pos h]
  exact ⟨rfl, rfl⟩

/-! ## The mailbox engine -/

/-- A module whose firmware does not run hears no request. -/
theorem serve_asleep {s : State} (h : s.awake = false) (op : Op) (r : Request) : serve op r s = s := by simp [serve, h]

/-- A datagram that R341 drops is counted, and nothing else. -/
theorem serve_dropped {s : State} {op : Op} {r : Request} (h : s.awake = true) (hp : arrival op r s ≠ .pass) :
    serve op r s = countDrop (arrival op r s) r.mailbox.toNat (received s) := by
  unfold serve
  rw [if_pos h]
  split
  · exact absurd ‹_› hp
  · rfl

@[simp] theorem confirmPort_cache (r q : Request) (s : State) : cacheOf q.mailbox (confirmPort r (received s)) = cacheOf q.mailbox s := by
  simp [cacheOf]

/-- A fresh request of an authentic sender is executed on what it is taken to. -/
theorem serve_fresh {s : State} {op : Op} {r : Request} (h : s.awake = true) (hp : arrival op r s = .pass) (hf : Fresh r s) :
    serve op r s = execute op r (confirmPort r (received s)) := by
  obtain ⟨h1, h2, h3⟩ := hf
  have h3' : ¬ 16 ≤ (s.mbox.outstanding.filter fun o => decide (o.mailbox = r.mailbox)).length := by omega
  unfold serve
  rw [if_pos h, hp]
  dsimp only
  unfold sequenceCheck
  simp only [confirmPort_cache, h1, confirmPort_frame, received_frame]
  rw [if_neg h2, if_neg h3']

/-- A served request has its effect on the taken state and is answered. -/
theorem serve_served {s : State} {op : Op} {r : Request} (h : Served op r s) :
    serve op r s = respond op r (op.run r (taken r s)) := by
  obtain ⟨ha, hp, hf, hc⟩ := h
  rw [serve_fresh ha hp hf]
  unfold execute
  exact if_pos hc

/-- A request that fails a check is answered with the status of the first check that fails. -/
theorem serve_rejected {s : State} {op : Op} {r : Request} (h : Rejected op r s) :
    serve op r s = respond op r ⟨taken r s, checks op r (taken r s),
      if roleOk op r (taken r s) && moduleOk op r (taken r s) then op.object r else .module, false, (0, 0), []⟩ := by
  obtain ⟨ha, hp, hf, hc⟩ := h
  rw [serve_fresh ha hp hf]
  unfold execute
  exact if_neg hc

end Sys2Proof.Machine
end

