-- ==== Sys2Proof/Laws/Frames.lean ====
section
/-! SUPPORT. The frames of further shared operations, in the form of Laws/State: which groups of the state each leaves as
they were. A group that a conjunction does not list is one that the operation may write. -/

namespace Sys2Proof.Machine

@[simp] theorem reply_frame (k : Option Key) (r : Request) (flags : BitVec 8) (code : BitVec 16) (status : Status) (stamp : PtpTime) (payload : Bytes) (s : State) :
    (reply k r flags code status stamp payload s).ident = s.ident ∧
    (reply k r flags code status stamp payload s).cfg = s.cfg ∧ (reply k r flags code status stamp payload s).live = s.live ∧
    (reply k r flags code status stamp payload s).flash = s.flash ∧
    (reply k r flags code status stamp payload s).mbox = s.mbox ∧
    (reply k r flags code status stamp payload s).pres = s.pres ∧
    (reply k r flags code status stamp payload s).tide = s.tide ∧ (reply k r flags code status stamp payload s).img = s.img ∧
    (reply k r flags code status stamp payload s).combs = s.combs ∧
    (reply k r flags code status stamp payload s).fabric = s.fabric ∧
    (reply k r flags code status stamp payload s).shelf = s.shelf ∧
    (reply k r flags code status stamp payload s).cove = s.cove ∧ (reply k r flags code status stamp payload s).str = s.str ∧
    (reply k r flags code status stamp payload s).err = s.err ∧ (reply k r flags code status stamp payload s).pow = s.pow ∧
    (reply k r flags code status stamp payload s).cool = s.cool ∧
    (reply k r flags code status stamp payload s).draws = s.draws ∧
    (reply k r flags code status stamp payload s).pending = s.pending :=
  by refine ⟨?_, ?_, ?_, ?_, ?_, ?_, ?_, ?_, ?_, ?_, ?_, ?_, ?_, ?_, ?_, ?_, ?_, ?_⟩ <;> (unfold reply; simp)

@[simp] theorem reserveExtents_frame (back : Bool) (a n : Nat) (s : State) :
    (reserveExtents back a n s).ident = s.ident ∧ (reserveExtents back a n s).cfg = s.cfg ∧
    (reserveExtents back a n s).live = s.live ∧ (reserveExtents back a n s).flash = s.flash ∧
    (reserveExtents back a n s).mbox = s.mbox ∧ (reserveExtents back a n s).outbox = s.outbox ∧
    (reserveExtents back a n s).pres = s.pres ∧ (reserveExtents back a n s).tide = s.tide ∧
    (reserveExtents back a n s).img = s.img ∧ (reserveExtents back a n s).combs = s.combs ∧
    (reserveExtents back a n s).fabric = s.fabric ∧ (reserveExtents back a n s).shelf = s.shelf ∧
    (reserveExtents back a n s).str = s.str ∧ (reserveExtents back a n s).err = s.err ∧
    (reserveExtents back a n s).eth = s.eth ∧ (reserveExtents back a n s).pow = s.pow ∧
    (reserveExtents back a n s).cool = s.cool ∧ (reserveExtents back a n s).draws = s.draws ∧
    (reserveExtents back a n s).pending = s.pending :=
  ⟨rfl, rfl, rfl, rfl, rfl, rfl, rfl, rfl, rfl, rfl, rfl, rfl, rfl, rfl, rfl, rfl, rfl, rfl, rfl⟩

@[simp] theorem copyPage_frame (i : Image) (k v : Nat) (src dst : Nat × Nat) (s : State) :
    (copyPage i k v src dst s).ident = s.ident ∧ (copyPage i k v src dst s).cfg = s.cfg ∧
    (copyPage i k v src dst s).live = s.live ∧ (copyPage i k v src dst s).flash = s.flash ∧
    (copyPage i k v src dst s).mbox = s.mbox ∧ (copyPage i k v src dst s).outbox = s.outbox ∧
    (copyPage i k v src dst s).pres = s.pres ∧ (copyPage i k v src dst s).tide = s.tide ∧
    (copyPage i k v src dst s).img = s.img ∧ (copyPage i k v src dst s).combs = s.combs ∧
    (copyPage i k v src dst s).fabric = s.fabric ∧ (copyPage i k v src dst s).cove = s.cove ∧
    (copyPage i k v src dst s).str = s.str ∧ (copyPage i k v src dst s).err = s.err ∧ (copyPage i k v src dst s).eth = s.eth ∧
    (copyPage i k v src dst s).pow = s.pow ∧ (copyPage i k v src dst s).cool = s.cool ∧
    (copyPage i k v src dst s).draws = s.draws ∧ (copyPage i k v src dst s).pending = s.pending :=
  by refine ⟨?_, ?_, ?_, ?_, ?_, ?_, ?_, ?_, ?_, ?_, ?_, ?_, ?_, ?_, ?_, ?_, ?_, ?_, ?_⟩ <;> (unfold copyPage; simp)

@[simp] theorem writeKvWord_frame (i : Image) (page idx w : Nat) (bs : List (Byte × Bool)) (s : State) :
    (writeKvWord i page idx w bs s).ident = s.ident ∧ (writeKvWord i page idx w bs s).cfg = s.cfg ∧
    (writeKvWord i page idx w bs s).live = s.live ∧ (writeKvWord i page idx w bs s).flash = s.flash ∧
    (writeKvWord i page idx w bs s).mbox = s.mbox ∧ (writeKvWord i page idx w bs s).outbox = s.outbox ∧
    (writeKvWord i page idx w bs s).pres = s.pres ∧ (writeKvWord i page idx w bs s).tide = s.tide ∧
    (writeKvWord i page idx w bs s).img = s.img ∧ (writeKvWord i page idx w bs s).combs = s.combs ∧
    (writeKvWord i page idx w bs s).fabric = s.fabric ∧ (writeKvWord i page idx w bs s).cove = s.cove ∧
    (writeKvWord i page idx w bs s).str = s.str ∧ (writeKvWord i page idx w bs s).err = s.err ∧
    (writeKvWord i page idx w bs s).eth = s.eth ∧ (writeKvWord i page idx w bs s).pow = s.pow ∧
    (writeKvWord i page idx w bs s).cool = s.cool ∧ (writeKvWord i page idx w bs s).draws = s.draws ∧
    (writeKvWord i page idx w bs s).pending = s.pending :=
  by refine ⟨?_, ?_, ?_, ?_, ?_, ?_, ?_, ?_, ?_, ?_, ?_, ?_, ?_, ?_, ?_, ?_, ?_, ?_, ?_⟩ <;> (unfold writeKvWord; simp)

@[simp] theorem writeKv_frame (i : Image) (page idx first : Nat) (bs : List (Byte × Bool)) (s : State) :
    (writeKv i page idx first bs s).ident = s.ident ∧ (writeKv i page idx first bs s).cfg = s.cfg ∧
    (writeKv i page idx first bs s).live = s.live ∧ (writeKv i page idx first bs s).flash = s.flash ∧
    (writeKv i page idx first bs s).mbox = s.mbox ∧ (writeKv i page idx first bs s).outbox = s.outbox ∧
    (writeKv i page idx first bs s).pres = s.pres ∧ (writeKv i page idx first bs s).tide = s.tide ∧
    (writeKv i page idx first bs s).img = s.img ∧ (writeKv i page idx first bs s).combs = s.combs ∧
    (writeKv i page idx first bs s).fabric = s.fabric ∧ (writeKv i page idx first bs s).cove = s.cove ∧
    (writeKv i page idx first bs s).str = s.str ∧ (writeKv i page idx first bs s).err = s.err ∧
    (writeKv i page idx first bs s).eth = s.eth ∧ (writeKv i page idx first bs s).pow = s.pow ∧
    (writeKv i page idx first bs s).cool = s.cool ∧ (writeKv i page idx first bs s).draws = s.draws ∧
    (writeKv i page idx first bs s).pending = s.pending :=
  ⟨by unfold writeKv; refine foldl_keeps State.ident _ ?_ _ _; intros; simp,
   by unfold writeKv; refine foldl_keeps State.cfg _ ?_ _ _; intros; simp,
   by unfold writeKv; refine foldl_keeps State.live _ ?_ _ _; intros; simp,
   by unfold writeKv; refine foldl_keeps State.flash _ ?_ _ _; intros; simp,
   by unfold writeKv; refine foldl_keeps State.mbox _ ?_ _ _; intros; simp,
   by unfold writeKv; refine foldl_keeps State.outbox _ ?_ _ _; intros; simp,
   by unfold writeKv; refine foldl_keeps State.pres _ ?_ _ _; intros; simp,
   by unfold writeKv; refine foldl_keeps State.tide _ ?_ _ _; intros; simp,
   by unfold writeKv; refine foldl_keeps State.img _ ?_ _ _; intros; simp,
   by unfold writeKv; refine foldl_keeps State.combs _ ?_ _ _; intros; simp,
   by unfold writeKv; refine foldl_keeps State.fabric _ ?_ _ _; intros; simp,
   by unfold writeKv; refine foldl_keeps State.cove _ ?_ _ _; intros; simp,
   by unfold writeKv; refine foldl_keeps State.str _ ?_ _ _; intros; simp,
   by unfold writeKv; refine foldl_keeps State.err _ ?_ _ _; intros; simp,
   by unfold writeKv; refine foldl_keeps State.eth _ ?_ _ _; intros; simp,
   by unfold writeKv; refine foldl_keeps State.pow _ ?_ _ _; intros; simp,
   by unfold writeKv; refine foldl_keeps State.cool _ ?_ _ _; intros; simp,
   by unfold writeKv; refine foldl_keeps State.draws _ ?_ _ _; intros; simp,
   by unfold writeKv; refine foldl_keeps State.pending _ ?_ _ _; intros; simp⟩

@[simp] theorem storeHistory_frame (t : Stream) (first : Nat) (s : State) :
    (storeHistory t first s).ident = s.ident ∧ (storeHistory t first s).cfg = s.cfg ∧ (storeHistory t first s).live = s.live ∧
    (storeHistory t first s).flash = s.flash ∧ (storeHistory t first s).mbox = s.mbox ∧
    (storeHistory t first s).outbox = s.outbox ∧ (storeHistory t first s).pres = s.pres ∧
    (storeHistory t first s).tide = s.tide ∧ (storeHistory t first s).img = s.img ∧ (storeHistory t first s).combs = s.combs ∧
    (storeHistory t first s).fabric = s.fabric ∧ (storeHistory t first s).cove = s.cove ∧
    (storeHistory t first s).str = s.str ∧ (storeHistory t first s).err = s.err ∧ (storeHistory t first s).eth = s.eth ∧
    (storeHistory t first s).pow = s.pow ∧ (storeHistory t first s).cool = s.cool ∧ (storeHistory t first s).draws = s.draws ∧
    (storeHistory t first s).pending = s.pending :=
  ⟨by unfold storeHistory; dsimp only; refine (foldl_keeps State.ident _ ?_ _ _).trans ?_ <;> intros <;> (repeat' split) <;> simp,
   by unfold storeHistory; dsimp only; refine (foldl_keeps State.cfg _ ?_ _ _).trans ?_ <;> intros <;> (repeat' split) <;> simp,
   by unfold storeHistory; dsimp only; refine (foldl_keeps State.live _ ?_ _ _).trans ?_ <;> intros <;> (repeat' split) <;> simp,
   by unfold storeHistory; dsimp only; refine (foldl_keeps State.flash _ ?_ _ _).trans ?_ <;> intros <;> (repeat' split) <;> simp,
   by unfold storeHistory; dsimp only; refine (foldl_keeps State.mbox _ ?_ _ _).trans ?_ <;> intros <;> (repeat' split) <;> simp,
   by unfold storeHistory; dsimp only; refine (foldl_keeps State.outbox _ ?_ _ _).trans ?_ <;> intros <;> (repeat' split) <;> simp,
   by unfold storeHistory; dsimp only; refine (foldl_keeps State.pres _ ?_ _ _).trans ?_ <;> intros <;> (repeat' split) <;> simp,
   by unfold storeHistory; dsimp only; refine (foldl_keeps State.tide _ ?_ _ _).trans ?_ <;> intros <;> (repeat' split) <;> simp,
   by unfold storeHistory; dsimp only; refine (foldl_keeps State.img _ ?_ _ _).trans ?_ <;> intros <;> (repeat' split) <;> simp,
   by unfold storeHistory; dsimp only; refine (foldl_keeps State.combs _ ?_ _ _).trans ?_ <;> intros <;> (repeat' split) <;> simp,
   by unfold storeHistory; dsimp only; refine (foldl_keeps State.fabric _ ?_ _ _).trans ?_ <;> intros <;> (repeat' split) <;> simp,
   by unfold storeHistory; dsimp only; refine (foldl_keeps State.cove _ ?_ _ _).trans ?_ <;> intros <;> (repeat' split) <;> simp,
   by unfold storeHistory; dsimp only; refine (foldl_keeps State.str _ ?_ _ _).trans ?_ <;> intros <;> (repeat' split) <;> simp,
   by unfold storeHistory; dsimp only; refine (foldl_keeps State.err _ ?_ _ _).trans ?_ <;> intros <;> (repeat' split) <;> simp,
   by unfold storeHistory; dsimp only; refine (foldl_keeps State.eth _ ?_ _ _).trans ?_ <;> intros <;> (repeat' split) <;> simp,
   by unfold storeHistory; dsimp only; refine (foldl_keeps State.pow _ ?_ _ _).trans ?_ <;> intros <;> (repeat' split) <;> simp,
   by unfold storeHistory; dsimp only; refine (foldl_keeps State.cool _ ?_ _ _).trans ?_ <;> intros <;> (repeat' split) <;> simp,
   by unfold storeHistory; dsimp only; refine (foldl_keeps State.draws _ ?_ _ _).trans ?_ <;> intros <;> (repeat' split) <;> simp,
   by unfold storeHistory; dsimp only; refine (foldl_keeps State.pending _ ?_ _ _).trans ?_ <;> intros <;> (repeat' split) <;> simp⟩

@[simp] theorem restoreRecords_frame (i : Image) (ps : List KvPage) (cs : List KvCopy) (s : State) :
    (restoreRecords i ps cs s).ident = s.ident ∧ (restoreRecords i ps cs s).cfg = s.cfg ∧
    (restoreRecords i ps cs s).live = s.live ∧ (restoreRecords i ps cs s).flash = s.flash ∧
    (restoreRecords i ps cs s).mbox = s.mbox ∧ (restoreRecords i ps cs s).outbox = s.outbox ∧
    (restoreRecords i ps cs s).pres = s.pres ∧ (restoreRecords i ps cs s).tide = s.tide ∧
    (restoreRecords i ps cs s).img = s.img ∧ (restoreRecords i ps cs s).combs = s.combs ∧
    (restoreRecords i ps cs s).fabric = s.fabric ∧ (restoreRecords i ps cs s).cove = s.cove ∧
    (restoreRecords i ps cs s).str = s.str ∧ (restoreRecords i ps cs s).err = s.err ∧ (restoreRecords i ps cs s).eth = s.eth ∧
    (restoreRecords i ps cs s).pow = s.pow ∧ (restoreRecords i ps cs s).cool = s.cool ∧
    (restoreRecords i ps cs s).draws = s.draws ∧ (restoreRecords i ps cs s).pending = s.pending :=
  ⟨by unfold restoreRecords; refine foldl_keeps State.ident _ ?_ _ _; intro s x; (repeat' split) <;> simp,
   by unfold restoreRecords; refine foldl_keeps State.cfg _ ?_ _ _; intro s x; (repeat' split) <;> simp,
   by unfold restoreRecords; refine foldl_keeps State.live _ ?_ _ _; intro s x; (repeat' split) <;> simp,
   by unfold restoreRecords; refine foldl_keeps State.flash _ ?_ _ _; intro s x; (repeat' split) <;> simp,
   by unfold restoreRecords; refine foldl_keeps State.mbox _ ?_ _ _; intro s x; (repeat' split) <;> simp,
   by unfold restoreRecords; refine foldl_keeps State.outbox _ ?_ _ _; intro s x; (repeat' split) <;> simp,
   by unfold restoreRecords; refine foldl_keeps State.pres _ ?_ _ _; intro s x; (repeat' split) <;> simp,
   by unfold restoreRecords; refine foldl_keeps State.tide _ ?_ _ _; intro s x; (repeat' split) <;> simp,
   by unfold restoreRecords; refine foldl_keeps State.img _ ?_ _ _; intro s x; (repeat' split) <;> simp,
   by unfold restoreRecords; refine foldl_keeps State.combs _ ?_ _ _; intro s x; (repeat' split) <;> simp,
   by unfold restoreRecords; refine foldl_keeps State.fabric _ ?_ _ _; intro s x; (repeat' split) <;> simp,
   by unfold restoreRecords; refine foldl_keeps State.cove _ ?_ _ _; intro s x; (repeat' split) <;> simp,
   by unfold restoreRecords; refine foldl_keeps State.str _ ?_ _ _; intro s x; (repeat' split) <;> simp,
   by unfold restoreRecords; refine foldl_keeps State.err _ ?_ _ _; intro s x; (repeat' split) <;> simp,
   by unfold restoreRecords; refine foldl_keeps State.eth _ ?_ _ _; intro s x; (repeat' split) <;> simp,
   by unfold restoreRecords; refine foldl_keeps State.pow _ ?_ _ _; intro s x; (repeat' split) <;> simp,
   by unfold restoreRecords; refine foldl_keeps State.cool _ ?_ _ _; intro s x; (repeat' split) <;> simp,
   by unfold restoreRecords; refine foldl_keeps State.draws _ ?_ _ _; intro s x; (repeat' split) <;> simp,
   by unfold restoreRecords; refine foldl_keeps State.pending _ ?_ _ _; intro s x; (repeat' split) <;> simp⟩

@[simp] theorem mapPage_frame (v j page : Nat) (s : State) :
    (mapPage v j page s).ident = s.ident ∧ (mapPage v j page s).cfg = s.cfg ∧ (mapPage v j page s).live = s.live ∧
    (mapPage v j page s).flash = s.flash ∧ (mapPage v j page s).mbox = s.mbox ∧ (mapPage v j page s).outbox = s.outbox ∧
    (mapPage v j page s).pres = s.pres ∧ (mapPage v j page s).tide = s.tide ∧ (mapPage v j page s).img = s.img ∧
    (mapPage v j page s).combs = s.combs ∧ (mapPage v j page s).fabric = s.fabric ∧ (mapPage v j page s).cove = s.cove ∧
    (mapPage v j page s).str = s.str ∧ (mapPage v j page s).err = s.err ∧ (mapPage v j page s).eth = s.eth ∧
    (mapPage v j page s).pow = s.pow ∧ (mapPage v j page s).cool = s.cool ∧ (mapPage v j page s).draws = s.draws ∧
    (mapPage v j page s).pending = s.pending :=
  by refine ⟨?_, ?_, ?_, ?_, ?_, ?_, ?_, ?_, ?_, ?_, ?_, ?_, ?_, ?_, ?_, ?_, ?_, ?_,
    ?_⟩ <;> (unfold mapPage; (repeat' split) <;> simp)

@[simp] theorem moduleNak_frame (reason : Nat) (f : Frame) (t : Stream) (s : State) :
    (moduleNak reason f t s).ident = s.ident ∧ (moduleNak reason f t s).cfg = s.cfg ∧ (moduleNak reason f t s).live = s.live ∧
    (moduleNak reason f t s).flash = s.flash ∧ (moduleNak reason f t s).pres = s.pres ∧
    (moduleNak reason f t s).tide = s.tide ∧ (moduleNak reason f t s).img = s.img ∧ (moduleNak reason f t s).combs = s.combs ∧
    (moduleNak reason f t s).fabric = s.fabric ∧ (moduleNak reason f t s).shelf = s.shelf ∧
    (moduleNak reason f t s).cove = s.cove ∧ (moduleNak reason f t s).err = s.err ∧ (moduleNak reason f t s).pow = s.pow ∧
    (moduleNak reason f t s).cool = s.cool ∧ (moduleNak reason f t s).draws = s.draws ∧
    (moduleNak reason f t s).pending = s.pending :=
  by refine ⟨?_, ?_, ?_, ?_, ?_, ?_, ?_, ?_, ?_, ?_, ?_, ?_, ?_, ?_, ?_, ?_⟩ <;> (unfold moduleNak; (repeat' split) <;> simp)

@[simp] theorem sendTokens_frame (t : Stream) (flags : Nat) (es : List TokenEntry) (s : State) :
    (sendTokens t flags es s).ident = s.ident ∧ (sendTokens t flags es s).cfg = s.cfg ∧
    (sendTokens t flags es s).live = s.live ∧ (sendTokens t flags es s).flash = s.flash ∧
    (sendTokens t flags es s).pres = s.pres ∧ (sendTokens t flags es s).tide = s.tide ∧
    (sendTokens t flags es s).img = s.img ∧ (sendTokens t flags es s).combs = s.combs ∧
    (sendTokens t flags es s).fabric = s.fabric ∧ (sendTokens t flags es s).shelf = s.shelf ∧
    (sendTokens t flags es s).cove = s.cove ∧ (sendTokens t flags es s).str = s.str ∧ (sendTokens t flags es s).err = s.err ∧
    (sendTokens t flags es s).pow = s.pow ∧ (sendTokens t flags es s).cool = s.cool ∧
    (sendTokens t flags es s).draws = s.draws ∧ (sendTokens t flags es s).pending = s.pending :=
  by refine ⟨?_, ?_, ?_, ?_, ?_, ?_, ?_, ?_, ?_, ?_, ?_, ?_, ?_, ?_, ?_, ?_,
    ?_⟩ <;> (unfold sendTokens; (repeat' split) <;> simp)

@[simp] theorem startPull_frame (s : State) :
    (startPull s).ident = s.ident ∧ (startPull s).cfg = s.cfg ∧ (startPull s).live = s.live ∧ (startPull s).flash = s.flash ∧
    (startPull s).mbox = s.mbox ∧ (startPull s).pres = s.pres ∧ (startPull s).tide = s.tide ∧ (startPull s).img = s.img ∧
    (startPull s).combs = s.combs ∧ (startPull s).fabric = s.fabric ∧ (startPull s).shelf = s.shelf ∧
    (startPull s).str = s.str ∧ (startPull s).err = s.err ∧ (startPull s).pow = s.pow ∧ (startPull s).cool = s.cool ∧
    (startPull s).draws = s.draws ∧ (startPull s).pending = s.pending :=
  ⟨by unfold startPull; dsimp only; refine (foldl_keeps State.ident _ ?_ _ _).trans ?_ <;> intros <;> (repeat' split) <;> simp,
   by unfold startPull; dsimp only; refine (foldl_keeps State.cfg _ ?_ _ _).trans ?_ <;> intros <;> (repeat' split) <;> simp,
   by unfold startPull; dsimp only; refine (foldl_keeps State.live _ ?_ _ _).trans ?_ <;> intros <;> (repeat' split) <;> simp,
   by unfold startPull; dsimp only; refine (foldl_keeps State.flash _ ?_ _ _).trans ?_ <;> intros <;> (repeat' split) <;> simp,
   by unfold startPull; dsimp only; refine (foldl_keeps State.mbox _ ?_ _ _).trans ?_ <;> intros <;> (repeat' split) <;> simp,
   by unfold startPull; dsimp only; refine (foldl_keeps State.pres _ ?_ _ _).trans ?_ <;> intros <;> (repeat' split) <;> simp,
   by unfold startPull; dsimp only; refine (foldl_keeps State.tide _ ?_ _ _).trans ?_ <;> intros <;> (repeat' split) <;> simp,
   by unfold startPull; dsimp only; refine (foldl_keeps State.img _ ?_ _ _).trans ?_ <;> intros <;> (repeat' split) <;> simp,
   by unfold startPull; dsimp only; refine (foldl_keeps State.combs _ ?_ _ _).trans ?_ <;> intros <;> (repeat' split) <;> simp,
   by unfold startPull; dsimp only; refine (foldl_keeps State.fabric _ ?_ _ _).trans ?_ <;> intros <;> (repeat' split) <;> simp,
   by unfold startPull; dsimp only; refine (foldl_keeps State.shelf _ ?_ _ _).trans ?_ <;> intros <;> (repeat' split) <;> simp,
   by unfold startPull; dsimp only; refine (foldl_keeps State.str _ ?_ _ _).trans ?_ <;> intros <;> (repeat' split) <;> simp,
   by unfold startPull; dsimp only; refine (foldl_keeps State.err _ ?_ _ _).trans ?_ <;> intros <;> (repeat' split) <;> simp,
   by unfold startPull; dsimp only; refine (foldl_keeps State.pow _ ?_ _ _).trans ?_ <;> intros <;> (repeat' split) <;> simp,
   by unfold startPull; dsimp only; refine (foldl_keeps State.cool _ ?_ _ _).trans ?_ <;> intros <;> (repeat' split) <;> simp,
   by unfold startPull; dsimp only; refine (foldl_keeps State.draws _ ?_ _ _).trans ?_ <;> intros <;> (repeat' split) <;> simp,
   by unfold startPull; dsimp only; refine (foldl_keeps State.pending _ ?_ _ _).trans ?_ <;> intros <;> (repeat' split) <;> simp⟩

@[simp] theorem dropShelfPrefixes_frame (s : State) :
    (dropShelfPrefixes s).ident = s.ident ∧ (dropShelfPrefixes s).cfg = s.cfg ∧ (dropShelfPrefixes s).live = s.live ∧
    (dropShelfPrefixes s).flash = s.flash ∧ (dropShelfPrefixes s).mbox = s.mbox ∧ (dropShelfPrefixes s).outbox = s.outbox ∧
    (dropShelfPrefixes s).pres = s.pres ∧ (dropShelfPrefixes s).tide = s.tide ∧ (dropShelfPrefixes s).img = s.img ∧
    (dropShelfPrefixes s).combs = s.combs ∧ (dropShelfPrefixes s).fabric = s.fabric ∧ (dropShelfPrefixes s).shelf = s.shelf ∧
    (dropShelfPrefixes s).cove = s.cove ∧ (dropShelfPrefixes s).err = s.err ∧ (dropShelfPrefixes s).eth = s.eth ∧
    (dropShelfPrefixes s).pow = s.pow ∧ (dropShelfPrefixes s).cool = s.cool ∧ (dropShelfPrefixes s).draws = s.draws ∧
    (dropShelfPrefixes s).pending = s.pending :=
  ⟨rfl, rfl, rfl, rfl, rfl, rfl, rfl, rfl, rfl, rfl, rfl, rfl, rfl, rfl, rfl, rfl, rfl, rfl, rfl⟩

@[simp] theorem enterParked_frame (n : Nat) (t : Stream) (s : State) :
    (enterParked n t s).ident = s.ident ∧ (enterParked n t s).cfg = s.cfg ∧ (enterParked n t s).live = s.live ∧
    (enterParked n t s).flash = s.flash ∧ (enterParked n t s).pres = s.pres ∧ (enterParked n t s).tide = s.tide ∧
    (enterParked n t s).img = s.img ∧ (enterParked n t s).combs = s.combs ∧ (enterParked n t s).fabric = s.fabric ∧
    (enterParked n t s).shelf = s.shelf ∧ (enterParked n t s).err = s.err ∧ (enterParked n t s).pow = s.pow ∧
    (enterParked n t s).cool = s.cool ∧ (enterParked n t s).draws = s.draws ∧ (enterParked n t s).pending = s.pending :=
  by refine ⟨?_, ?_, ?_, ?_, ?_, ?_, ?_, ?_, ?_, ?_, ?_, ?_, ?_, ?_, ?_⟩ <;> (unfold enterParked; (repeat' split) <;> simp)

@[simp] theorem dateObject_frame (t : Nat) (o : CoveObject) (s : State) :
    (dateObject t o s).ident = s.ident ∧ (dateObject t o s).cfg = s.cfg ∧ (dateObject t o s).live = s.live ∧
    (dateObject t o s).flash = s.flash ∧ (dateObject t o s).mbox = s.mbox ∧ (dateObject t o s).outbox = s.outbox ∧
    (dateObject t o s).pres = s.pres ∧ (dateObject t o s).tide = s.tide ∧ (dateObject t o s).img = s.img ∧
    (dateObject t o s).combs = s.combs ∧ (dateObject t o s).fabric = s.fabric ∧ (dateObject t o s).shelf = s.shelf ∧
    (dateObject t o s).str = s.str ∧ (dateObject t o s).err = s.err ∧ (dateObject t o s).eth = s.eth ∧
    (dateObject t o s).pow = s.pow ∧ (dateObject t o s).cool = s.cool ∧ (dateObject t o s).draws = s.draws ∧
    (dateObject t o s).pending = s.pending :=
  by refine ⟨?_, ?_, ?_, ?_, ?_, ?_, ?_, ?_, ?_, ?_, ?_, ?_, ?_, ?_, ?_, ?_, ?_, ?_,
    ?_⟩ <;> (unfold dateObject; (repeat' split) <;> simp)

@[simp] theorem clampObject_frame (o : CoveObject) (s : State) :
    (clampObject o s).ident = s.ident ∧ (clampObject o s).cfg = s.cfg ∧ (clampObject o s).live = s.live ∧
    (clampObject o s).flash = s.flash ∧ (clampObject o s).mbox = s.mbox ∧ (clampObject o s).outbox = s.outbox ∧
    (clampObject o s).pres = s.pres ∧ (clampObject o s).tide = s.tide ∧ (clampObject o s).img = s.img ∧
    (clampObject o s).combs = s.combs ∧ (clampObject o s).fabric = s.fabric ∧ (clampObject o s).shelf = s.shelf ∧
    (clampObject o s).str = s.str ∧ (clampObject o s).err = s.err ∧ (clampObject o s).eth = s.eth ∧
    (clampObject o s).pow = s.pow ∧ (clampObject o s).cool = s.cool ∧ (clampObject o s).draws = s.draws ∧
    (clampObject o s).pending = s.pending :=
  ⟨by simp [clampObject, apply_ite State.ident],
   by simp [clampObject, apply_ite State.cfg],
   by simp [clampObject, apply_ite State.live],
   by simp [clampObject, apply_ite State.flash],
   by simp [clampObject, apply_ite State.mbox],
   by simp [clampObject, apply_ite State.outbox],
   by simp [clampObject, apply_ite State.pres],
   by simp [clampObject, apply_ite State.tide],
   by simp [clampObject, apply_ite State.img],
   by simp [clampObject, apply_ite State.combs],
   by simp [clampObject, apply_ite State.fabric],
   by simp [clampObject, apply_ite State.shelf],
   by simp [clampObject, apply_ite State.str],
   by simp [clampObject, apply_ite State.err],
   by simp [clampObject, apply_ite State.eth],
   by simp [clampObject, apply_ite State.pow],
   by simp [clampObject, apply_ite State.cool],
   by simp [clampObject, apply_ite State.draws],
   by simp [clampObject, apply_ite State.pending]⟩

@[simp] theorem restoreUnits_frame (j u : Nat) (ws : List Word64) (s : State) :
    (restoreUnits j u ws s).ident = s.ident ∧ (restoreUnits j u ws s).cfg = s.cfg ∧ (restoreUnits j u ws s).live = s.live ∧
    (restoreUnits j u ws s).flash = s.flash ∧ (restoreUnits j u ws s).mbox = s.mbox ∧
    (restoreUnits j u ws s).outbox = s.outbox ∧ (restoreUnits j u ws s).pres = s.pres ∧
    (restoreUnits j u ws s).tide = s.tide ∧ (restoreUnits j u ws s).img = s.img ∧ (restoreUnits j u ws s).combs = s.combs ∧
    (restoreUnits j u ws s).fabric = s.fabric ∧ (restoreUnits j u ws s).cove = s.cove ∧ (restoreUnits j u ws s).str = s.str ∧
    (restoreUnits j u ws s).err = s.err ∧ (restoreUnits j u ws s).eth = s.eth ∧ (restoreUnits j u ws s).pow = s.pow ∧
    (restoreUnits j u ws s).cool = s.cool ∧ (restoreUnits j u ws s).draws = s.draws ∧
    (restoreUnits j u ws s).pending = s.pending :=
  ⟨by unfold restoreUnits; refine foldl_keeps State.ident _ ?_ _ _; intros; simp,
   by unfold restoreUnits; refine foldl_keeps State.cfg _ ?_ _ _; intros; simp,
   by unfold restoreUnits; refine foldl_keeps State.live _ ?_ _ _; intros; simp,
   by unfold restoreUnits; refine foldl_keeps State.flash _ ?_ _ _; intros; simp,
   by unfold restoreUnits; refine foldl_keeps State.mbox _ ?_ _ _; intros; simp,
   by unfold restoreUnits; refine foldl_keeps State.outbox _ ?_ _ _; intros; simp,
   by unfold restoreUnits; refine foldl_keeps State.pres _ ?_ _ _; intros; simp,
   by unfold restoreUnits; refine foldl_keeps State.tide _ ?_ _ _; intros; simp,
   by unfold restoreUnits; refine foldl_keeps State.img _ ?_ _ _; intros; simp,
   by unfold restoreUnits; refine foldl_keeps State.combs _ ?_ _ _; intros; simp,
   by unfold restoreUnits; refine foldl_keeps State.fabric _ ?_ _ _; intros; simp,
   by unfold restoreUnits; refine foldl_keeps State.cove _ ?_ _ _; intros; simp,
   by unfold restoreUnits; refine foldl_keeps State.str _ ?_ _ _; intros; simp,
   by unfold restoreUnits; refine foldl_keeps State.err _ ?_ _ _; intros; simp,
   by unfold restoreUnits; refine foldl_keeps State.eth _ ?_ _ _; intros; simp,
   by unfold restoreUnits; refine foldl_keeps State.pow _ ?_ _ _; intros; simp,
   by unfold restoreUnits; refine foldl_keeps State.cool _ ?_ _ _; intros; simp,
   by unfold restoreUnits; refine foldl_keeps State.draws _ ?_ _ _; intros; simp,
   by unfold restoreUnits; refine foldl_keeps State.pending _ ?_ _ _; intros; simp⟩

@[simp] theorem settleReads_frame (site : BitVec 128 × Nat × Nat) (s : State) :
    (settleReads site s).ident = s.ident ∧ (settleReads site s).cfg = s.cfg ∧ (settleReads site s).live = s.live ∧
    (settleReads site s).flash = s.flash ∧ (settleReads site s).mbox = s.mbox ∧ (settleReads site s).outbox = s.outbox ∧
    (settleReads site s).pres = s.pres ∧ (settleReads site s).tide = s.tide ∧ (settleReads site s).img = s.img ∧
    (settleReads site s).combs = s.combs ∧ (settleReads site s).fabric = s.fabric ∧ (settleReads site s).shelf = s.shelf ∧
    (settleReads site s).str = s.str ∧ (settleReads site s).err = s.err ∧ (settleReads site s).eth = s.eth ∧
    (settleReads site s).pow = s.pow ∧ (settleReads site s).cool = s.cool ∧ (settleReads site s).draws = s.draws ∧
    (settleReads site s).pending = s.pending :=
  ⟨rfl, rfl, rfl, rfl, rfl, rfl, rfl, rfl, rfl, rfl, rfl, rfl, rfl, rfl, rfl, rfl, rfl, rfl, rfl⟩

@[simp] theorem dropRoce_frame (s : State) :
    (dropRoce s).ident = s.ident ∧ (dropRoce s).cfg = s.cfg ∧ (dropRoce s).live = s.live ∧ (dropRoce s).flash = s.flash ∧
    (dropRoce s).mbox = s.mbox ∧ (dropRoce s).outbox = s.outbox ∧ (dropRoce s).pres = s.pres ∧ (dropRoce s).tide = s.tide ∧
    (dropRoce s).img = s.img ∧ (dropRoce s).combs = s.combs ∧ (dropRoce s).fabric = s.fabric ∧ (dropRoce s).shelf = s.shelf ∧
    (dropRoce s).cove = s.cove ∧ (dropRoce s).str = s.str ∧ (dropRoce s).err = s.err ∧ (dropRoce s).pow = s.pow ∧
    (dropRoce s).cool = s.cool ∧ (dropRoce s).draws = s.draws ∧ (dropRoce s).pending = s.pending :=
  ⟨rfl, rfl, rfl, rfl, rfl, rfl, rfl, rfl, rfl, rfl, rfl, rfl, rfl, rfl, rfl, rfl, rfl, rfl, rfl⟩

@[simp] theorem answerCe_frame (n : Nat) (s : State) :
    (answerCe n s).ident = s.ident ∧ (answerCe n s).cfg = s.cfg ∧ (answerCe n s).live = s.live ∧
    (answerCe n s).flash = s.flash ∧ (answerCe n s).mbox = s.mbox ∧ (answerCe n s).pres = s.pres ∧
    (answerCe n s).tide = s.tide ∧ (answerCe n s).img = s.img ∧ (answerCe n s).combs = s.combs ∧
    (answerCe n s).fabric = s.fabric ∧ (answerCe n s).shelf = s.shelf ∧ (answerCe n s).str = s.str ∧
    (answerCe n s).err = s.err ∧ (answerCe n s).pow = s.pow ∧ (answerCe n s).cool = s.cool ∧ (answerCe n s).draws = s.draws ∧
    (answerCe n s).pending = s.pending :=
  ⟨by simp [answerCe, apply_ite State.ident],
   by simp [answerCe, apply_ite State.cfg],
   by simp [answerCe, apply_ite State.live],
   by simp [answerCe, apply_ite State.flash],
   by simp [answerCe, apply_ite State.mbox],
   by simp [answerCe, apply_ite State.pres],
   by simp [answerCe, apply_ite State.tide],
   by simp [answerCe, apply_ite State.img],
   by simp [answerCe, apply_ite State.combs],
   by simp [answerCe, apply_ite State.fabric],
   by simp [answerCe, apply_ite State.shelf],
   by simp [answerCe, apply_ite State.str],
   by simp [answerCe, apply_ite State.err],
   by simp [answerCe, apply_ite State.pow],
   by simp [answerCe, apply_ite State.cool],
   by simp [answerCe, apply_ite State.draws],
   by simp [answerCe, apply_ite State.pending]⟩

@[simp] theorem issueRead_frame (n : Nat) (s : State) :
    (issueRead n s).ident = s.ident ∧ (issueRead n s).cfg = s.cfg ∧ (issueRead n s).live = s.live ∧
    (issueRead n s).flash = s.flash ∧ (issueRead n s).mbox = s.mbox ∧ (issueRead n s).pres = s.pres ∧
    (issueRead n s).tide = s.tide ∧ (issueRead n s).img = s.img ∧ (issueRead n s).combs = s.combs ∧
    (issueRead n s).fabric = s.fabric ∧ (issueRead n s).shelf = s.shelf ∧ (issueRead n s).str = s.str ∧
    (issueRead n s).err = s.err ∧ (issueRead n s).pow = s.pow ∧ (issueRead n s).cool = s.cool ∧
    (issueRead n s).draws = s.draws ∧ (issueRead n s).pending = s.pending :=
  ⟨by simp [issueRead, apply_ite State.ident],
   by simp [issueRead, apply_ite State.cfg],
   by simp [issueRead, apply_ite State.live],
   by simp [issueRead, apply_ite State.flash],
   by simp [issueRead, apply_ite State.mbox],
   by simp [issueRead, apply_ite State.pres],
   by simp [issueRead, apply_ite State.tide],
   by simp [issueRead, apply_ite State.img],
   by simp [issueRead, apply_ite State.combs],
   by simp [issueRead, apply_ite State.fabric],
   by simp [issueRead, apply_ite State.shelf],
   by simp [issueRead, apply_ite State.str],
   by simp [issueRead, apply_ite State.err],
   by simp [issueRead, apply_ite State.pow],
   by simp [issueRead, apply_ite State.cool],
   by simp [issueRead, apply_ite State.draws],
   by simp [issueRead, apply_ite State.pending]⟩

@[simp] theorem unitNotice_frame (kind number : Nat) (s : State) :
    (unitNotice kind number s).ident = s.ident ∧ (unitNotice kind number s).cfg = s.cfg ∧
    (unitNotice kind number s).live = s.live ∧ (unitNotice kind number s).flash = s.flash ∧
    (unitNotice kind number s).pres = s.pres ∧ (unitNotice kind number s).tide = s.tide ∧
    (unitNotice kind number s).img = s.img ∧ (unitNotice kind number s).combs = s.combs ∧
    (unitNotice kind number s).fabric = s.fabric ∧ (unitNotice kind number s).shelf = s.shelf ∧
    (unitNotice kind number s).cove = s.cove ∧ (unitNotice kind number s).str = s.str ∧
    (unitNotice kind number s).err = s.err ∧ (unitNotice kind number s).pow = s.pow ∧
    (unitNotice kind number s).cool = s.cool ∧ (unitNotice kind number s).pending = s.pending :=
  by refine ⟨?_, ?_, ?_, ?_, ?_, ?_, ?_, ?_, ?_, ?_, ?_, ?_, ?_, ?_, ?_, ?_⟩ <;> (unfold unitNotice; simp)

@[simp] theorem reachBefore_frame (c : Nat) (s : State) :
    (reachBefore c s).ident = s.ident ∧ (reachBefore c s).cfg = s.cfg ∧ (reachBefore c s).live = s.live ∧
    (reachBefore c s).flash = s.flash ∧ (reachBefore c s).mbox = s.mbox ∧ (reachBefore c s).outbox = s.outbox ∧
    (reachBefore c s).pres = s.pres ∧ (reachBefore c s).img = s.img ∧ (reachBefore c s).combs = s.combs ∧
    (reachBefore c s).fabric = s.fabric ∧ (reachBefore c s).shelf = s.shelf ∧ (reachBefore c s).cove = s.cove ∧
    (reachBefore c s).str = s.str ∧ (reachBefore c s).err = s.err ∧ (reachBefore c s).eth = s.eth ∧
    (reachBefore c s).pow = s.pow ∧ (reachBefore c s).cool = s.cool ∧ (reachBefore c s).draws = s.draws ∧
    (reachBefore c s).pending = s.pending :=
  ⟨by unfold reachBefore; refine foldl_keeps State.ident _ ?_ _ _; intros; simp,
   by unfold reachBefore; refine foldl_keeps State.cfg _ ?_ _ _; intros; simp,
   by unfold reachBefore; refine foldl_keeps State.live _ ?_ _ _; intros; simp,
   by unfold reachBefore; refine foldl_keeps State.flash _ ?_ _ _; intros; simp,
   by unfold reachBefore; refine foldl_keeps State.mbox _ ?_ _ _; intros; simp,
   by unfold reachBefore; refine foldl_keeps State.outbox _ ?_ _ _; intros; simp,
   by unfold reachBefore; refine foldl_keeps State.pres _ ?_ _ _; intros; simp,
   by unfold reachBefore; refine foldl_keeps State.img _ ?_ _ _; intros; simp,
   by unfold reachBefore; refine foldl_keeps State.combs _ ?_ _ _; intros; simp,
   by unfold reachBefore; refine foldl_keeps State.fabric _ ?_ _ _; intros; simp,
   by unfold reachBefore; refine foldl_keeps State.shelf _ ?_ _ _; intros; simp,
   by unfold reachBefore; refine foldl_keeps State.cove _ ?_ _ _; intros; simp,
   by unfold reachBefore; refine foldl_keeps State.str _ ?_ _ _; intros; simp,
   by unfold reachBefore; refine foldl_keeps State.err _ ?_ _ _; intros; simp,
   by unfold reachBefore; refine foldl_keeps State.eth _ ?_ _ _; intros; simp,
   by unfold reachBefore; refine foldl_keeps State.pow _ ?_ _ _; intros; simp,
   by unfold reachBefore; refine foldl_keeps State.cool _ ?_ _ _; intros; simp,
   by unfold reachBefore; refine foldl_keeps State.draws _ ?_ _ _; intros; simp,
   by unfold reachBefore; refine foldl_keeps State.pending _ ?_ _ _; intros; simp⟩

@[simp] theorem raiseContract_frame (before c : Nat) (s : State) :
    (raiseContract before c s).ident = s.ident ∧ (raiseContract before c s).cfg = s.cfg ∧
    (raiseContract before c s).live = s.live ∧ (raiseContract before c s).flash = s.flash ∧
    (raiseContract before c s).mbox = s.mbox ∧ (raiseContract before c s).outbox = s.outbox ∧
    (raiseContract before c s).pres = s.pres ∧ (raiseContract before c s).img = s.img ∧
    (raiseContract before c s).combs = s.combs ∧ (raiseContract before c s).fabric = s.fabric ∧
    (raiseContract before c s).shelf = s.shelf ∧ (raiseContract before c s).cove = s.cove ∧
    (raiseContract before c s).str = s.str ∧ (raiseContract before c s).err = s.err ∧ (raiseContract before c s).eth = s.eth ∧
    (raiseContract before c s).pow = s.pow ∧ (raiseContract before c s).cool = s.cool ∧
    (raiseContract before c s).draws = s.draws ∧ (raiseContract before c s).pending = s.pending :=
  ⟨by unfold raiseContract; refine foldl_keeps State.ident _ ?_ _ _; intro s x; (repeat' split) <;> simp,
   by unfold raiseContract; refine foldl_keeps State.cfg _ ?_ _ _; intro s x; (repeat' split) <;> simp,
   by unfold raiseContract; refine foldl_keeps State.live _ ?_ _ _; intro s x; (repeat' split) <;> simp,
   by unfold raiseContract; refine foldl_keeps State.flash _ ?_ _ _; intro s x; (repeat' split) <;> simp,
   by unfold raiseContract; refine foldl_keeps State.mbox _ ?_ _ _; intro s x; (repeat' split) <;> simp,
   by unfold raiseContract; refine foldl_keeps State.outbox _ ?_ _ _; intro s x; (repeat' split) <;> simp,
   by unfold raiseContract; refine foldl_keeps State.pres _ ?_ _ _; intro s x; (repeat' split) <;> simp,
   by unfold raiseContract; refine foldl_keeps State.img _ ?_ _ _; intro s x; (repeat' split) <;> simp,
   by unfold raiseContract; refine foldl_keeps State.combs _ ?_ _ _; intro s x; (repeat' split) <;> simp,
   by unfold raiseContract; refine foldl_keeps State.fabric _ ?_ _ _; intro s x; (repeat' split) <;> simp,
   by unfold raiseContract; refine foldl_keeps State.shelf _ ?_ _ _; intro s x; (repeat' split) <;> simp,
   by unfold raiseContract; refine foldl_keeps State.cove _ ?_ _ _; intro s x; (repeat' split) <;> simp,
   by unfold raiseContract; refine foldl_keeps State.str _ ?_ _ _; intro s x; (repeat' split) <;> simp,
   by unfold raiseContract; refine foldl_keeps State.err _ ?_ _ _; intro s x; (repeat' split) <;> simp,
   by unfold raiseContract; refine foldl_keeps State.eth _ ?_ _ _; intro s x; (repeat' split) <;> simp,
   by unfold raiseContract; refine foldl_keeps State.pow _ ?_ _ _; intro s x; (repeat' split) <;> simp,
   by unfold raiseContract; refine foldl_keeps State.cool _ ?_ _ _; intro s x; (repeat' split) <;> simp,
   by unfold raiseContract; refine foldl_keeps State.draws _ ?_ _ _; intro s x; (repeat' split) <;> simp,
   by unfold raiseContract; refine foldl_keeps State.pending _ ?_ _ _; intro s x; (repeat' split) <;> simp⟩

@[simp] theorem latchCorrelation_frame (s : State) :
    (latchCorrelation s).ident = s.ident ∧ (latchCorrelation s).cfg = s.cfg ∧ (latchCorrelation s).live = s.live ∧
    (latchCorrelation s).flash = s.flash ∧ (latchCorrelation s).mbox = s.mbox ∧ (latchCorrelation s).outbox = s.outbox ∧
    (latchCorrelation s).pres = s.pres ∧ (latchCorrelation s).tide = s.tide ∧ (latchCorrelation s).img = s.img ∧
    (latchCorrelation s).combs = s.combs ∧ (latchCorrelation s).fabric = s.fabric ∧ (latchCorrelation s).shelf = s.shelf ∧
    (latchCorrelation s).cove = s.cove ∧ (latchCorrelation s).str = s.str ∧ (latchCorrelation s).err = s.err ∧
    (latchCorrelation s).pow = s.pow ∧ (latchCorrelation s).cool = s.cool ∧ (latchCorrelation s).draws = s.draws ∧
    (latchCorrelation s).pending = s.pending :=
  by refine ⟨?_, ?_, ?_, ?_, ?_, ?_, ?_, ?_, ?_, ?_, ?_, ?_, ?_, ?_, ?_, ?_, ?_, ?_,
    ?_⟩ <;> (unfold latchCorrelation; (repeat' split) <;> simp)

@[simp] theorem openTide_frame (s : State) :
    (openTide s).ident = s.ident ∧ (openTide s).cfg = s.cfg ∧ (openTide s).live = s.live ∧ (openTide s).flash = s.flash ∧
    (openTide s).mbox = s.mbox ∧ (openTide s).outbox = s.outbox ∧ (openTide s).pres = s.pres ∧ (openTide s).img = s.img ∧
    (openTide s).combs = s.combs ∧ (openTide s).fabric = s.fabric ∧ (openTide s).shelf = s.shelf ∧
    (openTide s).cove = s.cove ∧ (openTide s).str = s.str ∧ (openTide s).err = s.err ∧ (openTide s).pow = s.pow ∧
    (openTide s).cool = s.cool ∧ (openTide s).draws = s.draws ∧ (openTide s).pending = s.pending :=
  by refine ⟨?_, ?_, ?_, ?_, ?_, ?_, ?_, ?_, ?_, ?_, ?_, ?_, ?_, ?_, ?_, ?_, ?_, ?_⟩ <;> (unfold openTide; simp)

@[simp] theorem endBoundary_frame (s : State) :
    (endBoundary s).ident = s.ident ∧ (endBoundary s).cfg = s.cfg ∧ (endBoundary s).live = s.live ∧
    (endBoundary s).flash = s.flash ∧ (endBoundary s).mbox = s.mbox ∧ (endBoundary s).outbox = s.outbox ∧
    (endBoundary s).pres = s.pres ∧ (endBoundary s).img = s.img ∧ (endBoundary s).combs = s.combs ∧
    (endBoundary s).fabric = s.fabric ∧ (endBoundary s).shelf = s.shelf ∧ (endBoundary s).cove = s.cove ∧
    (endBoundary s).str = s.str ∧ (endBoundary s).err = s.err ∧ (endBoundary s).pow = s.pow ∧ (endBoundary s).cool = s.cool ∧
    (endBoundary s).draws = s.draws ∧ (endBoundary s).pending = s.pending :=
  by refine ⟨?_, ?_, ?_, ?_, ?_, ?_, ?_, ?_, ?_, ?_, ?_, ?_, ?_, ?_, ?_, ?_, ?_,
    ?_⟩ <;> (unfold endBoundary; (repeat' split) <;> simp)

@[simp] theorem freezeAt_frame (cause : BitVec 8) (c : Nat) (source : Source) (s : State) :
    (freezeAt cause c source s).ident = s.ident ∧ (freezeAt cause c source s).cfg = s.cfg ∧
    (freezeAt cause c source s).live = s.live ∧ (freezeAt cause c source s).flash = s.flash ∧
    (freezeAt cause c source s).mbox = s.mbox ∧ (freezeAt cause c source s).outbox = s.outbox ∧
    (freezeAt cause c source s).pres = s.pres ∧ (freezeAt cause c source s).img = s.img ∧
    (freezeAt cause c source s).combs = s.combs ∧ (freezeAt cause c source s).fabric = s.fabric ∧
    (freezeAt cause c source s).shelf = s.shelf ∧ (freezeAt cause c source s).cove = s.cove ∧
    (freezeAt cause c source s).str = s.str ∧ (freezeAt cause c source s).err = s.err ∧
    (freezeAt cause c source s).eth = s.eth ∧ (freezeAt cause c source s).pow = s.pow ∧
    (freezeAt cause c source s).cool = s.cool ∧ (freezeAt cause c source s).draws = s.draws ∧
    (freezeAt cause c source s).pending = s.pending :=
  by refine ⟨?_, ?_, ?_, ?_, ?_, ?_, ?_, ?_, ?_, ?_, ?_, ?_, ?_, ?_, ?_, ?_, ?_, ?_, ?_⟩ <;> (unfold freezeAt; simp)

@[simp] theorem issued_frame (i : Issue) (op : TideOp) (s : State) :
    (issued i op s).ident = s.ident ∧ (issued i op s).cfg = s.cfg ∧ (issued i op s).live = s.live ∧
    (issued i op s).flash = s.flash ∧ (issued i op s).mbox = s.mbox ∧ (issued i op s).outbox = s.outbox ∧
    (issued i op s).pres = s.pres ∧ (issued i op s).img = s.img ∧ (issued i op s).fabric = s.fabric ∧
    (issued i op s).shelf = s.shelf ∧ (issued i op s).cove = s.cove ∧ (issued i op s).str = s.str ∧
    (issued i op s).err = s.err ∧ (issued i op s).eth = s.eth ∧ (issued i op s).pow = s.pow ∧ (issued i op s).cool = s.cool ∧
    (issued i op s).draws = s.draws ∧ (issued i op s).pending = s.pending :=
  ⟨by unfold issued; refine foldl_keeps State.ident _ ?_ _ _; intros; simp,
   by unfold issued; refine foldl_keeps State.cfg _ ?_ _ _; intros; simp,
   by unfold issued; refine foldl_keeps State.live _ ?_ _ _; intros; simp,
   by unfold issued; refine foldl_keeps State.flash _ ?_ _ _; intros; simp,
   by unfold issued; refine foldl_keeps State.mbox _ ?_ _ _; intros; simp,
   by unfold issued; refine foldl_keeps State.outbox _ ?_ _ _; intros; simp,
   by unfold issued; refine foldl_keeps State.pres _ ?_ _ _; intros; simp,
   by unfold issued; refine foldl_keeps State.img _ ?_ _ _; intros; simp,
   by unfold issued; refine foldl_keeps State.fabric _ ?_ _ _; intros; simp,
   by unfold issued; refine foldl_keeps State.shelf _ ?_ _ _; intros; simp,
   by unfold issued; refine foldl_keeps State.cove _ ?_ _ _; intros; simp,
   by unfold issued; refine foldl_keeps State.str _ ?_ _ _; intros; simp,
   by unfold issued; refine foldl_keeps State.err _ ?_ _ _; intros; simp,
   by unfold issued; refine foldl_keeps State.eth _ ?_ _ _; intros; simp,
   by unfold issued; refine foldl_keeps State.pow _ ?_ _ _; intros; simp,
   by unfold issued; refine foldl_keeps State.cool _ ?_ _ _; intros; simp,
   by unfold issued; refine foldl_keeps State.draws _ ?_ _ _; intros; simp,
   by unfold issued; refine foldl_keeps State.pending _ ?_ _ _; intros; simp⟩

@[simp] theorem countWait_frame (p n : Nat) (s : State) :
    (countWait p n s).ident = s.ident ∧ (countWait p n s).cfg = s.cfg ∧ (countWait p n s).live = s.live ∧
    (countWait p n s).flash = s.flash ∧ (countWait p n s).mbox = s.mbox ∧ (countWait p n s).outbox = s.outbox ∧
    (countWait p n s).pres = s.pres ∧ (countWait p n s).tide = s.tide ∧ (countWait p n s).img = s.img ∧
    (countWait p n s).fabric = s.fabric ∧ (countWait p n s).shelf = s.shelf ∧ (countWait p n s).cove = s.cove ∧
    (countWait p n s).str = s.str ∧ (countWait p n s).err = s.err ∧ (countWait p n s).eth = s.eth ∧
    (countWait p n s).pow = s.pow ∧ (countWait p n s).cool = s.cool ∧ (countWait p n s).draws = s.draws ∧
    (countWait p n s).pending = s.pending :=
  by refine ⟨?_, ?_, ?_, ?_, ?_, ?_, ?_, ?_, ?_, ?_, ?_, ?_, ?_, ?_, ?_, ?_, ?_, ?_,
    ?_⟩ <;> (unfold countWait; (repeat' split) <;> simp)

@[simp] theorem queueBad_frame (p : Nat) (rows : List (BitVec 22)) (s : State) :
    (queueBad p rows s).ident = s.ident ∧ (queueBad p rows s).cfg = s.cfg ∧ (queueBad p rows s).live = s.live ∧
    (queueBad p rows s).flash = s.flash ∧ (queueBad p rows s).mbox = s.mbox ∧ (queueBad p rows s).outbox = s.outbox ∧
    (queueBad p rows s).pres = s.pres ∧ (queueBad p rows s).tide = s.tide ∧ (queueBad p rows s).img = s.img ∧
    (queueBad p rows s).fabric = s.fabric ∧ (queueBad p rows s).shelf = s.shelf ∧ (queueBad p rows s).cove = s.cove ∧
    (queueBad p rows s).str = s.str ∧ (queueBad p rows s).err = s.err ∧ (queueBad p rows s).eth = s.eth ∧
    (queueBad p rows s).pow = s.pow ∧ (queueBad p rows s).cool = s.cool ∧ (queueBad p rows s).draws = s.draws ∧
    (queueBad p rows s).pending = s.pending :=
  by refine ⟨?_, ?_, ?_, ?_, ?_, ?_, ?_, ?_, ?_, ?_, ?_, ?_, ?_, ?_, ?_, ?_, ?_, ?_, ?_⟩ <;> (unfold queueBad; simp)

@[simp] theorem heard_frame (i : Issue) (s : State) :
    (heard i s).ident = s.ident ∧ (heard i s).cfg = s.cfg ∧ (heard i s).live = s.live ∧ (heard i s).flash = s.flash ∧
    (heard i s).mbox = s.mbox ∧ (heard i s).outbox = s.outbox ∧ (heard i s).pres = s.pres ∧ (heard i s).tide = s.tide ∧
    (heard i s).img = s.img ∧ (heard i s).fabric = s.fabric ∧ (heard i s).shelf = s.shelf ∧ (heard i s).cove = s.cove ∧
    (heard i s).str = s.str ∧ (heard i s).err = s.err ∧ (heard i s).eth = s.eth ∧ (heard i s).pow = s.pow ∧
    (heard i s).cool = s.cool ∧ (heard i s).draws = s.draws ∧ (heard i s).pending = s.pending :=
  by refine ⟨?_, ?_, ?_, ?_, ?_, ?_, ?_, ?_, ?_, ?_, ?_, ?_, ?_, ?_, ?_, ?_, ?_, ?_,
    ?_⟩ <;> (unfold heard; (repeat' split) <;> simp)

@[simp] theorem pendRows_frame (p : Nat) (row : Nat → Nat) (us : List (Option (List Word64))) (s : State) :
    (pendRows p row us s).ident = s.ident ∧ (pendRows p row us s).cfg = s.cfg ∧ (pendRows p row us s).live = s.live ∧
    (pendRows p row us s).flash = s.flash ∧ (pendRows p row us s).mbox = s.mbox ∧ (pendRows p row us s).outbox = s.outbox ∧
    (pendRows p row us s).pres = s.pres ∧ (pendRows p row us s).tide = s.tide ∧ (pendRows p row us s).img = s.img ∧
    (pendRows p row us s).fabric = s.fabric ∧ (pendRows p row us s).shelf = s.shelf ∧ (pendRows p row us s).cove = s.cove ∧
    (pendRows p row us s).str = s.str ∧ (pendRows p row us s).err = s.err ∧ (pendRows p row us s).eth = s.eth ∧
    (pendRows p row us s).pow = s.pow ∧ (pendRows p row us s).cool = s.cool ∧ (pendRows p row us s).draws = s.draws ∧
    (pendRows p row us s).pending = s.pending :=
  ⟨by unfold pendRows; refine foldl_keeps State.ident _ ?_ _ _; intros; simp,
   by unfold pendRows; refine foldl_keeps State.cfg _ ?_ _ _; intros; simp,
   by unfold pendRows; refine foldl_keeps State.live _ ?_ _ _; intros; simp,
   by unfold pendRows; refine foldl_keeps State.flash _ ?_ _ _; intros; simp,
   by unfold pendRows; refine foldl_keeps State.mbox _ ?_ _ _; intros; simp,
   by unfold pendRows; refine foldl_keeps State.outbox _ ?_ _ _; intros; simp,
   by unfold pendRows; refine foldl_keeps State.pres _ ?_ _ _; intros; simp,
   by unfold pendRows; refine foldl_keeps State.tide _ ?_ _ _; intros; simp,
   by unfold pendRows; refine foldl_keeps State.img _ ?_ _ _; intros; simp,
   by unfold pendRows; refine foldl_keeps State.fabric _ ?_ _ _; intros; simp,
   by unfold pendRows; refine foldl_keeps State.shelf _ ?_ _ _; intros; simp,
   by unfold pendRows; refine foldl_keeps State.cove _ ?_ _ _; intros; simp,
   by unfold pendRows; refine foldl_keeps State.str _ ?_ _ _; intros; simp,
   by unfold pendRows; refine foldl_keeps State.err _ ?_ _ _; intros; simp,
   by unfold pendRows; refine foldl_keeps State.eth _ ?_ _ _; intros; simp,
   by unfold pendRows; refine foldl_keeps State.pow _ ?_ _ _; intros; simp,
   by unfold pendRows; refine foldl_keeps State.cool _ ?_ _ _; intros; simp,
   by unfold pendRows; refine foldl_keeps State.draws _ ?_ _ _; intros; simp,
   by unfold pendRows; refine foldl_keeps State.pending _ ?_ _ _; intros; simp⟩

@[simp] theorem rowProgress_frame (p : Nat) (s : State) :
    (rowProgress p s).ident = s.ident ∧ (rowProgress p s).cfg = s.cfg ∧ (rowProgress p s).live = s.live ∧
    (rowProgress p s).flash = s.flash ∧ (rowProgress p s).mbox = s.mbox ∧ (rowProgress p s).outbox = s.outbox ∧
    (rowProgress p s).pres = s.pres ∧ (rowProgress p s).img = s.img ∧ (rowProgress p s).combs = s.combs ∧
    (rowProgress p s).fabric = s.fabric ∧ (rowProgress p s).shelf = s.shelf ∧ (rowProgress p s).cove = s.cove ∧
    (rowProgress p s).str = s.str ∧ (rowProgress p s).err = s.err ∧ (rowProgress p s).eth = s.eth ∧
    (rowProgress p s).pow = s.pow ∧ (rowProgress p s).cool = s.cool ∧ (rowProgress p s).draws = s.draws ∧
    (rowProgress p s).pending = s.pending :=
  by refine ⟨?_, ?_, ?_, ?_, ?_, ?_, ?_, ?_, ?_, ?_, ?_, ?_, ?_, ?_, ?_, ?_, ?_, ?_, ?_⟩ <;> (unfold rowProgress; simp)

@[simp] theorem landUnit_frame (p pos : Nat) (ws : List Word64) (s : State) :
    (landUnit p pos ws s).ident = s.ident ∧ (landUnit p pos ws s).cfg = s.cfg ∧ (landUnit p pos ws s).live = s.live ∧
    (landUnit p pos ws s).flash = s.flash ∧ (landUnit p pos ws s).mbox = s.mbox ∧ (landUnit p pos ws s).outbox = s.outbox ∧
    (landUnit p pos ws s).pres = s.pres ∧ (landUnit p pos ws s).tide = s.tide ∧ (landUnit p pos ws s).img = s.img ∧
    (landUnit p pos ws s).fabric = s.fabric ∧ (landUnit p pos ws s).shelf = s.shelf ∧ (landUnit p pos ws s).cove = s.cove ∧
    (landUnit p pos ws s).str = s.str ∧ (landUnit p pos ws s).err = s.err ∧ (landUnit p pos ws s).eth = s.eth ∧
    (landUnit p pos ws s).pow = s.pow ∧ (landUnit p pos ws s).cool = s.cool ∧ (landUnit p pos ws s).draws = s.draws ∧
    (landUnit p pos ws s).pending = s.pending :=
  by refine ⟨?_, ?_, ?_, ?_, ?_, ?_, ?_, ?_, ?_, ?_, ?_, ?_, ?_, ?_, ?_, ?_, ?_, ?_, ?_⟩ <;> (unfold landUnit; simp)

@[simp] theorem sendFlit_frame (link : Nat) (dir : Bool) (kind : BitVec 4) (flow : BitVec 16) (index : Nat) (last : Bool) (payload : Bytes) (parity : BitVec 128) (s : State) :
    (sendFlit link dir kind flow index last payload parity s).ident = s.ident ∧
    (sendFlit link dir kind flow index last payload parity s).cfg = s.cfg ∧
    (sendFlit link dir kind flow index last payload parity s).live = s.live ∧
    (sendFlit link dir kind flow index last payload parity s).flash = s.flash ∧
    (sendFlit link dir kind flow index last payload parity s).mbox = s.mbox ∧
    (sendFlit link dir kind flow index last payload parity s).pres = s.pres ∧
    (sendFlit link dir kind flow index last payload parity s).tide = s.tide ∧
    (sendFlit link dir kind flow index last payload parity s).img = s.img ∧
    (sendFlit link dir kind flow index last payload parity s).combs = s.combs ∧
    (sendFlit link dir kind flow index last payload parity s).shelf = s.shelf ∧
    (sendFlit link dir kind flow index last payload parity s).cove = s.cove ∧
    (sendFlit link dir kind flow index last payload parity s).str = s.str ∧
    (sendFlit link dir kind flow index last payload parity s).err = s.err ∧
    (sendFlit link dir kind flow index last payload parity s).eth = s.eth ∧
    (sendFlit link dir kind flow index last payload parity s).pow = s.pow ∧
    (sendFlit link dir kind flow index last payload parity s).cool = s.cool ∧
    (sendFlit link dir kind flow index last payload parity s).draws = s.draws ∧
    (sendFlit link dir kind flow index last payload parity s).pending = s.pending :=
  by refine ⟨?_, ?_, ?_, ?_, ?_, ?_, ?_, ?_, ?_, ?_, ?_, ?_, ?_, ?_, ?_, ?_, ?_, ?_⟩ <;> (unfold sendFlit; simp)

@[simp] theorem sendIdle_frame (link : Nat) (dir : Bool) (s : State) :
    (sendIdle link dir s).ident = s.ident ∧ (sendIdle link dir s).cfg = s.cfg ∧ (sendIdle link dir s).live = s.live ∧
    (sendIdle link dir s).flash = s.flash ∧ (sendIdle link dir s).mbox = s.mbox ∧ (sendIdle link dir s).pres = s.pres ∧
    (sendIdle link dir s).tide = s.tide ∧ (sendIdle link dir s).img = s.img ∧ (sendIdle link dir s).combs = s.combs ∧
    (sendIdle link dir s).fabric = s.fabric ∧ (sendIdle link dir s).shelf = s.shelf ∧ (sendIdle link dir s).cove = s.cove ∧
    (sendIdle link dir s).str = s.str ∧ (sendIdle link dir s).err = s.err ∧ (sendIdle link dir s).eth = s.eth ∧
    (sendIdle link dir s).pow = s.pow ∧ (sendIdle link dir s).cool = s.cool ∧ (sendIdle link dir s).draws = s.draws ∧
    (sendIdle link dir s).pending = s.pending :=
  ⟨rfl, rfl, rfl, rfl, rfl, rfl, rfl, rfl, rfl, rfl, rfl, rfl, rfl, rfl, rfl, rfl, rfl, rfl, rfl⟩

@[simp] theorem resendFrames_frame (link : Nat) (dir : Bool) (s : State) :
    (resendFrames link dir s).ident = s.ident ∧ (resendFrames link dir s).cfg = s.cfg ∧
    (resendFrames link dir s).live = s.live ∧ (resendFrames link dir s).flash = s.flash ∧
    (resendFrames link dir s).mbox = s.mbox ∧ (resendFrames link dir s).pres = s.pres ∧
    (resendFrames link dir s).tide = s.tide ∧ (resendFrames link dir s).img = s.img ∧
    (resendFrames link dir s).combs = s.combs ∧ (resendFrames link dir s).shelf = s.shelf ∧
    (resendFrames link dir s).cove = s.cove ∧ (resendFrames link dir s).str = s.str ∧ (resendFrames link dir s).err = s.err ∧
    (resendFrames link dir s).eth = s.eth ∧ (resendFrames link dir s).pow = s.pow ∧ (resendFrames link dir s).cool = s.cool ∧
    (resendFrames link dir s).draws = s.draws ∧ (resendFrames link dir s).pending = s.pending :=
  by refine ⟨?_, ?_, ?_, ?_, ?_, ?_, ?_, ?_, ?_, ?_, ?_, ?_, ?_, ?_, ?_, ?_, ?_, ?_⟩ <;> (unfold resendFrames; simp)

@[simp] theorem clearRegion_frame (p region : Nat) (s : State) :
    (clearRegion p region s).ident = s.ident ∧ (clearRegion p region s).cfg = s.cfg ∧ (clearRegion p region s).live = s.live ∧
    (clearRegion p region s).flash = s.flash ∧ (clearRegion p region s).mbox = s.mbox ∧
    (clearRegion p region s).outbox = s.outbox ∧ (clearRegion p region s).pres = s.pres ∧
    (clearRegion p region s).tide = s.tide ∧ (clearRegion p region s).img = s.img ∧
    (clearRegion p region s).fabric = s.fabric ∧ (clearRegion p region s).shelf = s.shelf ∧
    (clearRegion p region s).cove = s.cove ∧ (clearRegion p region s).str = s.str ∧ (clearRegion p region s).err = s.err ∧
    (clearRegion p region s).eth = s.eth ∧ (clearRegion p region s).pow = s.pow ∧ (clearRegion p region s).cool = s.cool ∧
    (clearRegion p region s).draws = s.draws ∧ (clearRegion p region s).pending = s.pending :=
  by refine ⟨?_, ?_, ?_, ?_, ?_, ?_, ?_, ?_, ?_, ?_, ?_, ?_, ?_, ?_, ?_, ?_, ?_, ?_, ?_⟩ <;> (unfold clearRegion; simp)

@[simp] theorem nameFlow_frame (x : NamedFlow) (s : State) :
    (nameFlow x s).ident = s.ident ∧ (nameFlow x s).cfg = s.cfg ∧ (nameFlow x s).live = s.live ∧
    (nameFlow x s).flash = s.flash ∧ (nameFlow x s).mbox = s.mbox ∧ (nameFlow x s).outbox = s.outbox ∧
    (nameFlow x s).pres = s.pres ∧ (nameFlow x s).tide = s.tide ∧ (nameFlow x s).img = s.img ∧
    (nameFlow x s).combs = s.combs ∧ (nameFlow x s).shelf = s.shelf ∧ (nameFlow x s).cove = s.cove ∧
    (nameFlow x s).str = s.str ∧ (nameFlow x s).err = s.err ∧ (nameFlow x s).eth = s.eth ∧ (nameFlow x s).pow = s.pow ∧
    (nameFlow x s).cool = s.cool ∧ (nameFlow x s).draws = s.draws ∧ (nameFlow x s).pending = s.pending :=
  by refine ⟨?_, ?_, ?_, ?_, ?_, ?_, ?_, ?_, ?_, ?_, ?_, ?_, ?_, ?_, ?_, ?_, ?_, ?_,
    ?_⟩ <;> (unfold nameFlow; (repeat' split) <;> simp)

@[simp] theorem countMend_frame (s : State) :
    (countMend s).ident = s.ident ∧ (countMend s).cfg = s.cfg ∧ (countMend s).live = s.live ∧ (countMend s).flash = s.flash ∧
    (countMend s).mbox = s.mbox ∧ (countMend s).outbox = s.outbox ∧ (countMend s).pres = s.pres ∧
    (countMend s).tide = s.tide ∧ (countMend s).img = s.img ∧ (countMend s).combs = s.combs ∧
    (countMend s).fabric = s.fabric ∧ (countMend s).shelf = s.shelf ∧ (countMend s).cove = s.cove ∧
    (countMend s).str = s.str ∧ (countMend s).eth = s.eth ∧ (countMend s).pow = s.pow ∧ (countMend s).cool = s.cool ∧
    (countMend s).draws = s.draws ∧ (countMend s).pending = s.pending :=
  ⟨rfl, rfl, rfl, rfl, rfl, rfl, rfl, rfl, rfl, rfl, rfl, rfl, rfl, rfl, rfl, rfl, rfl, rfl, rfl⟩

@[simp] theorem waitForBank_frame (p ra : Nat) (s : State) :
    (waitForBank p ra s).ident = s.ident ∧ (waitForBank p ra s).cfg = s.cfg ∧ (waitForBank p ra s).live = s.live ∧
    (waitForBank p ra s).flash = s.flash ∧ (waitForBank p ra s).mbox = s.mbox ∧ (waitForBank p ra s).outbox = s.outbox ∧
    (waitForBank p ra s).pres = s.pres ∧ (waitForBank p ra s).tide = s.tide ∧ (waitForBank p ra s).img = s.img ∧
    (waitForBank p ra s).fabric = s.fabric ∧ (waitForBank p ra s).shelf = s.shelf ∧ (waitForBank p ra s).cove = s.cove ∧
    (waitForBank p ra s).str = s.str ∧ (waitForBank p ra s).err = s.err ∧ (waitForBank p ra s).eth = s.eth ∧
    (waitForBank p ra s).pow = s.pow ∧ (waitForBank p ra s).cool = s.cool ∧ (waitForBank p ra s).draws = s.draws ∧
    (waitForBank p ra s).pending = s.pending :=
  by refine ⟨?_, ?_, ?_, ?_, ?_, ?_, ?_, ?_, ?_, ?_, ?_, ?_, ?_, ?_, ?_, ?_, ?_, ?_, ?_⟩ <;> (unfold waitForBank; simp)

@[simp] theorem thermalNotice_frame (c index : Nat) (value : Int) (severity : Option Nat) (kind subject : Nat) (s : State) :
    (thermalNotice c index value severity kind subject s).ident = s.ident ∧
    (thermalNotice c index value severity kind subject s).cfg = s.cfg ∧
    (thermalNotice c index value severity kind subject s).live = s.live ∧
    (thermalNotice c index value severity kind subject s).flash = s.flash ∧
    (thermalNotice c index value severity kind subject s).pres = s.pres ∧
    (thermalNotice c index value severity kind subject s).tide = s.tide ∧
    (thermalNotice c index value severity kind subject s).img = s.img ∧
    (thermalNotice c index value severity kind subject s).combs = s.combs ∧
    (thermalNotice c index value severity kind subject s).fabric = s.fabric ∧
    (thermalNotice c index value severity kind subject s).shelf = s.shelf ∧
    (thermalNotice c index value severity kind subject s).cove = s.cove ∧
    (thermalNotice c index value severity kind subject s).str = s.str ∧
    (thermalNotice c index value severity kind subject s).err = s.err ∧
    (thermalNotice c index value severity kind subject s).pow = s.pow ∧
    (thermalNotice c index value severity kind subject s).cool = s.cool ∧
    (thermalNotice c index value severity kind subject s).pending = s.pending :=
  by refine ⟨?_, ?_, ?_, ?_, ?_, ?_, ?_, ?_, ?_, ?_, ?_, ?_, ?_, ?_, ?_, ?_⟩ <;> (unfold thermalNotice; simp)

@[simp] theorem warningNotice_frame (severity : Option Nat) (w : Nat × Nat × BitVec 32) (s : State) :
    (warningNotice severity w s).ident = s.ident ∧ (warningNotice severity w s).cfg = s.cfg ∧
    (warningNotice severity w s).live = s.live ∧ (warningNotice severity w s).flash = s.flash ∧
    (warningNotice severity w s).pres = s.pres ∧ (warningNotice severity w s).tide = s.tide ∧
    (warningNotice severity w s).img = s.img ∧ (warningNotice severity w s).combs = s.combs ∧
    (warningNotice severity w s).fabric = s.fabric ∧ (warningNotice severity w s).shelf = s.shelf ∧
    (warningNotice severity w s).cove = s.cove ∧ (warningNotice severity w s).str = s.str ∧
    (warningNotice severity w s).err = s.err ∧ (warningNotice severity w s).pow = s.pow ∧
    (warningNotice severity w s).cool = s.cool ∧ (warningNotice severity w s).pending = s.pending :=
  by refine ⟨?_, ?_, ?_, ?_, ?_, ?_, ?_, ?_, ?_, ?_, ?_, ?_, ?_, ?_, ?_,
    ?_⟩ <;> (unfold warningNotice; (repeat' split) <;> simp)

@[simp] theorem raiseWarning_frame (c index value : Nat) (s : State) :
    (raiseWarning c index value s).ident = s.ident ∧ (raiseWarning c index value s).cfg = s.cfg ∧
    (raiseWarning c index value s).live = s.live ∧ (raiseWarning c index value s).flash = s.flash ∧
    (raiseWarning c index value s).pres = s.pres ∧ (raiseWarning c index value s).tide = s.tide ∧
    (raiseWarning c index value s).img = s.img ∧ (raiseWarning c index value s).combs = s.combs ∧
    (raiseWarning c index value s).fabric = s.fabric ∧ (raiseWarning c index value s).shelf = s.shelf ∧
    (raiseWarning c index value s).cove = s.cove ∧ (raiseWarning c index value s).str = s.str ∧
    (raiseWarning c index value s).err = s.err ∧ (raiseWarning c index value s).cool = s.cool ∧
    (raiseWarning c index value s).pending = s.pending :=
  by refine ⟨?_, ?_, ?_, ?_, ?_, ?_, ?_, ?_, ?_, ?_, ?_, ?_, ?_, ?_, ?_⟩ <;> (unfold raiseWarning; (repeat' split) <;> simp)

@[simp] theorem stepSpots_frame (w : WindowData) (s : State) :
    (stepSpots w s).ident = s.ident ∧ (stepSpots w s).cfg = s.cfg ∧ (stepSpots w s).live = s.live ∧
    (stepSpots w s).flash = s.flash ∧ (stepSpots w s).mbox = s.mbox ∧ (stepSpots w s).outbox = s.outbox ∧
    (stepSpots w s).pres = s.pres ∧ (stepSpots w s).tide = s.tide ∧ (stepSpots w s).img = s.img ∧
    (stepSpots w s).combs = s.combs ∧ (stepSpots w s).fabric = s.fabric ∧ (stepSpots w s).shelf = s.shelf ∧
    (stepSpots w s).cove = s.cove ∧ (stepSpots w s).str = s.str ∧ (stepSpots w s).err = s.err ∧ (stepSpots w s).eth = s.eth ∧
    (stepSpots w s).pow = s.pow ∧ (stepSpots w s).draws = s.draws ∧ (stepSpots w s).pending = s.pending :=
  ⟨rfl, rfl, rfl, rfl, rfl, rfl, rfl, rfl, rfl, rfl, rfl, rfl, rfl, rfl, rfl, rfl, rfl, rfl, rfl⟩

@[simp] theorem judgeSensors_frame (w : WindowData) (s : State) :
    (judgeSensors w s).ident = s.ident ∧ (judgeSensors w s).cfg = s.cfg ∧ (judgeSensors w s).live = s.live ∧
    (judgeSensors w s).flash = s.flash ∧ (judgeSensors w s).mbox = s.mbox ∧ (judgeSensors w s).outbox = s.outbox ∧
    (judgeSensors w s).pres = s.pres ∧ (judgeSensors w s).tide = s.tide ∧ (judgeSensors w s).img = s.img ∧
    (judgeSensors w s).combs = s.combs ∧ (judgeSensors w s).fabric = s.fabric ∧ (judgeSensors w s).shelf = s.shelf ∧
    (judgeSensors w s).cove = s.cove ∧ (judgeSensors w s).str = s.str ∧ (judgeSensors w s).err = s.err ∧
    (judgeSensors w s).eth = s.eth ∧ (judgeSensors w s).pow = s.pow ∧ (judgeSensors w s).draws = s.draws ∧
    (judgeSensors w s).pending = s.pending :=
  ⟨rfl, rfl, rfl, rfl, rfl, rfl, rfl, rfl, rfl, rfl, rfl, rfl, rfl, rfl, rfl, rfl, rfl, rfl, rfl⟩

@[simp] theorem capCombs_frame (w : WindowData) (s : State) :
    (capCombs w s).ident = s.ident ∧ (capCombs w s).cfg = s.cfg ∧ (capCombs w s).live = s.live ∧
    (capCombs w s).flash = s.flash ∧ (capCombs w s).pres = s.pres ∧ (capCombs w s).tide = s.tide ∧
    (capCombs w s).img = s.img ∧ (capCombs w s).combs = s.combs ∧ (capCombs w s).fabric = s.fabric ∧
    (capCombs w s).shelf = s.shelf ∧ (capCombs w s).cove = s.cove ∧ (capCombs w s).str = s.str ∧ (capCombs w s).err = s.err ∧
    (capCombs w s).pow = s.pow ∧ (capCombs w s).pending = s.pending :=
  ⟨by unfold capCombs; refine foldl_keeps State.ident _ ?_ _ _; intros; simp,
   by unfold capCombs; refine foldl_keeps State.cfg _ ?_ _ _; intros; simp,
   by unfold capCombs; refine foldl_keeps State.live _ ?_ _ _; intros; simp,
   by unfold capCombs; refine foldl_keeps State.flash _ ?_ _ _; intros; simp,
   by unfold capCombs; refine foldl_keeps State.pres _ ?_ _ _; intros; simp,
   by unfold capCombs; refine foldl_keeps State.tide _ ?_ _ _; intros; simp,
   by unfold capCombs; refine foldl_keeps State.img _ ?_ _ _; intros; simp,
   by unfold capCombs; refine foldl_keeps State.combs _ ?_ _ _; intros; simp,
   by unfold capCombs; refine foldl_keeps State.fabric _ ?_ _ _; intros; simp,
   by unfold capCombs; refine foldl_keeps State.shelf _ ?_ _ _; intros; simp,
   by unfold capCombs; refine foldl_keeps State.cove _ ?_ _ _; intros; simp,
   by unfold capCombs; refine foldl_keeps State.str _ ?_ _ _; intros; simp,
   by unfold capCombs; refine foldl_keeps State.err _ ?_ _ _; intros; simp,
   by unfold capCombs; refine foldl_keeps State.pow _ ?_ _ _; intros; simp,
   by unfold capCombs; refine foldl_keeps State.pending _ ?_ _ _; intros; simp⟩

@[simp] theorem markHot_frame (s : State) :
    (markHot s).ident = s.ident ∧ (markHot s).cfg = s.cfg ∧ (markHot s).live = s.live ∧ (markHot s).flash = s.flash ∧
    (markHot s).mbox = s.mbox ∧ (markHot s).outbox = s.outbox ∧ (markHot s).pres = s.pres ∧ (markHot s).tide = s.tide ∧
    (markHot s).img = s.img ∧ (markHot s).combs = s.combs ∧ (markHot s).fabric = s.fabric ∧ (markHot s).cove = s.cove ∧
    (markHot s).str = s.str ∧ (markHot s).err = s.err ∧ (markHot s).eth = s.eth ∧ (markHot s).pow = s.pow ∧
    (markHot s).cool = s.cool ∧ (markHot s).draws = s.draws ∧ (markHot s).pending = s.pending :=
  ⟨by unfold markHot; refine foldl_keeps State.ident _ ?_ _ _; intros; simp,
   by unfold markHot; refine foldl_keeps State.cfg _ ?_ _ _; intros; simp,
   by unfold markHot; refine foldl_keeps State.live _ ?_ _ _; intros; simp,
   by unfold markHot; refine foldl_keeps State.flash _ ?_ _ _; intros; simp,
   by unfold markHot; refine foldl_keeps State.mbox _ ?_ _ _; intros; simp,
   by unfold markHot; refine foldl_keeps State.outbox _ ?_ _ _; intros; simp,
   by unfold markHot; refine foldl_keeps State.pres _ ?_ _ _; intros; simp,
   by unfold markHot; refine foldl_keeps State.tide _ ?_ _ _; intros; simp,
   by unfold markHot; refine foldl_keeps State.img _ ?_ _ _; intros; simp,
   by unfold markHot; refine foldl_keeps State.combs _ ?_ _ _; intros; simp,
   by unfold markHot; refine foldl_keeps State.fabric _ ?_ _ _; intros; simp,
   by unfold markHot; refine foldl_keeps State.cove _ ?_ _ _; intros; simp,
   by unfold markHot; refine foldl_keeps State.str _ ?_ _ _; intros; simp,
   by unfold markHot; refine foldl_keeps State.err _ ?_ _ _; intros; simp,
   by unfold markHot; refine foldl_keeps State.eth _ ?_ _ _; intros; simp,
   by unfold markHot; refine foldl_keeps State.pow _ ?_ _ _; intros; simp,
   by unfold markHot; refine foldl_keeps State.cool _ ?_ _ _; intros; simp,
   by unfold markHot; refine foldl_keeps State.draws _ ?_ _ _; intros; simp,
   by unfold markHot; refine foldl_keeps State.pending _ ?_ _ _; intros; simp⟩

@[simp] theorem powerControl_frame (w : WindowData) (s : State) :
    (powerControl w s).ident = s.ident ∧ (powerControl w s).cfg = s.cfg ∧ (powerControl w s).live = s.live ∧
    (powerControl w s).flash = s.flash ∧ (powerControl w s).mbox = s.mbox ∧ (powerControl w s).outbox = s.outbox ∧
    (powerControl w s).pres = s.pres ∧ (powerControl w s).tide = s.tide ∧ (powerControl w s).img = s.img ∧
    (powerControl w s).combs = s.combs ∧ (powerControl w s).fabric = s.fabric ∧ (powerControl w s).shelf = s.shelf ∧
    (powerControl w s).cove = s.cove ∧ (powerControl w s).str = s.str ∧ (powerControl w s).err = s.err ∧
    (powerControl w s).eth = s.eth ∧ (powerControl w s).cool = s.cool ∧ (powerControl w s).draws = s.draws ∧
    (powerControl w s).pending = s.pending :=
  ⟨by simp [powerControl, apply_ite State.ident],
   by simp [powerControl, apply_ite State.cfg],
   by simp [powerControl, apply_ite State.live],
   by simp [powerControl, apply_ite State.flash],
   by simp [powerControl, apply_ite State.mbox],
   by simp [powerControl, apply_ite State.outbox],
   by simp [powerControl, apply_ite State.pres],
   by simp [powerControl, apply_ite State.tide],
   by simp [powerControl, apply_ite State.img],
   by simp [powerControl, apply_ite State.combs],
   by simp [powerControl, apply_ite State.fabric],
   by simp [powerControl, apply_ite State.shelf],
   by simp [powerControl, apply_ite State.cove],
   by simp [powerControl, apply_ite State.str],
   by simp [powerControl, apply_ite State.err],
   by simp [powerControl, apply_ite State.eth],
   by simp [powerControl, apply_ite State.cool],
   by simp [powerControl, apply_ite State.draws],
   by simp [powerControl, apply_ite State.pending]⟩

@[simp] theorem inputWarnings_frame (s : State) :
    (inputWarnings s).ident = s.ident ∧ (inputWarnings s).cfg = s.cfg ∧ (inputWarnings s).live = s.live ∧
    (inputWarnings s).flash = s.flash ∧ (inputWarnings s).pres = s.pres ∧ (inputWarnings s).tide = s.tide ∧
    (inputWarnings s).img = s.img ∧ (inputWarnings s).combs = s.combs ∧ (inputWarnings s).fabric = s.fabric ∧
    (inputWarnings s).shelf = s.shelf ∧ (inputWarnings s).cove = s.cove ∧ (inputWarnings s).str = s.str ∧
    (inputWarnings s).err = s.err ∧ (inputWarnings s).cool = s.cool ∧ (inputWarnings s).pending = s.pending :=
  ⟨by simp [inputWarnings, apply_ite State.ident],
   by simp [inputWarnings, apply_ite State.cfg],
   by simp [inputWarnings, apply_ite State.live],
   by simp [inputWarnings, apply_ite State.flash],
   by simp [inputWarnings, apply_ite State.pres],
   by simp [inputWarnings, apply_ite State.tide],
   by simp [inputWarnings, apply_ite State.img],
   by simp [inputWarnings, apply_ite State.combs],
   by simp [inputWarnings, apply_ite State.fabric],
   by simp [inputWarnings, apply_ite State.shelf],
   by simp [inputWarnings, apply_ite State.cove],
   by simp [inputWarnings, apply_ite State.str],
   by simp [inputWarnings, apply_ite State.err],
   by simp [inputWarnings, apply_ite State.cool],
   by simp [inputWarnings, apply_ite State.pending]⟩

@[simp] theorem addEpoch_frame (s : State) :
    (addEpoch s).ident = s.ident ∧ (addEpoch s).cfg = s.cfg ∧ (addEpoch s).live = s.live ∧ (addEpoch s).flash = s.flash ∧
    (addEpoch s).mbox = s.mbox ∧ (addEpoch s).outbox = s.outbox ∧ (addEpoch s).pres = s.pres ∧ (addEpoch s).tide = s.tide ∧
    (addEpoch s).img = s.img ∧ (addEpoch s).combs = s.combs ∧ (addEpoch s).fabric = s.fabric ∧ (addEpoch s).shelf = s.shelf ∧
    (addEpoch s).cove = s.cove ∧ (addEpoch s).str = s.str ∧ (addEpoch s).err = s.err ∧ (addEpoch s).eth = s.eth ∧
    (addEpoch s).pow = s.pow ∧ (addEpoch s).draws = s.draws ∧ (addEpoch s).pending = s.pending :=
  ⟨rfl, rfl, rfl, rfl, rfl, rfl, rfl, rfl, rfl, rfl, rfl, rfl, rfl, rfl, rfl, rfl, rfl, rfl, rfl⟩

@[simp] theorem takeSamples_frame (w : WindowData) (s : State) :
    (takeSamples w s).ident = s.ident ∧ (takeSamples w s).cfg = s.cfg ∧ (takeSamples w s).live = s.live ∧
    (takeSamples w s).flash = s.flash ∧ (takeSamples w s).mbox = s.mbox ∧ (takeSamples w s).outbox = s.outbox ∧
    (takeSamples w s).pres = s.pres ∧ (takeSamples w s).tide = s.tide ∧ (takeSamples w s).img = s.img ∧
    (takeSamples w s).combs = s.combs ∧ (takeSamples w s).fabric = s.fabric ∧ (takeSamples w s).shelf = s.shelf ∧
    (takeSamples w s).cove = s.cove ∧ (takeSamples w s).str = s.str ∧ (takeSamples w s).err = s.err ∧
    (takeSamples w s).draws = s.draws ∧ (takeSamples w s).pending = s.pending :=
  ⟨rfl, rfl, rfl, rfl, rfl, rfl, rfl, rfl, rfl, rfl, rfl, rfl, rfl, rfl, rfl, rfl, rfl⟩

@[simp] theorem pauseStream_frame (n reason : Nat) (s : State) :
    (pauseStream n reason s).ident = s.ident ∧ (pauseStream n reason s).cfg = s.cfg ∧ (pauseStream n reason s).live = s.live ∧
    (pauseStream n reason s).flash = s.flash ∧ (pauseStream n reason s).mbox = s.mbox ∧
    (pauseStream n reason s).outbox = s.outbox ∧ (pauseStream n reason s).pres = s.pres ∧
    (pauseStream n reason s).tide = s.tide ∧ (pauseStream n reason s).img = s.img ∧ (pauseStream n reason s).combs = s.combs ∧
    (pauseStream n reason s).fabric = s.fabric ∧ (pauseStream n reason s).shelf = s.shelf ∧
    (pauseStream n reason s).cove = s.cove ∧ (pauseStream n reason s).err = s.err ∧ (pauseStream n reason s).eth = s.eth ∧
    (pauseStream n reason s).pow = s.pow ∧ (pauseStream n reason s).cool = s.cool ∧ (pauseStream n reason s).draws = s.draws ∧
    (pauseStream n reason s).pending = s.pending :=
  by refine ⟨?_, ?_, ?_, ?_, ?_, ?_, ?_, ?_, ?_, ?_, ?_, ?_, ?_, ?_, ?_, ?_, ?_, ?_, ?_⟩ <;> (unfold pauseStream; simp)

@[simp] theorem holdStream_frame (n reason : Nat) (s : State) :
    (holdStream n reason s).ident = s.ident ∧ (holdStream n reason s).cfg = s.cfg ∧ (holdStream n reason s).live = s.live ∧
    (holdStream n reason s).flash = s.flash ∧ (holdStream n reason s).mbox = s.mbox ∧
    (holdStream n reason s).outbox = s.outbox ∧ (holdStream n reason s).pres = s.pres ∧
    (holdStream n reason s).tide = s.tide ∧ (holdStream n reason s).img = s.img ∧ (holdStream n reason s).combs = s.combs ∧
    (holdStream n reason s).fabric = s.fabric ∧ (holdStream n reason s).shelf = s.shelf ∧
    (holdStream n reason s).cove = s.cove ∧ (holdStream n reason s).err = s.err ∧ (holdStream n reason s).eth = s.eth ∧
    (holdStream n reason s).pow = s.pow ∧ (holdStream n reason s).cool = s.cool ∧ (holdStream n reason s).draws = s.draws ∧
    (holdStream n reason s).pending = s.pending :=
  by refine ⟨?_, ?_, ?_, ?_, ?_, ?_, ?_, ?_, ?_, ?_, ?_, ?_, ?_, ?_, ?_, ?_, ?_, ?_, ?_⟩ <;> (unfold holdStream; simp)

@[simp] theorem parkByDelay_frame (from_ : StreamState) (n delay : Nat) (s : State) :
    (parkByDelay from_ n delay s).ident = s.ident ∧ (parkByDelay from_ n delay s).cfg = s.cfg ∧
    (parkByDelay from_ n delay s).live = s.live ∧ (parkByDelay from_ n delay s).flash = s.flash ∧
    (parkByDelay from_ n delay s).mbox = s.mbox ∧ (parkByDelay from_ n delay s).outbox = s.outbox ∧
    (parkByDelay from_ n delay s).pres = s.pres ∧ (parkByDelay from_ n delay s).tide = s.tide ∧
    (parkByDelay from_ n delay s).img = s.img ∧ (parkByDelay from_ n delay s).combs = s.combs ∧
    (parkByDelay from_ n delay s).fabric = s.fabric ∧ (parkByDelay from_ n delay s).shelf = s.shelf ∧
    (parkByDelay from_ n delay s).cove = s.cove ∧ (parkByDelay from_ n delay s).err = s.err ∧
    (parkByDelay from_ n delay s).eth = s.eth ∧ (parkByDelay from_ n delay s).pow = s.pow ∧
    (parkByDelay from_ n delay s).cool = s.cool ∧ (parkByDelay from_ n delay s).draws = s.draws ∧
    (parkByDelay from_ n delay s).pending = s.pending :=
  by refine ⟨?_, ?_, ?_, ?_, ?_, ?_, ?_, ?_, ?_, ?_, ?_, ?_, ?_, ?_, ?_, ?_, ?_, ?_,
    ?_⟩ <;> (unfold parkByDelay; (repeat' split) <;> simp)

@[simp] theorem startPrograms_frame (i : Image) (k : Nat) (s : State) :
    (startPrograms i k s).ident = s.ident ∧ (startPrograms i k s).cfg = s.cfg ∧ (startPrograms i k s).live = s.live ∧
    (startPrograms i k s).flash = s.flash ∧ (startPrograms i k s).mbox = s.mbox ∧ (startPrograms i k s).outbox = s.outbox ∧
    (startPrograms i k s).pres = s.pres ∧ (startPrograms i k s).tide = s.tide ∧ (startPrograms i k s).img = s.img ∧
    (startPrograms i k s).fabric = s.fabric ∧ (startPrograms i k s).shelf = s.shelf ∧ (startPrograms i k s).cove = s.cove ∧
    (startPrograms i k s).str = s.str ∧ (startPrograms i k s).err = s.err ∧ (startPrograms i k s).eth = s.eth ∧
    (startPrograms i k s).pow = s.pow ∧ (startPrograms i k s).cool = s.cool ∧ (startPrograms i k s).draws = s.draws ∧
    (startPrograms i k s).pending = s.pending :=
  ⟨rfl, rfl, rfl, rfl, rfl, rfl, rfl, rfl, rfl, rfl, rfl, rfl, rfl, rfl, rfl, rfl, rfl, rfl, rfl⟩

@[simp] theorem takeT_frame (s : State) :
    (takeT s).ident = s.ident ∧ (takeT s).cfg = s.cfg ∧ (takeT s).flash = s.flash ∧ (takeT s).mbox = s.mbox ∧
    (takeT s).outbox = s.outbox ∧ (takeT s).pres = s.pres ∧ (takeT s).img = s.img ∧ (takeT s).combs = s.combs ∧
    (takeT s).fabric = s.fabric ∧ (takeT s).shelf = s.shelf ∧ (takeT s).cove = s.cove ∧ (takeT s).err = s.err ∧
    (takeT s).eth = s.eth ∧ (takeT s).pow = s.pow ∧ (takeT s).cool = s.cool ∧ (takeT s).draws = s.draws ∧
    (takeT s).pending = s.pending :=
  ⟨rfl, rfl, rfl, rfl, rfl, rfl, rfl, rfl, rfl, rfl, rfl, rfl, rfl, rfl, rfl, rfl, rfl⟩

@[simp] theorem advanceNumber_frame (s : State) :
    (advanceNumber s).ident = s.ident ∧ (advanceNumber s).cfg = s.cfg ∧ (advanceNumber s).live = s.live ∧
    (advanceNumber s).flash = s.flash ∧ (advanceNumber s).mbox = s.mbox ∧ (advanceNumber s).outbox = s.outbox ∧
    (advanceNumber s).pres = s.pres ∧ (advanceNumber s).img = s.img ∧ (advanceNumber s).combs = s.combs ∧
    (advanceNumber s).fabric = s.fabric ∧ (advanceNumber s).shelf = s.shelf ∧ (advanceNumber s).cove = s.cove ∧
    (advanceNumber s).str = s.str ∧ (advanceNumber s).err = s.err ∧ (advanceNumber s).eth = s.eth ∧
    (advanceNumber s).pow = s.pow ∧ (advanceNumber s).cool = s.cool ∧ (advanceNumber s).draws = s.draws ∧
    (advanceNumber s).pending = s.pending :=
  ⟨rfl, rfl, rfl, rfl, rfl, rfl, rfl, rfl, rfl, rfl, rfl, rfl, rfl, rfl, rfl, rfl, rfl, rfl, rfl⟩

@[simp] theorem takeTables_frame (s : State) :
    (takeTables s).ident = s.ident ∧ (takeTables s).cfg = s.cfg ∧ (takeTables s).live = s.live ∧
    (takeTables s).flash = s.flash ∧ (takeTables s).mbox = s.mbox ∧ (takeTables s).outbox = s.outbox ∧
    (takeTables s).pres = s.pres ∧ (takeTables s).tide = s.tide ∧ (takeTables s).img = s.img ∧
    (takeTables s).combs = s.combs ∧ (takeTables s).fabric = s.fabric ∧ (takeTables s).shelf = s.shelf ∧
    (takeTables s).cove = s.cove ∧ (takeTables s).err = s.err ∧ (takeTables s).eth = s.eth ∧ (takeTables s).pow = s.pow ∧
    (takeTables s).draws = s.draws ∧ (takeTables s).pending = s.pending :=
  ⟨rfl, rfl, rfl, rfl, rfl, rfl, rfl, rfl, rfl, rfl, rfl, rfl, rfl, rfl, rfl, rfl, rfl, rfl⟩

@[simp] theorem countRepeat_frame (s : State) (x : RepeatReads) :
    (countRepeat s x).ident = s.ident ∧ (countRepeat s x).cfg = s.cfg ∧ (countRepeat s x).live = s.live ∧
    (countRepeat s x).flash = s.flash ∧ (countRepeat s x).mbox = s.mbox ∧ (countRepeat s x).outbox = s.outbox ∧
    (countRepeat s x).pres = s.pres ∧ (countRepeat s x).tide = s.tide ∧ (countRepeat s x).img = s.img ∧
    (countRepeat s x).fabric = s.fabric ∧ (countRepeat s x).shelf = s.shelf ∧ (countRepeat s x).cove = s.cove ∧
    (countRepeat s x).str = s.str ∧ (countRepeat s x).eth = s.eth ∧ (countRepeat s x).pow = s.pow ∧
    (countRepeat s x).cool = s.cool ∧ (countRepeat s x).draws = s.draws ∧ (countRepeat s x).pending = s.pending :=
  by refine ⟨?_, ?_, ?_, ?_, ?_, ?_, ?_, ?_, ?_, ?_, ?_, ?_, ?_, ?_, ?_, ?_, ?_, ?_⟩ <;> (unfold countRepeat; simp)

@[simp] theorem pausePriority_frame (p : Nat) (q : BitVec 16) (s : State) :
    (pausePriority p q s).ident = s.ident ∧ (pausePriority p q s).cfg = s.cfg ∧ (pausePriority p q s).live = s.live ∧
    (pausePriority p q s).flash = s.flash ∧ (pausePriority p q s).mbox = s.mbox ∧ (pausePriority p q s).outbox = s.outbox ∧
    (pausePriority p q s).pres = s.pres ∧ (pausePriority p q s).tide = s.tide ∧ (pausePriority p q s).img = s.img ∧
    (pausePriority p q s).combs = s.combs ∧ (pausePriority p q s).fabric = s.fabric ∧ (pausePriority p q s).shelf = s.shelf ∧
    (pausePriority p q s).cove = s.cove ∧ (pausePriority p q s).str = s.str ∧ (pausePriority p q s).err = s.err ∧
    (pausePriority p q s).pow = s.pow ∧ (pausePriority p q s).cool = s.cool ∧ (pausePriority p q s).draws = s.draws ∧
    (pausePriority p q s).pending = s.pending :=
  ⟨rfl, rfl, rfl, rfl, rfl, rfl, rfl, rfl, rfl, rfl, rfl, rfl, rfl, rfl, rfl, rfl, rfl, rfl, rfl⟩

@[simp] theorem rateReply_frame (kind : Nat) (x : Sent) (s : State) :
    (rateReply kind x s).ident = s.ident ∧ (rateReply kind x s).cfg = s.cfg ∧ (rateReply kind x s).live = s.live ∧
    (rateReply kind x s).flash = s.flash ∧ (rateReply kind x s).mbox = s.mbox ∧ (rateReply kind x s).pres = s.pres ∧
    (rateReply kind x s).tide = s.tide ∧ (rateReply kind x s).img = s.img ∧ (rateReply kind x s).combs = s.combs ∧
    (rateReply kind x s).fabric = s.fabric ∧ (rateReply kind x s).shelf = s.shelf ∧ (rateReply kind x s).cove = s.cove ∧
    (rateReply kind x s).str = s.str ∧ (rateReply kind x s).err = s.err ∧ (rateReply kind x s).pow = s.pow ∧
    (rateReply kind x s).cool = s.cool ∧ (rateReply kind x s).draws = s.draws ∧ (rateReply kind x s).pending = s.pending :=
  ⟨by simp [rateReply, apply_ite State.ident],
   by simp [rateReply, apply_ite State.cfg],
   by simp [rateReply, apply_ite State.live],
   by simp [rateReply, apply_ite State.flash],
   by simp [rateReply, apply_ite State.mbox],
   by simp [rateReply, apply_ite State.pres],
   by simp [rateReply, apply_ite State.tide],
   by simp [rateReply, apply_ite State.img],
   by simp [rateReply, apply_ite State.combs],
   by simp [rateReply, apply_ite State.fabric],
   by simp [rateReply, apply_ite State.shelf],
   by simp [rateReply, apply_ite State.cove],
   by simp [rateReply, apply_ite State.str],
   by simp [rateReply, apply_ite State.err],
   by simp [rateReply, apply_ite State.pow],
   by simp [rateReply, apply_ite State.cool],
   by simp [rateReply, apply_ite State.draws],
   by simp [rateReply, apply_ite State.pending]⟩

@[simp] theorem cacheNeighbour_frame (family : Nat) (a : BitVec 128) (mac : BitVec 48) (s : State) :
    (cacheNeighbour family a mac s).ident = s.ident ∧ (cacheNeighbour family a mac s).cfg = s.cfg ∧
    (cacheNeighbour family a mac s).live = s.live ∧ (cacheNeighbour family a mac s).flash = s.flash ∧
    (cacheNeighbour family a mac s).mbox = s.mbox ∧ (cacheNeighbour family a mac s).outbox = s.outbox ∧
    (cacheNeighbour family a mac s).pres = s.pres ∧ (cacheNeighbour family a mac s).tide = s.tide ∧
    (cacheNeighbour family a mac s).img = s.img ∧ (cacheNeighbour family a mac s).combs = s.combs ∧
    (cacheNeighbour family a mac s).fabric = s.fabric ∧ (cacheNeighbour family a mac s).shelf = s.shelf ∧
    (cacheNeighbour family a mac s).cove = s.cove ∧ (cacheNeighbour family a mac s).str = s.str ∧
    (cacheNeighbour family a mac s).err = s.err ∧ (cacheNeighbour family a mac s).pow = s.pow ∧
    (cacheNeighbour family a mac s).cool = s.cool ∧ (cacheNeighbour family a mac s).draws = s.draws ∧
    (cacheNeighbour family a mac s).pending = s.pending :=
  ⟨rfl, rfl, rfl, rfl, rfl, rfl, rfl, rfl, rfl, rfl, rfl, rfl, rfl, rfl, rfl, rfl, rfl, rfl, rfl⟩

@[simp] theorem setPtp_frame (f : Ptp → Ptp) (s : State) :
    (setPtp f s).ident = s.ident ∧ (setPtp f s).cfg = s.cfg ∧ (setPtp f s).live = s.live ∧ (setPtp f s).flash = s.flash ∧
    (setPtp f s).mbox = s.mbox ∧ (setPtp f s).outbox = s.outbox ∧ (setPtp f s).pres = s.pres ∧ (setPtp f s).tide = s.tide ∧
    (setPtp f s).img = s.img ∧ (setPtp f s).combs = s.combs ∧ (setPtp f s).fabric = s.fabric ∧ (setPtp f s).shelf = s.shelf ∧
    (setPtp f s).cove = s.cove ∧ (setPtp f s).str = s.str ∧ (setPtp f s).err = s.err ∧ (setPtp f s).pow = s.pow ∧
    (setPtp f s).cool = s.cool ∧ (setPtp f s).draws = s.draws ∧ (setPtp f s).pending = s.pending :=
  ⟨rfl, rfl, rfl, rfl, rfl, rfl, rfl, rfl, rfl, rfl, rfl, rfl, rfl, rfl, rfl, rfl, rfl, rfl, rfl⟩

@[simp] theorem loseConverter_frame (s : State) (n : Nat) :
    (loseConverter s n).ident = s.ident ∧ (loseConverter s n).cfg = s.cfg ∧ (loseConverter s n).live = s.live ∧
    (loseConverter s n).flash = s.flash ∧ (loseConverter s n).pres = s.pres ∧ (loseConverter s n).tide = s.tide ∧
    (loseConverter s n).img = s.img ∧ (loseConverter s n).combs = s.combs ∧ (loseConverter s n).fabric = s.fabric ∧
    (loseConverter s n).shelf = s.shelf ∧ (loseConverter s n).cove = s.cove ∧ (loseConverter s n).str = s.str ∧
    (loseConverter s n).err = s.err ∧ (loseConverter s n).cool = s.cool ∧ (loseConverter s n).pending = s.pending :=
  by refine ⟨?_, ?_, ?_, ?_, ?_, ?_, ?_, ?_, ?_, ?_, ?_, ?_, ?_, ?_, ?_⟩ <;> (unfold loseConverter; (repeat' split) <;> simp)

end Sys2Proof.Machine
end

