-- ==== Sys2Proof/Laws/Requests.lean ====
section
/-! SUPPORT. Lengths of digests and tags, and when a request that carries the tag of its mailbox's key is served: the check
of the tag itself needs no evaluation of the hash. -/

namespace Sys2Proof.Machine

@[simp] theorem bytesLE_length (k n : Nat) : (bytesLE k n).length = k := by
  induction k generalizing n with
  | zero => rfl
  | succ k ih => simp [bytesLE, ih]

@[simp] theorem bytesBE_length (k n : Nat) : (bytesBE k n).length = k := by simp [bytesBE]

theorem shaBlock_length (h : List Nat) (ws : Nat → Nat) (hl : h.length = 8) : (shaBlock h ws).length = 8 := by
  simp [shaBlock, hl]

/-- What holds of k at every number and rest holds of what a word gives to it. -/
theorem withWord_holds {α : Type} (P : α → Prop) (k : Nat → Bytes → α) (hk : ∀ x r, P (k x r)) (n x : Nat) (bs : Bytes) :
    P (withWord k n x bs) := by
  induction n generalizing x bs with
  | zero => exact hk x bs
  | succ n ih =>
    cases bs with
    | nil => exact ih _ _
    | cons b bs =>
      unfold withWord strict
      split <;> exact ih _ _

theorem withWords_holds {α : Type} (P : α → Prop) (n : Nat) (k : List Nat → Bytes → α) (hk : ∀ ws r, P (k ws r)) (bs : Bytes) :
    P (withWords n k bs) := by
  induction n generalizing k bs with
  | zero => exact hk [] bs
  | succ n ih => exact withWord_holds P _ (fun _ _ => ih _ (fun _ _ => hk _ _) _) 8 0 bs

theorem shaBlocks_length (n : Nat) (h : List Nat) (m : Bytes) (hl : h.length = 8) : (shaBlocks n h m).length = 8 := by
  induction n generalizing h m with
  | zero => exact hl
  | succ n ih => exact withWords_holds (fun (l : List Nat) => l.length = 8) 16 _ (fun _ _ => ih _ _ (shaBlock_length _ _ hl)) m

theorem shaWith_length (start : List Nat) (m : Bytes) (hl : start.length = 8) : (shaWith start m).length = 64 := by
  unfold shaWith
  simp [List.length_flatMap, shaBlocks_length _ _ _ hl]

@[simp] theorem sha512_length (m : Bytes) : (sha512 m).length = 64 := shaWith_length _ _ rfl

@[simp] theorem hmac_length (key : Key) (m : Bytes) : (hmac key m).length = 32 := by
  unfold hmac sha512256
  rw [List.length_take, shaWith_length _ _ rfl]
  rfl

/-- A request with the tag of a key. -/
def signed (key : Key) (op : Op) (r : Request) : Request := { r with tag := hmac key (requestHeader op.code r ++ r.payload) }

/-- What a request of a claimed mailbox must be, its tag left out, to be served (R341, R342, R343, R364). -/
def serviceable (key : Key) (r : Request) (s : State) : Bool :=
  s.awake && decide (r.magic = 0x46524D42) && decide (r.version = 1) && decide (r.payload.length = r.length.toNat)
    && decide (r.length.toNat ≤ 8960) && decide (bits r.flags 7 6 = 0) && decide (r.mailbox.toNat ≤ 256)
    && !(decide (r.mailbox.toNat = 0) && !s.cfg.claimed) && decide (keyOf r.mailbox.toNat s = some key)
    && (prefixesOf r.mailbox.toNat s).any (prefixMatches r.src.addr)
    && ((cacheOf r.mailbox s).find? fun e => e.sequence = r.sequence).isNone
    && decide ((cacheOf r.mailbox s).length < 64)
    && decide ((s.mbox.outstanding.filter fun o => o.mailbox = r.mailbox).length < 16)

theorem arrival_signed {key : Key} {op : Op} {r : Request} {s : State} (h : serviceable key r s = true) :
    s.awake = true ∧ arrival op (signed key op r) s = .pass ∧ Fresh (signed key op r) s := by
  simp only [serviceable, Bool.and_eq_true, decide_eq_true_eq, Bool.not_eq_true', Bool.and_eq_false_iff,
    decide_eq_false_iff_not] at h
  obtain ⟨⟨⟨⟨⟨⟨⟨⟨⟨⟨⟨⟨h1, h2⟩, h3⟩, h4⟩, h5⟩, h6⟩, h7⟩, h8⟩, h9⟩, h10⟩, h11⟩, h12⟩, h13⟩ := h
  refine ⟨h1, ?_, ?_, ?_, ?_⟩
  · have ht : (signed key op r).tag.length = 32 := hmac_length _ _
    have hform : ¬((signed key op r).magic ≠ 0x46524D42 ∨ (signed key op r).version ≠ 1 ∨
        (signed key op r).payload.length ≠ (signed key op r).length.toNat ∨ (signed key op r).tag.length ≠ 32
        ∨ (signed key op r).length.toNat > 8960 ∨ bits (signed key op r).flags 7 6 ≠ 0
        ∨ (signed key op r).mailbox.toNat > 256) := by
      simp only [ht, ne_eq, not_or, not_not, not_lt, gt_iff_lt]
      exact ⟨h2, h3, h4, trivial, h5, h6, h7⟩
    have hclaim : ¬((signed key op r).mailbox.toNat = 0 ∧ s.cfg.claimed = false) := by
      rintro ⟨ha, hb⟩
      rcases h8 with h8 | h8
      · exact h8 ha
      · simp [hb] at h8
    have hkey : keyOf (signed key op r).mailbox.toNat s = some key := h9
    have hpre : (prefixesOf (signed key op r).mailbox.toNat s).any (prefixMatches (signed key op r).src.addr) = true := h10
    unfold arrival
    rw [if_neg hform]
    unfold authenticate
    rw [if_neg hclaim, hkey]
    dsimp only
    rw [hpre, if_neg (by simp), if_pos]
    rfl
  · exact Option.isNone_iff_eq_none.mp h11
  · rintro ⟨ha, -⟩
    exact absurd h12 (Nat.not_lt.mpr ha)
  · exact h13

/-- A signed request that passes its opcode's checks is served. -/
theorem served_signed {key : Key} {op : Op} {r : Request} {s : State} (h : serviceable key r s = true)
    (hc : checks op (signed key op r) (taken (signed key op r) s) = Status.ok) : Served op (signed key op r) s := by
  obtain ⟨h1, h2, h3⟩ := arrival_signed h
  exact ⟨h1, h2, h3, hc⟩

/-- A signed request that fails one of its opcode's checks is rejected. -/
theorem rejected_signed {key : Key} {op : Op} {r : Request} {s : State} (h : serviceable key r s = true)
    (hc : checks op (signed key op r) (taken (signed key op r) s) ≠ Status.ok) : Rejected op (signed key op r) s := by
  obtain ⟨h1, h2, h3⟩ := arrival_signed h
  exact ⟨h1, h2, h3, hc⟩

/-- A stream frame with the tag of a key. -/
def signedFrame (key : Key) (kind : Nat) (f : Frame) : Frame := { f with tag := hmac key (receivedHeader kind f ++ f.entries) }

/-- What a frame of a claimed mailbox must be, its tag left out, to pass R341 and R353. -/
def framePassable (key : Key) (kind : Nat) (f : Frame) (s : State) : Bool :=
  s.awake && frameWellFormed kind { f with tag := List.replicate 32 0 } && !(decide (f.mailbox.toNat = 0) && !s.cfg.claimed)
    && decide (keyOf f.mailbox.toNat s = some key) && (prefixesOf f.mailbox.toNat s).any (prefixMatches f.src.addr)

/-- A signed frame of a stream that its mailbox holds passes. -/
theorem framePasses_signed {key : Key} {kind : Nat} {f : Frame} {t : Stream} {s : State} (h : framePassable key kind f s = true)
    (ht : findStream f.mailbox.toNat f.streamId.toNat (received s) = some t) : FramePasses kind (signedFrame key kind f) t s := by
  simp only [framePassable, Bool.and_eq_true, decide_eq_true_eq, Bool.not_eq_true', Bool.and_eq_false_iff,
    decide_eq_false_iff_not] at h
  obtain ⟨⟨⟨⟨h1, h2⟩, h3⟩, h4⟩, h5⟩ := h
  refine ⟨h1, ?_, ?_, ht⟩
  · have hl : (signedFrame key kind f).tag.length = (List.replicate 32 (0 : Byte)).length := by
      rw [List.length_replicate]; exact hmac_length _ _
    unfold frameWellFormed at *
    rw [hl]
    exact h2
  · have hclaim : ¬((signedFrame key kind f).mailbox.toNat = 0 ∧ (received s).cfg.claimed = false) := by
      rintro ⟨ha, hb⟩
      rcases h3 with h3 | h3
      · exact h3 ha
      · rw [(received_frame s).2.1] at hb
        simp [hb] at h3
    have hkey : keyOf (signedFrame key kind f).mailbox.toNat (received s) = some key := h4
    have hpre : (prefixesOf (signedFrame key kind f).mailbox.toNat (received s)).any
        (prefixMatches (signedFrame key kind f).src.addr) = true := h5
    unfold authenticate
    rw [if_neg hclaim, hkey]
    dsimp only
    rw [hpre, if_neg (by simp), if_pos]
    rfl

end Sys2Proof.Machine
end

