-- ==== Sys2Proof/Tests/Slice0.lean ====
section
/-! SUPPORT. Tests: words of R130 and R131 written out, ill-formed terms that WellFormed refuses, one step of small
states, and for every statement states and operands that meet the hypotheses of each of its clauses (names witness_…). -/

namespace Sys2Proof.Tests

open Sys2Proof Sys2Proof.Machine

set_option Elab.async false

/-! ## States and requests -/

/-- A module at work: the ready point passed, its port up, its bank charged, its cove mounted. -/
def work : State :=
  { State.reset with pow := { Power.reset with stage := .ready, pwrGood := true, bankCv := 10000, measured := true, capacitanceUf := 30000
                                               domains := List.replicate 196 { Domain.reset with state := 0 } }
                     eth := { Eth.reset with link := 2, pmd := 1 }
                     cove := { State.reset.cove with mounted := true } }

/-- A prefix entry that every address below 8000:: matches. -/
def anyPrefix : BitVec 256 := BitVec.ofNat 256 (2 ^ 120)

/-- The owner's key and the tenant's. -/
def ok0 : Key := 5
def ok1 : Key := 7

/-- The same module, claimed, with a tenant on mailbox 1. -/
def owned : State :=
  { work with cfg := { Cfg.shipped with claimed := true, ownerKey := ok0, ownerPrefixes := [anyPrefix]
                                        tenants := [⟨1, ok1, [anyPrefix]⟩], coveMasterKey := some 0 } }

/-- A request of mailbox mb with a payload and an untagged header. -/
def req (mb : BitVec 16) (p : Bytes) : Request :=
  ⟨⟨0, 0⟩, 0, ⟨0, 0⟩, 0x46524D42, 1, 0, mb, 1, 0, BitVec.ofNat 32 p.length, 0, p, List.replicate 32 0⟩

/-- Requests of the owner and of the tenant, tagged. -/
def own (op : Op) (p : Bytes) : Request := signed ok0 op (req 0 p)
def ten (op : Op) (p : Bytes) : Request := signed ok1 op (req 1 p)

theorem served_own {op : Op} {p : Bytes} {s : State} (h : serviceable ok0 (req 0 p) s = true)
    (hc : checks op (own op p) (taken (own op p) s) = Status.ok) : Served op (own op p) s := served_signed h hc

theorem served_ten {op : Op} {p : Bytes} {s : State} (h : serviceable ok1 (req 1 p) s = true)
    (hc : checks op (ten op p) (taken (ten op p) s) = Status.ok) : Served op (ten op p) s := served_signed h hc

/-- The owner's request passes everything but its tag, which it carries. -/
def can (s : State) (x : Op × Bytes) : Bool :=
  serviceable ok0 (req 0 x.2) s && decide (checks x.1 (own x.1 x.2) (taken (own x.1 x.2) s) = Status.ok)

/-- The tenant's. -/
def canTen (s : State) (x : Op × Bytes) : Bool :=
  serviceable ok1 (req 1 x.2) s && decide (checks x.1 (ten x.1 x.2) (taken (ten x.1 x.2) s) = Status.ok)

theorem served_can {s : State} {op : Op} {p : Bytes} (h : can s (op, p) = true) : Served op (own op p) s := by
  simp only [can, Bool.and_eq_true, decide_eq_true_eq] at h
  exact served_own h.1 h.2

theorem served_canTen {s : State} {op : Op} {p : Bytes} (h : canTen s (op, p) = true) : Served op (ten op p) s := by
  simp only [canTen, Bool.and_eq_true, decide_eq_true_eq] at h
  exact served_ten h.1 h.2

theorem served_cans {s : State} {l : List (Op × Bytes)} (h : l.all (can s) = true) : ∀ x ∈ l, Served x.1 (own x.1 x.2) s :=
  fun _ hx => served_can (List.all_eq_true.mp h _ hx)

theorem served_cansTen {s : State} {l : List (Op × Bytes)} (h : l.all (canTen s) = true) : ∀ x ∈ l, Served x.1 (ten x.1 x.2) s :=
  fun _ hx => served_canTen (List.all_eq_true.mp h _ hx)

/-! ## An image and what runs it -/

/-- A record from its fields, each at the place of its lowest bit. -/
def rec_ (w : Nat) (fs : List (Nat × Nat)) : BitVec w := BitVec.ofNat w (fs.map fun f => f.2 * 2 ^ f.1).sum

/-- Program words: SLOT 0 to 255 of class 2 at cycle 0, and END at a cycle (R131). -/
def slotWord : BitVec 128 := 0x8#4 ++ 0#13 ++ 0#15 ++ 0#8 ++ 256#9 ++ 2#2 ++ 0#77
def endWord (c : BitVec 13) : BitVec 128 := 0xF#4 ++ c ++ 0#111

/-- A small image: tides of 1,024 cycles, one virtual comb, an attention phase of two tides and a sampling phase of one, a
broadcast and a reduction flow of the first, two layers, a context of 1,000 tokens, a vocabulary of 4, token 3 ending. -/
def tiny : Image where
  header := rec_ 2048 [(64, 4096), (128, 1024), (152, 1), (160, 2), (176, 3), (192, 2), (208, 2), (256, 2 ^ 192 - 1)]
  directory := []
  vgrid := [rec_ 256 [(252, 9), (231, 4)]]
  phases := [rec_ 256 [(252, 1), (236, 2), (197, 100)], rec_ 256 [(252, 5), (236, 1)]]
  flows := [rec_ 256 [(254, 1), (218, 12), (206, 1), (96, 1)], rec_ 256 [(254, 2), (218, 12), (206, 1), (96, 1)]]
  layers := [rec_ 1536 [(56, 0xFF)], rec_ 1536 [(0, 1), (16, 1), (56, 0xFF)]]
  envelopes := []
  programs := [slotWord, endWord 900, slotWord, endWord 900]
  shards := [rec_ 768 [(64, 0), (192, 512)]]
  wide := []
  slotLayout := rec_ 512 [(0, 256), (16, 16), (32, 16), (64, 1000)]
  draft := none
  sampler := rec_ 256 [(0, 4), (32, 2), (48, 1), (64, 3)]
  signature := none

/-- Settings that sample the largest logit. -/
def plain : Settings := ⟨0, true, 100, 0, 0, 0x3F800000, 0x3F800000, 0, 1, 0⟩

/-- A stream of the tenant in a state. -/
def stream (id : BitVec 64) (st : StreamState) : Stream :=
  { newStream id (req 1 []) plain State.reset with state := st, digest := 9, committed := [1], tail := some 2 }

/-- The module with the image loaded on comb 5 and the data plane in a state, at a tide number. -/
def loaded (dp : DpState) (n : BitVec 64) : State :=
  { owned with img := { Img.reset with image := some tiny, digest := 9, place := [5], kvStacks := [1], kvReaders := [[0]] }
               tide := { Tide.reset with dp := dp, number := n } }

/-- It runs tide 3, the first of its second step. -/
def runs : State := loaded .running 3

/-- It runs with streams in the live records from 0 on. -/
def withStreams (dp : DpState) (ts : List Stream) : State :=
  { loaded dp 3 with str := { Streams.reset with live := ts.zipIdx.map fun p => (p.2, p.1) } }

/-- An object of the cove. -/
def object (id : BitVec 128) (d : CoveData) (dig : Digest) : CoveObject where
  id := id
  data := d
  holder := 0
  startStack := 0
  extents := 1
  bytes := 5000000
  expiresAt := 0
  digest := dig
  contentAddress := 0
  keyAlive := true
  committed := true
  cancelled := false
  damaged := false
  readers := 0
  serial := 1
  writes := []
  lastChange := Change.zero
  dated := 0

/-- s with objects in the cove. -/
def withObjects (os : List CoveObject) (s : State) : State := { s with cove := { s.cove with objects := os } }

/-! ## Queries -/

theorem witness_queries_owner : ∀ x ∈ [(opModuleInfo, []), (opTenantQuery, [0, 1, 0, 0]), (opImageQuery, [4, 0, 0, 0]),
    (opPolicyQuery, [0, 6, 0, 95]), (opCounterQuery, [11, 0, 0, 225, 32, 0, 0, 0]), (opFaultQuery, [3, 0, 0, 0]),
    (opSlotQuery, [0, 0, 0, 3]), (opServingQuery, []), (opAttestQuote, List.replicate 64 0), (opCoveObjectQuery, [3, 0, 0, 0]),
    (opPrefixQuery, [0, 0, 0, 0]), (opTelemetryRead, [1, 0, 1, 72, 1, 0, 0, 0]),
    (queryOp true, [0, 1, 0, 0, 0, 0, 0, 0] ++ bytesBE 8 3 ++ [3, 0, 0, 0]), (listOp true, [0, 1, 0, 0, 0, 0, 0, 0, 0, 0, 0, 0])],
    Served x.1 (own x.1 x.2) (withStreams .running [stream 3 .ready]) := served_cans (by decide +kernel)

theorem witness_queries_tenant : ∀ x ∈ [(queryOp false, bytesBE 8 3 ++ [2, 0, 0, 0]), (listOp false, [0, 0, 0, 0]),
    (opPolicyQuery, [0, 4, 0, 0]), (opCounterQuery, [11, 0, 0, 1, 1, 0, 0, 0])],
    Served x.1 (ten x.1 x.2) (withStreams .running [stream 3 .ready]) := served_cansTen (by decide +kernel)

theorem identityCert_check (r : Request) (s : State) (h : r.payload = [0, 0, 0, 0]) :
    opIdentityCert.check r s = Status.ok := by
  have hp : 0 < pageCount certificate.length 1024 := Nat.lt_of_lt_of_le Nat.zero_lt_one (Nat.le_max_left _ _)
  change need (decide (field r.payload 2 2 = 0) && decide (field r.payload 0 2 < pageCount certificate.length 1024))
    Status.badField = Status.ok
  rw [h, show field [0, 0, 0, 0] 2 2 = 0 by decide, show field [0, 0, 0, 0] 0 2 = 0 by decide, decide_eq_true hp]
  rfl

theorem witness_identity_cert : Served opIdentityCert (own opIdentityCert [0, 0, 0, 0]) owned :=
  served_own (by decide +kernel) (by
    unfold checks
    rw [identityCert_check _ _ rfl]
    decide +kernel)

/-! ## The mailbox engine -/

/-- A cache entry of mailbox 0. -/
def entry (n : BitVec 32) (d : Digest) : CacheEntry := ⟨0, n, d, 0x0101, 0, [], 0⟩

/-- s with cache entries and outstanding messages. -/
def cached (es : List CacheEntry) (os : List Outstanding) (s : State) : State :=
  { s with mbox := { s.mbox with cache := es, outstanding := os } }

/-- An outstanding message of a mailbox. -/
def waiting (mb : BitVec 16) (n : BitVec 32) (code : BitVec 16) (subject : BitVec 64) : Outstanding :=
  ⟨mb, n, code, ⟨0, 0⟩, 0, 0, subject, if code.toNat ∈ [0x0405, 0x0485, 0x0406] then mb else 0, 0, 0⟩

theorem witness_sequence_duplicate :
    let r := own opModuleInfo []
    let e := entry 1 (requestDigest opModuleInfo.code r)
    (cacheOf r.mailbox (cached [e] [] owned)).find? (fun e => e.sequence = r.sequence) = some e
      ∧ e.digest = requestDigest opModuleInfo.code r := ⟨rfl, rfl⟩

theorem witness_sequence_reused :
    let r := own opModuleInfo []
    (cacheOf r.mailbox (cached [entry 1 0] [] owned)).find? (fun e => e.sequence = r.sequence) = some (entry 1 0)
      ∧ (entry 1 0).digest ≠ requestDigest opModuleInfo.code r := ⟨rfl, by decide +kernel⟩

theorem witness_sequence_stale :
    let s := cached (entry 5 0 :: List.replicate 63 (entry 6 0)) [] owned
    let r := own opModuleInfo []
    (cacheOf r.mailbox s).find? (fun e => e.sequence = r.sequence) = none ∧ cacheOf r.mailbox s = entry 5 0 :: List.replicate 63 (entry 6 0)
      ∧ 64 ≤ (cacheOf r.mailbox s).length ∧ newer r.sequence 5 = false := by decide +kernel

theorem witness_sequence_window :
    let s := cached (entry 0 0 :: List.replicate 63 (entry 6 0)) (List.replicate 16 (waiting 0 7 0x0302 0)) owned
    let r := own opModuleInfo []
    (cacheOf r.mailbox s).find? (fun e => e.sequence = r.sequence) = none ∧
      ¬(64 ≤ (cacheOf r.mailbox s).length ∧ ((cacheOf r.mailbox s).head?.map fun e => newer r.sequence e.sequence) = some false) ∧
      16 ≤ (s.mbox.outstanding.filter fun o => o.mailbox = r.mailbox).length := by decide +kernel

theorem witness_sequence_fresh :
    let s := cached (List.replicate 63 (entry 6 0)) (List.replicate 15 (waiting 0 7 0x0302 0)) owned
    let r := own opModuleInfo []
    (cacheOf r.mailbox s).find? (fun e => e.sequence = r.sequence) = none ∧
      ¬(64 ≤ (cacheOf r.mailbox s).length ∧ ((cacheOf r.mailbox s).head?.map fun e => newer r.sequence e.sequence) = some false) ∧
      (s.mbox.outstanding.filter fun o => o.mailbox = r.mailbox).length < 16 := by decide +kernel

theorem witness_row_of_a_request : (requestRows none)[0]? = some (.moduleInfo, opModuleInfo) := rfl

theorem witness_drop_filter :
    work.awake = true ∧ arrival opModuleInfo { req 0 [] with magic := 0 } work = .filter
      ∧ arrival opModuleInfo { req 0 [] with length := 1 } work = .filter ∧ arrival opModuleInfo { req 257 [] with tag := [] } work = .filter
      ∧ arrival opFaultQuery (req 0 [0, 0, 0, 0]) work = .filter ∧ arrival opModuleInfo (req 2 []) owned = .filter := by decide +kernel

theorem witness_drop_auth :
    work.awake = true ∧ arrival opModuleInfo { req 0 [] with tag := List.replicate 32 1 } work = .auth
      ∧ arrival opModuleInfo { req 0 [] with src := ⟨BitVec.ofNat 128 (2 ^ 127), 0⟩ } owned = .auth := by decide +kernel

theorem rejected_own {op : Op} {p : Bytes} {s : State} (h : serviceable ok0 (req 0 p) s = true)
    (hc : checks op (own op p) (taken (own op p) s) ≠ Status.ok) : Rejected op (own op p) s := rejected_signed h hc

theorem witness_rejected : Rejected opFaultQuery (own opFaultQuery [4, 0, 0, 0]) owned ∧
    Rejected (opImageLoad none) (own (opImageLoad none) []) owned :=
  ⟨rejected_own (by decide +kernel) (by decide +kernel), rejected_own (by decide +kernel) (by decide +kernel)⟩

theorem witness_undefined_opcode :
    owned.awake = true ∧ arrival (opUndefined 0x0100) (own (opUndefined 0x0100) []) owned = .pass
      ∧ Fresh (own (opUndefined 0x0100) []) owned := arrival_signed (by decide +kernel)

/-- An answer to respond with, and one that changes nothing. -/
theorem witness_answer : (⟨owned, Status.ok, .image, true, (0, 0), []⟩ : Answer).changed = true
    ∧ (⟨owned, Status.ok, .image, false, (0, 0), []⟩ : Answer).changed = false := ⟨rfl, rfl⟩

/-! ## Images, the cove, firmware -/

theorem witness_image_stop_start :
    Served opImageStop (own opImageStop []) runs ∧ runs.tide.dp = .running ∧
    Served opImageStop (own opImageStop []) (loaded .stopped 3) ∧ (loaded .stopped 3).tide.dp = .stopped ∧
    Served opImageStart (own opImageStart []) (loaded .halted 3) :=
  ⟨served_can (by decide +kernel), rfl, served_can (by decide +kernel), rfl, served_can (by decide +kernel)⟩

/-- s with the digest 9 on the quarantine list, Halted by a fault. -/
def quarantined (dp : DpState) : State :=
  let s := loaded dp 3
  { s with cfg := { s.cfg with quarantine := [(9, 0)] }, tide := { s.tide with halt := .fault } }

theorem witness_quarantine_clear :
    (Served opQuarantineClear (own opQuarantineClear (bytesBE 64 9)) (quarantined .halted) ∧
      (quarantined .halted).tide.dp = .halted ∧ (quarantined .halted).tide.halt = .fault ∧
      (quarantined .halted).img.digest = BitVec.ofNat 512 (field (bytesBE 64 9) 0 64)) ∧
    (Served opQuarantineClear (own opQuarantineClear (bytesBE 64 9)) (quarantined .stopped) ∧
      (quarantined .stopped).tide.dp ≠ .halted) :=
  ⟨⟨served_can (by decide +kernel), rfl, rfl, by decide +kernel⟩, served_can (by decide +kernel), by decide⟩

theorem witness_image_source_set :
    Served opImageSourceSet (own opImageSourceSet ([63, 0, 0, 0] ++ bytesBE 64 (16 * 2 ^ 211 + 2 ^ 210))) owned :=
  served_can (by decide +kernel)

theorem witness_cove_object_set :
    let o := object 7 (.image tiny) 8
    let p (action : Byte) : Bytes := bytesBE 16 7 ++ [action, 0, 0, 0] ++ bytesBE 4 60
    (Served opCoveObjectSet (own opCoveObjectSet (p 1)) (withObjects [o] owned) ∧
      namedObject (own opCoveObjectSet (p 1)) (withObjects [o] owned) = some o ∧ field (p 1) 16 1 = 1) ∧
    (Served opCoveObjectSet (own opCoveObjectSet (p 0)) (withObjects [o] owned) ∧
      namedObject (own opCoveObjectSet (p 0)) (withObjects [o] owned) = some o ∧ field (p 0) 16 1 = 0) :=
  ⟨⟨served_can (by decide +kernel), by decide +kernel, by decide +kernel⟩,
   served_can (by decide +kernel), by decide +kernel, by decide +kernel⟩

theorem witness_firmware_chunk :
    Served opFirmwareChunk (own opFirmwareChunk ([0, 0, 32, 0, 0, 2, 0, 0] ++ [1, 2])) owned ∧
    Served opFirmwareChunk (own opFirmwareChunk ([0, 0, 0, 0, 0, 1, 0, 0] ++ [1])) { owned with cfg := { owned.cfg with activeCopyB := true } } :=
  ⟨served_can (by decide +kernel), served_can (by decide +kernel)⟩

/-! ## Streams -/

/-- A stream's first bytes of a payload. -/
def idBytes (n : Nat) : Bytes := bytesBE 8 n

theorem witness_stream_open :
    Served opStreamOpen (ten opStreamOpen (settingsBlock plain)) (withStreams .stopped [stream 3 .ready]) :=
  served_canTen (by decide +kernel)

/-- A stream in READY with pending tokens. -/
def prompted : Stream := { stream 3 .ready with committed := [], tail := none, pending := List.replicate 65 1 }

/-- The same, sharing, and a state with the prefix of its first block. -/
def sharer : Stream :=
  { prompted with live := { plain with noShare := false }, shadow := { plain with noShare := false }, pending := List.replicate 65 1 }

/-- A prefix of a block of token 1 of the tenant. -/
def prefix1 (copying : Bool) (place : BitVec 8) : Prefix :=
  ⟨4, contentAddress 9 (List.replicate 65 1) 1, 1, 1, List.replicate 64 1, place, 0, copying, [], [], [], Change.zero⟩

theorem witness_generate_alone :
    let r := ten opStreamGenerate (idBytes 3 ++ bytesBE 4 65 ++ bytesBE 4 2097151)
    let s := withStreams .running [prompted]
    Served opStreamGenerate r s ∧ namedStream false r s = some prompted ∧ (enterPrefill prompted s).2 = none :=
  ⟨served_canTen (by decide +kernel), by decide +kernel, by decide +kernel⟩

/-- s with shared prefixes. -/
def shares (s : State) (ps : List Prefix) : State := { s with str := { s.str with prefixes := ps } }

theorem witness_generate_shared :
    let r := ten opStreamGenerate (idBytes 3 ++ bytesBE 4 65 ++ bytesBE 4 0)
    let s := shares (withStreams .running [sharer]) [prefix1 false 0]
    Served opStreamGenerate r s ∧ namedStream false r s = some sharer ∧ (enterPrefill sharer s).2 = some 4 :=
  ⟨served_canTen (by decide +kernel), by decide +kernel, by decide +kernel⟩

theorem witness_stop_park_close :
    let s := withStreams .running [stream 3 .decode]
    let o := [0, 1, 0, 0, 0, 0, 0, 0] ++ idBytes 3
    Served (stopOp false) (ten (stopOp false) (idBytes 3)) s ∧ Served (stopOp true) (own (stopOp true) o) s ∧
    Served (parkOp false) (ten (parkOp false) (idBytes 3)) s ∧ Served (parkOp true) (own (parkOp true) o) s ∧
    (Served (closeOp false) (ten (closeOp false) (idBytes 3)) s ∧
      namedStream false (ten (closeOp false) (idBytes 3)) s = some (stream 3 .decode)) ∧
    (Served (closeOp true) (own (closeOp true) o) s ∧ namedStream true (own (closeOp true) o) s = some (stream 3 .decode)) :=
  ⟨served_canTen (by decide +kernel), served_can (by decide +kernel), served_canTen (by decide +kernel),
   served_can (by decide +kernel), ⟨served_canTen (by decide +kernel), by decide +kernel⟩,
   served_can (by decide +kernel), by decide +kernel⟩

/-- A parked stream and the state that holds it with its object. -/
def parked : Stream := { stream 3 .parked with resumeTo := some .decode, parkObject := some 7 }

def withParked : State :=
  { withObjects [object 7 (.stream parked) 9] (loaded .stopped 3) with str := { Streams.reset with parked := [parked] } }

theorem witness_close_parked :
    let o := [0, 1, 0, 0, 0, 0, 0, 0] ++ idBytes 3
    (Served (closeOp false) (ten (closeOp false) (idBytes 3)) withParked ∧
      namedStream false (ten (closeOp false) (idBytes 3)) withParked = some parked) ∧
    (Served (closeOp true) (own (closeOp true) o) withParked ∧
      namedStream true (own (closeOp true) o) withParked = some parked) ∧ parked.state = .parked :=
  ⟨⟨served_canTen (by decide +kernel), by decide +kernel⟩, ⟨served_can (by decide +kernel), by decide +kernel⟩, rfl⟩

theorem witness_resume :
    let t := { stream 3 .parking with resumeTo := some .decode }
    let r := ten opStreamResume (idBytes 3)
    (Served opStreamResume r (withStreams .running [t]) ∧ namedStream false r (withStreams .running [t]) = some t ∧
      t.state = .parking) ∧
    (Served opStreamResume r withParked ∧ namedStream false r withParked = some parked) :=
  ⟨⟨served_canTen (by decide +kernel), by decide +kernel, rfl⟩, served_canTen (by decide +kernel), by decide +kernel⟩

theorem witness_settings :
    let p (mask : Nat) := idBytes 3 ++ bytesBE 4 mask ++ bytesBE 4 0 ++ settingsBlock plain
    let o := [0, 1, 0, 0, 0, 0, 0, 0]
    let s := withStreams .running [stream 3 .paused]
    (Served (setOp false) (ten (setOp false) (p 1023)) s ∧ namedStream false (ten (setOp false) (p 1023)) s = some (stream 3 .paused)) ∧
    (Served (setOp true) (own (setOp true) (o ++ p 1)) s ∧ namedStream true (own (setOp true) (o ++ p 1)) s = some (stream 3 .paused)) ∧
    (Served (setOp false) (ten (setOp false) (p 4)) withParked ∧ namedStream false (ten (setOp false) (p 4)) withParked = some parked) ∧
    (Served (setOp true) (own (setOp true) (o ++ p 4)) withParked ∧ namedStream true (own (setOp true) (o ++ p 4)) withParked = some parked) :=
  ⟨⟨served_canTen (by decide +kernel), by decide +kernel⟩, ⟨served_can (by decide +kernel), by decide +kernel⟩,
   ⟨served_canTen (by decide +kernel), by decide +kernel⟩, served_can (by decide +kernel), by decide +kernel⟩

/-- A stream with a committed block. -/
def blocked : Stream :=
  { stream 3 .decode with committed := List.replicate 65 1, live := { plain with noShare := false },
                          shadow := { plain with noShare := false } }

theorem witness_prefix_publish :
    let s := shares (withStreams .running [blocked]) []
    let r := ten opPrefixPublish (idBytes 3 ++ bytesBE 4 64 ++ bytesBE 4 0)
    Served opPrefixPublish r s ∧ namedStream false r s = some blocked ∧
    (taken r s).str.prefixes.find? (fun p => p.publisher = blocked.mailbox && p.address = contentAddress blocked.digest blocked.committed 1) = none :=
  ⟨served_canTen (by decide +kernel), by decide +kernel, rfl⟩

theorem witness_prefix_drop :
    let s := shares (withStreams .running []) [prefix1 false 0]
    Served opPrefixDrop (own opPrefixDrop [0, 4, 0, 0]) s ∧ Served opPrefixDrop (ten opPrefixDrop [0, 4, 0, 0]) s :=
  ⟨served_can (by decide +kernel), served_canTen (by decide +kernel)⟩

/-! ## Words -/

/-- The payload of a word write. -/
def wordWrite (n i mask bytes value : Nat) : Bytes := bytesBE 2 n ++ bytesBE 2 i ++ bytesBE 4 mask ++ bytesBE bytes value

theorem witness_word_writes :
    Served opThermalPolicySet (own opThermalPolicySet (wordWrite 6 0xFFFF 1 1 0)) owned ∧
    Served opFaultPolicySet (own opFaultPolicySet (wordWrite 9 0 1 4 4096)) owned ∧
    Served opTelemetrySelect (own opTelemetrySelect (wordWrite 13 0 1 8 0)) owned ∧
    Served opPowerPolicySet (own opPowerPolicySet (wordWrite 14 0 1 4 (200 * 2 ^ 24))) owned ∧
    Served opNoticeConfigSet (own opNoticeConfigSet (wordWrite 12 0 2 32 (15 * 2 ^ 124))) owned :=
  ⟨served_can (by decide +kernel), served_can (by decide +kernel), served_can (by decide +kernel), served_can (by decide +kernel),
   served_can (by decide +kernel)⟩

theorem witness_word_fields :
    ((6 = 6 → 95 < 96 ∧ (0xFFFF = 95 ∨ 0xFFFF = 0xFFFF)) ∧ selected 1 (wordFields 6) ≠ [] ∧ owned.cfg.words.w6.length = 96 ∧
      owned.live.w6.length = 96) ∧
    (0 < 96 ∧ selected 1 (wordFields 6) ≠ [] ∧ selected 3 (wordFields 14) ≠ [] ∧ selected 1 (wordFields 1) ≠ []) ∧
    maskKind 11 3 = 0 ∧ (wordFields 11)[0]?.map (·.latch) = some .q ∧ ((wordFields 4).any fun f => f.latch = .t) = true ∧
    ((wordFields 9).any fun f => f.latch = .e) = true ∧ ((wordFields 8).any fun f => f.latch = .t) = true := by decide +kernel

/-! ## Long operations -/

/-- s of which the hold-up check allows nothing: its bank is empty. -/
def flat (s : State) : State := { s with pow := { s.pow with bankCv := 0 } }

/-- A load input whose source returns no image. -/
def nothingRead : Option Image := none

/-- s with the queue pair 0 enabled. -/
def sourced (s : State) : State :=
  { s with cove := { s.cove with qps := s.cove.qps.set 0 { QueuePair.reset with record := BitVec.ofNat 512 (16 * 2 ^ 211 + 2 ^ 210)
                                                                                window := 16 } } }

theorem witness_long_operations :
    Served opImageUnload (own opImageUnload []) (loaded .stopped 3) ∧ Served opImageUnload (own opImageUnload []) (loaded .halted 3) ∧
    Served opModuleShutdown (own opModuleShutdown []) runs ∧
    (Served (opImageLoad nothingRead) (own (opImageLoad nothingRead) ([1, 0, 0, 0] ++ bytesBE 64 0)) (sourced owned) ∧
      newLoad nothingRead (own (opImageLoad nothingRead) ([1, 0, 0, 0] ++ bytesBE 64 0)) (sourced owned) = none) ∧
    Served (opImageLoad nothingRead) (own (opImageLoad nothingRead) ([0, 0, 0, 0] ++ bytesBE 64 8))
      (withObjects [object 7 (.image tiny) 8] owned) ∧
    (Served (opCoveStage nothingRead) (own (opCoveStage nothingRead) (bytesBE 4 0 ++ bytesBE 64 8))
      (withObjects [object 7 (.image tiny) 8] (sourced owned)) ∧
      (imageObject (stageDigest (own (opCoveStage nothingRead) (bytesBE 4 0 ++ bytesBE 64 8)))
        (withObjects [object 7 (.image tiny) 8] (sourced owned))).isSome) :=
  ⟨served_can (by decide +kernel), served_can (by decide +kernel), served_can (by decide +kernel),
   ⟨served_can (by decide +kernel), by decide +kernel⟩, served_can (by decide +kernel), served_can (by decide +kernel),
   by decide +kernel⟩

theorem witness_port_config :
    let p := wordWrite 11 0 1 64 (2 ^ 511)
    (Served opPortConfigSet (own opPortConfigSet p) owned ∧ configWriteAllowed owned = true) ∧
    (Served opPortConfigSet (own opPortConfigSet p) (flat owned) ∧ configWriteAllowed (flat owned) = false) :=
  ⟨⟨served_can (by decide +kernel), by decide +kernel⟩, served_can (by decide +kernel), by decide +kernel⟩

theorem witness_port_revert :
    let s : State := { owned with eth := { owned.eth with revert := some 0 } }
    (s.awake = true ∧ s.eth.revert = some 0 ∧ s.eth.portWrite = none ∧ (∀ o ∈ s.mbox.outstanding, o.opcode ≠ 0x0605)
      ∧ configWriteAllowed s = true) ∧ (flat s).awake = true ∧ (flat s).eth.revert = some 0 ∧ configWriteAllowed (flat s) = false := by
  decide +kernel

/-! ## Presence -/

/-- A prefix list that lists one prefix. -/
def onePrefix : Bytes := bytesBE 32 (2 ^ 120) ++ List.replicate 224 0

/-- A payload that enrols an image key: an odd modulus with its high bit set, exponent 3. -/
def keyPayload : Bytes := bytesBE 16 9 ++ bytesBE 4 3 ++ [0x80] ++ List.replicate 510 0 ++ [1]

/-- s with the image key 9. -/
def keyed : State := { owned with cfg := { owned.cfg with imageKeys := [⟨9, 3, 1⟩] } }

theorem witness_presence :
    (∀ x ∈ [(ownerTransfer.op (some 1), List.replicate 512 0 ++ onePrefix), (ownerRelease.op none, []),
      (tenantEnrol.op (some 1), [1, 0, 0, 0] ++ List.replicate 512 0 ++ onePrefix), (tenantRemove.op none, [0, 1, 0, 0]),
      (coveErase.op none, []), (imageKeyEnrol.op none, keyPayload), (policySet.op none, wordWrite 5 0 1 4 1)],
      Served x.1 (own x.1 x.2) owned) ∧
    Served (imageKeyRemove.op none) (own (imageKeyRemove.op none) (bytesBE 16 9)) keyed :=
  ⟨served_cans (by decide +kernel), served_can (by decide +kernel)⟩

/-- An OWNER_CLAIM of an unclaimed module, its tag zero (R389). -/
def claim : Request := req 0 (List.replicate 512 0 ++ onePrefix)

theorem witness_owner_claim : Served (ownerClaim.op (some 1)) claim work :=
  ⟨by decide +kernel, by decide +kernel, ⟨by decide +kernel, by decide +kernel, by decide +kernel⟩, by decide +kernel⟩

/-- Modulus of a 4,096-bit key made for these tests, and its signature of the header below. -/
def rsaModulus : Nat := 0xb0931fe7e52d07e14daf1be3f63922d0a94e3c1b1ba39d65394e2f7f616978380341191e7145070d0d24a518aeadab9295b676a083f31e73f906d4c95fd2ed7fbe2ee345c7d57137ac7566fd3d5b96e52fb44d7235a46f819f2e36fd1f9b3da5d90e50bafd478043844f1b97efb678137c408f42dc110004fd2e7aea51d976662e04f7023512a1de205a584bc99dd6fb5adab92d49b64be5a20f1cf5175303cd3bd0c36d4b272ade669dd034dbc7de9cfb3a598ced093eb803a0117e26a07610007c2fbf874ecac145d1768ac1691441805a2a542390a973e30b7fbfa4a092f64f43ac265b35cf4660449d1efd5a5d0bdc245aed603dbff9500187a8a879e50187f90e426fc0619d94a13203e5262f531721d3abf9de0e273d5de13506baf2aa2ed0aa1dcbacca1b93079aea1ce14ba6b06f2f740587558ee15aa6fca4826b58dbf185c39b6036e8531ce5cf4f079b2631a0e116d9a93403fc724848273b19d4d524cda6bc7cf2adae2bd9052f4f2e186382f3b25d73f15d9aae8e8d5b61055c881b975dc7d42de2338809cc34407b725d623fe8b30a5075490a5a86fb8cb3a01c1d69073af851d24de5113f2215b835c4b1a66043dc877a2707ce148b5de9b0c1b54b6b4c701144d7a758d2853c954835eb91bf6a527a0d7004d69431d585024eaf23317573f64a9b2eec93de427a8280695fecc460da3c7bc838df868015df
def headerSignature : Nat := 0x1fcfce8cb489502c3f63f9c8b9d472ed3ae31b4df9047915d58f63e4c9b793b90439983113e667b63717e19bcb67657d4bf54a7e0f4fafc88573773e34f9752f0b7f137a89ca7004d5fef2288f235d2eba52177b7514be46715a35c832a83afcbf678649de54a80f476f74191aec53fcaeed25482486f9c3ff1ac117b3a4e6ef62117bda307c6fec3c0774cc1460336fcac8f81252c8375d82ba38ff890606d5d25950cd9c0336945f292920a8e1659cd0f5dbb9f58fcdd732282f6608b05b5db06323f374bc626a8ee7f3d088cb9e53896203e2aeef64a2822563b5447a063af78c56d42e8c0f509c266c9ce64c5ea7056acb38387edf3793b803ab022a4724edc2e52660453bd0a09b1efa9ae2af31b4b271eee1fb7bfa39494e7539bd5b40d32ec7c58fa0606c904d73f4ce6780416e23fe517320cf0b80753b708375e45520d167a3cef7de2332dd168c8613df19ac576f83d16b8619bb92c85b1b35e2f8c3d228e53221b561b61825b4c166ebe70485ce7c0915c0976552d4f495ef4eaafc16b510d36a11737f4760c54af4b61d6f99269993662017d260745fb1670290aeacf5a81a5b3b4f93ab3e1c08abd321852323dc41dc459c745d3c809bf53bf88ba2be76b19600f23e0287af0a9a4588298713a904471a4429f93a14f1076e02d1961ebc1100f51a12178ac4cf0d532e4f5e4932ef29c2cd886b305ecc3ccab8

/-- Header of a Welent copy 2.0.0 without a body, signed by that key (R385). -/
def signedHeader : Bytes :=
  [0x57, 0x4C, 0x46, 0x57, 0, 0, 0, 0, 2] ++ List.replicate 15 0 ++ sha512 [] ++ bytesLE 512 rsaModulus
    ++ bytesBE 512 headerSignature ++ List.replicate 936 0

/-- The owner's module with that copy staged, and the key known to the boot ROM. -/
def firmwareStaged : State :=
  { owned with ident := { owned.ident with bootKeys := [digestOf (bytesLE 512 rsaModulus)] }
               flash := { owned.flash with firmwareB := ⟨FirmwareCopy.blank.head, [(0, signedHeader)], 2048⟩ } }

/-- A FIRMWARE_ACTIVATE of it. -/
def activation : Bytes := bytesBE 4 2048 ++ bytesBE 4 0 ++ sha512 signedHeader

theorem test_signed_copy_verifies : firmwareValid true firmwareStaged.flash.firmwareB firmwareStaged = true := by decide +kernel

theorem witness_firmware_activate :
    Served (firmwareActivate.op none) (own (firmwareActivate.op none) activation) firmwareStaged := served_can (by decide +kernel)

/-- The claim as it waits for its press, its code 0x5A. -/
def waitingClaim (written : Bool) (press : Option PtpTime) : PresenceCmd := ⟨claim, 0x0103, some 1, 0x5A, written, press⟩

/-- The module with it. -/
def claimWaits (written : Bool) (press : Option PtpTime) : State :=
  { work with pres := ⟨some (waitingClaim written press), .presenceCycle, 5⟩ }

theorem witness_presence_op : (claimWaits true none).pres.cmd = some (waitingClaim true none) ∧
    presenceOp (waitingClaim true none).opcode = some ownerClaim := ⟨rfl, rfl⟩

theorem witness_presence_steps :
    (claimWaits false none).awake = true ∧
    (claimWaits false none).ident.standingPresence = false ∧ configWriteAllowed (claimWaits false none) = true ∧
    (100 ≤ 100 ∧ 100 < 5000 ∧ 4999 < 5000) ∧
    nanos (BitVec.ofNat 96 (30 * 2 ^ 48)) ≤ nanos claim.stamp.time + 30 * 10 ^ 9 ∧
    configWriteAllowed (claimWaits true none) = true ∧
    pressChecks ownerClaim { waitingClaim true none with press := some 0 }
      { claimWaits true none with pres := { (claimWaits true none).pres with cmd := none } } = Status.ok := by decide +kernel

/-! ## The stream port -/

/-- A PROMPT of the tenant for stream 3 with tokens. -/
def prompt (first : BitVec 32) (ts : List (BitVec 32)) (time : PtpTime) : Frame :=
  ⟨⟨0, 0⟩, 0, ⟨0, time⟩, 0x46525346, 1, 0, 0, 1, BitVec.ofNat 16 ts.length, first, 3, 0, 0, ts.flatMap fun x => bytesBE 4 x.toNat, []⟩

/-- A host's NAK for stream 3. -/
def nak (first : BitVec 32) (n : BitVec 32) : Frame := ⟨⟨0, 0⟩, 0, ⟨0, 0⟩, 0x46525346, 1, 0, 0, 1, 0, first, 3, n, 0, [], []⟩

/-- Streams that a PROMPT finds: in READY with two tokens, in DECODE, with the context all but full, and one that was just refused. -/
def readyStream : Stream := stream 3 .ready
def fullStream : Stream := { stream 3 .ready with committed := List.replicate 998 1 }
def refused : Stream := { stream 3 .ready with nakAt := BitVec.ofNat 96 (2 ^ 48) }

theorem passes {kind : Nat} {f : Frame} {t : Stream} {s : State} (h : framePassable ok1 kind f s = true)
    (ht : findStream f.mailbox.toNat f.streamId.toNat (received s) = some t) : FramePasses kind (signedFrame ok1 kind f) t s :=
  framePasses_signed h ht

theorem witness_prompt_frames :
    (∀ f ∈ [prompt 2 [1, 2] 0, prompt 0 [1, 2] 0, prompt 1 [1, 2] 0, prompt 3 [1] 0, prompt 2 [0] 0, prompt 2 [4] 0, prompt 2 [3] 0],
      FramePasses 1 (signedFrame ok1 1 f) readyStream (withStreams .running [readyStream])) ∧
    FramePasses 1 (signedFrame ok1 1 (prompt 2 [1] 0)) (stream 3 .decode) (withStreams .running [stream 3 .decode]) ∧
    FramePasses 1 (signedFrame ok1 1 (prompt 999 [1] 0)) fullStream (withStreams .running [fullStream]) ∧
    FramePasses 1 (signedFrame ok1 1 (prompt 999 [1, 1] 0)) fullStream (withStreams .running [fullStream]) ∧
    FramePasses 1 (signedFrame ok1 1 (prompt 2 [1] (BitVec.ofNat 96 (2 ^ 48 + 999999 * 2 ^ 16)))) refused (withStreams .running [refused]) := by
  refine ⟨?_, passes (by decide +kernel) (by decide +kernel), passes (by decide +kernel) (by decide +kernel),
    passes (by decide +kernel) (by decide +kernel), passes (by decide +kernel) (by decide +kernel)⟩
  intro f hf
  simp only [List.mem_cons, List.not_mem_nil, or_false] at hf
  rcases hf with rfl | rfl | rfl | rfl | rfl | rfl | rfl <;> exact passes (by decide +kernel) (by decide +kernel)

/-- The clauses of R354 meet: a duplicate up to the end of the history, an overlap, a gap, the limit, the vocabulary. -/
theorem witness_prompt_clauses :
    let u := received (withStreams .running [readyStream])
    historyLength readyStream = 2 ∧ contextLimit u = 1000 ∧ vocabSize u = 4 ∧
    (0 + 2 ≤ 2) ∧ (1 < 2 ∧ 2 < 1 + 2) ∧ 2 < 3 ∧ historyLength fullStream = 999 ∧ 1000 < 999 + 2 ∧ 999 + 1 ≤ 1000 ∧
    promptTokens (prompt 2 [4] 0) = [4] ∧ vocabSize u ≤ (4#32).toNat ∧ promptTokens (prompt 2 [3] 0) = [3] ∧ (3#32).toNat < vocabSize u ∧
    nakTooSoon refused (BitVec.ofNat 96 (2 ^ 48 + 999999 * 2 ^ 16)) = true ∧ nakTooSoon readyStream 0 = false := by decide +kernel

/-- A stream that keeps an emitted entry at position 2, and one that is parked. -/
def kept : Stream := { stream 3 .ready with kept := [⟨2, 2, 0, 0⟩], committed := [1, 1] }

theorem witness_host_nak :
    (∀ f ∈ [nak 2 1, nak 1 2, nak 2 65536], FramePasses 3 (signedFrame ok1 3 f) kept (withStreams .running [kept])) ∧
    (FramePasses 3 (signedFrame ok1 3 (nak 0 1)) parked withParked ∧ liveRecord 1 3 withParked = none) ∧
    liveRecord 1 3 (withStreams .running [kept]) = some 0 ∧
    (1 < 2 ∧ 1 < min (1 + 2) (emittedEnd kept (withStreams .running [kept]))) := by
  refine ⟨?_, ⟨passes (by decide +kernel) (by decide +kernel), by decide +kernel⟩, by decide +kernel, by decide +kernel⟩
  intro f hf
  simp only [List.mem_cons, List.not_mem_nil, or_false] at hf
  rcases hf with rfl | rfl | rfl <;> exact passes (by decide +kernel) (by decide +kernel)

theorem witness_emission :
    let s := withStreams .running [readyStream]
    let s : State := { s with str := { s.str with emit := [(0, [⟨2, 2, 0, 0⟩])], repeats := [.delayReq] } }
    s.awake = true ∧ s.str.emit.find? (fun p => p.1 = 0) = some (0, [⟨2, 2, 0, 0⟩]) ∧ liveAt 0 s = some readyStream ∧
      s.str.repeats = .delayReq :: [] := by decide +kernel

/-! ## The port -/

/-- The module with its port down, or its PTP clock in a state under master 8. -/
def portDown : State := { work with eth := { work.eth with link := 0, pmd := 0 } }
def clock (st : PtpState) (good : Nat) : State :=
  { work with eth := { work.eth with ptp := { Ptp.reset with state := st, master := some 8, goodSyncs := good, delayAsked := true } } }

theorem witness_port_link :
    portDown.awake = true ∧ portDown.eth.link ≠ 2 ∧ (0#8).toNat ≤ 5 ∧ (5#8).toNat ≤ 5 ∧ (1#8 ≠ 0 ∧ 1#8 ≠ 5 ∧ 20 ≤ 20 ∧ 20 < 21) ∧
    work.eth.link = 2 ∧ work.awake = true ∧ work.eth.pmd ≠ 0 := by decide +kernel

/-- A frame to the module's mailbox port, untagged, on priority 0. -/
def netFrame : PortFrame := ⟨true, 9216, .unicast 1, [], 0, .ip false false (.udp 52100)⟩

theorem witness_port_filter :
    let s : State := { work with ident := { work.ident with macAddress := 1 } }
    let t : State := { s with live := { s.live with w11 := setBits s.live.w11 177 166 4094 } }
    s.awake = true ∧ s.eth.link = 2 ∧ t.awake = true ∧ t.eth.link = 2 ∧ netFrame.fcsGood = true ∧ netFrame.bytes ≤ 9216 ∧ 9216 < 9217 ∧
    frameDropped netFrame s = none ∧ frameDropped { netFrame with bytes := 9217 } s = some true ∧
    frameDropped netFrame t = some false ∧ frameDropped { netFrame with tags := [4094] } t = none ∧
    (∀ f ∈ [{ netFrame with tags := [0, 0] }, { netFrame with tags := [4094] }, { netFrame with dest := .unicast 2 },
        { netFrame with dest := .otherGroup }, { netFrame with body := .pause }, { netFrame with body := .ip false false .tcp },
        { netFrame with body := .ip true false (.udp 52100) }, { netFrame with body := .ip false true (.udp 52100) },
        { netFrame with body := .ip false false (.udp 4791) }], frameDropped f s = some false) := by decide +kernel

theorem witness_port_pauses :
    let s : State := { work with live := { work.live with w11 := BitVec.ofNat 512 (255 * 2 ^ 96) } }
    let t : State := { s with eth := { s.eth with pauseSent := [7] } }
    s.awake = true ∧ s.eth.link = 2 ∧ bit s.live.w11 (96 + 7) = true ∧ 7 < 8 ∧ 7 ∉ s.eth.pauseSent ∧ 6291456 < 6291457 ∧
    7 ∈ t.eth.pauseSent ∧ 4194303 < 4194304 ∧ t.awake = true ∧ t.eth.link = 2 ∧ 4194304 ≤ 6291456 := by decide +kernel

theorem witness_neighbours :
    let a : BitVec 128 := BitVec.ofNat 128 (0xFFFF * 2 ^ 32 + 1)
    let s : State := { work with live := { work.live with w11 := BitVec.ofNat 512 (2 ^ 216 + 24 * 2 ^ 210) }
                                 ident := { work.ident with macAddress := 1 } }
    s.awake = true ∧ s.eth.link = 2 ∧ usedAddress 4 a (received s) = true ∧ (ownAddress 4 a (received s)).isSome ∧
    usedAddress 4 2 (received s) = false ∧ ownAddress 4 2 (received s) = none ∧ 1500 ≤ 1500 ∧ 1500 < 1501 ∧
    3 < s.eth.replies.length ∧ (∀ y ∈ s.eth.replies, y.2 ≤ 100) ∧
    nth ({ s with eth := { s.eth with replies := [(0, 100), (0, 0), (0, 0), (0, 0)] } } : State).eth.replies 0 (0, 0) = (seconds s.now, 100) := by
  decide +kernel

theorem witness_ptp :
    (∀ s ∈ [clock .unlocked 0, clock .locking 14, clock .locking 15, clock .locked 0, clock .holdover 0],
      s.awake = true ∧ s.eth.link = 2 ∧ s.eth.ptp.master = some 8 ∧ s.eth.ptp.delayAsked = true) ∧
    ((99 : Int).natAbs < 100 ∧ 100 ≤ (-100 : Int).natAbs ∧ (999999 : Int).natAbs < 1000000 ∧ 1000000 ≤ (-1000000 : Int).natAbs) ∧
    lexLess (rankList (0, 6, 0, 0, 0, 5, 0)) (rankList work.eth.ptp.masterRank) = true ∧ work.eth.ptp.master = none := by
  decide +kernel

/-! ## Loading -/

/-- The load of the tiny image at its step 6. -/
def load6 (payload : Bool) (landed : List Nat) : Load := ⟨tiny, 9, false, false, [5], defaultTree, landed, [], payload, none⟩

/-- The module with it. -/
def loading (payload : Bool) (landed : List Nat) : State :=
  { owned with img := { Img.reset with load := some (load6 payload landed) }
               tide := { Tide.reset with dp := if payload then .loading else .stopped } }

theorem witness_loading :
    (Machine.quarantined 9 owned = false ∧ payloadReady (loading false []) = true ∧ (loading false []).img.load = some (load6 false [])) ∧
    ((loading true []).awake = true ∧ (loading true []).img.load = some (load6 true []) ∧ (load6 true []).payload = true ∧
      0 < (load6 true []).image.shards.length ∧ 0 ∉ (load6 true []).landed ∧
      (List.replicate 512 (0 : Byte)).length = Shard.length (nth tiny.shards 0 0)) ∧
    rangeFailures tiny 0 (List.replicate 512 0) [] [] ≠ [] ∧
    ((loading true [0]).awake = true ∧ (∀ n < (load6 true [0]).image.shards.length, n ∈ (load6 true [0]).landed) ∧
      (loading true [0]).img.unloading = false ∧ (loading true [0]).mbox.shutdown = .no) := by decide +kernel

/-- A queue pair in service, with retries, while a staging's pull runs. -/
def pulling (retries : Nat) : State :=
  let s := sourced owned
  { s with cove := { s.cove with qps := s.cove.qps.modify 0 fun q => { q with retries := retries } }
           img := { s.img with staging := some ⟨tiny, 9, 0, false⟩ } }

theorem witness_reads :
    owned.awake = true ∧ qpEnabled 0 owned = false ∧
    (pulling 6).awake = true ∧ qpEnabled 0 (pulling 6) = true ∧ pullRuns (pulling 6) = true ∧
    (nth (pulling 6).cove.qps 0 QueuePair.reset).retries < 7 ∧ qpEnabled 0 (pulling 7) = true ∧ pullRuns (pulling 7) = true ∧
    7 ≤ (nth (pulling 7).cove.qps 0 QueuePair.reset).retries ∧ (∀ m < 64, m ≠ 0 → qpEnabled m (pulling 7) = false) := by decide +kernel

/-! ## The cove -/

/-- An object in creation: an extent write started, durable or not. -/
def creating (d : CoveData) (dig : Digest) (durable : Bool) : CoveObject :=
  { object 7 d dig with committed := false, writes := [⟨0, 0, true, durable⟩] }

/-- A hold-up stage of a state. -/
def holdup (s : State) : State := { s with pow := { s.pow with stage := .holdup } }

theorem witness_extent :
    let o := creating (.image tiny) 9 false
    let s := withObjects [o] owned
    findObject 7 s = some o ∧ o.writes.find? (fun y => y.index = 0) = some ⟨0, 0, true, false⟩ ∧ s.awake = true ∧
      (holdup s).pow.stage = .holdup ∧ findObject 7 (holdup s) = some o := by decide +kernel

/-- A staging of the tiny image under a digest, all durable. -/
def staged (d : Digest) : State :=
  let s := withObjects [creating (.image tiny) d true] owned
  { s with img := { s.img with staging := some ⟨tiny, d, 60, false⟩ } }

theorem witness_stage_commit :
    ((staged 9).awake = true ∧ (staged 9).cove.objects.find? (fun x => !x.committed && x.kind = 1 && x.digest = 9)
        = some (creating (.image tiny) 9 true) ∧ allDurable (creating (.image tiny) 9 true) = true ∧
      holdupAllows (inFlightNs (staged 9)) (staged 9) = true ∧ tiny.computedDigest ≠ 9) ∧
    (staged tiny.computedDigest).cove.objects.find? (fun x => !x.committed && x.kind = 1 && x.digest = tiny.computedDigest)
        = some (creating (.image tiny) tiny.computedDigest true) ∧
      holdupAllows (inFlightNs (staged tiny.computedDigest)) (staged tiny.computedDigest) = true :=
  ⟨by decide +kernel, by decide +kernel, by decide +kernel⟩

theorem witness_durability :
    let s : State := { owned with flash := { owned.flash with dirty := true } }
    s.awake = true ∧ s.flash.dirty = true ∧ configWriteAllowed s = true ∧ s.pres.cmd = none ∧ s.img.load = none ∧
      s.img.unloading = false ∧ s.mbox.shutdown = .no := by decide +kernel

/-- An object of two extents, the second short. -/
def wide2 : CoveObject := { object 7 (.image tiny) 9 with extents := 2, bytes := 268435456 + 4194305, startStack := 7 }

theorem witness_cove_reads :
    let s (n : Nat) : State :=
      { withObjects [wide2] owned with cove := { (withObjects [wide2] owned).cove with rereads := List.replicate n (7, 1, 1) } }
    (s 1).awake = true ∧ (s 1).cove.mounted = true ∧ findObject 7 (s 1) = some wide2 ∧ wide2.committed = true ∧ wide2.keyAlive = true ∧
      1 < wide2.extents ∧ 1 < 64 ∧ 1 * 4194304 < extentLength wide2 1 ∧ (s 1).cove.rereads.count (7, 1, 1) < 2 ∧ 2 ≤ (s 2).cove.rereads.count (7, 1, 1) ∧
      wide2.kind = 1 ∧ 7 < 8 ∧ holdupAllows (inFlightNs (s 0)) (s 0) = true ∧
      ({ s 0 with eth := { (s 0).eth with ptp := { Ptp.reset with valid := true } } } : State).eth.ptp.valid = true := by decide +kernel

/-- A stream in PARKING with its object durable. -/
def parking (close : Option (BitVec 5)) : Stream := { stream 3 .parking with parkObject := some 7, event := { close := close } }

theorem witness_park_commit :
    (∀ c ∈ [none, some 1], let s := withObjects [creating (.stream (parking c)) 9 true] (withStreams .running [parking c])
      s.awake = true ∧ liveAt 0 s = some (parking c) ∧ findObject 7 s = some (creating (.stream (parking c)) 9 true) ∧
      holdupAllows (inFlightNs s) s = true) ∧
    allDurable (creating (.stream (parking none)) 9 true) = true ∧ (parking none).event.cancelPark = false := by decide +kernel

theorem witness_resume_landed :
    let s := withStreams .stopped [stream 3 .resuming]
    s.awake = true ∧ liveAt 0 s = some (stream 3 .resuming) ∧ s.img.image = some tiny := by decide +kernel

/-- A prefix without a hash of its own. -/
def prefix0 (copying : Bool) (place : BitVec 8) : Prefix := ⟨4, 0, 1, 1, List.replicate 64 1, place, 0, copying, [], [], [], Change.zero⟩

theorem witness_prefix_events :
    (let s := shares (withStreams .running []) [prefix0 true 0]
     s.awake = true ∧ s.str.prefixes.find? (fun p => p.index = 4) = some (prefix0 true 0) ∧ s.img.image = some tiny ∧
       s.img.load = none ∧ s.img.unloading = false ∧ s.mbox.shutdown = .no ∧ (prefixPages tiny (prefix0 true 0) s).1.isSome) ∧
    (let t := { sharer with prefixIndex := some 4, waitPrefix := true }
     let s := shares (withStreams .running [t]) [prefix0 false 1]
     s.awake = true ∧ s.str.prefixes.find? (fun p => p.index = 4) = some (prefix0 false 1) ∧ (0, t) ∈ s.str.live ∧
       s.img.image = some tiny ∧ (prefixPages tiny (prefix0 false 1) s).1.isSome) := by decide +kernel

/-! ## Power and cooling -/

/-- A domain's sample and a window of telemetry for the whole module, every sensor at 60 degrees. -/
def window : WindowData :=
  ⟨BitVec.ofNat 96 (2 ^ 48), 5400, 100, 5000, 10000, List.replicate 196 ⟨100, 700, 690, 3, 0, true⟩, List.replicate 328 (some 6000)⟩

/-- Windows of input power before it, and the power controller's state. -/
def metered (k : BitVec 4) (below : Nat) (lastUp : Int) (ps : List Nat) : State :=
  { runs with pow := { runs.pow with kP := k, below := below, window := 9, lastUp := lastUp, powers := ps, vinCv := 5400 } }

theorem witness_power_control :
    (let s := metered 14 0 6 [6000, 6000, 6000]
     98 * effectiveCap (powerControl window s) < 25000 * (powerControl window s).pow.powers.sum ∧ s.pow.kP < 15 ∧
       4 ≤ ((s.pow.window + 1 : Nat) : Int) - s.pow.lastUp) ∧
    (let s := metered 1 15 6 [0, 0, 0]
     ¬98 * effectiveCap (powerControl window s) < 25000 * (powerControl window s).pow.powers.sum ∧
       25000 * (powerControl window s).pow.powers.sum < 90 * effectiveCap (powerControl window s) ∧ 16 ≤ s.pow.below + 1 ∧ 0 < s.pow.kP) ∧
    (let s := metered 1 14 6 [0, 0, 0]
     25000 * (powerControl window s).pow.powers.sum < 90 * effectiveCap (powerControl window s) ∧ s.pow.below + 1 < 16) ∧
    (let s := metered 1 14 7 [6000, 6000, 6000]
     90 * effectiveCap (powerControl window s) ≤ 25000 * (powerControl window s).pow.powers.sum ∧
       ¬4 ≤ ((s.pow.window + 1 : Nat) : Int) - s.pow.lastUp) := by decide +kernel

theorem witness_telemetry_window :
    runs.awake = true ∧ runs.tide.dp = .running ∧ window.domains.length = runs.pow.domains.length ∧
      window.sensors.length = runs.cool.sensors.length ∧ (runs.cool.sensors[327]?).isSome ∧ window.sensors[327]? = some (some 6000) ∧
      goodSample (runs.sensor 327) (some 6000) = some 6000 := by decide +kernel

theorem witness_thermal_stops :
    (let s := { loaded .halted 3 with tide := { (loaded .halted 3).tide with halt := .thermal } }
     s.awake = true ∧ s.tide.dp = .halted ∧ s.tide.halt = .thermal ∧ s.err.failed = [] ∧
       (s.cool.spots.all fun h => decide (h.model < thermalTarget s - 10)) = true) ∧
    (let s := { owned with cool := { owned.cool with sensors := owned.cool.sensors.modify 323 fun x => { x with state := 1 } } }
     s.awake = true ∧ s.tide.dp ≠ .running ∧ 323 < 324 ∧ 323 < s.cool.sensors.length ∧ (s.sensor 323).state = 1 ∧
       (s.sensor 327).state ≠ 1) ∧
    runs.tide.dp = .running ∧ (thermalStop 0 runs).tide.thermalStops < 3 ∧
    3 ≤ (thermalStop 0 { runs with tide := { runs.tide with thermalStops := 2 } }).tide.thermalStops := by decide +kernel

theorem witness_warnings_and_latches :
    (let s : State := { owned with pow := { owned.pow with vinCv := 5400 } }
     s.awake = true ∧ warningHolds 1 0 s = false ∧ 4 < convertersWorking ([0, 1, 2, 3, 4, 5, 6].foldl loseConverter s) ∧
       s.pow.stage = .ready ∧ 4 < convertersWorking s ∧
       convertersWorking ([0, 1, 2, 3, 4, 5, 6, 7].foldl loseConverter s) ≤ 4) ∧
    (191 < 192 ∧ (owned.domain 191).state = 0 ∧ 191 < owned.pow.domains.length) ∧
    (192 ≤ 192 ∧ 195 < 196 ∧ (owned.domain 195).state = 0 ∧ owned.pow.stage ≠ .holdup) := by decide +kernel

theorem witness_power_loss :
    (causeStands .enableHigh owned = true ∧ owned.cove.mounted = true ∧ owned.mbox.shutdown ≠ .complete ∧ owned.tide.dp ≠ .running ∧
      runs.tide.dp = .running ∧ (owned.domain 191).state = 0) ∧
    (let s : State := { owned with cove := { owned.cove with mounted := false } }
     s.awake = true ∧ causeStands .enableHigh s = true ∧ s.cove.mounted = false) ∧
    (holdup withParked).pow.stage = .holdup ∧ (object 7 (.stream parked) 9) ∈ (holdup withParked).cove.objects ∧
    owned.pow.lidOpen = false ∧ owned.awake = true ∧ configWriteAllowed owned = true ∧ (holdup owned).pow.lidOpen = false := by
  decide +kernel

/-- What power-up observes of a sound module. -/
def sound : PowerUpInput :=
  ⟨true, true, true, true, false, false, 0, [], [], List.replicate 80 0xFFFF, List.replicate 24 0, none⟩

theorem witness_power_up :
    State.reset.pow.stage = .dark ∧ sound.hiveLatched = none ∧ sound.pufOk = true ∧
    (bootChoice sound (bootConfig sound { loseVolatile State.reset with
      pow := { (loseVolatile State.reset).pow with enableHigh := false, insertOpen := false, pwrGood := true } })).isSome ∧
    sound.lidOpen = false ∧ State.reset.pow.lidOpen = false ∧
    ({ sound with pufOk := false } : PowerUpInput).pufOk = false ∧ ({ sound with hiveLatched := some 3 } : PowerUpInput).hiveLatched = some 3 := by
  decide +kernel

/-- The module between boot and ready point, its comb domains calibrated or not. -/
def booted (measured mounted calibrated : Bool) : State :=
  { owned with pow := { owned.pow with stage := .booted, measured := measured
                                       domains := List.replicate 196 { Domain.reset with state := if calibrated then 0 else 4 } }
               cove := { owned.cove with mounted := mounted } }

theorem witness_start_steps :
    (booted false false false).pow.stage = .booted ∧ (booted false false false).pow.measured = false ∧ 327 < 328 ∧
    200 * 119 < 24000 ∧ 24000 ≤ 200 * 120 ∧
    (booted true false false).pow.measured = true ∧ (booted true false false).cove.mounted = false ∧
    (let s := booted true true false
     s.ident.strapInstalled = false ∧ calibrated s = false ∧ s.combs.length = 96 ∧ s.pow.domains.length = 196 ∧
       s.cool.sensors.length = 328) ∧
    powerUpEnds (booted true true true) = true := by decide +kernel

/-! ## Failures and errors -/

/-- The image Halted with failures that wait for a remap. -/
def failing (fs : List Source) : State :=
  let s := loaded .halted 3
  { s with tide := { s.tide with halt := .remap }, err := { s.err with failed := fs } }

/-- No other comb is good. -/
def alone (s : State) : State := { s with combs := s.combs.zipIdx.map fun c => { c.1 with good := c.2 = 5 } }

theorem witness_failures :
    (runs.tide.dp ≠ .loading ∧ remapApplies runs = true ∧ needsRemap (.comb 5) runs = true ∧ needsRemap (.comb 6) runs = false) ∧
    (runs.awake = true ∧ 9 < 10 ∧ 9 ∉ runs.err.coresFailed) := by decide +kernel

theorem witness_remap :
    (let s := failing [.comb 5]
     s.awake = true ∧ s.img.image = some tiny ∧ s.tide.dp = .halted ∧ s.err.failed ≠ [] ∧ (retireFailed s).pow.stage ≠ .nothing ∧
       ((settleMapping tiny [] 97 (retireFailed s)).2.elim (fun r => decide (r.1 = [4])) fun _ => false) = true ∧
       (settleMapping tiny [] 97 (retireFailed s)).1.tide.halt = .remap) ∧
    (settleMapping tiny [] 97 (retireFailed (alone (failing [.comb 5])))).2.elim (fun _ => 1) (fun v => v) = 0 := by decide +kernel

/-- A violation of a tide whose entry waits. -/
def recorded (serial : BitVec 32) (tide : BitVec 64) : Repeat :=
  { serial := serial, tide := tide, digest := 9, place := [5], outputs := [], contributors := [0] }

/-- Entries in the repeat buffer. -/
def suspecting (es : List Repeat) : State := { runs with err := { runs.err with repeats := es } }

theorem witness_classify :
    (let s := suspecting [recorded 1 4, recorded 2 3]
     s.awake = true ∧ s.err.repeats[1]? = some (recorded 2 3) ∧ (∀ y ∈ s.err.repeats, (recorded 2 3).tide.toNat ≤ y.tide.toNat) ∧
       verdictOf (recorded 2 3) ⟨false, none, false, [], []⟩ s = .transient ∧
       verdictOf (recorded 2 3) ⟨false, none, true, [(0, false)], []⟩ s = .permanent 5 ∧
       verdictOf (recorded 2 3) ⟨true, none, true, [], []⟩ s = .unresolved ∧
       verdictOf (recorded 2 3) ⟨false, some ⟨6, 5, 0, 0, 0xFFFF, 0, 0, 0, 0⟩, true, [], []⟩ s = .unresolved) ∧
    (let s := { suspecting [recorded 2 3] with tide := { runs.tide with number := BitVec.ofNat 64 (4 * 2 ^ 20 + 3) } }
     s.awake = true ∧ s.err.repeats[0]? = some (recorded 2 3) ∧ (recorded 2 3).tide.toNat + 4 * 2 ^ 20 ≤ s.tide.number.toNat) := by
  decide +kernel

/-! ## The tide -/

/-- Running tide 3 with holds. -/
def held (hs : List Hold) : State := { runs with tide := { runs.tide with holds := hs } }

/-- A shelf row, an expert and a mend of comb 5 are awaited. -/
def lates : State := setComb 5 (fun c => { c with pending := [⟨7, [], 1, none⟩, ⟨8, [], 7, none⟩], mendQueue := [3] }) runs

theorem witness_holds :
    (lates.awake = true ∧ lateItem 1 (.channels 1 1) lates = true ∧ lateItem 2 (.channels 1 1) lates = false ∧
      lateItem 6 (.comb 5) lates = true ∧ lateItem 3 (.link 0) lates = false ∧ lateItem 7 (.coveStack 0) lates = true ∧
      counting lates = true ∧ ahead 64 lates = true ∧ ahead 1023 lates = true ∧ ahead 1024 lates = false ∧
      lates.tide.contractHolds = [] ∧ lates.tide.slack.length = 10) ∧
    (let h : Hold := ⟨1, .comb 5, none, 10, 10⟩
     (held [h]).tide.holds = [h] ∧ h.age ≤ 10 ∧ (∀ m ∈ holdLeft h, 10 - h.age < m) ∧ h.cause.toNat < 10 ∧
       (held [h]).tide.holds[0]? = some h ∧ (∃ n, holdTimeout h.cause.toNat = some n) ∧
       (∀ n, holdTimeout h.cause.toNat = some n → slackFits 0 (n - h.quiet) (held [h]) = true)) ∧
    (let h : Hold := ⟨8, .none, some 30, 10, 10⟩
     (held [h]).tide.holds[0]? = some h ∧ h.known = some 30 ∧ h.cause ≠ 9 ∧ slackFits 0 20 (held [h]) = true) ∧
    (∀ j, Source.comb 5 ≠ .coveStack j) := by
  refine ⟨by decide +kernel, ⟨rfl, by decide, by decide, by decide, rfl, ⟨_, rfl⟩, ?_⟩, by decide +kernel, by simp⟩
  intro n _
  simp [slackFits, held]

/-- Running at a tide number. -/
def at_ (n : BitVec 64) : State := loaded .running n

/-- Its first comb waits at the gate for a pending row. -/
def waits (s : State) : State := setComb 5 (fun c => { c with pending := [⟨7, [], 3, none⟩] }) s

/-- Boundaries of the slower classes are due. -/
def due (serving epoch step : Bool) : State :=
  { runs with tide := { runs.tide with servingDue := serving, epochDue := epoch, stepDue := step } }

/-- Its comb has reached END. -/
def crossing (s : State) : State := setComb 5 (fun c => { c with ended := true }) s

theorem witness_boundaries :
    (counting (waits (at_ 4)) = true ∧ (waits (at_ 4)).img.image = some tiny ∧ gatePasses tiny (waits (at_ 4)) = false) ∧
    (gatePasses tiny (crossing (at_ 3)) = true ∧ lastTide tiny (crossing (at_ 3)) = false ∧
      (crossing (at_ 3)).tide.contractHolds = [] ∧ gatePasses tiny (at_ 3) = false) ∧
    ((due true true false).awake = true ∧ (due true true false).tide.prologue = false ∧ (due true true false).tide.servingDue = true ∧
      (due false true false).tide.epochDue = true ∧ (due false true false).tide.servingDue = false) := by decide +kernel

/-- Stopped with a start committed. -/
def starts : State := { loaded .stopped 3 with tide := { (loaded .stopped 3).tide with startPending := true } }

/-- The prologue runs. -/
def fills : State := { runs with tide := { runs.tide with prologue := true } }

theorem witness_start :
    (starts.img.image = some tiny ∧ canStart starts = true ∧ prologueOps tiny (startBoundary starts) = []) ∧
    (fills.awake = true ∧ fills.tide.dp = .running ∧ fills.tide.prologue = true ∧ prologueComplete fills = true ∧
      fills.combs.length = 96 ∧ fills.tide.contractHolds = []) ∧
    ((waits fills).awake = true ∧ (waits fills).tide.dp = .running ∧ (waits fills).tide.prologue = true ∧
      undelivered [0, 3] = [(1, 3)] ∧ ∀ n < 24, nth [0, 3] n 0 ≠ (0 : BitVec 32) ↔ dieAwaits n (waits fills) = true) := by
  decide +kernel

theorem witness_schedule_fault :
    runs.tide.dp = .running ∧
    (let s := { loaded .halted 3 with tide := { (loaded .halted 3).tide with halt := .fault } }
     s.tide.dp = .halted ∧ s.tide.halt = .fault) := by decide +kernel

/-- An instruction of comb 5 at cycle 7, beside which comb 9 meets rule 2 at once and comb 8 rule 1 forty cycles later. -/
def beside : Issue := { comb := 5, pc := 0, cycle := 7, others := [⟨2, 9, 3, 7, 0xFFFF, 0, 0, 1, 0⟩, ⟨1, 8, 3, 47, 0xFFFF, 0, 0, 5, 0⟩] }

theorem witness_faults_beside :
    let f := { combSite beside 3 1 with rowAddress := 10240 }
    let t := stopWith beside runs (scheduleFault f runs)
    runs.tide.dp = .running ∧ f.rule < 256 ∧ f.die < 256 ∧ f.comb = some 5 ∧ (otherFaults beside).length = 2 ∧
      bits t.err.fault 358 351 = 2 ∧ bits t.err.fault 335 328 = 9 ∧ bits t.err.fault 239 224 = 2 := by decide +kernel

/-! ## The tide program -/

/-- Where an instruction of the comb issues. -/
def issue (c : BitVec 13) : Issue := { comb := 5, pc := 0, cycle := c }

/-- The comb of the tiny image with something changed. -/
def combed (f : Comb → Comb) : State := setComb 5 f runs

/-- A declaration of slots 3 and 4 for decode. -/
def two : SlotOp := ⟨3, 2, 1⟩

/-- A program word: class, issue_cycle, body (R130). -/
def word (cls c body : Nat) : BitVec 128 := BitVec.ofNat 128 (cls * 2 ^ 124 + c * 2 ^ 111 + body)

/-- Words of SLOT and ROW (R131). -/
def slotCode (c : Nat) (o : SlotOp) : BitVec 128 := word 8 c (o.first.toNat * 2 ^ 88 + o.count.toNat * 2 ^ 79 + o.cls.toNat * 2 ^ 77)
def rowCode (c : Nat) (o : RowOp) : BitVec 128 :=
  word 3 c (o.src.toNat * 2 ^ 74 + o.dst.toNat * 2 ^ 52 + o.count.toNat * 2 ^ 40 + o.mode.toNat * 2 ^ 38 + o.laneWidth.toNat * 2 ^ 36)

/-- Comb 5 stands at a program word, with operand descriptor 0. -/
def coded (w : BitVec 128) (d : BitVec 256) (s : State) : State :=
  let m : Memory := writeSlots (writeSlots [] 0 (wordsOf (bytesLE 16 w.toNat))) (descriptorSlot 0) (wordsOf (bytesLE 32 d.toNat))
  setComb 5 (fun c => { c with code := m }) s

theorem witness_issue :
    (∀ x ∈ [(0, true), (1023, true), (1024, false)],
      canIssue (issue (BitVec.ofNat 13 x.1)) .wait (coded (word 0 x.1 0) 0 runs) = x.2 ∧
      canIssue (issue (BitVec.ofNat 13 x.1)) .done (coded (word 15 x.1 0) 0 runs) = x.2 ∧
      canIssue (issue (BitVec.ofNat 13 x.1)) .fbwin (coded (word 7 x.1 0) 0 runs) = x.2 ∧
      canIssue (issue (BitVec.ofNat 13 x.1)) (.slot two) (coded (slotCode x.1 two) 0 runs) = x.2) ∧
    (∀ k < two.count.toNat, slotClash two (two.first.toNat + k) runs = false) ∧ 5 < runs.combs.length := by decide +kernel

/-- A slot table whose slot 4 a stream in decode holds. -/
def slotted : State :=
  let s := withStreams .running [stream 3 .decode]
  { s with str := { s.str with slots := (List.replicate 256 none).set 4 (some (0, 0)) } }

theorem witness_slot_clash :
    canIssue (issue 0) (.slot { two with cls := 1 }) (coded (slotCode 0 { two with cls := 1 }) 0 slotted) = true ∧ (1 < two.count.toNat ∧ slotClash { two with cls := 1 } (two.first.toNat + 1) slotted = true ∧
      (∀ j < 1, slotClash { two with cls := 1 } (two.first.toNat + j) slotted = false)) := by decide +kernel

/-- Row moves of two rows: into rows 200 on, and past the end of the scratchpad. -/
def move (dst : BitVec 22) : RowOp := ⟨100, dst, 2, 1, 2⟩

/-- Comb 5 stands at a ROW. -/
def rowing (o : RowOp) (c : Nat) (s : State) : State := coded (rowCode c o) 0 s

/-- What a ROW finds wrong, by rule. -/
def wrong (o : RowOp) (s : State) : List Nat := (rowOpFaults (issue 7) o s).map (·.rule)

theorem witness_row :
    (∀ o ∈ [move 200, move 2621439], canIssue (issue 7) (.row o) (rowing o 7 runs) = true ∧
      rowsReady 5 (rowInputs o) (rowing o 7 runs) = true) ∧
    wrong (move 200) (issued (issue 7) (.row (move 200)) (rowing (move 200) 7 runs)) = [] ∧
    wrong (move 2621439) (issued (issue 7) (.row (move 2621439)) (rowing (move 2621439) 7 runs)) = [3] ∧ (issue 7).parity = [] ∧
    (∀ r, ((rowing (move 200) 7 runs).comb 5).mends.count r < 2) ∧ 5 < (rowing (move 200) 7 runs).combs.length := by
  refine ⟨by decide +kernel, by decide +kernel, by decide +kernel, rfl, fun r => ?_, by decide +kernel⟩
  have h : ((rowing (move 200) 7 runs).comb 5).mends = [] := by decide +kernel
  rw [h]
  simp

/-- Comb 5 with one slot-indexed descriptor of FP4 blocks at row 64, scales at row 80, and slot 0 occupied. -/
def dotting : State :=
  let s := withStreams .running [stream 3 .decode]
  coded (word 1 0 (2 ^ 64 + 8 * 2 ^ 60)) (rec_ 256 [(0, 64), (32, 80), (120, 1)])
    { s with str := { s.str with slots := (List.replicate 256 none).set 0 (some (0, 0)) } }

/-- One lane group for one slot of the full array. -/
def dot : DotOp := ⟨0, 0, 1, 8, 0, false, 0⟩

/-- A quadrant whose last DOT had 512 rows of one column. -/
def dotted (o : EmitOp) : State :=
  coded (word 2 0 (o.layer.toNat * 2 ^ 84 + 2 ^ 83 + o.toRow.toNat * 2 ^ 80 + o.flow.toNat * 2 ^ 64 + o.firstRow.toNat * 2 ^ 42)) 0
    (combed fun c => { c with shape := [(0, 9, 3)] })

/-- EMIT of logical quadrant 0 into rows 200 on, and to a flow. -/
def emit (toRow : Bool) (flow : BitVec 16) : EmitOp := ⟨1, true, 0, toRow, flow, 200⟩

theorem witness_dot :
    canIssue (issue 0) (.dot dot) dotting = true ∧ rowsReady 5 (dotRows (issue 0) dot dotting) dotting = true ∧
      5 < dotting.combs.length ∧
      (dotting.comb 5).mends = [] ∧ (runDot (issue 0) dot ⟨1, 0⟩ (issued (issue 0) (.dot dot) dotting)).tide.dp = .running ∧
      dotRows (issue 0) dot dotting = [64, 80, 64, 80] := by decide +kernel

theorem witness_emit :
    ∀ o ∈ [emit true 1, emit false 1], ((dotted o).comb 5).fallback = [] ∧ canIssue (issue 0) (.emit o) (dotted o) = true ∧
    rowsReady 5 (emitRows (issue 0) o (dotted o)) (dotted o) = true ∧ 5 < (dotted o).combs.length ∧
    flowRuns 2 1 (issued (issue 0) (.emit o) (dotted o)) = true ∧ ((dotted o).comb 5).mends = [] ∧
    ((regionPartials ((dotted o).comb 5) 0).map fun x => (x.1, x.2.length)) = some (1, 512) ∧
    destFaults (issue 0) 4 ((emitWrites (issue 0) o 512).map (·.1)) = [] ∧
    bankFaults (issue 0) 4 (bankCycles true (emitWrites (issue 0) o 512)) (issued (issue 0) (.emit o) (dotted o)) = [] := by
  decide +kernel

/-- FABRIC receive of the broadcast flow 0 and send into the reduction flow 1. -/
def port (send : Bool) : FabricOp := ⟨if send then 1 else 0, send, 0, 2⟩

/-- A ROTATE of the reduction flow, and partials that wait for one. -/
def turn : RotateOp := ⟨6, 0, 0, 1⟩
def turns (s : State) : State := coded (word 6 0 (turn.k.toNat * 2 ^ 92 + turn.layer.toNat * 2 ^ 80 + turn.flow.toNat * 2 ^ 60)) 0 s
def drains : State := turns (combed fun c => { c with drained := [(1, 1, [(7, false, false)])] })

/-- Comb 5 stands at a FABRIC. -/
def porting (o : FabricOp) : State :=
  coded (word 5 0 (o.flow.toNat * 2 ^ 80 + o.send.toNat * 2 ^ 79 + o.desc.toNat * 2 ^ 69 + o.count.toNat * 2 ^ 57)) 0 runs

/-- A replay entry of one lane group. -/
def replay : Replay := ⟨0, dot, ⟨1, 0⟩, ⟨0, 256, 2⟩, 0, 0, 4⟩

/-- An open replay window. -/
def replays : State := setComb 5 (fun c => { c with windowOpen := true, windowAt := 10, fallback := [replay] }) dotting

theorem witness_fabric :
    (∀ b ∈ [false, true],
      let s := porting (port b)
      let u := issued (issue 0) (.fabric (port b)) s
      canIssue (issue 0) (.fabric (port b)) s = true ∧ rowsReady 5 (sendRows (issue 0) (port b) s) s = true ∧
      flowRuns (if b then 2 else 1) (port b).flow.toNat u = true ∧ flowRuns (if b then 1 else 2) (port b).flow.toNat u = false) ∧
    (let u := issued (issue 0) (.fabric (port false)) (porting (port false))
     destFaults (issue 0) 3 (receiveRows (issue 0) (port false) u
       ++ tailRows (u.comb 5) (flowRecord (port false).flow.toNat u) (port false).desc) = [] ∧
       Flow.tailRows (flowRecord (port false).flow.toNat u) = 0 ∧ 5 < u.combs.length) := by
  decide +kernel

theorem witness_rotate :
    canIssue (issue 0) (.rotate turn) (turns runs) = true ∧ (∀ x ∈ ((turns runs).comb 5).drained, x.1 ≠ turn.flow) ∧
    canIssue (issue 0) (.rotate turn) drains = true ∧
    (drains.comb 5).drained.find? (fun x => x.1 = turn.flow) = some (1, 1, [(7, false, false)]) := by decide +kernel

theorem witness_replay_window :
    replays.awake = true ∧ (replays.comb 5).windowOpen = true ∧ replayReady 5 replays = true ∧ counting replays = true ∧
      windowLength replays = 100 ∧ windowEnd 5 100 replays = 110 ∧ ahead 110 replays = true ∧ 5 < replays.combs.length ∧
      (replays.comb 5).mends = [] ∧ windowOverrun 5 100 replays = 0 ∧
      (let s := setComb 5 (fun c => { c with fallback := [{ replay with cycles := 90 }] }) replays
       replayReady 5 s = true ∧ windowOverrun 5 100 s = 6) := by decide +kernel

/-- SHELF transfers of two rows. -/
def fetch (addr : BitVec 38) (gather : Bool) : ShelfOp := ⟨addr, 0, 2, gather, 0⟩

/-- Comb 5 stands at a SHELF. -/
def fetching (o : ShelfOp) : State :=
  coded (word 4 0 (o.addr.toNat * 2 ^ 58 + o.desc.toNat * 2 ^ 48 + o.count.toNat * 2 ^ 36 + o.gather.toNat * 2 ^ 35 + o.indexRow.toNat * 2 ^ 13)) 0 runs

theorem witness_shelf :
    (∀ o ∈ [fetch 1610612720 false, fetch 1610612721 false, fetch 0 true],
      let s := fetching o
      let u := issued (issue 0) (.shelf o) s
      canIssue (issue 0) (.shelf o) s = true ∧ rowsReady 5 (indexRows 5 o s) s = true ∧ 5 < s.combs.length ∧
      shelfOutside 5 o s = decide (o.addr.toNat = 1610612721) ∧
      destFaults (issue 0) 2 (shelfRows 5 o ((phaseParity u + 1) % 2) u) = []) := by
  decide +kernel

theorem witness_row_lands :
    let x : Pending := ⟨7, List.replicate 576 1, 3, none⟩
    let s := combed fun c => { c with pending := [x] }
    s.awake = true ∧ s.tide.dp = .running ∧ 5 < s.combs.length ∧
      (s.comb 5).pending.find? (fun y => y.ra.toNat = (7 : BitVec 22).toNat) = some x ∧ x.data.length = 576 ∧ x.after = none := by decide +kernel

/-- All lane groups of link 3 in service. -/
def linked (failures : Nat) : State := setLink 3 true (fun d => { d with groupsActive := 0xFFFF, expectSeq := 5, failures := failures }) runs

/-- A frame with a sequence number; its CRC may be right. -/
def frame (kind : BitVec 4) (seq : BitVec 16) (nak : Bool) : LinkFrame :=
  sealFrame ⟨kind, 1, 0, seq, 0, nak, true, 0, List.replicate 128 0, parityOf (List.replicate 128 0), 0⟩

theorem witness_link_frames :
    ((linked 0).awake = true ∧ 3 < 40 ∧ 15 < 16 ∧ ((linked 0).link 3 true).state ≠ 2 ∧ bit ((linked 0).link 3 true).groupsActive 15 = true ∧
      (linked 0).fabric.links.length = 80 ∧ ((linked 14).link 3 true).failures + 1 < 16 ∧ ((linked 0).link 3 true).expectSeq = 5) ∧
    (∀ k seq nak, (frame k seq nak).crc = crc32 (linkBytes (frame k seq nak))) ∧
    ({ frame 1 5 true with crc := 0 } : LinkFrame).crc ≠ crc32 (linkBytes { frame 1 5 true with crc := 0 }) :=
  ⟨by decide +kernel, fun _ _ _ => rfl, by decide +kernel⟩

/-! ## Mending, scrub and experts -/

/-- A word of row 0 of comb 5 is poison, and a unit of its stack, or none. -/
def poisoned (unit : Option Nat) : State :=
  let s := combed fun c => { c with mem := writeRow c.mem 0 ((0, true) :: List.replicate 63 (0, false)) }
  match unit with
  | some u => setStack 1 (fun k => { k with mem := writeUnits k.mem u [(0, true)] }) s
  | none => s

theorem witness_mend :
    (let s := poisoned none
     s.img.image = some tiny ∧ s.awake = true ∧ 5 < s.combs.length ∧ (s.comb 5).good = true ∧ mapped 5 s = true ∧
       backingUnit tiny s.img.place (vcombOn 5 s) 0 = some 1048576 ∧ ((readRow (s.comb 5).mem 0).any (·.poison)) = true ∧
       (readUnits (dieOf 5) 1048576 8 s).1.any (·.2) = false) ∧
    (readUnits (dieOf 5) 1048576 8 (poisoned (some 1048583))).1.any (·.2) = true ∧
    (let s := combed fun c => { c with code := [(9 * instructionSlot 3, 3)] }
     let at_ := codeOffset tiny s.img.place (vcombOn 5 s) + 16 * 3
     3 < (programWords tiny (vcombOn 5 s)).length ∧ ((instructionReads (s.comb 5) 3).any (·.uncorrectable)) = true ∧
       (readUnits (dieOf 5) (codeUnit tiny s.img.place (dieOf 5) + at_ / 64) ((at_ % 64 + 8 * 2 + 63) / 64) s).1.any (·.2) = false) ∧
    (runs.tide.dp = .running ∧ rowIndex 2621439 < 10240 ∧ (runs.comb 5).mends.count 2621439 < 2) := by decide +kernel

theorem witness_shelf_service :
    (let s := poisoned (some 3)
     s.awake = true ∧ 1 < 24 ∧ (s.stack 1).lost = false ∧ 3 < unitCount ∧ 1 < s.shelf.stk.length ∧ s.tide.dp = .running ∧
       ((readUnit (s.stack 1).mem 3).any (·.uncorrectable)) = false ∧ ((readUnit (s.stack 1).mem 3).any (·.poison)) = true ∧
       unitCount ≤ 1610612736) ∧
    (let s := setStack 1 (fun k => { k with hot := true, uncorrectableEpoch := (List.replicate 32 0).set 31 8
                                            experts := [⟨0, 1, 2, false, true, false, 0⟩] }) runs
     (s.stack 1).hot = true ∧ (s.stack 1).lost = false ∧ counting s = true ∧ counting (held [⟨1, .comb 5, none, 0, 0⟩]) = false ∧
       ahead 9 s = true ∧ refreshWindow 9 s = false ∧ (s.stack 2).hot = false ∧ s.tide.contractHolds = [] ∧
       refreshWindow 9 { s with img := { s.img with image := some { tiny with phases := [rec_ 256 [(236, 2), (171, 64)]] } } } = true ∧ bit (s.stack 1).channelsRetired 31 = false ∧
       8 ≤ nth (s.stack 1).uncorrectableEpoch 31 0 ∧ s.tide.dp ≠ .loading ∧ s.img.image = some tiny ∧
       expertEntry 1 0 1 2 s = some ⟨0, 1, 2, false, true, false, 0⟩ ∧ ([] : List (BitVec 64)).length = 8 * sliceUnits tiny 0 1 2 ∧
       (freePlace tiny 1 0 s).isSome = true) ∧
    (let s := setStack 1 (fun k => { k with experts := [⟨0, 1, 2, false, false, true, 0⟩, ⟨0, 1, 3, true, false, false, 0⟩] }) runs
     expertEntry 1 0 1 2 s = some ⟨0, 1, 2, false, false, true, 0⟩ ∧ restageNext 1 ⟨0, 1, 2, false, false, true, 0⟩ s = true ∧
       freeReserve tiny 1 0 s = some reserveStart) := by
  decide +kernel

/-! ## Steps, sampling and serving -/

/-- A prefill stream whose last row samples, and a stream in decode with a tree of two nodes. -/
def samples : Stream := { stream 3 .prefill with rows := 1, maxNew := 10 }
def verifies : Stream := { stream 4 .decode with rows := 2, maxNew := 10, tree := [⟨2, 0, 0⟩, ⟨1, 0, 1⟩] }

/-- The sampling phase with one stream. -/
def atHead (t : Stream) (reports : List PoisonReport) : State :=
  { loaded .running 5 with str := { Streams.reset with live := [(0, t)], slots := [some (0, 0), some (0, 1)] }
                           fabric := { runs.fabric with wide := [(0, [logits]), (1, [logits])] }
                           err := { runs.err with reports := reports } }
where
  logits : WideVec := [(0, false), (0x3F800000, false), (0, false), (0, false)]

/-- Its head's rows, and their logits. -/
def heads : List HeadRow := [⟨0, [], 0, []⟩, ⟨1, [], 0, []⟩]
def headLogits (s : State) : List LogitRow := heads.filterMap fun h => logitRow h (runHead tiny heads s)

/-- An image with eight bytes of KV for a token of a layer, and a step that holds the KV of node 1 of its tree. -/
def kvImage : Image := { tiny with slotLayout := rec_ 512 [(0, 256), (16, 16), (32, 16), (64, 1000), (96, 8)] }
def kvHeld : State :=
  let s := atHead { verifies with pages := [⟨0, 0, 3⟩] } []
  { s with img := { s.img with image := some kvImage }
           fabric := { s.fabric with heldKv := [⟨0, 1, 0, 2, List.replicate 8 (7, false), [(127, false)], [], none, none⟩] } }

theorem witness_sampling :
    (∀ t ∈ [samples, verifies], let s := atHead t []
      s.awake = true ∧ s.img.image = some tiny ∧ s.tide.dp = .running ∧ s.tide.prologue = false ∧ inSampling s = true ∧
        (∀ p ∈ s.str.live, p.2.stepOut = none) ∧ headComplete tiny (headLogits s) s = true ∧ batchPoisoned s = false ∧
        0 ∉ poisonedRecords s ∧ t.rows ≠ 0 ∧ (t.state = .prefill ∨ t.tree ≠ [])) ∧
    batchPoisoned (atHead verifies [poisonOf false 1 0 5 0]) = true ∧ headComplete tiny (headLogits (atHead verifies [poisonOf false 1 0 5 0])) (atHead verifies [poisonOf false 1 0 5 0]) = true ∧
    (let s := kvHeld
     ∃ x ∈ s.fabric.heldKv, liveAt x.record s = some { verifies with pages := [⟨0, 0, 3⟩] } ∧
       recordAt kvImage { verifies with pages := [⟨0, 0, 3⟩] } x.layer (x.position / 64) s = some (3, 0) ∧
       kvUnit kvImage 3 0 0 s = (1, 98304)) :=
  ⟨by decide +kernel, by decide +kernel, by decide +kernel, ⟨_, List.mem_singleton_self _, by decide +kernel⟩⟩

/-- Outcomes of a step. -/
def outcome (bonus : Option Token) (ends : Bool) : StepOut := ⟨[1], bonus, ends, false, false, 3, [], none⟩

theorem witness_commit :
    (∀ o ∈ [outcome (some 2) false, outcome none true], ∀ t ∈ [samples, verifies, { samples with pending := [1, 1] }],
      liveAt 0 (atHead { t with stepOut := some o } []) = some { t with stepOut := some o }) ∧
    prefillEnds samples = true ∧ prefillEnds { samples with pending := [1, 1] } = false := by decide +kernel

/-- A stream with a depth and a countdown. -/
def deep (depth : BitVec 4) (probe : BitVec 6) : Stream :=
  { stream 3 .decode with draftDepth := depth, probe := probe, live := { plain with draftDepthMax := 7 } }

theorem witness_depth :
    probeDue (deep 0 0) = true ∧ probeDue (deep 2 0) = false ∧ 2 ≤ (deep 2 0).draftDepth.toNat ∧ (deep 1 0).draftDepth.toNat < 2 ∧
      (deep 0 5).draftDepth = 0 := by decide +kernel

/-- The step boundary is due. -/
def steps (stop : Bool) : State :=
  let s := { withStreams .running [{ samples with stepOut := some (outcome (some 2) false) }] with
    tide := { runs.tide with stepDue := true, stopPending := stop } }
  { s with str := { s.str with fresh := true } }

theorem witness_step_boundary :
    (∀ b ∈ [false, true], (steps b).awake = true ∧ (steps b).tide.dp = .running ∧ (steps b).tide.prologue = false ∧
      (steps b).tide.stepDue = true ∧ (steps b).tide.servingDue = false ∧ (steps b).tide.epochDue = false ∧
      (steps b).img.load = none ∧ (steps b).img.unloading = false ∧ (steps b).mbox.shutdown = .no ∧
      (steps b).img.image = some tiny) ∧
    (due true false true).tide.stepDue = true ∧ (due true false true).tide.servingDue = true := by decide +kernel

theorem witness_events :
    ∀ x ∈ [(StreamState.decode, ({ stop := true } : StreamEvent)), (.paused, { stop := true }), (.parking, { cancelPark := true }),
        (.resuming, { resumeDone := true }), (.ready, { close := some 1 }), (.parking, { close := some 1 }), (.decode, {})],
      liveAt 0 (withStreams .running [{ stream 3 x.1 with event := x.2 }]) = some { stream 3 x.1 with event := x.2 } := by
  decide +kernel

/-- Delays of 1 ms and 1 s for parking. -/
def delays (d : BitVec 256) (st : StreamState) : State :=
  let s := withStreams .running [stream 3 st]
  { s with live := { s.live with w4 := d } }

theorem witness_serving :
    (runs.awake = true ∧ runs.img.image = some tiny ∧ runs.tide.dp = .running ∧ runs.tide.prologue = false) ∧
    (∀ st ∈ [StreamState.paused, .ready], liveAt 0 (delays (rec_ 256 [(240, 1), (224, 1)]) st) = some (stream 3 st) ∧
      bits (delays (rec_ 256 [(240, 1), (224, 1)]) st).live.w4 255 240 ≠ 0 ∧
      bits (delays (rec_ 256 [(240, 1), (224, 1)]) st).live.w4 239 224 ≠ 0 ∧ bits (delays 0 st).live.w4 255 240 = 0 ∧
      bits (delays 0 st).live.w4 239 224 = 0) := by decide +kernel

/-! ## Words, arithmetic and formats -/

theorem witness_syndromes :
    (∀ c ∈ [0x00, 0x80, 0x07, 0x5E, 0xFF, 0x03], c < 256) ∧
    Nat.xor 0x00 (checkByte 0) = 0 ∧ weight8 (Nat.xor 0x80 (checkByte 0)) = 1 ∧ columns[0]? = some (Nat.xor 0x07 (checkByte 0)) ∧
    Nat.xor 0xFF (checkByte 0) = 0xFF ∧
    (let y := Nat.xor 0x03 (checkByte 0); y ≠ 0 ∧ weight8 y ≠ 1 ∧ y ∉ columns ∧ y ≠ 0xFF) := by decide +kernel

theorem witness_memory : (List.replicate 64 ((7, true) : Word64)).length = 64 ∧ (List.replicate 8 ((7, false) : Word64)).length = 8 ∧
    Memory.wf (writeRow [] 3 (List.replicate 64 (7, true))) = true := by decide +kernel

theorem witness_sums :
    ([] : List RedEntry).find? (fun e => e.flow = 1 && e.element = 0) = none ∧
    [(⟨1, 0, 5, false, false, [0]⟩ : RedEntry)].find? (fun e => e.flow = 1 && e.element = 0) = some ⟨1, 0, 5, false, false, [0]⟩ ∧
    (let t : SkW := ⟨2 ^ 71 - 1, false, false⟩
     2 ^ 71 ≤ t.sum + t.sum ∧ -(2 ^ 71) ≤ t.sum ∧ t.sum < 2 ^ 71 ∧ -t.sum - 2 < -(2 ^ 71) ∧ t.sum - 1 < 2 ^ 71) := by decide +kernel

/-! ## The step, reset and the queue -/

theorem witness_queue : ({ runs with pending := [.coveMount, .readyPoint] } : State).pending = .coveMount :: [.readyPoint] ∧
    runs.pending = [] := by decide +kernel

theorem witness_fault : (match exec (.shelfScrub 1 1610612736) runs with | .fault f => decide (f = .shelfAddressOutside) | _ => false) = true := by
  decide +kernel

theorem witness_canonical_step :
    let s : State := { poisoned (some 3) with pending := [.shelfScrub 1 3] }
    ((s.combs.all fun c => Memory.wf c.mem && Memory.wf c.code) && s.shelf.stk.all fun k => Memory.wf k.mem) = true ∧
      (match step s with | .next t => t.pending | _ => [.coveMount]) = [] := by decide +kernel

/-! ## Decoding -/

theorem test_word_wait : decodeTide (0x0#4 ++ 12#13 ++ 0#111) = some (12, .wait) := by decide

theorem test_word_dot : decodeTide (0x1#4 ++ 1#13 ++ 0#15 ++ 1023#10 ++ 1#10 ++ 2#12 ++ 3#4 ++ 0#3 ++ 0#1 ++ 3#2 ++ 0#54) =
    some (1, .dot ⟨1023, 1, 2, 3, 0, false, 3⟩) := by decide

theorem test_word_emit : decodeTide (0x2#4 ++ 2#13 ++ 0#15 ++ 4095#12 ++ 1#1 ++ 2#2 ++ 0#1 ++ 9#16 ++ 0#22 ++ 0#42) =
    some (2, .emit ⟨4095, true, 2, false, 9, 0⟩) := by decide

theorem test_word_row : decodeTide (0x3#4 ++ 3#13 ++ 0#15 ++ 7#22 ++ 2621439#22 ++ 1#12 ++ 3#2 ++ 0#2 ++ 0#36) =
    some (3, .row ⟨7, 2621439, 1, 3, 0⟩) := by decide

theorem test_word_shelf : decodeTide (0x4#4 ++ 4#13 ++ 0#15 ++ 1610612728#38 ++ 2#10 ++ 3#12 ++ 0#1 ++ 4#22 ++ 0#13) =
    some (4, .shelf ⟨1610612728, 2, 3, false, 4⟩) := by decide

theorem test_word_fabric : decodeTide (0x5#4 ++ 5#13 ++ 0#15 ++ 65535#16 ++ 0#1 ++ 1#10 ++ 2#12 ++ 0#57) =
    some (5, .fabric ⟨65535, false, 1, 2⟩) := by decide

theorem test_word_rotate : decodeTide (0x6#4 ++ 6#13 ++ 0#15 ++ 6#4 ++ 1#12 ++ 2#4 ++ 3#16 ++ 0#60) =
    some (6, .rotate ⟨6, 1, 2, 3⟩) := by decide

theorem test_word_fbwin : decodeTide (0x7#4 ++ 7#13 ++ 0#111) = some (7, .fbwin) := by decide

theorem test_word_slot : decodeTide (0x8#4 ++ 8#13 ++ 0#15 ++ 64#8 ++ 192#9 ++ 1#2 ++ 0#77) = some (8, .slot ⟨64, 192, 1⟩) := by decide

theorem test_word_end : decodeTide (0xF#4 ++ 9#13 ++ 0#111) = some (9, .done) := by decide

theorem test_word_reserved : decodeTide (0xE#4 ++ 9#13 ++ 0#111) = none ∧ decodeTide (0xF#4 ++ 9#13 ++ 0#110 ++ 1#1) = none := by
  decide

theorem witness_tide_words : TideOp.wellFormed (.slot ⟨255, 256, 2⟩) = true ∧ TideOp.wellFormed (.row ⟨0, 0, 0xFFF, 3, 2⟩) = true ∧
    decodeTide slotWord = some (0, .slot ⟨0, 256, 2⟩) ∧ decodeTide (endWord 900) = some (900, .done) := by decide

/-! ## Ill-formed commands -/

/-- What calibration observes of a sound module. -/
def fitted : CalibrationInput :=
  ⟨List.replicate 328 0, List.replicate 146 (1, 1, 1), List.replicate 96 ([], [], true), 10, 10, 0, 0⟩

/-! One term for each check of WellFormed. -/

def illFormed0 : List Instr :=
  [.tokenEmission 4096, .prologueTimeout [1], .wait ⟨96, 0, 0, [], [], []⟩, .dot (issue 0) { dot with laneGroups := 0 } ⟨0, 0⟩,
   .dot (issue 0) { dot with a := 2 } ⟨0, 0⟩, .dot (issue 0) { dot with a := 10 } ⟨0, 0⟩, .dot (issue 0) { dot with b := 5 } ⟨0, 0⟩,
   .dot ⟨96, 0, 0, [], [], []⟩ dot ⟨0, 0⟩, .emit ⟨96, 0, 0, [], [], []⟩ (emit true 0) 0, .row ⟨96, 0, 0, [], [], []⟩ (move 0), .row (issue 0) { move 0 with count := 0 }]

def illFormed1 : List Instr :=
  [.row (issue 0) { move 0 with laneWidth := 3 }, .shelf ⟨96, 0, 0, [], [], []⟩ (fetch 0 true), .fabric ⟨96, 0, 0, [], [], []⟩ (port true),
   .rotate ⟨96, 0, 0, [], [], []⟩ { turn with k := 6 }, .rotate (issue 0) { turn with k := 5 }, .rotate (issue 0) { turn with k := 15 },
   .fbwin ⟨96, 0, 0, [], [], []⟩, .slot ⟨96, 0, 0, [], [], []⟩ two, .slot (issue 0) { two with count := 0 }, .slot (issue 0) { two with count := 257 }]

def illFormed2 : List Instr :=
  [.slot (issue 0) { two with cls := 3 }, .done ⟨96, 0, 0, [], [], []⟩, .fallbackWindowClose 96, .rowLands 96 0 [], .rowLands 5 2621440 [],
   .linkFrameReceive 40 true 0 (frame 0 0 true) {}, .linkFrameReceive 0 true 16 (frame 0 0 true) {},
   .expertPageinComplete 24 0 0 0, .holdRaise 0 0 .none, .holdRaise 10 0 .none, .mend 96 (.row 0), .scrubRow 96 0]

def illFormed3 : List Instr :=
  [.scrubRow 5 2621440, .shelfScrub 24 0, .shelfScrub 0 1610612736, .shelfRefresh 24 0, .channelRetirement 24 0,
   .channelRetirement 0 32, .parkDelayExpiry 4096, .readyParkDelayExpiry 4096, .parkCommit 4096, .resumeLanded 4096,
   .cnpReceive 64, .cnpRecoveryTick 64, .journalCompaction 8, .overcurrentLatch 196, .powerUp { sound with laneGroups := [] }]

def illFormed4 : List Instr :=
  [.powerUp { sound with channelsFailed := [] }, .powerUp { sound with coresFailed := 11 }, .powerUp { sound with hiveLatched := some 4 },
   .capacitanceTest 328, .pfcPauseExpiry 8, .pfcBufferThreshold 8 0, .keeperCoreFailure 10,
   .rdmaReadResponse 64 0 true, .rdmaTimeout 64 0, .arpNdRequest 5 0 ⟨0, 0⟩, .echoRequest 5 0 ⟨0, 0⟩ 0, .arpNdReply 5 0 0]

def illFormed5 : List Instr :=
  [.calibration { fitted with trims := [] }, .calibration { fitted with fits := [] }, .calibration { fitted with combTests := [] },
   .undefinedOpcodeRequest (req 0 []) 0x0101]

theorem test_ill_formed : [illFormed0, illFormed1, illFormed2, illFormed3, illFormed4, illFormed5].all (fun l => l.all fun c => !c.wellFormed) = true := by decide +kernel

theorem test_well_formed :
    [Instr.dot (issue 0) dot ⟨0, 0⟩, .row (issue 0) (move 0), .slot (issue 0) two, .rotate (issue 0) { turn with k := 14 }, .powerUp sound,
      .linkFrameReceive 39 true 15 (frame 0 0 true) {}].all Instr.wellFormed = true := by decide +kernel

/-! ## One step of small states -/

/-- A field of the next state of a command. -/
def after {α : Type} (c : Instr) (s : State) (f : State → α) (d : α) : α :=
  match exec c s with
  | .next t => f t
  | _ => d

/-- FIPS 180-4, SHA-512/256 of "abc"; the check value of the CRC of ISO 3309 over "123456789". -/
theorem test_digests : sha512256 [0x61, 0x62, 0x63] = bytesBE 32 0x53048E2681941EF99B2E29B76B4C7DABE4C2D0C634FC6D46E0E2F13107E7AF23 ∧
    crc32 [0x31, 0x32, 0x33, 0x34, 0x35, 0x36, 0x37, 0x38, 0x39] = 0xCBF43926 := by decide +kernel

/-- R122: the columns of data bits 0 and 1 are the two lowest values of weight 3. -/
theorem test_check_byte : checkByte 1 = 0x07 ∧ checkByte 2 = 0x0B ∧ checkByte 3 = 0x0C := by decide +kernel

/-- R162, R175: the counters freeze at the consumption point, and the slack since the freeze counts as run time. -/
theorem test_hold :
    after (.holdRaise 6 140 (.comb 5)) lates (fun s => (s.tide.tideCycle, s.tide.runCycles)) (0, 0) = (140, 140) ∧
    after (.holdRelease 0 25) (held [⟨1, .comb 5, none, 0, 0⟩]) (fun s => (s.tide.slackCycles, s.tide.holds.length)) (0, 9) = (25, 0) := by
  decide +kernel

/-- R164, R168: the boundary of the first tide of a phase of two. -/
theorem test_boundary : after .tideBoundary (crossing runs) (fun s => (s.tide.number, s.tide.stepDue)) (0, true) = (4, false) ∧
    after .tideBoundary (crossing (at_ 5)) (fun s => (s.tide.number, s.tide.stepDue)) (0, false) = (6, true) := by decide +kernel

/-- R119: lanes of 16 bits wrap on their own. -/
theorem test_row_adds :
    let s := rowing { move 200 with count := 1, laneWidth := 0 } 0
      (combed fun c => { c with mem := writeRow (writeRow c.mem 100 [(0x00010001, false)]) 200 [(0x0005FFFF, false)] })
    after (.row (issue 0) { move 200 with count := 1, laneWidth := 0 }) s (fun t => ((readRow (t.comb 5).mem 200).map (·.data)).take 2) [] =
      [0x00060000, 0] := by decide +kernel

/-- R128: a scrub writes a corrected word back and counts it. -/
theorem test_scrub :
    let s := combed fun c => { c with mem := [(64 * 9 * 3, 0x10)] }
    after (.scrubRow 5 3) s (fun t => ((t.comb 5).mem, (t.comb 5).record.eccCorrected)) ([], 0) = ([], 1) := by decide +kernel

/-- R137, R139: a frame whose CRC fails is counted and its number still awaited. -/
theorem test_frame_fails :
    after (.linkFrameReceive 3 true 0 { frame 1 5 true with crc := 0 } {}) (linked 0)
      (fun t => ((t.link 3 true).crcFailTotal, (t.link 3 true).expectSeq)) (0, 0) = (1, 5) := by decide +kernel

/-- R413: 120 ms are 24.0 mF, which is no warning; 119 ms are. -/
theorem test_capacitance :
    let s : State := { work with pow := { work.pow with stage := .booted, measured := false } }
    after (.capacitanceTest 120) s (fun t => (t.pow.capacitanceUf, t.pow.warnings.length)) (0, 9) = (24000, 0) ∧
    after (.capacitanceTest 119) s (fun t => (t.pow.capacitanceUf, t.pow.warnings.length)) (0, 9) = (23800, 1) := by decide +kernel

/-- R398: the lid erases the keys at once. -/
theorem test_lid : after .lidSealOpen owned (fun t => (t.cfg.coveMasterKey, t.cfg.claimed)) (some 0, true) = (none, false) := by
  decide +kernel

/-- R225, R227, R283: the KV of an accepted node lands in its record: the payload of token 2 at byte 16 and its scale at byte
514 of the record, and the pool header at byte 576 counts three tokens. -/
theorem test_kv_commit :
    after (.samplingPhase heads) kvHeld (fun t => ((readUnit (t.stack 1).mem 98304).map (·.data)).take 4) [] =
      [0, 0, 0x0707070707070707, 0] ∧
    after (.samplingPhase heads) kvHeld (fun t => [98312, 98313].map fun u => ((readUnit (t.stack 1).mem u).map (·.data)).headD 0) [] =
      [0x7F0000, 0x300] := by decide +kernel

/-- R94: 1 / sqrt 4, the logistic of 0, the mean of 1 and 2, and the product of (1, 2) with the BF16 row (1, 3). -/
theorem test_wide_operations :
    rsqrt32 0x40800000 = 0x3F000000 ∧ logistic32 0 = 0x3F000000 ∧
    (let s := runs
     let regs : List WideVec := [[(0x3F800000, false), (0x40000000, true)]]
     evalWide tiny 0 regs (.mean 0 false) s = ([(0x3FC00000, true)], 0) ∧
     evalWide { tiny with wide := [0x80, 0x3F, 0x40, 0x40] } 0 regs (.dot 0 0 1) s = ([(0x40E00000, true)], 0)) := by
  decide +kernel

/-- R60: the second block that falls back takes entry 1, whose index stands in its payload slot. -/
theorem test_fallback_index :
    let b (e : Bool) : Block := ⟨0, [], if e then some [] else none, 0, false⟩
    (numberBlocks [(0, [b true, b false]), (1, [b true])]).map (fun f => f.2.map (·.2)) = [[0, 1], [1]] ∧
    blockArray 0 1 (b true) = [1, 0, 0, 0, 0, 0, 0, 0] := by decide +kernel

/-- R272: the blocks with the highest scores, equal scores by higher index. -/
theorem test_top_blocks : topBlocks 2 [0x3F800000, 0x40000000, 0x3F800000, 0] = [1, 2] := by decide +kernel

/-! ## Worked examples of the spec -/

theorem test_check_byte_corrects : checkByte 0x81 = 0x1E ∧ decodeWord 1 0x1E = ⟨0x81, false, true, false⟩ := by decide +kernel

theorem test_rand_of_seed : (List.range 5).map (rand 1234567) =
    [6457827717110365317, 3203168211198807973, 9817491932198370423, 4593380528125082431, 16408922859458223821] := by decide +kernel

/-- The inputs of the skI4 example of 02, in sixteenths. -/
def sixteenths : List Int :=
  [8, -20, 44, 2, -4, 16, -56, 12, -10, 28, 1, -32, 6, -14, 52, -24]
  ++ [0, 18, -6, 36, -44, 4, -1, 26, -16, 14, 48, -8, 22, -52, 10, -36]

def rounded : List Int :=
  [1, -2, 6, 0, 0, 2, -7, 2, -1, 4, 0, -4, 1, -2, 6, -3]
  ++ [0, 2, -1, 4, -6, 0, 0, 3, -2, 2, 6, -1, 3, -6, 1, -4]

theorem test_quantise_block : quantiseBlock (sixteenths.map fun m => ⟨m, -4⟩) false 2 (-8) 4 false =
    ⟨0x7E, rounded.map fun n => (BitVec.ofInt 4 n).toNat, none, false⟩ := by decide +kernel

/-- An operand block of narrow codes, the rest zero. -/
def narrowBlock (fmt : Nat) (t : Int) (cs : List Nat) : OperandBlock := .narrow fmt t (cs ++ List.replicate (32 - cs.length) 0)

/-- An accumulator of base -55 before its first block. -/
def emptyCell : Cell := ⟨0, -55, none, false, false⟩

/-- Combs P and Q of the skI4 and skF8a example of 03. -/
def cellP : Cell := Cell.group emptyCell 16 (halfSegments (narrowBlock 6 (-12) [0x5C, 0xC3, 0x21, 0x05]) (narrowBlock 2 (-5) [3, 0xB, 7, 0xE])) []
def cellQ : Cell := Cell.group emptyCell 16 (halfSegments (narrowBlock 6 (-12) [0x38, 0xB8, 0x03]) (narrowBlock 2 (-4) [2, 2, 3])) []

theorem test_lane_digits : (List.range 3).map (fun j => laneDigit 3 j (-1408)) = [128, 250, -1] := by decide +kernel

theorem test_comb_emits : (emitSum [cellP]).1 = 2841472 ∧ (emitSum [cellQ]).1 = 1152 := by decide +kernel

theorem test_root_rounds_once : rootRound 8 (-23) ⟨2841472 + 1152, false, false⟩ = (0x3EAE, false) := by decide +kernel

/-- The bank of the deferral example of 08, at a voltage in hundredths of a volt. -/
def bankAt (cv : BitVec 16) : State :=
  { work with pow := { work.pow with capacitanceUf := 30400, bankCv := cv } }

theorem test_deferral : holdupAllows 8389000 (bankAt 7000) = true ∧ configWriteAllowed (bankAt 7000) = false
    ∧ configWriteAllowed (bankAt 8500) = true := by decide +kernel

/-- The image of the mapping example of 07: 92 virtual combs, the first eight of root_reach 2, the rest of 4. -/
def spread : Image :=
  { tiny with header := rec_ 2048 [(128, 1024), (152, 92)], vgrid := (List.range 92).map fun v => rec_ 256 [(252, if v < 8 then 2 else 4)] }

/-- Its places on a /94 without combs 30 and 82. -/
def spreadPlaces : List Nat :=
  ([8, 9, 10, 11, 24, 25, 26, 27, 0, 1, 2, 3, 16, 17, 18, 19] : List Nat)
  ++ ([76, 77, 78, 79, 92, 93, 94, 95, 4, 5, 6, 7, 12, 13, 14, 15] : List Nat)
  ++ ([20, 21, 22, 23, 36, 37, 38, 39, 56, 57, 58, 59, 72, 73, 74, 75] : List Nat)
  ++ ([80, 81, 83, 88, 89, 90, 91, 32, 33, 34, 35, 40, 41, 42, 43, 52] : List Nat)
  ++ ([53, 54, 55, 60, 61, 62, 63, 68, 69, 70, 71, 84, 85, 86, 87, 28] : List Nat)
  ++ ([29, 31, 44, 45, 46, 47, 48, 49, 50, 51, 64, 65] : List Nat)

theorem test_mapping : mapImage spread defaultTree ((List.range 96).filter fun p => p ≠ 30 && p ≠ 82) (fun _ _ _ => none) = .inl spreadPlaces := by
  decide +kernel

theorem test_remap : remapOne spread defaultTree (fun _ => true) [1] 1 spreadPlaces [66, 67] = some (spreadPlaces.set 1 66, [67]) := by
  decide +kernel

/-- Path latencies of the six positions of R156, and the planned arrival of the reduction of 06 (R157). -/
theorem test_path_latency : [7, 2, 8, 3, 9, 4].map (pathLatency defaultTree) = [59, 105, 103, 147, 149, 193].map some := by
  decide +kernel

theorem test_planned_arrival : 329 + 18 + planningLatency 4 + (flowFlits (rec_ 256 [(254, 2), (218, 16384)]) + 27) / 28 = 589 := by
  decide +kernel

/-! ## An image that the loader takes -/

/-- A directory entry: section, records, their size, place and length (R188). -/
def dirEntry (t n size place len : Nat) : BitVec 256 := rec_ 256 [(0, t), (32, n), (64, size), (128, place), (192, len)]

/-- An image with one virtual comb, a phase of one tide, a layer without outputs of its own, a context of 1,000 tokens and
no payload, that states a digest. -/
def sealed (digest : Nat) : Image where
  header := rec_ 2048 [(0, 0x3149574C), (32, 1), (48, 256), (64, 24608), (128, 1024), (144, 1), (152, 1), (160, 1), (176, 1), (192, 1),
    (240, 8), (256, 2 ^ 192 - 1), (512, digest)]
  directory := [dirEntry 1 1 32 4096 32, dirEntry 2 1 32 8192 32, dirEntry 4 1 192 12288 192, dirEntry 6 0 0 16384 16,
    dirEntry 8 0 0 24576 0, dirEntry 9 0 0 4096 0, dirEntry 10 1 64 20480 64, dirEntry 12 1 32 24576 32]
  vgrid := [rec_ 256 [(252, 8), (231, 1)]]
  phases := [rec_ 256 [(236, 1), (171, 128)]]
  flows := []
  layers := [rec_ 1536 [(16, 2), (40, 2), (48, 0xFF), (56, 8), (64, 6), (72, 6), (80, 0xFF), (152, 1), (528, 0xFF)]]
  envelopes := []
  programs := [endWord 900]
  shards := []
  wide := []
  slotLayout := rec_ 512 [(0, 16), (32, 64), (64, 1000)]
  draft := none
  sampler := rec_ 256 [(0, 4), (32, 1)]
  signature := none

/-- The same image under its own digest, byte 64 of the header the first. -/
def good : Image := sealed 0x60e43742f806c50a9e8e141c393ed840ff594072653fc9575d18bf38d666f992b90fef84f262b57a1f777e21d5db952e868021123c26dc9459e5fc354711a8c8

/-- s with every lane group of every link in service. -/
def trained (s : State) : State :=
  { s with fabric := { s.fabric with links := s.fabric.links.map fun d => { d with groupsActive := 0xFFFF } } }
/-! ## Witnesses of clauses with conditions of their own -/

/-- What a next state shows, nothing otherwise. -/
def shown (c : Instr) (s : State) (f : State → Bool) : Bool :=
  match exec c s with
  | .next w => f w
  | _ => false

/-- s with room in every stack's cove. -/
def roomy (s : State) : State :=
  { s with cove := { s.cove with records := s.cove.records.map fun x => { x with extentsFree := 100 } } }

theorem witness_park_begins :
    let s := roomy (withStreams .running [stream 3 .decode])
    liveAt 0 s = some (stream 3 .decode) ∧
    shown (.streamPark (ten (parkOp false) (idBytes 3))) s (fun w => (beginPark 0 true (emitAll 0 w)).1) = true ∧
    shown (.ownerPark (own (parkOp true) ([0, 1, 0, 0, 0, 0, 0, 0] ++ idBytes 3))) s
      (fun w => (beginPark 0 false (emitAll 0 w)).1) = true := by decide +kernel

theorem witness_cancel_park :
    let t := { stream 3 .parking with resumeTo := some .decode }
    liveAt 0 (withStreams .running [t]) = some t ∧ t.state = .parking := by decide +kernel

theorem witness_prefix_published_again :
    [true, false].all (fun b =>
      let p := prefix1 b 0
      let s := shares (withStreams .running [blocked]) [p]
      let r := ten opPrefixPublish (idBytes 3 ++ bytesBE 4 64 ++ bytesBE 4 0)
      canTen s (opPrefixPublish, idBytes 3 ++ bytesBE 4 64 ++ bytesBE 4 0) && decide (namedStream false r s = some blocked) &&
      decide ((taken r s).str.prefixes.find? (fun q => q.publisher = blocked.mailbox &&
        q.address = contentAddress blocked.digest blocked.committed 1) = some p) &&
      decide (s.str.prefixes.find? (fun q => q.index = p.index) = some p)) = true := by decide +kernel

theorem witness_unload :
    let a := loaded .stopped 3
    let b := roomy (withStreams .stopped [stream 3 .decode])
    (Served opImageUnload (own opImageUnload []) a ∧ a.str.live = [] ∧ ∀ o ∈ a.mbox.outstanding, o.opcode ≠ 0x0306) ∧
    (Served opImageUnload (own opImageUnload []) b ∧ b.str.live = [(0, stream 3 .decode)] ∧ b.img.load = none ∧
      (beginPark 0 false (serve opImageUnload (own opImageUnload []) b)).1 = true) :=
  ⟨⟨served_can (by decide +kernel), rfl, by decide +kernel⟩, served_can (by decide +kernel), rfl, rfl, by decide +kernel⟩

theorem witness_shutdown :
    let a := loaded .stopped 3
    (Served opModuleShutdown (own opModuleShutdown []) runs ∧ runs.tide.dp = .running ∧ runs.img.load = none ∧
      runs.img.unloading = false) ∧
    (Served opModuleShutdown (own opModuleShutdown []) a ∧ a.tide.dp ≠ .running ∧ a.str.live = [] ∧ a.mbox.outstanding = [] ∧
      a.pres.cmd = none ∧ a.img.staging = none ∧ a.flash.dirty = false ∧ (a.domain 0).state = 0) :=
  ⟨⟨served_can (by decide +kernel), rfl, rfl, rfl⟩, served_can (by decide +kernel), by decide +kernel⟩

/-- A load of an image from the network, and a load and a staging of one by its digest. -/
def pull : Bytes := [1, 0, 0, 0] ++ bytesBE 64 0
def loadNamed (d : Nat) : Bytes := [0, 0, 0, 0] ++ bytesBE 64 d
def stageNamed (d : Nat) : Bytes := bytesBE 4 0 ++ bytesBE 64 d

/-- A staging of an image of digest 8 under way. -/
def stages (s : State) : State :=
  { s with img := { s.img with staging := some ⟨sealed 8, 8, 0, false⟩ }
           mbox := { s.mbox with outstanding := [⟨0, 9, 0x0303, ⟨0, 0⟩, 0, 0, 0, 0, 0, 0⟩] } }

/-- What a load of image i from the network meets on s. -/
def meets (i : Image) (s : State) : Bool × Bool × Bool :=
  let r := own (opImageLoad (some i)) pull
  match newLoad (some i) r s with
  | none => (false, false, false)
  | some l =>
    let v := startPull (holdSource l (serve (opImageLoad (some i)) r s))
    (l.network && !l.waiting, (checkImage l.image none v).isEmpty, match placeImage l.image v with | .inl _ => true | .inr _ => false)

theorem witness_image_load_place :
    can (roomy (trained (sourced owned))) (opImageLoad (some good), pull) = true ∧
    (meets good (roomy (trained (sourced owned)))).1 = true ∧ (meets good (roomy (trained (sourced owned)))).2.2 = true ∧
    can (roomy (sourced owned)) (opImageLoad (some good), pull) = true ∧
    (meets good (roomy (sourced owned))).1 = true ∧ (meets good (roomy (sourced owned))).2.2 = false := by decide +kernel

theorem witness_image_load_check : (meets good (roomy (trained (sourced owned)))).2.1 = true := by decide +kernel

/-- The image without its directory. -/
def bare : Image := { sealed 8 with directory := [] }

theorem witness_image_load_rejected :
    can (roomy (trained (sourced owned))) (opImageLoad (some bare), pull) = true ∧
    (meets bare (roomy (trained (sourced owned)))).1 = true ∧ (meets bare (roomy (trained (sourced owned)))).2.1 = false := by
  decide +kernel

theorem witness_image_load_waits :
    let s := stages (sourced owned)
    let r := own (opImageLoad none) (loadNamed 8)
    can s (opImageLoad none, loadNamed 8) = true ∧ (newLoad none r s).map (·.waiting) = some true := by decide +kernel

/-- What a staging meets: whether an object of the digest exists, the digest of the image pulled, and whether it is written
through. -/
def stagesOf (x : Option Image) (d : Nat) (s : State) : Bool × Option Nat × Bool :=
  ((imageObject (stageDigest (own (opCoveStage x) (stageNamed d))) s).isSome, (pulled x).map (·.digestField.toNat),
    x.any (writesThrough · s))

theorem witness_staging :
    let s := roomy (sourced owned)
    let d := 8 * 2 ^ 504
    let has := withObjects [object 7 (.image (sealed 8)) (BitVec.ofNat 512 d)] s
    (can s (opCoveStage none, stageNamed 8) = true ∧ stagesOf none 8 s = (false, none, false)) ∧
    (can s (opCoveStage (some (sealed 8)), stageNamed 9) = true ∧ stagesOf (some (sealed 8)) 9 s = (false, some d, true)) ∧
    (can s (opCoveStage (some (sealed 8)), stageNamed 0) = true ∧ stagesOf (some (sealed 8)) 0 s = (false, some d, true)) ∧
    (can s (opCoveStage (some (sealed 8)), stageNamed d) = true ∧ stagesOf (some (sealed 8)) d s = (false, some d, true)) ∧
    (can has (opCoveStage (some (sealed 8)), stageNamed 0) = true ∧ stagesOf (some (sealed 8)) 0 has = (false, some d, false)) := by
  decide +kernel

theorem witness_port_config_open : owned.mbox.outstanding = [] ∧ owned.pres.cmd = none := ⟨rfl, rfl⟩

/-- The module with its strap for standing presence, and a claim that waits and no longer passes its checks, since the module
was claimed meanwhile. -/
def strapped : State := { claimWaits false none with ident := { work.ident with standingPresence := true } }
def claimedMeanwhile : State := { owned with pres := (claimWaits true none).pres }

theorem witness_presence_more :
    (strapped.awake = true ∧ strapped.pres.cmd = some (waitingClaim false none) ∧ configWriteAllowed strapped = true ∧
      strapped.ident.standingPresence = true ∧
      (let v := writeConfig true 0 (ownerClaim.commit (waitingClaim false none) strapped).state.cfg (some strapped.cfg) strapped
       pressChecks ownerClaim { waitingClaim false none with written := true, press := some strapped.now }
         { v with pres := { strapped.pres with cmd := none } }) = Status.ok) ∧
    (claimedMeanwhile.awake = true ∧ claimedMeanwhile.pres.cmd = some (waitingClaim true none) ∧
      configWriteAllowed claimedMeanwhile = true ∧
      pressChecks ownerClaim { waitingClaim true none with press := some 0 }
        { claimedMeanwhile with pres := { claimedMeanwhile.pres with cmd := none } } ≠ Status.ok) ∧
    (99 < 100 ∧ 5000 ≤ 5000 ∧ nanos claim.stamp.time + 30 * 10 ^ 9 < nanos (BitVec.ofNat 96 (31 * 2 ^ 48))) := by decide +kernel

theorem witness_last_token :
    let es : List TokenEntry := [⟨2, 2, 0, 4⟩]
    let s := withStreams .running [readyStream]
    let s : State := { s with str := { s.str with emit := [(0, es)] } }
    s.str.emit.find? (fun p => p.1 = 0) = some (0, es) ∧ es ≠ [] ∧ lastToken es = true ∧
    ((streamFrame ⟨0, 0⟩ 2 2 0 1 2 3 0 (es.map tokenEntry) s).map fun x => match x with | .frame .. => true | _ => false) = some true := by
  decide +kernel

/-- The module with its local prefix, a frame that waits for priority 7 to be released, and another for priority 6. -/
def pausedPort : State :=
  { work with live := { work.live with w11 := BitVec.ofNat 512 (7 * 2 ^ 90 + 6 * 2 ^ 93) }
              eth := { work.eth with paused := [(7, 9), (6, 9)]
                                     held := [.frame ⟨0xFE800000000000000000000000000001, 0⟩ 2 0 0 1 0 3 0 [] [],
                                              .echoReply ⟨0xFE800000000000000000000000000001, 0⟩ 64] } }

theorem witness_pause_over :
    pausedPort.eth.link = 2 ∧
    (let v : State := { pausedPort with eth := { pausedPort.eth with paused := pausedPort.eth.paused.filter fun x => x.1 ≠ 7 } }
     pausedPort.eth.held.map (fun x => pausedPriority (priorityOf x v) v) = [false, true]) ∧
    (∀ x ∈ pausedPort.eth.held, ((destinationOf x).map (routable · pausedPort)) = some true) := by decide +kernel

theorem witness_ptp_others :
    let s := clock .locked 0
    let t : State := { s with eth := { s.eth with ptp := { s.eth.ptp with masterRank := (1, 6, 0, 0, 0, 8, 0) } } }
    s.awake = true ∧ s.eth.link = 2 ∧ s.eth.ptp.master ≠ some 7 ∧ t.awake = true ∧ t.eth.link = 2 ∧ t.eth.ptp.master ≠ some 9 ∧
    t.eth.ptp.master ≠ none ∧ t.eth.ptp.masterRank ≠ worstRank ∧
    lexLess (rankList (1, 6, 0, 0, 0, 9, 0)) (rankList t.eth.ptp.masterRank) = false := by decide +kernel

/-- The load of the image above before its step 6, on a module whose expert area is as given. -/
def ready6 (area : Nat) (s : State) : State :=
  { s with img := { Img.reset with load := some ⟨good, 9, false, false, [0], defaultTree, [], [], false, none⟩ }
           tide := { Tide.reset with dp := .stopped }
           cfg := { s.cfg with words := { s.cfg.words with w2 := setBits s.cfg.words.w2 63 47 area } } }

/-- What LOAD_PAYLOAD_START meets: whether the load may begin, whether there is a mapping, and whether it fits the shelf. -/
def fits (s : State) : Bool × Bool × Bool :=
  match s.img.load with
  | none => (false, false, false)
  | some l =>
    let drop := dropShelfPrefixes (dropImage s)
    let put (y : Load) (x : State) : State := { x with img := { x.img with load := some y } }
    let w := put { l with payload := true, reserve := none }
      (writeThrough l { put { l with payload := true } drop with tide := { drop.tide with dp := .loading } })
    match placeImage l.image w with
    | .inr _ => (payloadReady s, false, false)
    | .inl p => (payloadReady s, true, (shelfFit l.image p.1 (bits s.cfg.words.w2 63 47) w).isEmpty)

theorem witness_payload_start :
    fits (ready6 0 (trained owned)) = (true, true, true) ∧ fits (ready6 100000 (trained owned)) = (true, true, false) ∧
    fits (ready6 0 owned) = (true, false, false) := by decide +kernel

/-- The module on whose quarantine list the image under load stands. -/
def quarantines (s : State) : State := { s with cfg := { s.cfg with quarantine := [(9, 0)] } }

theorem witness_payload_quarantined :
    payloadReady (quarantines (loading false [])) = true ∧ Machine.quarantined (load6 false []).digest (quarantines (loading false [])) = true ∧
    (quarantines (loading true [0])).awake = true ∧ (quarantines (loading true [0])).img.load = some (load6 true [0]) ∧
    Machine.quarantined (load6 true [0]).digest (quarantines (loading true [0])) = true ∧
    Machine.quarantined (load6 true [0]).digest (loading true [0]) = false := by decide +kernel

/-- The tiny image whose range of 512 zero bytes carries its digest. -/
def ranged : Image :=
  { tiny with shards := [rec_ 768 [(64, 0), (192, 512),
    (256, 13318572416874961322668722600723621731839055839262340635461732520305593428106173656055873222746841049752172903540886602401614758542166410129775198108664031)]] }

theorem witness_range_lands :
    let l : Load := { load6 true [] with image := ranged }
    let s : State := { loading true [] with img := { (loading true []).img with load := some l } }
    s.awake = true ∧ s.img.load = some l ∧ l.payload = true ∧ 0 < l.image.shards.length ∧
    rangeFailures ranged 0 (List.replicate 512 0) [] [] = [] ∧ Shard.kind (nth ranged.shards 0 0) = 0 ∧
    (shardUnit ranged [5] 0).isSome ∧
    scratchpadOf ranged [5] [0] (writeUnits [] ((shardUnit ranged [5] 0).getD 0) (wordsOf (List.replicate 512 0))) = [] := by
  decide +kernel

/-- Two queue pairs in service, the first out of retries, after some reads that went to another. -/
def pulling2 (tried : Nat) : State :=
  let s := pulling 7
  { s with cove := { s.cove with qps := s.cove.qps.set 63 (nth s.cove.qps 0 QueuePair.reset), pullRetries := tried } }

theorem witness_reads_move :
    (∀ k ∈ [2, 3], (pulling2 k).awake = true ∧ qpEnabled 0 (pulling2 k) = true ∧ pullRuns (pulling2 k) = true ∧
      7 ≤ (nth (pulling2 k).cove.qps 0 QueuePair.reset).retries ∧ (pulling2 k).cove.pullRetries = k ∧
      (((List.range 64).map fun k => (0 + 1 + k) % 64).find? fun m => m ≠ 0 && qpEnabled m (pulling2 2)) = some 63) ∧
    qpEnabled 0 (sourced owned) = true ∧ pullRuns (sourced owned) = false := by decide +kernel

theorem witness_chunk_from_network :
    let s : State := { withObjects [wide2] (sourced owned) with
      cove := { (withObjects [wide2] (sourced owned)).cove with rereads := [(7, 1, 1), (7, 1, 1)] } }
    s.awake = true ∧ s.cove.mounted = true ∧ findObject 7 s = some wide2 ∧ 2 ≤ s.cove.rereads.count (7, 1, 1) ∧ wide2.kind = 1 ∧
    sourceEnabled s = true ∧ sourceEnabled (withObjects [wide2] owned) = false ∧ wide2.digest = 9 ∧ s.img.digest = 0 := by
  decide +kernel

/-- s with no page left to the KV area. -/
def pageless (s : State) : State := { s with shelf := { s.shelf with stk := s.shelf.stk.map fun k => { k with kvCut := 95354 } } }

theorem witness_resume_pages :
    let t := stream 3 .resuming
    let s := withStreams .stopped [t]
    (resumePages tiny (historyLength t) s).1.isSome ∧ (resumePages tiny (historyLength t) (pageless s)).1 = none ∧
    (prefixPages tiny (prefix0 true 0) (pageless s)).1 = none ∧
    liveAt 0 (pageless s) = some t ∧ (pageless s).awake = true ∧ (pageless s).img.image = some tiny := by decide +kernel

theorem witness_park_deferred :
    let s := flat (withObjects [creating (.stream (parking none)) 9 true] (withStreams .running [parking none]))
    s.awake = true ∧ liveAt 0 s = some (parking none) ∧ findObject 7 s = some (creating (.stream (parking none)) 9 true) ∧
    holdupAllows (inFlightNs s) s = false := by decide +kernel

theorem witness_poisoned_repeat :
    let s := suspecting [recorded 1 4, recorded 2 3]
    let reads : List RepeatReads := [⟨5, 0, 1, 0, 0, [], 0, 0, 0⟩]
    verdictOf (recorded 2 3) ⟨false, none, false, [], reads⟩ s = .unresolved ∧ (∃ y ∈ reads, RepeatReads.poisoned y = true) ∧
    verdictOf (recorded 2 3) ⟨false, none, false, [], [⟨5, 1, 0, 0, 0, [], 0, 0, 0⟩]⟩ s = .transient ∧
    RepeatReads.poisoned ⟨5, 1, 0, 0, 0, [], 0, 0, 0⟩ = false := by decide +kernel

theorem witness_hold_points : pointOk 1 63 = false ∧ pointOk 1 64 = true ∧ pointOk 6 63 = true ∧ ahead 1 lates = true := by
  decide +kernel

theorem witness_holds_more :
    (let h : Hold := ⟨9, .none, some 1024, 0, 0⟩
     (held [h]).tide.holds[0]? = some h ∧ slackFits 0 1024 (held [h]) = true ∧ (held [h]).tide.servingDue = false ∧
       (held [h]).tide.epochDue = false ∧ (held [h]).tide.stepDue = false ∧
       (let s := { due false false true with tide := { (due false false true).tide with holds := [h] } }
        s.awake = true ∧ s.tide.dp = .running ∧ s.tide.holds[0]? = some h ∧ slackFits 0 1024 s = true ∧ s.tide.stepDue = true)) ∧
    (let h : Hold := ⟨3, .link 0, none, 5, 5⟩
     let s : State := { loaded .halted 3 with tide := { (loaded .halted 3).tide with halt := .fault, lapsed := [h] } }
     s.awake = true ∧ s.tide.holds[0]? = none ∧ s.tide.lapsed[0]? = some h ∧ s.tide.dp = .halted ∧ s.tide.halt = .fault ∧
       (holdTimeout h.cause.toNat).isSome = true) ∧
    (let s := held [⟨3, .link 0, none, 0, 0⟩, ⟨1, .comb 5, none, 10, 10⟩]
     s.tide.holds[1]? = some ⟨1, .comb 5, none, 10, 10⟩ ∧ slackFits 1 20 s = true ∧
       ∀ m ∈ holdLeft ⟨1, .comb 5, none, 10, 10⟩, 20 < m) := by decide +kernel

/-- At the end of a tide with throttle 15. -/
def throttled (n : BitVec 64) : State :=
  let s := crossing (at_ n)
  { s with tide := { s.tide with throttleK := 15 } }

theorem witness_boundaries_more :
    (gatePasses tiny (crossing (at_ 4)) = true ∧ lastTide tiny (crossing (at_ 4)) = true) ∧
    (counting (throttled 3) = true ∧ gatePasses tiny (throttled 3) = true ∧ lastTide tiny (throttled 3) = false ∧
      throttleDue (throttled 3).tide.number.toNat (throttled 3).tide.throttleK.toNat = true ∧
      throttleDue (throttled 3).tide.number.toNat 0 = false) ∧
    ((due true true false).tide.dp = .running ∧ (due true true false).tide.epochDue = true ∧
      (due true true false).tide.servingDue = true) := by decide +kernel

/-- The descriptor's rows of comb 5 at their dot: nothing wrong, and with the scale rows past the end of the scratchpad. -/
def dottingWrong : State :=
  let s := withStreams .running [stream 3 .decode]
  coded (word 1 0 (2 ^ 64 + 8 * 2 ^ 60)) (rec_ 256 [(0, 64), (32, 2621440), (120, 1)])
    { s with str := { s.str with slots := (List.replicate 256 none).set 0 (some (0, 0)) } }

theorem witness_dot_faults :
    (let u := issued (issue 0) (.dot dot) dotting
     dotFaults (issue 0) dot u = [] ∧ (issue 0).parity = [] ∧
       (replaysOf (issue 0) dot ⟨1, 0⟩ (slotDeclaration (dotting.comb 5)) (dotSide false 5 dot (slotDeclaration (dotting.comb 5)) u)
         (dotSide true 5 dot (slotDeclaration (dotting.comb 5)) u) [] []).length ≤ 4096 ∧
       (dotSide true 5 dot (slotDeclaration (dotting.comb 5)) u).vectors ≠ [] ∧
       (dotSide false 5 dot (slotDeclaration (dotting.comb 5)) u).vectors ≠ []) ∧
    canIssue (issue 0) (.dot dot) dottingWrong = true ∧ rowsReady 5 (dotRows (issue 0) dot dottingWrong) dottingWrong = true ∧
    dotFaults (issue 0) dot (issued (issue 0) (.dot dot) dottingWrong) ≠ [] := by decide +kernel

theorem witness_emit_more :
    (let o := emit true 1
     let s := setComb 5 (fun c => { c with shape := [] }) (dotted o)
     canIssue (issue 0) (.emit o) s = true ∧ rowsReady 5 (emitRows (issue 0) o s) s = true ∧ (s.comb 5).fallback = [] ∧
       regionPartials (s.comb 5) 0 = none) ∧
    (let o := emit false 9
     canIssue (issue 0) (.emit o) (dotted o) = true ∧ rowsReady 5 (emitRows (issue 0) o (dotted o)) (dotted o) = true ∧
       ((dotted o).comb 5).fallback = [] ∧ flowRuns 2 9 (issued (issue 0) (.emit o) (dotted o)) = false) := by decide +kernel

theorem witness_fabric_send :
    let o := port true
    let u := issued (issue 0) (.fabric o) (porting o)
    (sendReads (issue 0) o u).flatMap (rowFaults (issue 0) 3 u) ++ bankFaults (issue 0) 3 (bankCycles false (sendReads (issue 0) o u)) u = [] ∧
    ((porting o).comb 5).mends = [] := by decide +kernel

/-- A replay window that closes in slack, at its place and elsewhere. -/
def closing (p : Nat) : State :=
  { replays with tide := { replays.tide with holds := [⟨1, .comb 5, none, 0, 0⟩], tideCycle := BitVec.ofNat 13 p } }

theorem witness_window_in_slack :
    ∀ p ∈ [110, 109], (closing p).awake = true ∧ (closing p).tide.dp = .running ∧ ((closing p).comb 5).windowOpen = true ∧
      replayReady 5 (closing p) = true ∧ windowLength (closing p) = 100 ∧ windowEnd 5 100 (closing p) = 110 ∧
      phaseCycle (closing p) = p := by decide +kernel

/-- The tiny image with four descriptors, and comb 5 with the last of them unreadable. -/
def described : Image := { tiny with vgrid := [rec_ 256 [(252, 9), (231, 4), (220, 4), (156, 2)]] }
def unreadable : State :=
  let s := combed fun c => { c with code := [(9 * descriptorSlot 3, 3)] }
  { s with img := { s.img with image := some described } }

theorem witness_mend_unreadable :
    (let s := unreadable
     let at_ := codeOffset described s.img.place (vcombOn 5 s) + (16 * (programWords described (vcombOn 5 s)).length + 32 * 3)
     3 < (descriptorWords described (vcombOn 5 s)).length ∧ mapped 5 s = true ∧ (readSlots (s.comb 5).code (descriptorSlot 3) 4).any (·.uncorrectable) = true ∧
       (readUnits (dieOf 5) (codeUnit tiny s.img.place (dieOf 5) + at_ / 64) ((at_ % 64 + 8 * 4 + 63) / 64) s).1.any (·.2) = false) ∧
    (readSlots (runs.comb 5).code (descriptorSlot 3) 4).any (·.uncorrectable) = false := by decide +kernel

/-- Row 0 of comb 5, mended twice in the epoch, does not read. -/
def mendedTwice : State := combed fun c => { c with mem := [(0, 3)], mends := [0, 0] }

theorem witness_scrub_again :
    ((readRow (mendedTwice.comb 5).mem 0).any (·.uncorrectable)) = true ∧ 2 ≤ (mendedTwice.comb 5).mends.count 0 ∧
    resident 5 0 mendedTwice = true := by decide +kernel

theorem witness_shelf_uncorrectable :
    let s := setStack 1 (fun k => { k with mem := [(9 * 24, 3)] }) runs
    ((readUnit (s.stack 1).mem 3).any (·.uncorrectable)) = true ∧ (s.stack 1).lost = false := by decide +kernel

theorem witness_decided : ({ runs with str := { runs.str with decided := true } } : State).str.decided = true ∧
    runs.str.decided = false := ⟨rfl, rfl⟩

end Sys2Proof.Tests
end

namespace Sys2Proof.Machine

/-! ## Reset (R15, R430, R431) -/

/-- Every scratchpad, program memory and stack is empty after reset. -/
theorem reset_memoryWf : State.reset.memoryWf := by
  refine ⟨fun c hc => ?_, fun k hk => ?_⟩
  · rw [List.eq_of_mem_replicate hc]
    exact ⟨Memory.wf_nil, Memory.wf_nil⟩
  · rw [List.eq_of_mem_replicate hk]
    exact Memory.wf_nil

/-- Settles O3: each field is read from the reset state, and the sizes are those of its lists of equal units. -/
theorem resetIsDarkAndUnclaimed : Obligations.ResetIsDarkAndUnclaimed := by
  unfold Obligations.ResetIsDarkAndUnclaimed
  refine ⟨?_, reset_memoryWf⟩
  refine ⟨rfl, rfl, rfl, rfl, rfl, rfl, rfl, rfl, rfl, rfl, rfl, rfl, rfl, rfl, rfl, rfl, rfl, rfl, rfl, rfl, rfl, rfl, ?sizes⟩
  case sizes =>
    exact ⟨List.length_replicate, List.length_replicate, List.length_replicate, List.length_replicate, List.length_replicate,
      List.length_replicate⟩

end Sys2Proof.Machine

namespace Sys2Proof.Machine

/-! ## Bits of a number and of the fields of a word

A write of fields and a latch class both end in `mergeFields`. Read bit by bit, it takes the bits that a field of its list
holds from one number and every other bit from the other, in whatever order the fields stand. -/

/-- Bit b stands in one of the fields. -/
def inFields (fs : List FieldSpec) (b : Nat) : Bool := fs.any fun f => decide (f.lo ≤ b) && decide (b ≤ f.hi)

theorem inFields_iff {fs : List FieldSpec} {b : Nat} : inFields fs b = true ↔ ∃ f ∈ fs, f.lo ≤ b ∧ b ≤ f.hi := by
  simp [inFields]

theorem testBit_nbits (v hi lo k : Nat) : (nbits v hi lo).testBit k = (decide (k < hi + 1 - lo) && v.testBit (lo + k)) := by
  simp [nbits, Nat.testBit_mod_two_pow, Nat.testBit_shiftRight]

theorem nbits_congr {v w hi lo : Nat} (h : ∀ b, lo ≤ b → b ≤ hi → v.testBit b = w.testBit b) : nbits v hi lo = nbits w hi lo := by
  refine Nat.eq_of_testBit_eq fun k => ?_
  rw [testBit_nbits, testBit_nbits]
  by_cases hk : k < hi + 1 - lo
  · rw [h (lo + k) (by omega) (by omega)]
  · simp [hk]

/-- Below, within and above the bits replaced, `nset` is a number put together from three parts. -/
theorem nset_eq (v hi lo x : Nat) :
    nset v hi lo x
      = 2 ^ lo * (2 ^ (hi + 1 - lo) * ((v >>> lo) / 2 ^ (hi + 1 - lo)) + x % 2 ^ (hi + 1 - lo)) + v % 2 ^ lo := by
  have hv : 2 ^ lo * (v >>> lo) + v % 2 ^ lo = v := by rw [Nat.shiftRight_eq_div_pow]; exact Nat.div_add_mod v (2 ^ lo)
  have hm : 2 ^ (hi + 1 - lo) * ((v >>> lo) / 2 ^ (hi + 1 - lo)) + nbits v hi lo = v >>> lo := Nat.div_add_mod _ _
  unfold nset
  generalize (v >>> lo) / 2 ^ (hi + 1 - lo) = c at *
  rw [← hm, Nat.mul_add] at hv
  rw [Nat.mul_add, Nat.mul_comm (nbits v hi lo), Nat.mul_comm (x % _)]
  omega

theorem testBit_nset (v hi lo x b : Nat) :
    (nset v hi lo x).testBit b = if lo ≤ b ∧ b ≤ hi then x.testBit (b - lo) else v.testBit b := by
  rw [nset_eq, Nat.testBit_two_pow_mul_add _ (Nat.mod_lt v (Nat.two_pow_pos lo)),
    Nat.testBit_two_pow_mul_add _ (Nat.mod_lt x (Nat.two_pow_pos _))]
  by_cases hlo : b < lo
  · have hout : ¬(lo ≤ b ∧ b ≤ hi) := by omega
    simp [hlo, hout, Nat.testBit_mod_two_pow]
  · by_cases hhi : b ≤ hi
    · have hin : b - lo < hi + 1 - lo := by omega
      have hle : lo ≤ b := by omega
      simp [hlo, hle, hhi, hin, Nat.testBit_mod_two_pow]
    · have hin : ¬ b - lo < hi + 1 - lo := by omega
      have hat : lo + (hi + 1 - lo + (b - lo - (hi + 1 - lo))) = b := by omega
      simp [hlo, hhi, hin, Nat.testBit_div_two_pow, Nat.testBit_shiftRight]
      congr 1
      omega

theorem testBit_nset_nbits (v hi lo x b : Nat) :
    (nset v hi lo (nbits x hi lo)).testBit b = if lo ≤ b ∧ b ≤ hi then x.testBit b else v.testBit b := by
  rw [testBit_nset]
  split
  next h =>
    have hk : b - lo < hi + 1 - lo := by omega
    have hb : lo + (b - lo) = b := by omega
    simp [testBit_nbits, hk, hb]
  next => rfl

theorem testBit_mergeFields (fs : List FieldSpec) (old x b : Nat) :
    (mergeFields fs old x).testBit b = if inFields fs b then x.testBit b else old.testBit b := by
  induction fs generalizing old with
  | nil => rfl
  | cons f fs ih =>
    have step : mergeFields (f :: fs) old x = mergeFields fs (nset old f.hi f.lo (nbits x f.hi f.lo)) x := rfl
    rw [step, ih, testBit_nset_nbits]
    have cons : inFields (f :: fs) b = (decide (f.lo ≤ b ∧ b ≤ f.hi) || inFields fs b) := by simp [inFields]
    rw [cons]
    by_cases hf : f.lo ≤ b ∧ b ≤ f.hi
    · simp [hf]
    · simp [hf]

/-! ## The fields of R368 -/

/-- The fields of a word stand apart, the most significant first (R366). -/
theorem wordFields_descend (n : Nat) : (wordFields n).Pairwise fun f g => g.hi < f.lo := by
  unfold wordFields
  split <;> decide

theorem wordFields_width (n : Nat) : ∀ f ∈ wordFields n, f.hi < wordBits n := by
  unfold wordFields
  split <;> simp [wordBits]

theorem inFields_width {n b : Nat} (h : inFields (wordFields n) b = true) : b < wordBits n := by
  obtain ⟨f, hf, -, hb⟩ := inFields_iff.mp h
  have := wordFields_width n f hf
  omega

/-- A bit stands in one field only. -/
theorem field_number_unique {n k m b : Nat} {f g : FieldSpec} (hf : (wordFields n)[k]? = some f) (hg : (wordFields n)[m]? = some g)
    (hfb : f.lo ≤ b ∧ b ≤ f.hi) (hgb : g.lo ≤ b ∧ b ≤ g.hi) : k = m := by
  obtain ⟨hk, rfl⟩ := List.getElem?_eq_some_iff.mp hf
  obtain ⟨hm, rfl⟩ := List.getElem?_eq_some_iff.mp hg
  have apart := List.pairwise_iff_getElem.mp (wordFields_descend n)
  rcases Nat.lt_trichotomy k m with h | h | h
  · have := apart k m hk hm h
    omega
  · exact h
  · have := apart m k hm hk h
    omega

theorem field_unique {n b : Nat} {f g : FieldSpec} (hf : f ∈ wordFields n) (hg : g ∈ wordFields n)
    (hfb : f.lo ≤ b ∧ b ≤ f.hi) (hgb : g.lo ≤ b ∧ b ≤ g.hi) : f = g := by
  obtain ⟨k, hk⟩ := List.mem_iff_getElem?.mp hf
  obtain ⟨m, hm⟩ := List.mem_iff_getElem?.mp hg
  obtain rfl := field_number_unique hk hm hfb hgb
  exact Option.some.inj (hk.symm.trans hm)

theorem mem_selected {mask : Nat} {fs : List FieldSpec} {f : FieldSpec} :
    f ∈ selected mask fs ↔ ∃ k, fs[k]? = some f ∧ mask.testBit k = true := by
  simp only [selected, List.mem_map, List.mem_filter, List.mem_zipIdx_iff_getElem?, Prod.exists]
  constructor
  · rintro ⟨g, k, ⟨hg, hm⟩, rfl⟩
    exact ⟨k, hg, hm⟩
  · rintro ⟨k, hk, hm⟩
    exact ⟨f, k, ⟨hk, hm⟩, rfl⟩

theorem inFields_of_selected {mask b : Nat} {fs : List FieldSpec} (h : inFields (selected mask fs) b = true) : inFields fs b = true := by
  obtain ⟨f, hf, hb⟩ := inFields_iff.mp h
  obtain ⟨k, hk, -⟩ := mem_selected.mp hf
  exact inFields_iff.mpr ⟨f, List.mem_of_getElem? hk, hb⟩

theorem inFields_of_filter {p : FieldSpec → Bool} {b : Nat} {fs : List FieldSpec} (h : inFields (fs.filter p) b = true) :
    inFields fs b = true := by
  obtain ⟨f, hf, hb⟩ := inFields_iff.mp h
  exact inFields_iff.mpr ⟨f, List.mem_of_mem_filter hf, hb⟩

/-- A bit of field k is written where the mask selects field k. -/
theorem inFields_selected {n k mask b : Nat} {f : FieldSpec} (hf : (wordFields n)[k]? = some f) (hb : f.lo ≤ b ∧ b ≤ f.hi) :
    inFields (selected mask (wordFields n)) b = mask.testBit k := by
  rw [Bool.eq_iff_iff, inFields_iff]
  constructor
  · rintro ⟨g, hg, hgb⟩
    obtain ⟨m, hm, hsel⟩ := mem_selected.mp hg
    rwa [field_number_unique hf hm hb hgb]
  · intro hsel
    exact ⟨f, mem_selected.mpr ⟨k, hf, hsel⟩, hb⟩

/-- A bit of a field latches with a class where the field does. -/
theorem inFields_latch {n b : Nat} {l : Latch} {f : FieldSpec} (hf : f ∈ wordFields n) (hb : f.lo ≤ b ∧ b ≤ f.hi) :
    inFields ((wordFields n).filter (·.latch = l)) b = decide (f.latch = l) := by
  rw [Bool.eq_iff_iff, inFields_iff, decide_eq_true_eq]
  constructor
  · rintro ⟨g, hg, hgb⟩
    obtain ⟨hgn, hl⟩ := List.mem_filter.mp hg
    rw [field_unique hf hgn hb hgb]
    exact of_decide_eq_true hl
  · intro hl
    exact ⟨f, List.mem_filter.mpr ⟨hf, decide_eq_true hl⟩, hb⟩

/-- Outside word 6 the T fields stand in the words that `latchT` goes through. -/
theorem latchT_words {n : Nat} {f : FieldSpec} (hn : n ≤ 14) (hf : f ∈ wordFields n) (hl : f.latch = .t) : n ∈ [4, 7, 8, 14] := by
  have all : ∀ n ≤ 14, ∀ f ∈ wordFields n, f.latch = .t → n ∈ [4, 7, 8, 14] := by decide
  exact all n hn f hf hl

/-- Outside word 6 the E fields stand in the words that `latchE` goes through. -/
theorem latchE_words {n : Nat} {f : FieldSpec} (hn : n ≤ 14) (h6 : n ≠ 6) (hf : f ∈ wordFields n) (hl : f.latch = .e) :
    n ∈ [2, 3, 8, 9, 10, 13] := by
  have all : ∀ n ≤ 14, n ≠ 6 → ∀ f ∈ wordFields n, f.latch = .e → n ∈ [2, 3, 8, 9, 10, 13] := by decide
  exact all n hn h6 f hf hl

/-- Word 6 holds E fields alone (R368). -/
theorem word6_latches {f : FieldSpec} (hf : f ∈ wordFields 6) : f.latch = .e := by
  have all : ∀ f ∈ wordFields 6, f.latch = .e := by decide
  exact all f hf

theorem maskKind_word6 {mask : Nat} (h : selected mask (wordFields 6) ≠ []) : maskKind 6 mask ≠ 0 := by
  obtain ⟨f, hf⟩ := List.exists_mem_of_ne_nil _ h
  obtain ⟨k, hk, -⟩ := mem_selected.mp hf
  have hany : ((selected mask (wordFields 6)).any (·.latch = .e)) = true :=
    List.any_eq_true.mpr ⟨f, hf, decide_eq_true (word6_latches (List.mem_of_getElem? hk))⟩
  simp [maskKind, hany]

/-! ## Reading a word after a write -/

/-- Outside word 6 an index has no meaning. -/
theorem Words.get_index (w : Words) {n : Nat} (h6 : n ≠ 6) (i j : Nat) : w.get n i = w.get n j := by
  unfold Words.get
  split <;> first | rfl | exact absurd rfl h6

theorem toNat_lt_of_width {k w : Nat} (x : BitVec w) (h : w = k) : x.toNat < 2 ^ k := h ▸ x.isLt

theorem toNat_ofNat_of_width {k w : Nat} (v : Nat) (h : w = k) : (BitVec.ofNat w v).toNat = v % 2 ^ k := h ▸ BitVec.toNat_ofNat v w

theorem Words.get_lt (w : Words) (n j : Nat) : w.get n j < 2 ^ wordBits n := by
  unfold Words.get
  split
  case h_15 => exact Nat.two_pow_pos _
  all_goals exact toNat_lt_of_width _ rfl

theorem Words.testBit_get_beyond (w : Words) {n b : Nat} (j : Nat) (h : wordBits n ≤ b) : (w.get n j).testBit b = false :=
  Nat.testBit_lt_two_pow (Nat.lt_of_lt_of_le (w.get_lt n j) (Nat.pow_le_pow_right Nat.two_pos h))

theorem Words.get_put_other (w : Words) {n m : Nat} (h : m ≠ n) (i j v : Nat) : (w.put n i v).get m j = w.get m j := by
  unfold Words.put
  split <;> (unfold Words.get; split <;> first | rfl | exact absurd rfl h)

theorem Words.put_combs (w : Words) (n i v : Nat) : (w.put n i v).w6.length = w.w6.length := by
  unfold Words.put
  split
  case h_6 => dsimp only; split <;> simp
  all_goals rfl

theorem Words.get_put_comb {w : Words} {k j : Nat} (hk : k < 96) (hj : j < 96) (hl : w.w6.length = 96) (v : Nat) :
    (w.put 6 k v).get 6 j = if k = j then v % 2 ^ wordBits 6 else w.get 6 j := by
  have hk' : k ≠ 0xFFFF := by omega
  have hj' : j ≠ 0xFFFF := by omega
  simp only [Words.put, Words.get, hk', hj', if_false, nth, List.getD_eq_getElem?_getD, List.getElem?_set, hl, hk, if_true]
  split
  next => exact BitVec.toNat_ofNat v 8
  next => rfl

/-- An index of word 6 is a comb's (R368). -/
def combIndex (n k : Nat) : Prop := n = 6 → k < 96

/-- After a write of word n at k, index j reads the value written where it names the same word, and as before elsewhere. -/
theorem Words.get_put {w : Words} {n k j : Nat} (h1 : 1 ≤ n) (h14 : n ≤ 14) (hk : combIndex n k) (hj : combIndex n j)
    (hl : n = 6 → w.w6.length = 96) (v : Nat) :
    (w.put n k v).get n j = if n ≠ 6 ∨ k = j then v % 2 ^ wordBits n else w.get n j := by
  by_cases h6 : n = 6
  · subst h6
    simpa using Words.get_put_comb (hk rfl) (hj rfl) (hl rfl) v
  · rw [if_pos (.inl h6)]
    interval_cases n <;> first | exact absurd rfl h6 | (simp only [Words.put, Words.get]; exact toNat_ofNat_of_width v rfl)

/-- Word n with fields taken from x at each of the indices, as a word write goes through them (R366, R368). -/
def putFields (n : Nat) (fs : List FieldSpec) (x : Nat) (ks : List Nat) (w : Words) : Words :=
  ks.foldl (fun w k => w.put n k (mergeFields fs (w.get n k) x)) w

theorem testBit_put_mergeFields {w : Words} {n k j b : Nat} {fs : List FieldSpec} (h1 : 1 ≤ n) (h14 : n ≤ 14)
    (hk : combIndex n k) (hj : combIndex n j) (hl : n = 6 → w.w6.length = 96)
    (hfs : inFields fs b = true → inFields (wordFields n) b = true) (x : Nat) :
    ((w.put n k (mergeFields fs (w.get n k) x)).get n j).testBit b =
      if (n ≠ 6 ∨ k = j) ∧ inFields fs b = true then x.testBit b else (w.get n j).testBit b := by
  rw [Words.get_put h1 h14 hk hj hl]
  by_cases hs : n ≠ 6 ∨ k = j
  · have hget : w.get n k = w.get n j := by
      by_cases h6 : n = 6
      · rw [hs.resolve_left (not_not_intro h6)]
      · exact w.get_index h6 k j
    rw [if_pos hs, hget, Nat.testBit_mod_two_pow, testBit_mergeFields]
    by_cases hb : inFields fs b = true
    · have := inFields_width (hfs hb)
      simp [hs, hb, this]
    · by_cases hw : b < wordBits n
      · simp [hb, hw]
      · simp [hb, hw, w.testBit_get_beyond j (Nat.le_of_not_lt hw)]
  · simp [hs]

theorem testBit_putFields {n j b : Nat} {fs : List FieldSpec} (h1 : 1 ≤ n) (h14 : n ≤ 14) (hj : combIndex n j)
    (hfs : inFields fs b = true → inFields (wordFields n) b = true) (x : Nat) {ks : List Nat} (hks : ∀ k ∈ ks, combIndex n k)
    {w : Words} (hl : n = 6 → w.w6.length = 96) :
    ((putFields n fs x ks w).get n j).testBit b =
      if (∃ k ∈ ks, n ≠ 6 ∨ k = j) ∧ inFields fs b = true then x.testBit b else (w.get n j).testBit b := by
  induction ks generalizing w with
  | nil => simp [putFields]
  | cons k ks ih =>
    have cons : putFields n fs x (k :: ks) w = putFields n fs x ks (w.put n k (mergeFields fs (w.get n k) x)) := rfl
    rw [cons, ih (fun m hm => hks m (List.mem_cons_of_mem k hm)) (fun h => (w.put_combs n k _).trans (hl h)),
      testBit_put_mergeFields h1 h14 (hks k List.mem_cons_self) hj hl hfs]
    by_cases hb : inFields fs b = true
    · by_cases hs : n ≠ 6 ∨ k = j
      · simp [hb, hs]
      · simp [hb, hs]
    · simp [hb]

theorem putFields_get_other {n m : Nat} (h : m ≠ n) (fs : List FieldSpec) (x : Nat) (ks : List Nat) (j : Nat) (w : Words) :
    (putFields n fs x ks w).get m j = w.get m j :=
  foldl_keeps (fun w : Words => w.get m j) _ (fun w k => w.get_put_other h k j _) ks w

/-! ## Latch classes (R16, R17) -/

/-- The fields of one class taken from the committed words, one word after another. -/
def latchWords (l : Latch) (ns : List Nat) (committed live : Words) : Words :=
  ns.foldl (fun w n => latchWord l n 0 w committed) live

theorem latchWord_get_other {n m : Nat} (h : m ≠ n) (l : Latch) (i j : Nat) (live committed : Words) :
    (latchWord l n i live committed).get m j = live.get m j := live.get_put_other h i j _

theorem testBit_latchWord {n b : Nat} (h1 : 1 ≤ n) (h14 : n ≤ 14) (h6 : n ≠ 6) (l : Latch) (live committed : Words) :
    ((latchWord l n 0 live committed).get n 0).testBit b =
      if inFields ((wordFields n).filter (·.latch = l)) b = true then (committed.get n 0).testBit b else (live.get n 0).testBit b := by
  have h := testBit_put_mergeFields (w := live) (k := 0) (j := 0) (b := b) (fs := (wordFields n).filter (·.latch = l)) h1 h14
    (fun e => absurd e h6) (fun e => absurd e h6) (fun e => absurd e h6) inFields_of_filter (committed.get n 0)
  simpa [latchWord, h6] using h

/-- Going through several words latches the class in each of them and in no other. -/
theorem testBit_latchWords {n b : Nat} (h1 : 1 ≤ n) (h14 : n ≤ 14) (h6 : n ≠ 6) (l : Latch) (ns : List Nat)
    (live committed : Words) :
    ((latchWords l ns committed live).get n 0).testBit b =
      if n ∈ ns ∧ inFields ((wordFields n).filter (·.latch = l)) b = true then (committed.get n 0).testBit b
      else (live.get n 0).testBit b := by
  induction ns generalizing live with
  | nil => simp [latchWords]
  | cons m ns ih =>
    have cons : latchWords l (m :: ns) committed live = latchWords l ns committed (latchWord l m 0 live committed) := rfl
    rw [cons, ih]
    by_cases hm : n = m
    · subst hm
      rw [testBit_latchWord h1 h14 h6]
      by_cases hb : inFields ((wordFields n).filter (·.latch = l)) b = true
      · simp [hb]
      · simp [hb]
    · rw [latchWord_get_other hm]
      simp [hm]

/-- A field reads as committed after its class has latched in its word, and as before otherwise. -/
theorem nbits_latchWords {n : Nat} {f : FieldSpec} (h1 : 1 ≤ n) (h14 : n ≤ 14) (h6 : n ≠ 6) (hf : f ∈ wordFields n) (l : Latch)
    (ns : List Nat) (live committed : Words) :
    nbits ((latchWords l ns committed live).get n 0) f.hi f.lo =
      if n ∈ ns ∧ f.latch = l then nbits (committed.get n 0) f.hi f.lo else nbits (live.get n 0) f.hi f.lo := by
  have hbit : ∀ b, f.lo ≤ b → b ≤ f.hi → ((latchWords l ns committed live).get n 0).testBit b =
      if n ∈ ns ∧ f.latch = l then (committed.get n 0).testBit b else (live.get n 0).testBit b := by
    intro b hlo hhi
    simp [testBit_latchWords h1 h14 h6, inFields_latch hf ⟨hlo, hhi⟩]
  split
  next h => exact nbits_congr fun b hlo hhi => by rw [hbit b hlo hhi, if_pos h]
  next h => exact nbits_congr fun b hlo hhi => by rw [hbit b hlo hhi, if_neg h]

theorem latchT_eq (late : List Nat) (live committed : Words) :
    latchT late live committed = latchWords .t ([4, 7, 8, 14].filter (· ∉ late)) committed live := by
  rw [latchWords, List.foldl_filter]
  simp [latchT]

theorem latchE_get {n : Nat} (h6 : n ≠ 6) (j : Nat) (late : List Nat) (live committed : Words) :
    (latchE late live committed).get n j =
      (latchWords .t late committed (latchWords .e [2, 3, 8, 9, 10, 13] committed live)).get n j := by
  unfold Words.get
  split <;> first | rfl | exact absurd rfl h6

/-- The T fields of the words that are not late take effect (R16, R21). -/
theorem nbits_latchT {n : Nat} {f : FieldSpec} (h1 : 1 ≤ n) (h14 : n ≤ 14) (h6 : n ≠ 6) (hf : f ∈ wordFields n) (late : List Nat)
    (live committed : Words) :
    nbits ((latchT late live committed).get n 0) f.hi f.lo =
      nbits ((if f.latch = .t ∧ n ∉ late then committed else live).get n 0) f.hi f.lo := by
  rw [latchT_eq, nbits_latchWords h1 h14 h6 hf]
  by_cases hl : f.latch = .t
  · have hn := latchT_words h14 hf hl
    by_cases hlate : n ∈ late
    · simp [hl, hlate]
    · simp only [List.mem_filter, hn, hlate, hl]
      simp
  · simp [hl]

/-- The E fields take effect, and the T fields of the words that are late with them (R16, R21). -/
theorem nbits_latchE {n : Nat} {f : FieldSpec} (h1 : 1 ≤ n) (h14 : n ≤ 14) (h6 : n ≠ 6) (hf : f ∈ wordFields n) (late : List Nat)
    (live committed : Words) :
    nbits ((latchE late live committed).get n 0) f.hi f.lo =
      nbits ((if f.latch = .e ∨ (f.latch = .t ∧ n ∈ late) then committed else live).get n 0) f.hi f.lo := by
  rw [latchE_get h6, nbits_latchWords h1 h14 h6 hf, nbits_latchWords h1 h14 h6 hf]
  cases hl : f.latch with
  | t => by_cases hlate : n ∈ late <;> simp [hlate]
  | e =>
    have hn := latchE_words h14 h6 hf hl
    simp only [hn]
    simp
  | q => simp

/-! ## A word write (R20, R366) -/

theorem combIndex_wordIndices {n i j : Nat} (hj : combIndex n j) (hi : n = 6 → i = j ∨ i = 0xFFFF) :
    ∀ k ∈ wordIndices n i, combIndex n k := by
  intro k hk h6
  unfold wordIndices at hk
  split at hk
  next => exact List.mem_range.mp hk
  next hall =>
    rw [List.mem_singleton.mp hk, (hi h6).resolve_right fun h => hall ⟨h6, h⟩]
    exact hj h6

theorem wordIndices_names {n i j : Nat} (hj : combIndex n j) (hi : n = 6 → i = j ∨ i = 0xFFFF) :
    ∃ k ∈ wordIndices n i, n ≠ 6 ∨ k = j := by
  by_cases h6 : n = 6
  · rcases hi h6 with rfl | rfl
    · have hne : ¬(n = 6 ∧ i = 0xFFFF) := fun h => absurd (hj h6) (by omega)
      exact ⟨i, by simp [wordIndices, hne], .inr rfl⟩
    · exact ⟨j, by simp [wordIndices, h6, hj h6], .inr rfl⟩
  · exact ⟨i, by simp [wordIndices, h6], .inl h6⟩

section Write

variable {n i j mask : Nat} (x : Nat) {s : State}

theorem applyWord_words : (applyWord n i mask x s).cfg.words =
    putFields n (selected mask (wordFields n)) x (wordIndices n i) s.cfg.words := rfl

theorem applyWord_live : (applyWord n i mask x s).live =
    if maskKind n mask = 0 then latchWord .q n i s.live (applyWord n i mask x s).cfg.words else s.live := rfl

/-- The committed word takes from x the bits of the selected fields alone. -/
theorem testBit_applyWord (h1 : 1 ≤ n) (h14 : n ≤ 14) (hj : combIndex n j) (hi : n = 6 → i = j ∨ i = 0xFFFF)
    (hl : n = 6 → s.cfg.words.w6.length = 96) (b : Nat) :
    ((applyWord n i mask x s).cfg.words.get n j).testBit b =
      if inFields (selected mask (wordFields n)) b = true then x.testBit b else (s.cfg.words.get n j).testBit b := by
  rw [applyWord_words, testBit_putFields h1 h14 hj inFields_of_selected x (combIndex_wordIndices hj hi) hl]
  simp only [wordIndices_names hj hi, true_and]

theorem nbits_applyWord {k : Nat} {f : FieldSpec} (h1 : 1 ≤ n) (h14 : n ≤ 14) (hj : combIndex n j)
    (hi : n = 6 → i = j ∨ i = 0xFFFF) (hl : n = 6 → s.cfg.words.w6.length = 96) (hf : (wordFields n)[k]? = some f) :
    nbits ((applyWord n i mask x s).cfg.words.get n j) f.hi f.lo =
      nbits (if mask.testBit k then x else s.cfg.words.get n j) f.hi f.lo := by
  refine nbits_congr fun b hlo hhi => ?_
  rw [testBit_applyWord x h1 h14 hj hi hl, inFields_selected hf ⟨hlo, hhi⟩]
  split <;> rfl

/-- Word 6 holds no Q field, so that a write of Q fields is of another word. -/
theorem maskKind_zero_word (hsel : selected mask (wordFields n) ≠ []) (hq : maskKind n mask = 0) : n ≠ 6 := by
  rintro rfl
  exact maskKind_word6 hsel hq

/-- Q fields are in force at once; where the write selects T or E fields nothing is (R20, R21). -/
theorem nbits_applyWord_live {f : FieldSpec} (h1 : 1 ≤ n) (h14 : n ≤ 14) (h0 : n ≠ 6 → i = 0 ∧ j = 0)
    (hsel : selected mask (wordFields n) ≠ []) (hf : f ∈ wordFields n) :
    nbits ((applyWord n i mask x s).live.get n j) f.hi f.lo =
      nbits ((if maskKind n mask = 0 ∧ f.latch = .q then (applyWord n i mask x s).cfg.words else s.live).get n j) f.hi f.lo := by
  rw [applyWord_live]
  by_cases hq : maskKind n mask = 0
  · have h6 := maskKind_zero_word hsel hq
    obtain ⟨rfl, rfl⟩ := h0 h6
    have h := nbits_latchWords h1 h14 h6 hf .q [n] s.live (applyWord n 0 mask x s).cfg.words
    rw [if_pos hq]
    by_cases hl : f.latch = .q <;> simpa [hq, hl, latchWords] using h
  · simp [hq]

theorem applyWord_get_other {m : Nat} (hm : m ≠ n) (k : Nat) :
    (applyWord n i mask x s).cfg.words.get m k = s.cfg.words.get m k ∧ (applyWord n i mask x s).live.get m k = s.live.get m k := by
  refine ⟨putFields_get_other hm _ x _ k _, ?_⟩
  rw [applyWord_live]
  split
  next => exact latchWord_get_other hm .q i k _ _
  next => rfl

/-- A write of one comb's byte leaves the others (R368). -/
theorem applyWord_other_comb {k : Nat} (hj : j < 96) (hk : k < 96) (hne : k ≠ j) (hl : s.cfg.words.w6.length = 96) :
    (applyWord 6 j mask x s).cfg.words.get 6 k = s.cfg.words.get 6 k := by
  have hone : wordIndices 6 j = [j] := if_neg fun h => absurd h.2 (by omega)
  rw [applyWord_words, hone]
  exact (Words.get_put_comb hj hk hl _).trans (if_neg (Ne.symm hne))

end Write

/-- Settles O16: a write and a latch are both `mergeFields`, read bit by bit; the fields of a word stand apart, so that a
field follows the one list of fields or the other as a whole. -/
theorem wordFieldsLatchByClass : Obligations.WordFieldsLatchByClass := by
  unfold Obligations.WordFieldsLatchByClass
  refine ⟨fun n i j mask x s h1 h14 h6 h0 hsel hcfg _ => ?_, fun n late live new h1 h14 h6 => ?_⟩
  · have hj : combIndex n j := fun h => (h6 h).1
    have hi : n = 6 → i = j ∨ i = 0xFFFF := fun h => (h6 h).2
    refine ⟨fun k f hf => ?_, fun b hb => ?_, fun m k _ _ hm => applyWord_get_other x hm k, ?_⟩
    · have hlive := nbits_applyWord_live x (s := s) h1 h14 h0 hsel (List.mem_of_getElem? hf)
      refine ⟨nbits_applyWord x h1 h14 hj hi (fun _ => hcfg) hf, fun hq hl => ?_, fun hl => ?_⟩
      · rw [hlive, if_pos ⟨hq, hl⟩]
      · rw [hlive, if_neg fun h => hl h.2]
    · have hout : ¬ inFields (selected mask (wordFields n)) b = true := by
        intro h
        obtain ⟨f, hf, hlo, hhi⟩ := inFields_iff.mp (inFields_of_selected h)
        rcases hb f hf with h | h <;> omega
      rw [testBit_applyWord x h1 h14 hj hi (fun _ => hcfg), if_neg hout]
    · rintro rfl rfl k hk hne
      exact applyWord_other_comb x (hj rfl) hk hne hcfg
  · refine ⟨fun f hf hl hn => ?_, fun f hf hl => ?_, fun f hf hl => ?_, fun f hf hl => ?_⟩
    · rw [nbits_latchT h1 h14 h6 hf, if_pos ⟨hl, hn⟩]
    · rw [nbits_latchT h1 h14 h6 hf, if_neg fun h => hl.elim (· h.1) h.2]
    · rw [nbits_latchE h1 h14 h6 hf, if_pos hl]
    · rw [nbits_latchE h1 h14 h6 hf, if_neg]
      rcases hl with hq | ⟨ht, hn⟩
      · simp [hq]
      · simp [ht, hn]

end Sys2Proof.Machine

namespace Sys2Proof.Machine

/-! ## The epoch boundary takes a rebaseline back (R428)

rebaseline is bit 39 of word 8, an E field. At an epoch boundary it latches as committed, and in the same boundary the
degradation check forms R_c, takes it as the new R_c0 and clears the bit. The live words then differ from those latched. -/

/-- What R169 has an epoch boundary do before its degradation check. -/
def beforeCooling (s : State) : State :=
  retireSuspects (rollCounters (rollExperts (retireChannels (retireLanes (rotateQuadrants (takeE (lowerKv s)))))))

theorem epochActions_eq (s : State) :
    epochActions s = rollClasses (resendWarnings (takeModes (rollSensors (checkCooling (beforeCooling s))))) := rfl

@[simp] theorem rollClasses_frame (s : State) : (rollClasses s).live = s.live ∧ (rollClasses s).tide = s.tide :=
  ⟨foldl_keeps State.live _ (fun _ _ => by split <;> simp) _ _, foldl_keeps State.tide _ (fun _ _ => by split <;> simp) _ _⟩

@[simp] theorem resendWarnings_frame (s : State) : (resendWarnings s).live = s.live ∧ (resendWarnings s).tide = s.tide :=
  ⟨foldl_keeps State.live _ (fun _ _ => by simp) _ _, foldl_keeps State.tide _ (fun _ _ => by simp) _ _⟩

@[simp] theorem degrade_frame (s : State) : (degrade s).live = s.live ∧ (degrade s).tide = s.tide := by
  constructor <;> (unfold degrade; dsimp only; split_ifs <;> simp)

@[simp] theorem rebaseline_tide (rc : Rat) (s : State) : (rebaseline rc s).tide = s.tide := by
  unfold rebaseline
  split <;> rfl

theorem bit_setBits_clear (x : BitVec 64) : bit (setBits x 39 39 0) 39 = false := by
  have hset : setBits x 39 39 0 = BitVec.ofNat 64 (nset x.toNat 39 39 0) := rfl
  rw [hset, bit, BitVec.toNat_ofNat, Nat.testBit_mod_two_pow, testBit_nset]
  simp

theorem rebaseline_clears (rc : Rat) (s : State) : bit (rebaseline rc s).live.w8 39 = false := by
  unfold rebaseline
  split
  next => exact bit_setBits_clear _
  next h => exact Bool.eq_false_iff.mpr h

@[simp] theorem checkCooling_tide (s : State) : (checkCooling s).tide = s.tide := by
  unfold checkCooling
  dsimp only
  split <;> split <;> simp

/-- A check that forms R_c leaves rebaseline at 0. -/
theorem checkCooling_clears {s : State} {rc : Rat} (h : epochRc s = some rc) : bit (checkCooling s).live.w8 39 = false := by
  have hlive : (checkCooling s).live = (rebaseline rc { s with cool := { s.cool with rc := rc } }).live := by
    unfold checkCooling
    simp only [h]
    split <;> simp
  rw [hlive]
  exact rebaseline_clears rc _

theorem epochActions_live (s : State) : (epochActions s).live = (checkCooling (beforeCooling s)).live := by
  simp [epochActions_eq, takeModes, rollSensors]

theorem epochActions_tide (s : State) : (epochActions s).tide = (beforeCooling s).tide := by
  simp [epochActions_eq, takeModes, rollSensors]

/-- With the step boundary still due, an epoch boundary ends with its actions. -/
theorem afterStop_endBoundary_stepDue {s : State} (hdp : s.tide.dp = .running) (hstep : s.tide.stepDue = true) :
    afterStop (endBoundary s) = s := by
  have hcount : counting s = false := by simp [counting, hstep]
  simp [endBoundary, hcount, afterStop, hdp]

/-- R_c is formed in the degradation check of an epoch boundary's actions, and a step boundary follows them. -/
def formsRc (s : State) : Bool :=
  let t := beforeCooling s
  (epochRc t).isSome && decide (t.tide.dp = .running) && t.tide.stepDue

theorem epochActions_clear_rebaseline {s : State} (h : formsRc s = true) :
    bit (afterStop (endBoundary (epochActions s))).live.w8 39 = false := by
  simp only [formsRc, Bool.and_eq_true, decide_eq_true_eq] at h
  obtain ⟨⟨hrc, hdp⟩, hstep⟩ := h
  obtain ⟨rc, hrc⟩ := Option.isSome_iff_exists.mp hrc
  rw [← epochActions_tide] at hdp hstep
  rw [afterStop_endBoundary_stepDue hdp hstep, epochActions_live]
  exact checkCooling_clears hrc

/-- An image of one sampling phase of one tide in a step, on tides of 1,024 cycles. -/
def oneTideImage : Image where
  header := BitVec.ofNat 2048 (1024 * 2 ^ 128 + 2 ^ 152 + 2 ^ 160 + 2 ^ 176)
  directory := []
  vgrid := [BitVec.ofNat 256 (9 * 2 ^ 252)]
  phases := [BitVec.ofNat 256 (5 * 2 ^ 252 + 2 ^ 236)]
  flows := []
  layers := []
  envelopes := []
  programs := []
  shards := []
  wide := []
  slotLayout := 0
  draft := none
  sampler := 0
  signature := none

/-- The shipped words, with a rebaseline committed. -/
def rebaselineWords : Words := { Words.shipped with w8 := setBits Words.shipped.w8 39 39 1 }

/-- A module that runs the image on comb 5, its links trained, at the boundary of epoch 1 with a rebaseline committed, after an
epoch of one window in which the coolant rose by 15 degrees at 6 kW. -/
def rebaselining : State :=
  { State.reset with
    cfg := { Cfg.shipped with words := rebaselineWords }
    pow := { Power.reset with stage := .ready }
    img := { Img.reset with image := some oneTideImage, place := [5] }
    fabric := { State.reset.fabric with links := List.replicate 80 { LinkDir.reset with groupsActive := 0xFFFF } }
    tide := { Tide.reset with dp := .running, number := 2 ^ 20, epochDue := true, stepDue := true }
    cool := { Cooling.reset with epochRise := 15, epochPower := 6000, epochWindows := 1 } }

theorem rebaselining_forms : formsRc { rebaselining with tide := { rebaselining.tide with epochDue := false } } = true := by
  decide +kernel

/-- The rebaseline latches at the boundary. -/
theorem rebaselining_latches :
    bit (latchE rebaselining.mbox.lateT rebaselining.live rebaselining.cfg.words).w8 39 = true := by decide +kernel

/-- Refutes O37: an epoch boundary does not leave every E field as it latched, for rebaseline (word 8, bit 39) "reads 1 until
then, and 0 afterwards" (R428): where the owner committed it and the epoch's R_c is formed, the boundary clears it. -/
theorem not_boundariesAdvanceTheTide : ¬ Obligations.BoundariesAdvanceTheTide := by
  unfold Obligations.BoundariesAdvanceTheTide
  rintro ⟨-, -, hepoch, -⟩
  obtain ⟨t, -, -, -, hlive, ht⟩ := hepoch rebaselining rfl rfl rfl rfl rfl
  have hw8 : t.live.w8 = (latchE rebaselining.mbox.lateT rebaselining.live rebaselining.cfg.words).w8 :=
    (congrArg Words.w8 hlive :)
  have hclear : bit t.live.w8 39 = false := ht ▸ epochActions_clear_rebaseline rebaselining_forms
  rw [hw8, rebaselining_latches] at hclear
  contradiction

end Sys2Proof.Machine

namespace Sys2Proof.Machine

/-! ## Failures and the remap (R34, R208, R210, R312, R407) -/

theorem discardStep_comb (p : Nat) (s : State) : (discardStep s).comb p = (s.comb p).clearPhase :=
  List.getD_map s.combs Comb.reset Comb.clearPhase

/-- A halt forgets the step in flight, and no more of a comb. -/
theorem halt_comb_keeps (x : HaltCause) (p : Nat) (s : State) :
    ((halt x s).comb p).mem = (s.comb p).mem ∧ ((halt x s).comb p).good = (s.comb p).good := by
  have h : (halt x s).comb p = (s.comb p).clearPhase := discardStep_comb p s
  rw [h]
  exact ⟨rfl, rfl⟩

theorem remapApplies_dp {s : State} (h : remapApplies s = true) :
    s.tide.dp = .running ∨ s.tide.dp = .stopped ∨ s.tide.dp = .halted := by
  simp only [remapApplies, Bool.and_eq_true, Bool.or_eq_true, decide_eq_true_eq] at h
  exact or_assoc.mp h.2

/-- Stage 1 is a halt for a remap, a note of the cause in one that has none, or nothing where the data plane is Halted
already (R312). -/
theorem haltForRemap_cases {s : State} (h : remapApplies s = true) :
    haltForRemap s = halt .remap s ∨
    (s.tide.dp = .halted ∧ haltForRemap s = { s with tide := { s.tide with halt := .remap, startPending := false } }) ∨
    (s.tide.dp = .halted ∧ haltForRemap s = s) := by
  unfold haltForRemap
  rcases remapApplies_dp h with hdp | hdp | hdp
  · simp [hdp]
  · simp [hdp]
  · by_cases hcause : s.tide.halt = .none
    · simp [hdp, hcause]
    · simp [hdp, hcause]

/-- Stage 1 ends in Halted and leaves image, shelf, configuration and the combs' memories (R312). -/
theorem haltForRemap_keeps {s : State} (h : remapApplies s = true) :
    (haltForRemap s).tide.dp = .halted ∧ (haltForRemap s).err.failed = s.err.failed ∧ (haltForRemap s).img = s.img ∧
      (haltForRemap s).shelf = s.shelf ∧ SameConfig s (haltForRemap s) ∧
      ∀ p, ((haltForRemap s).comb p).mem = (s.comb p).mem ∧ ((haltForRemap s).comb p).good = (s.comb p).good := by
  rcases haltForRemap_cases h with heq | ⟨hdp, heq⟩ | ⟨hdp, heq⟩ <;> rw [heq]
  · exact ⟨rfl, rfl, rfl, rfl, ⟨rfl, rfl, rfl, rfl⟩, fun p => halt_comb_keeps .remap p s⟩
  · exact ⟨hdp, rfl, rfl, rfl, ⟨rfl, rfl, rfl, rfl⟩, fun _ => ⟨rfl, rfl⟩⟩
  · exact ⟨hdp, rfl, rfl, rfl, ⟨rfl, rfl, rfl, rfl⟩, fun _ => ⟨rfl, rfl⟩⟩

/-- Where an image depends on the unit, its failure is recorded after stage 1. -/
theorem declareFailed_displacing {x : Source} {s : State} (hl : s.tide.dp ≠ .loading) (h : remapApplies s = true)
    (hn : needsRemap x s = true) :
    declareFailed x s = { haltForRemap s with err := { (haltForRemap s).err with failed := (haltForRemap s).err.failed ++ [x] } } := by
  simp [declareFailed, hl, h, hn]

theorem declareFailed_undisplacing {x : Source} {s : State} (hl : s.tide.dp ≠ .loading)
    (h : remapApplies s = false ∨ needsRemap x s = false) : declareFailed x s = retireSource x s := by
  have hno : (remapApplies s && needsRemap x s) = false := Bool.and_eq_false_iff.mpr h
  simp [declareFailed, hl, hno]

theorem exec_keeperCoreFailure {core : Nat} {s : State} (ha : s.awake = true) (hc : core < 10) (hn : core ∉ s.err.coresFailed) :
    exec (.keeperCoreFailure core) s =
      .next (unitNotice 0 core { s with err := { s.err with coresFailed := s.err.coresFailed ++ [core] } }) :=
  congrArg Host.Outcome.next (if_pos ⟨ha, hc, hn⟩)

/-! ### What the copies of stage 5 leave (R209, R313) -/

/-- Tide, image and errors are as before: what stages 6 and 7 read once stage 5 has copied. -/
structure SamePlan (s t : State) : Prop where
  tide : t.tide = s.tide
  img : t.img = s.img
  err : t.err = s.err

theorem SamePlan.refl (s : State) : SamePlan s s := ⟨rfl, rfl, rfl⟩

theorem SamePlan.trans {s t u : State} (h : SamePlan s t) (k : SamePlan t u) : SamePlan s u :=
  ⟨k.tide.trans h.tide, k.img.trans h.img, k.err.trans h.err⟩

/-- A fold whose steps leave the plan leaves it. -/
theorem SamePlan.foldl {β : Type} (f : State → β → State) (h : ∀ s b, SamePlan s (f s b)) (l : List β) (s : State) :
    SamePlan s (l.foldl f s) :=
  foldl_inv (SamePlan s) f (fun t b ht => ht.trans (h t b)) l s (.refl s)

theorem setStack_samePlan (n : Nat) (f : Stack → Stack) (s : State) : SamePlan s (setStack n f s) := ⟨rfl, rfl, rfl⟩

theorem writeCode_samePlan (i : Image) (place : List Nat) (s : State) : SamePlan s (writeCode i place s) := by
  refine SamePlan.foldl _ (fun s j => ?_) _ s
  dsimp only
  split
  · exact .refl s
  · exact setStack_samePlan ..

theorem relocate_samePlan (i : Image) (old new : List Nat) (s : State) : SamePlan s (relocate i old new s) := by
  unfold relocate
  refine SamePlan.trans ?_ (writeCode_samePlan i new _)
  refine SamePlan.foldl _ (fun s x => ?_) _ s
  exact setStack_samePlan ..

theorem fillMoved_samePlan (i : Image) (old new : List Nat) (s : State) : SamePlan s (fillMoved i old new s) :=
  SamePlan.foldl (fun s v => fillComb i new v s) (fun _ _ => ⟨rfl, rfl, rfl⟩) _ s

/-- Nothing but the page map has changed. -/
def OnlyPagesMapped (s t : State) : Prop := ∃ m, t = { s with shelf := { s.shelf with moved := m } }

theorem mapPage_onlyPagesMapped {s t : State} (h : OnlyPagesMapped s t) (v j page : Nat) : OnlyPagesMapped s (mapPage v j page t) := by
  obtain ⟨_, rfl⟩ := h
  unfold mapPage
  split
  · exact ⟨_, rfl⟩
  · split
    · exact ⟨_, rfl⟩
    · exact ⟨_, rfl⟩

theorem extendMap_onlyPagesMapped (s : State) : OnlyPagesMapped s (extendMap s) :=
  foldl_inv (OnlyPagesMapped s) _
    (fun t x ht => foldl_inv (OnlyPagesMapped s) _ (fun _ p h => mapPage_onlyPagesMapped h x.1 x.2 p) _ t ht) _ _ ⟨_, rfl⟩

theorem OnlyPagesMapped.samePlan {s t : State} (h : OnlyPagesMapped s t) : SamePlan s t := by
  obtain ⟨_, rfl⟩ := h
  exact ⟨rfl, rfl, rfl⟩

theorem moveKv_samePlan (i : Image) (before s : State) : SamePlan s (moveKv i before s) := by
  refine (extendMap_onlyPagesMapped s).samePlan.trans ?_
  refine SamePlan.foldl _ (fun t k => SamePlan.foldl _ (fun t v => SamePlan.foldl _ (fun t page => ?_) _ t) _ t) _ _
  dsimp only
  split
  · exact .refl t
  · exact setStack_samePlan ..

/-- What the copies of stage 5 leave to stage 6. -/
theorem copied_samePlan (i : Image) (old new : List Nat) (s : State) : SamePlan s (fillMoved i old new (relocate i old new s)) :=
  (relocate_samePlan i old new s).trans (fillMoved_samePlan i old new _)

/-! ### Stages 6 and 7 -/

theorem exec_remap {x : List Nat} {s : State} {i : Image} (ha : s.awake = true) (hi : s.img.image = some i)
    (hd : s.tide.dp = .halted) (hf : s.err.failed ≠ []) : exec (.remap x) s = .next (runRemap i x s) := by
  have h : exec (.remap x) s = execRemap x s := rfl
  rw [h, execRemap, hi]
  exact congrArg Host.Outcome.next (if_pos ⟨ha, hd, hf⟩)

section Settled

variable {i : Image} {x : List Nat} {s : State} (hu : (retireFailed s).pow.stage ≠ .nothing)

include hu

theorem runRemap_found {place : List Nat} {tree : List (BitVec 8)}
    (hr : (settleMapping i x 97 (retireFailed s)).2 = .inl (place, tree)) :
    runRemap i x s = advanceService (completeRemap i place tree (settleMapping i x 97 (retireFailed s)).1) := by
  simp [runRemap, hu, hr]

theorem runRemap_none {v : Nat} (hr : (settleMapping i x 97 (retireFailed s)).2 = .inr v) :
    runRemap i x s = advanceService (failRemap i v (settleMapping i x 97 (retireFailed s)).1) := by
  simp [runRemap, hu, hr]

end Settled

theorem remapResumes_iff (s : State) : remapResumes s = true ↔ s.tide.halt = .remap ∨ s.tide.halt = .timeout := by
  simp [remapResumes]

/-- A mapping that was found is in force with its tree, no failure waits any more, and the remap is counted (R186, R211,
R312). -/
theorem completeRemap_fields (i : Image) (place : List Nat) (tree : List (BitVec 8)) (s : State) :
    (completeRemap i place tree s).img.place = place ∧ (completeRemap i place tree s).img.parents = tree ∧
      (completeRemap i place tree s).err.failed = [] ∧
      (completeRemap i place tree s).img.report.remapCount = satInc s.img.report.remapCount ∧
      (completeRemap i place tree s).tide.startPending = (s.tide.startPending || remapResumes s) := by
  obtain ⟨htide, himg, -⟩ := copied_samePlan i s.img.place place s
  have hkv (t : State) := moveKv_samePlan i t t
  simp [completeRemap, (hkv _).tide, (hkv _).img, (hkv _).err, htide, himg, goodReport, remapResumes]

/-- Without a place for every virtual comb the mapping in force stays, and no start is committed (R208, R210). -/
theorem failRemap_fields (i : Image) (v : Nat) (s : State) :
    (failRemap i v s).tide.halt = .insufficientSpares ∧ (failRemap i v s).tide.startPending = false ∧
      (failRemap i v s).img.place = s.img.place ∧ (failRemap i v s).err.failed = [] := by
  simp [failRemap]

/-- Settles O34: stage 1 halts and notes the failure, or the unit is retired at once; a remap ends as its mapping is
settled, and stage 5 leaves the groups in which stages 6 and 7 record the end. -/
theorem failuresAreRemapped : Obligations.FailuresAreRemapped := by
  unfold Obligations.FailuresAreRemapped
  refine ⟨⟨fun x s hl ha hn => ?displaced, fun x s hl h => declareFailed_undisplacing hl h, fun core s ha hc hn => ?core⟩,
    fun x s i ha hi hd hf hu => ⟨fun place tree hr => ?found, fun v hr => ?none⟩⟩
  case displaced =>
    obtain ⟨hdp, hfailed, himg, hshelf, hcfg, hcombs⟩ := haltForRemap_keeps ha
    rw [declareFailed_displacing hl ha hn]
    exact ⟨hdp, congrArg (· ++ [x]) hfailed, himg, hshelf, hcfg, hcombs⟩
  case core =>
    refine ⟨_, exec_keeperCoreFailure ha hc hn, ?_⟩
    simp [SameConfig, SameDataPlane]
  case found =>
    rw [exec_remap ha hi hd hf, runRemap_found hu hr]
    obtain ⟨hplace, htree, hfailed, hcount, hstart⟩ :=
      completeRemap_fields i place tree (settleMapping i x 97 (retireFailed s)).1
    refine ⟨rfl, hplace, htree, hfailed, hcount, fun hhalt => ?_⟩
    rw [hstart, (remapResumes_iff _).mpr hhalt, Bool.or_true]
  case none =>
    rw [exec_remap ha hi hd hf, runRemap_none hu hr]
    exact ⟨rfl, failRemap_fields i v _⟩

end Sys2Proof.Machine

namespace Sys2Proof.Machine

/-! ## Serving decisions (R26, R252, R264, R267, R268) -/

/-- What a decision must not change of the live records: who holds them, their states and histories. -/
def liveViews (s : State) : List (Nat × StreamState × List Token) := s.str.live.map fun p => (p.1, p.2.state, history p.2)

/-- What a serving decision leaves as it was, the committed tables aside (R26, R264, R267). -/
structure KeptByDecision (s t : State) : Prop where
  config : SameConfig s t
  tide : t.tide = s.tide
  img : t.img = s.img
  combs : t.combs = s.combs
  memory : ∀ k, (t.stack k).mem = (s.stack k).mem
  tables : t.str.tables = s.str.tables
  slots : t.str.slots = s.str.slots
  decided : t.str.decided = s.str.decided
  live : liveViews t = liveViews s

namespace KeptByDecision

theorem refl (s : State) : KeptByDecision s s := ⟨⟨rfl, rfl, rfl, rfl⟩, rfl, rfl, rfl, fun _ => rfl, rfl, rfl, rfl, rfl⟩

theorem trans {s t u : State} (h : KeptByDecision s t) (k : KeptByDecision t u) : KeptByDecision s u where
  config := by
    obtain ⟨hident, hcfg, hlive, hflash⟩ := h.config
    obtain ⟨kident, kcfg, klive, kflash⟩ := k.config
    exact ⟨kident.trans hident, kcfg.trans hcfg, klive.trans hlive, kflash.trans hflash⟩
  tide := k.tide.trans h.tide
  img := k.img.trans h.img
  combs := k.combs.trans h.combs
  memory j := (k.memory j).trans (h.memory j)
  tables := k.tables.trans h.tables
  slots := k.slots.trans h.slots
  decided := k.decided.trans h.decided
  live := k.live.trans h.live

/-- A fold of steps that a decision may take is one. -/
theorem foldl {β : Type} (f : State → β → State) (h : ∀ s b, KeptByDecision s (f s b)) (l : List β) (s : State) :
    KeptByDecision s (l.foldl f s) :=
  foldl_inv (KeptByDecision s) f (fun t b ht => ht.trans (h t b)) l s (refl s)

theorem records {s t : State} (h : KeptByDecision s t) : t.str.live.map (·.1) = s.str.live.map (·.1) := by
  simpa [liveViews, Function.comp_def] using congrArg (List.map (·.1)) h.live

end KeptByDecision

theorem liveAt_of_mem {n : Nat} {s : State} (h : n ∈ s.str.live.map (·.1)) : ∃ t, liveAt n s = some t := by
  obtain ⟨p, hp, rfl⟩ := List.mem_map.mp h
  have hsome : (s.str.live.find? fun q => decide (q.1 = p.1)).isSome = true :=
    List.find?_isSome.mpr ⟨p, hp, decide_eq_true rfl⟩
  obtain ⟨q, hq⟩ := Option.isSome_iff_exists.mp hsome
  exact ⟨q.2, by simp [liveAt, lookup, hq]⟩

/-! ### Streams, prefixes, pages and experts -/

theorem setLive_liveViews {n : Nat} {f : Stream → Stream} (hf : ∀ t, (f t).state = t.state ∧ history (f t) = history t) (s : State) :
    liveViews (setLive n f s) = liveViews s := by
  unfold liveViews setLive
  rw [List.map_map]
  refine List.map_congr_left fun p _ => ?_
  by_cases hp : p.1 = n
  · simp [hp, hf]
  · simp [hp]

/-- A change of streams that leaves their states and histories. -/
theorem setLive_kept {n : Nat} {f : Stream → Stream} {s : State} (hf : ∀ t, (f t).state = t.state ∧ history (f t) = history t) :
    KeptByDecision s (setLive n f s) :=
  { KeptByDecision.refl s with live := setLive_liveViews hf s }

theorem pauseStream_kept (n reason : Nat) (s : State) : KeptByDecision s (pauseStream n reason s) :=
  setLive_kept fun _ => ⟨rfl, rfl⟩

theorem holdStream_kept (n reason : Nat) (s : State) : KeptByDecision s (holdStream n reason s) :=
  setLive_kept fun _ => ⟨rfl, rfl⟩

theorem setPrefix_kept (index : Nat) (f : Prefix → Prefix) (s : State) : KeptByDecision s (setPrefix index f s) :=
  { KeptByDecision.refl s with }

/-- A new object takes room in the cove and an identifier from the generator. -/
theorem createObject_kept {data : CoveData} {holder : BitVec 16} {bytes : Nat} {digest address : Digest} {s : State}
    {o : BitVec 128 × State} (h : createObject data holder bytes digest address s = some o) : KeptByDecision s o.2 := by
  unfold createObject at h
  split at h
  · contradiction
  · obtain rfl := Option.some.inj h
    constructor <;> simp [SameConfig, State.stack, liveViews, drawId]

theorem movePrefix_kept (p : Prefix) (s : State) : KeptByDecision s (movePrefix p s) := by
  unfold movePrefix
  split
  · split
    · exact setPrefix_kept ..
    · exact .refl s
  · split
    next h => exact (createObject_kept h).trans (setPrefix_kept ..)
    next => exact .refl s
  · exact .refl s

theorem pagesFor_kept (want : List (Nat × Nat)) (s : State) : KeptByDecision s (pagesFor want s).2 := by
  refine KeptByDecision.foldl _ (fun t p => ?_) _ s
  split
  · exact .refl t
  · exact movePrefix_kept p t

theorem OnlyPagesMapped.kept {s t : State} (h : OnlyPagesMapped s t) : KeptByDecision s t := by
  obtain ⟨_, rfl⟩ := h
  exact { KeptByDecision.refl s with }

theorem pagesOk_kept (i : Image) (n reach : Nat) (s : State) : KeptByDecision s (pagesOk i n reach s).2 := by
  unfold pagesOk
  split
  next => exact .refl s
  next t _ =>
    have hpages := pagesFor_kept (pagesMissing i t reach s) s
    dsimp only
    split
    next h =>
      rw [h] at hpages
      refine (hpages.trans ?_).trans (extendMap_onlyPagesMapped _).kept
      exact setLive_kept fun _ => ⟨rfl, rfl⟩
    next h =>
      rw [h] at hpages
      exact hpages

/-- A change of an expert's entry leaves the bytes of the stack. -/
theorem setExpert_kept (j v layer expert : Nat) (f : ExpertEntry → ExpertEntry) (s : State) :
    KeptByDecision s (setExpert j v layer expert f s) := by
  refine { KeptByDecision.refl s with memory := fun k => ?_ }
  unfold setExpert
  rw [setStack_stack]
  split <;> rfl

theorem shrinkArea_kept (i : Image) (j last : Nat) (s : State) : KeptByDecision s (shrinkArea i j last s) := by
  refine KeptByDecision.foldl _ (fun t x => ?_) _ s
  split
  · exact setExpert_kept ..
  · exact .refl t

theorem demoteEarly_kept (s : State) : KeptByDecision s (demoteEarly s) := by
  unfold demoteEarly
  dsimp only
  split
  · unfold shrinkAreas
    split
    · exact .refl s
    · exact KeptByDecision.foldl _ (fun t j => shrinkArea_kept ..) _ s
  · exact .refl s

theorem clearPages_kept (s : State) : KeptByDecision s (clearPages s) := by
  refine KeptByDecision.trans ?parks (KeptByDecision.foldl _ (fun t p => movePrefix_kept p t) _ _)
  refine KeptByDecision.foldl _ (fun t p => ?_) _ s
  dsimp only
  split
  case h_5 => exact .refl t
  all_goals exact setLive_kept fun _ => ⟨rfl, rfl⟩

/-! ### The slot table and the prefill queue (R262, R267) -/

theorem insertBy_perm {α : Type} (le : α → α → Bool) (x : α) (l : List α) : (insertBy le x l).Perm (x :: l) := by
  induction l with
  | nil => exact .refl _
  | cons y l ih =>
    unfold insertBy
    split
    · exact .refl _
    · exact (ih.cons y).trans (.swap x y l)

/-- An order moves elements, no more. -/
theorem sortBy_perm {α : Type} (le : α → α → Bool) (l : List α) : (sortBy le l).Perm l := by
  induction l with
  | nil => exact .refl _
  | cons x l ih => exact (insertBy_perm le x _).trans (ih.cons x)

theorem slotTable_length (placed : List (Nat × List Nat)) : (slotTable placed).length = 256 := by
  simp [slotTable]

/-- A slot of the table stands among those placed for its record. -/
theorem slotTable_placed {placed : List (Nat × List Nat)} {k n j : Nat} (h : (slotTable placed)[k]? = some (some (n, j))) :
    ∃ ks, (n, ks) ∈ placed ∧ k ∈ ks := by
  simp only [slotTable, List.getElem?_map, Option.map_eq_some_iff] at h
  obtain ⟨m, hm, h⟩ := h
  obtain ⟨hk, rfl⟩ := List.getElem?_eq_some_iff.mp hm
  obtain ⟨⟨n', ks⟩, hp, h⟩ := List.exists_of_findSome?_eq_some h
  obtain ⟨j', hj, h⟩ := Option.map_eq_some_iff.mp h
  obtain ⟨rfl, rfl⟩ := Prod.mk.inj h
  obtain ⟨hlt, hat, -⟩ := List.findIdx?_eq_some_iff_getElem.mp hj
  have hk : ks[j'] = k := by simpa using hat
  exact ⟨ks, hp, hk ▸ List.getElem_mem hlt⟩

theorem mem_decodeOrder {i : Image} {k : Nat} (h : k ∈ decodeOrder i) : decodeCapable i k = true := by
  simp only [decodeOrder, List.mem_append, List.mem_filter] at h
  rcases h with ⟨⟨-, hk⟩, -⟩ | ⟨⟨-, hk⟩, -⟩
  · exact hk
  · exact hk

/-- What holds of a decision on the streams of s as its loops go through them: it has changed nothing that is in force, the
slots it gives are decode-capable, and its queue holds at most 64 live records with the rows of R267. -/
structure Decision.Sound (i : Image) (s : State) (d : Decision) : Prop where
  kept : KeptByDecision s d.state
  free : ∀ k ∈ d.free, decodeCapable i k = true
  placed : ∀ p ∈ d.placed, ∀ k ∈ p.2, decodeCapable i k = true
  queueLength : d.queue.length ≤ 64
  queue : ∀ q ∈ d.queue, q.2 = prefillSlotCount i ∧ q.1 ∈ s.str.live.map (·.1)

namespace Decision.Sound

variable {i : Image} {s : State} {d : Decision}

/-- Before the loops no slot is taken. -/
theorem start {t : State} (h : KeptByDecision s t) (load : List Nat) : Decision.Sound i s ⟨load, decodeOrder i, [], [], t⟩ where
  kept := h
  free _ := mem_decodeOrder
  placed := by simp
  queueLength := Nat.zero_le _
  queue := by simp

/-- A step of the loops that gives no slot and queues no stream. -/
theorem withState (h : d.Sound i s) {t : State} (ht : KeptByDecision d.state t) (load : List Nat) :
    Decision.Sound i s { d with load := load, state := t } :=
  { h with kept := h.kept.trans ht }

theorem takeFree (h : d.Sound i s) (n k : Nat) : (takeFree n k d).Sound i s := by
  refine { h with free := fun m hm => h.free m (List.mem_of_mem_filter hm), placed := fun p hp m hm => ?_ }
  rcases List.mem_append.mp hp with hp | hp
  · exact h.placed p hp m hm
  · rw [List.mem_singleton.mp hp] at hm
    rcases List.mem_append.mp hm with hm | hm
    · have := List.of_mem_filter (List.mem_of_mem_take hm)
      exact h.free m (List.contains_iff_mem.mp this)
    · exact h.free m (List.mem_of_mem_filter (List.mem_of_mem_take hm))

theorem decideDecode (h : d.Sound i s) (p : Nat × Stream) : (decideDecode i d p).Sound i s := by
  have hpages := pagesOk_kept i p.1 (min (positionsOf i p.2) d.free.length * intervalSteps d.state) d.state
  unfold Machine.decideDecode
  dsimp only
  split
  next => -- a stream in PREFILL
    split
    · exact h
    · exact h.takeFree ..
  next => -- a stream in DECODE or PAUSED: the slots, then its pages, then the gather capacity
    split
    · exact h.withState (pauseStream_kept ..) _
    · split
      · split
        · refine Sound.takeFree (h.withState (hpages.trans ?_) _) _ _
          exact setLive_kept fun _ => ⟨rfl, rfl⟩
        · exact h.withState (hpages.trans (pauseStream_kept ..)) _
      · exact h.withState (hpages.trans (pauseStream_kept ..)) _

theorem enqueue (h : d.Sound i s) {n : Nat} (hn : n ∈ s.str.live.map (·.1)) (hl : d.queue.length < 64) :
    Decision.Sound i s { d with queue := d.queue ++ [(n, prefillSlotCount i)] } := by
  refine { h with queueLength := by simpa using hl, queue := fun q hq => ?_ }
  rcases List.mem_append.mp hq with hq | hq
  · exact h.queue q hq
  · rw [List.mem_singleton.mp hq]
    exact ⟨rfl, hn⟩

theorem decidePrefill (h : d.Sound i s) {p : Nat × Stream} (hp : p.1 ∈ s.str.live.map (·.1)) : (decidePrefill i d p).Sound i s := by
  have hpages := pagesOk_kept i p.1 (wholeReach i d p) d.state
  unfold Machine.decidePrefill
  dsimp only
  split
  · exact h
  · split
    · exact h.withState (holdStream_kept ..) _
    next hl =>
      split
      · split
        · exact (h.enqueue hp (Nat.lt_of_not_le hl)).withState (hpages.trans (holdStream_kept ..)) _
        · exact h.withState (hpages.trans (holdStream_kept ..)) _
      · exact h.withState (hpages.trans (holdStream_kept ..)) _

end Decision.Sound

/-! ### The decision as a whole -/

/-- A decision commits the slots that its loops placed, those of streams that stay out of the queue left out. -/
theorem serveNext_sound (i : Image) (s : State) : ∃ (d : Decision) (given : List (Nat × List Nat)), d.Sound i s ∧ given ⊆ d.placed ∧
    serveNext i s = { d.state with str := { d.state.str with committedTables := some ⟨slotTable given, d.queue⟩ } } := by
  have hkept := (demoteEarly_kept s).trans (clearPages_kept _)
  refine ⟨_, _, ?sound, List.filter_subset_self _, rfl⟩
  case sound =>
    refine List.foldlRecOn _ _ ?_ fun d hd p hp => hd.decidePrefill ?_
    · exact List.foldlRecOn _ _ (.start hkept _) fun d hd p _ => hd.decideDecode p
    · rw [← hkept.records]
      exact List.mem_map_of_mem ((sortBy_perm _ _).mem_iff.mp (List.mem_of_mem_filter hp))

theorem serveNext_kept (i : Image) (s : State) : KeptByDecision s (serveNext i s) := by
  obtain ⟨d, given, hd, -, heq⟩ := serveNext_sound i s
  rw [heq]
  exact { hd.kept with }

/-- The tables that a decision commits (R262, R267). -/
theorem serveNext_tables (i : Image) (s : State) : ∃ x, (serveNext i s).str.committedTables = some x ∧ x.slots.length = 256 ∧
    x.queue.length ≤ 64 ∧ (∀ q ∈ x.queue, q.2 = prefillSlotCount i ∧ ∃ y, liveAt q.1 (serveNext i s) = some y) ∧
    ∀ k n j, x.slots[k]? = some (some (n, j)) → decodeCapable i k = true := by
  have hrecords := (serveNext_kept i s).records
  obtain ⟨d, given, hd, hgiven, heq⟩ := serveNext_sound i s
  refine ⟨⟨slotTable given, d.queue⟩, by rw [heq], slotTable_length given, hd.queueLength, fun q hq => ?_, fun k n j hk => ?_⟩
  · obtain ⟨hrows, hlive⟩ := hd.queue q hq
    rw [← hrecords] at hlive
    exact ⟨hrows, liveAt_of_mem hlive⟩
  · obtain ⟨ks, hp, hk⟩ := slotTable_placed hk
    exact hd.placed _ (hgiven hp) k hk

theorem exec_serveNextInterval {s : State} {i : Image} (ha : s.awake = true) (hi : s.img.image = some i)
    (hd : s.tide.dp = .running) (hp : s.tide.prologue = false) (hn : s.str.decided = false) :
    exec .serveNextInterval s = .next (serveNext i { s with str := { s.str with decided := true } }) := by
  have h : exec .serveNextInterval s = execServeNextInterval s := rfl
  rw [h, execServeNextInterval, hi]
  exact congrArg Host.Outcome.next (if_pos ⟨ha, hd, hp, hn⟩)

/-- There is no second decision in an interval (R26). -/
theorem exec_serveNextInterval_decided {s : State} (h : s.str.decided = true) : exec .serveNextInterval s = .next s := by
  have he : exec .serveNextInterval s = execServeNextInterval s := rfl
  rw [he, execServeNextInterval]
  cases s.img.image with
  | none => rfl
  | some i => exact congrArg Host.Outcome.next (if_neg (by simp [h]))

/-! ### Parking by delay -/

theorem exec_parkDelayExpiry (n : Nat) (s : State) :
    exec (.parkDelayExpiry n) s = .next (parkByDelay .paused n (bits s.live.w4 255 240) s) := rfl

theorem exec_readyParkDelayExpiry (n : Nat) (s : State) :
    exec (.readyParkDelayExpiry n) s = .next (parkByDelay .ready n (bits s.live.w4 239 224) s) := rfl

theorem parkByDelay_parks {st : StreamState} {n delay : Nat} {s : State} {t : Stream} (ha : s.awake = true)
    (hd : s.tide.dp = .running) (hl : liveAt n s = some t) (hs : t.state = st) (hn : delay ≠ 0) :
    parkByDelay st n delay s =
      setLive n (fun t => { t with event := { t.event with park := true, own := (t.event.close.isSome && t.event.own) } }) s := by
  simp only [parkByDelay, hl]
  rw [if_pos ⟨ha, hd, hs, hn⟩]
  congr 1
  funext t
  cases t.event.close <;> rfl

/-- A delay of 0 parks none (R252, R268). -/
theorem parkByDelay_zero (st : StreamState) (n : Nat) (s : State) : parkByDelay st n 0 s = s := by
  unfold parkByDelay
  split
  · exact if_neg fun h => h.2.2.2 rfl
  · rfl

/-- Settles O52: both loops of the decision keep `Decision.Sound`, from which the tables and what stays are read; a delay
parks by `parkByDelay`. -/
theorem servingDecisionsCommitTables : Obligations.ServingDecisionsCommitTables := by
  unfold Obligations.ServingDecisionsCommitTables
  refine ⟨fun s => exec_serveNextInterval_decided, fun s i ha hi hd hp hn => ?decision, fun n s t ha hd hl => ⟨?_, ?_, ?_, ?_⟩⟩
  case decision =>
    have hkept := serveNext_kept i { s with str := { s.str with decided := true } }
    have htables := serveNext_tables i { s with str := { s.str with decided := true } }
    rw [exec_serveNextInterval ha hi hd hp hn]
    generalize serveNext i _ = t at hkept htables
    obtain ⟨x, hcommitted, hslots, hlength, hqueue, hcapable⟩ := htables
    exact ⟨t, x, rfl, hkept.decided, hcommitted, hslots, hlength, hqueue, hcapable, hkept.tables, hkept.slots, hkept.tide, hkept.img,
      hkept.combs, hkept.memory, hkept.config, hkept.live⟩
  · intro hs hn
    rw [exec_parkDelayExpiry, parkByDelay_parks ha hd hl hs hn]
  · intro hs hn
    rw [exec_readyParkDelayExpiry, parkByDelay_parks ha hd hl hs hn]
  · intro h0
    rw [exec_parkDelayExpiry, h0, parkByDelay_zero]
  · intro h0
    rw [exec_readyParkDelayExpiry, h0, parkByDelay_zero]

end Sys2Proof.Machine

namespace Sys2Proof.Machine

/-! ## The order of exact values (R94, R95) -/

/-- The rational number that an exact value is. -/
def Dyadic.value (x : Dyadic) : ℚ := x.m * 2 ^ x.e

theorem Dyadic.value_aligned (x : Dyadic) {e : ℤ} (h : e ≤ x.e) :
    x.value = ((x.m * 2 ^ (x.e - e).toNat : ℤ) : ℚ) * 2 ^ e := by
  have hsplit : (2 : ℚ) ^ x.e = 2 ^ (x.e - e).toNat * 2 ^ e := by
    rw [← zpow_natCast, ← zpow_add₀ two_ne_zero]
    congr 1
    omega
  rw [Dyadic.value, hsplit]
  push_cast
  ring

/-- The comparison of exact values is that of the numbers. -/
theorem Dyadic.lt_iff (a b : Dyadic) : a.lt b = true ↔ a.value < b.value := by
  rw [a.value_aligned (min_le_left a.e b.e), b.value_aligned (min_le_right a.e b.e),
    mul_lt_mul_iff_of_pos_right (zpow_pos two_pos _), Int.cast_lt]
  exact decide_eq_true_iff

theorem Dyadic.not_lt_iff (a b : Dyadic) : a.lt b = false ↔ b.value ≤ a.value := by
  rw [← Bool.not_eq_true, Dyadic.lt_iff, not_lt]

/-! ## Insertion into an order -/

theorem insertBy_eq {α : Type} (le : α → α → Bool) (x : α) (l : List α) :
    insertBy le x l = l.orderedInsert (fun a b => le a b = true) x := by
  induction l with
  | nil => rfl
  | cons y l ih => rw [insertBy, ih, List.orderedInsert_cons]

theorem sortBy_eq {α : Type} (le : α → α → Bool) (l : List α) : sortBy le l = l.insertionSort fun a b => le a b = true := by
  induction l with
  | nil => rfl
  | cons x l ih => rw [List.insertionSort_cons, ← ih, ← insertBy_eq]; rfl

/-- In an order by a total and transitive relation no element stands after a greater one. -/
theorem sortBy_pairwise {α : Type} {le : α → α → Bool} (total : ∀ a b, le a b = true ∨ le b a = true)
    (trans : ∀ a b c, le a b = true → le b c = true → le a c = true) (l : List α) :
    (sortBy le l).Pairwise fun a b => le a b = true := by
  rw [sortBy_eq]
  have : Std.Total fun a b => le a b = true := ⟨total⟩
  have : IsTrans α fun a b => le a b = true := ⟨trans⟩
  exact List.pairwise_insertionSort _ l

/-! ## The chosen experts (R95) -/

/-- Expert a, as logit and index, ranks before expert b or is b. -/
def ranksFirst (a b : F32 × Nat) : Bool :=
  (f32 b.1).lt (f32 a.1) || (!(f32 a.1).lt (f32 b.1) && decide (a.2 ≤ b.2))

theorem ranksFirst_iff (a b : F32 × Nat) :
    ranksFirst a b = true ↔ (f32 b.1).value < (f32 a.1).value ∨ ((f32 b.1).value ≤ (f32 a.1).value ∧ a.2 ≤ b.2) := by
  simp [ranksFirst, Dyadic.lt_iff, Dyadic.not_lt_iff]

theorem ranksFirst_total (a b : F32 × Nat) : ranksFirst a b = true ∨ ranksFirst b a = true := by
  rw [ranksFirst_iff, ranksFirst_iff]
  rcases lt_trichotomy (f32 a.1).value (f32 b.1).value with h | h | h
  · exact .inr (.inl h)
  · rcases Nat.le_total a.2 b.2 with hi | hi
    · exact .inl (.inr ⟨h.ge, hi⟩)
    · exact .inr (.inr ⟨h.le, hi⟩)
  · exact .inl (.inl h)

theorem ranksFirst_trans (a b c : F32 × Nat) (hab : ranksFirst a b = true) (hbc : ranksFirst b c = true) : ranksFirst a c = true := by
  rw [ranksFirst_iff] at *
  rcases hab with hab | ⟨hab, iab⟩ <;> rcases hbc with hbc | ⟨hbc, ibc⟩
  · exact .inl (hbc.trans hab)
  · exact .inl (hbc.trans_lt hab)
  · exact .inl (hbc.trans_le hab)
  · exact .inr ⟨hbc.trans hab, iab.trans ibc⟩

/-- The experts with their logits, in order of rank. -/
def rankedExperts (logits : List F32) : List (F32 × Nat) := sortBy ranksFirst logits.zipIdx

theorem topExperts_eq (n : Nat) (logits : List F32) : topExperts n logits = ((rankedExperts logits).take n).map (·.2) := rfl

theorem rankedExperts_perm (logits : List F32) : (rankedExperts logits).Perm logits.zipIdx := sortBy_perm _ _

theorem mem_rankedExperts {logits : List F32} {x : F32 × Nat} :
    x ∈ rankedExperts logits ↔ x.2 < logits.length ∧ x.1 = nth logits x.2 0 := by
  rw [(rankedExperts_perm logits).mem_iff, List.mem_zipIdx_iff_getElem?, List.getElem?_eq_some_iff, nth, List.getD_eq_getElem?_getD]
  constructor
  · rintro ⟨h, hx⟩
    exact ⟨h, by simp [h, hx]⟩
  · rintro ⟨h, hx⟩
    exact ⟨h, by simp [hx, h]⟩

theorem rankedExperts_indices_nodup (logits : List F32) : ((rankedExperts logits).map (·.2)).Nodup := by
  rw [((rankedExperts_perm logits).map _).nodup_iff, List.zipIdx_map_snd]
  exact List.nodup_range'

/-- Of an expert that is chosen and one that is not, the chosen one ranks first. -/
theorem chosen_ranksFirst {n : Nat} {logits : List F32} {x y : F32 × Nat} (hx : x ∈ (rankedExperts logits).take n)
    (hy : y ∈ (rankedExperts logits).drop n) : ranksFirst x y = true := by
  have h := sortBy_pairwise ranksFirst_total ranksFirst_trans logits.zipIdx
  rw [show sortBy ranksFirst logits.zipIdx = _ from (List.take_append_drop n (rankedExperts logits)).symm] at h
  exact (List.pairwise_append.mp h).2.2 x hx y hy

/-- Settles O57: the experts stand in an order by rank, of which the first are taken. -/
theorem expertsWithTheLargestLogits : Obligations.ExpertsWithTheLargestLogits := by
  unfold Obligations.ExpertsWithTheLargestLogits
  intro n logits
  refine ⟨?count, ?distinct, ?experts, ?largest⟩
  case count => simp [topExperts_eq, (rankedExperts_perm logits).length_eq]
  case distinct => exact (rankedExperts_indices_nodup logits).sublist ((List.take_sublist n _).map _)
  case experts =>
    intro e he
    obtain ⟨x, hx, rfl⟩ := List.mem_map.mp he
    exact (mem_rankedExperts.mp (List.mem_of_mem_take hx)).1
  case largest =>
    intro e he g hg hout
    obtain ⟨x, hx, rfl⟩ := List.mem_map.mp he
    have hy : (nth logits g 0, g) ∈ rankedExperts logits := mem_rankedExperts.mpr ⟨hg, rfl⟩
    rw [← List.take_append_drop n (rankedExperts logits), List.mem_append] at hy
    have hdrop := hy.resolve_left fun h => hout (List.mem_map_of_mem h)
    have hne : x.2 ≠ g := fun h => hout (h ▸ he)
    have hrank := chosen_ranksFirst hx hdrop
    rw [ranksFirst_iff, (mem_rankedExperts.mp (List.mem_of_mem_take hx)).2] at hrank
    rw [Dyadic.lt_iff, Dyadic.not_lt_iff]
    exact hrank.imp_right fun h => ⟨h.1, by omega⟩

end Sys2Proof.Machine

namespace Sys2Proof.Machine

/-! ## Entries of a reduction buffer (R80, R149) -/

/-- The key by which a reduction buffer finds an entry. -/
def RedEntry.isAt (f : BitVec 16) (n : Nat) (e : RedEntry) : Bool := e.flow = f && e.element = n

/-- An entry with an arriving one added. -/
def RedEntry.plus (input : Nat) (x : SkW) (e : RedEntry) : RedEntry :=
  ⟨e.flow, e.element, e.sum + x.sum, e.overflow || x.overflow, e.poison || x.poison, e.inputs ++ [input]⟩

theorem RedEntry.isAt_iff {f : BitVec 16} {n : Nat} {e : RedEntry} : e.isAt f n = true ↔ e.flow = f ∧ e.element = n := by
  simp [RedEntry.isAt]

/-- An arriving entry joins the one at its place, or becomes a new one. -/
theorem addEntry_eq (flow element input : Nat) (x : SkW) (es : List RedEntry) :
    addEntry flow element input x es =
      if es.any (RedEntry.isAt (BitVec.ofNat 16 flow) element) then
        es.map fun e => if e.isAt (BitVec.ofNat 16 flow) element then e.plus input x else e
      else es ++ [⟨BitVec.ofNat 16 flow, element, x.sum, x.overflow, x.poison, [input]⟩] := by
  unfold addEntry
  refine if_congr Iff.rfl (List.map_congr_left fun e _ => ?_) rfl
  by_cases h : e.flow = BitVec.ofNat 16 flow ∧ e.element = element
  · rw [if_pos h, if_pos (RedEntry.isAt_iff.mpr h), RedEntry.plus, h.1, h.2]
  · rw [if_neg h, if_neg (mt RedEntry.isAt_iff.mp h)]

theorem find?_addEntry_new {flow element : Nat} {es : List RedEntry} (input : Nat) (x : SkW)
    (h : es.find? (RedEntry.isAt (BitVec.ofNat 16 flow) element) = none) :
    (addEntry flow element input x es).find? (RedEntry.isAt (BitVec.ofNat 16 flow) element) =
      some ⟨BitVec.ofNat 16 flow, element, x.sum, x.overflow, x.poison, [input]⟩ := by
  have hnone : es.any (RedEntry.isAt (BitVec.ofNat 16 flow) element) = false := by
    simpa using List.find?_eq_none.mp h
  rw [addEntry_eq, hnone, if_neg Bool.false_ne_true, List.find?_append, h]
  simp [RedEntry.isAt]

theorem find?_addEntry_joined {flow element : Nat} {es : List RedEntry} {e : RedEntry} (input : Nat) (x : SkW)
    (h : es.find? (RedEntry.isAt (BitVec.ofNat 16 flow) element) = some e) :
    (addEntry flow element input x es).find? (RedEntry.isAt (BitVec.ofNat 16 flow) element) = some (e.plus input x) := by
  have hat := List.find?_some h
  have hany : es.any (RedEntry.isAt (BitVec.ofNat 16 flow) element) = true :=
    List.any_eq_true.mpr ⟨e, List.mem_of_find?_eq_some h, hat⟩
  rw [addEntry_eq, if_pos hany, List.find?_map]
  have hkey : (RedEntry.isAt (BitVec.ofNat 16 flow) element ∘ fun e : RedEntry =>
      if e.isAt (BitVec.ofNat 16 flow) element then e.plus input x else e) = RedEntry.isAt (BitVec.ofNat 16 flow) element := by
    funext y
    dsimp only [Function.comp]
    split <;> rfl
  rw [hkey, h, Option.map_some, if_pos hat]

theorem find?_addEntry_other {flow element : Nat} (input : Nat) (x : SkW) (es : List RedEntry) {g : BitVec 16} {n : Nat}
    (h : g ≠ BitVec.ofNat 16 flow ∨ n ≠ element) :
    (addEntry flow element input x es).find? (RedEntry.isAt g n) = es.find? (RedEntry.isAt g n) := by
  have hother : ∀ e : RedEntry, e.isAt g n = true → e.isAt (BitVec.ofNat 16 flow) element = false := by
    intro e he
    obtain ⟨rfl, rfl⟩ := RedEntry.isAt_iff.mp he
    rcases h with h | h <;> simp [RedEntry.isAt, h]
  rw [addEntry_eq]
  split
  · have hkey : (RedEntry.isAt g n ∘ fun e : RedEntry =>
        if e.isAt (BitVec.ofNat 16 flow) element then e.plus input x else e) = RedEntry.isAt g n := by
      funext y
      dsimp only [Function.comp]
      split <;> rfl
    rw [List.find?_map, hkey]
    cases he : es.find? (RedEntry.isAt g n) with
    | none => rfl
    | some e => simp [hother e (List.find?_some he)]
  · rw [List.find?_append]
    have hnew : RedEntry.isAt g n ⟨BitVec.ofNat 16 flow, element, x.sum, x.overflow, x.poison, [input]⟩ = false := by
      rcases h with h | h <;> simp [RedEntry.isAt, h.symm]
    simp [hnew]

/-! ## Lanes of a word (R119) -/

/-- Digits put together in base 2^w: what they make is below 2^(w n), and each is read at its place. -/
theorem digits_sum (w n : Nat) (a : Nat → Nat) (ha : ∀ k, a k < 2 ^ w) :
    ((List.range n).map fun k => a k * 2 ^ (w * k)).sum < 2 ^ (w * n) ∧
      ∀ j < n, ((List.range n).map fun k => a k * 2 ^ (w * k)).sum / 2 ^ (w * j) % 2 ^ w = a j := by
  induction n with
  | zero => simp
  | succ n ih =>
    obtain ⟨hlt, hread⟩ := ih
    rw [List.range_succ, List.map_append, List.sum_append, List.map_singleton, List.sum_singleton]
    generalize ((List.range n).map fun k => a k * 2 ^ (w * k)).sum = low at hlt hread
    refine ⟨?_, fun j hj => ?_⟩
    · calc low + a n * 2 ^ (w * n) < (a n + 1) * 2 ^ (w * n) := by linarith
        _ ≤ 2 ^ w * 2 ^ (w * n) := Nat.mul_le_mul_right _ (ha n)
        _ = 2 ^ (w * (n + 1)) := by rw [← pow_add, Nat.mul_succ, Nat.add_comm]
    · rcases Nat.lt_succ_iff_lt_or_eq.mp hj with hj | rfl
      · have hplace : a n * 2 ^ (w * n) = 2 ^ w * (a n * 2 ^ (w * (n - j - 1))) * 2 ^ (w * j) := by
          have hexp : w * n = w + w * (n - j - 1) + w * j := by
            calc w * n = w * (1 + (n - j - 1) + j) := by congr 1; omega
              _ = w + w * (n - j - 1) + w * j := by ring
          rw [hexp, pow_add, pow_add]
          ring
        rw [hplace, Nat.add_mul_div_right _ _ (Nat.two_pow_pos _), Nat.add_mul_mod_self_left]
        exact hread j hj
      · rw [Nat.add_mul_div_right _ _ (Nat.two_pow_pos _), Nat.div_eq_of_lt hlt, Nat.zero_add, Nat.mod_eq_of_lt (ha j)]

/-- Lane j of a word, lanes of w bits. -/
def laneOf (w : Nat) (v : BitVec 64) (j : Nat) : Nat := v.toNat / 2 ^ (w * j) % 2 ^ w

theorem bits_lane {w : Nat} (hw : 0 < w) (v : BitVec 64) (j : Nat) : bits v (w * j + w - 1) (w * j) = laneOf w v j := by
  have hwidth : w * j + w - 1 + 1 - w * j = w := by omega
  rw [bits, hwidth, Nat.shiftRight_eq_div_pow]
  rfl

theorem addLanes_eq (w : Nat) (x y : BitVec 64) :
    addLanes w x y = BitVec.ofNat 64 ((List.range (64 / w)).map fun k => (laneOf w x k + laneOf w y k) % 2 ^ w * 2 ^ (w * k)).sum := by
  simp only [addLanes, laneOf, ← Nat.add_mod]

/-- Every lane of the sum is the sum of the lanes, wrapping. -/
theorem laneOf_addLanes (w : Nat) (x y : BitVec 64) {j : Nat} (hj : j < 64 / w) :
    laneOf w (addLanes w x y) j = (laneOf w x j + laneOf w y j) % 2 ^ w := by
  obtain ⟨hlt, hread⟩ := digits_sum w (64 / w) (fun k => (laneOf w x k + laneOf w y k) % 2 ^ w) fun k => Nat.mod_lt _ (Nat.two_pow_pos w)
  have hword := hlt.trans_le (Nat.pow_le_pow_right two_pos (Nat.mul_div_le 64 w))
  rw [laneOf, addLanes_eq, BitVec.toNat_ofNat, Nat.mod_eq_of_lt hword]
  exact hread j hj

theorem addLanes_comm (w : Nat) (x y : BitVec 64) : addLanes w x y = addLanes w y x := by
  simp only [addLanes_eq, Nat.add_comm]

theorem addLanes_assoc (w : Nat) (x y z : BitVec 64) : addLanes w (addLanes w x y) z = addLanes w x (addLanes w y z) := by
  rw [addLanes_eq w (addLanes w x y) z, addLanes_eq w x (addLanes w y z)]
  congr 2
  refine List.map_congr_left fun k hk => ?_
  rw [laneOf_addLanes w x y (List.mem_range.mp hk), laneOf_addLanes w y z (List.mem_range.mp hk), Nat.mod_add_mod, Nat.add_mod_mod,
    Nat.add_assoc]

theorem writeMode_accumulate (k : Nat) (x y : BitVec 64) :
    writeMode 1 k [(x, false)] [(y, false)] = [(addLanes (2 ^ (4 + k)) x y, false)] := rfl

/-! ## skW entries (R120) -/

theorem SkW.add_poison (x y : SkW) : (x.add y).poison = (x.poison || y.poison) := by
  unfold SkW.add
  dsimp only
  split_ifs <;> rfl

theorem SkW.add_exact {x y : SkW} (hlow : -(2 ^ 71) ≤ x.sum + y.sum) (hhigh : x.sum + y.sum < 2 ^ 71) :
    x.add y = ⟨x.sum + y.sum, x.overflow || y.overflow, x.poison || y.poison⟩ := by
  unfold SkW.add
  rw [if_neg (by omega), if_neg (by omega)]

theorem SkW.add_above {x y : SkW} (h : 2 ^ 71 ≤ x.sum + y.sum) : x.add y = ⟨2 ^ 71 - 1, true, x.poison || y.poison⟩ := by
  unfold SkW.add
  rw [if_pos (by omega)]

theorem SkW.add_below {x y : SkW} (h : x.sum + y.sum < -(2 ^ 71)) : x.add y = ⟨-(2 ^ 71), true, x.poison || y.poison⟩ := by
  unfold SkW.add
  rw [if_neg (by omega), if_pos (by omega)]

theorem natLE_cons (b : Byte) (bs : Bytes) : natLE (b :: bs) = natLE bs * 256 + b.toNat := by
  simp [natLE, natBE]

/-- k low bytes of a number hold it modulo 2^(8 k). -/
theorem natLE_bytesLE (k n : Nat) : natLE (bytesLE k n) = n % 2 ^ (8 * k) := by
  induction k generalizing n with
  | zero => simp [bytesLE, natLE, natBE, Nat.mod_one]
  | succ k ih =>
    have hpow : 2 ^ (8 * (k + 1)) = 256 * 2 ^ (8 * k) := by rw [Nat.mul_succ, pow_add, Nat.mul_comm]; norm_num
    rw [bytesLE, natLE_cons, ih, BitVec.toNat_ofNat, hpow, Nat.mod_mul]
    omega

@[simp] theorem SkW.bytes_length (x : SkW) : x.bytes.length = 10 := by simp [SkW.bytes]

theorem testBit_flags : ∀ a b : Bool, (flag a + 2 * flag b).testBit 0 = a ∧ (flag a + 2 * flag b).testBit 1 = b := by decide

/-- A stored entry whose sum has 72 bits reads as what was stored (R120). -/
theorem skwOf_bytes {x : SkW} (hlow : -(2 ^ 71) ≤ x.sum) (hhigh : x.sum < 2 ^ 71) : skwOf x.bytes = x := by
  have hsum : (BitVec.ofNat 72 (natLE (x.bytes.take 9))).toInt = x.sum := by
    rw [SkW.bytes, List.take_left' (bytesLE_length 9 _), natLE_bytesLE, Nat.mod_eq_of_lt (BitVec.isLt _), BitVec.ofNat_toNat,
      BitVec.setWidth_eq, BitVec.toInt_ofInt]
    exact Int.bmod_eq_of_le (by omega) (by omega)
  have hflags : ((x.bytes.drop 9).headD 0).toNat = flag x.overflow + 2 * flag x.poison := by
    rw [SkW.bytes, List.drop_left' (bytesLE_length 9 _)]
    cases x.overflow <;> cases x.poison <;> rfl
  obtain ⟨hoverflow, hpoison⟩ := testBit_flags x.overflow x.poison
  rw [skwOf, hsum, hflags, hoverflow, hpoison]

/-- An entry added to two unpoisoned words: the two words of the sum. -/
theorem addToWords_clean (x : SkW) (w0 w1 : BitVec 64) :
    addToWords x (w0, false) (w1, false) =
      wordsOf (((skwOf (bytesOf [(w0, false), (w1, false)])).add x).bytes ++ List.replicate 6 0) := by
  have hwords (l : Bytes) (hl : l.length = 16) : [nth (wordsOf l) 0 (0, false), nth (wordsOf l) 1 (0, false)] = wordsOf l := by
    rw [wordsOf, hl]
    rfl
  rw [← hwords _ (by simp)]
  simp [addToWords]

/-- Settles O56: what is found in a reduction buffer after an addition, lane by lane what an accumulate writes, and the sum
and layout of an skW entry. -/
theorem additionIsExact : Obligations.AdditionIsExact := by
  unfold Obligations.AdditionIsExact
  refine ⟨fun flow element input x es => ⟨?new, ?joined, ?others⟩, fun k x y z hk => ⟨?lanes, ?comm, ?assoc, ?mode⟩,
    fun x y => ⟨x.add_poison y, ?exact, ?above, ?below, ?stored, ?words⟩⟩
  case new => exact find?_addEntry_new input x
  case joined =>
    intro e he
    obtain ⟨hflow, helement⟩ := RedEntry.isAt_iff.mp (List.find?_some he)
    have hplus : e.plus input x = ⟨BitVec.ofNat 16 flow, element, e.sum + x.sum, e.overflow || x.overflow, e.poison || x.poison,
        e.inputs ++ [input]⟩ := by rw [RedEntry.plus, hflow, helement]
    exact hplus ▸ find?_addEntry_joined input x he
  case others => exact fun g n h => find?_addEntry_other input x es h
  case lanes =>
    intro j hj
    dsimp only
    rw [bits_lane (Nat.two_pow_pos _), bits_lane (Nat.two_pow_pos _), bits_lane (Nat.two_pow_pos _)]
    exact laneOf_addLanes _ x y hj
  case comm => exact addLanes_comm _ x y
  case assoc => exact addLanes_assoc _ x y z
  case mode => exact writeMode_accumulate k x y
  case exact => exact fun hlow hhigh => by simp [SkW.add_exact hlow hhigh]
  case above => exact fun h => by simp [SkW.add_above h]
  case below => exact fun h => by simp [SkW.add_below h]
  case stored => exact skwOf_bytes
  case words => exact addToWords_clean x

end Sys2Proof.Machine

namespace Sys2Proof.Machine

/-! ## The issue of an instruction (R130, R132, R162)

While contract holds pass the data plane goes on running, and of the combs the issue changes one alone: its program counter
and its busy units. -/

@[simp] theorem raiseHold_dp (cause : BitVec 8) (source : Source) (known : Option Nat) (s : State) :
    (raiseHold cause source known s).tide.dp = s.tide.dp := rfl

@[simp] theorem passSlack_dp (n : Nat) (s : State) : (passSlack n s).tide.dp = s.tide.dp := by
  unfold passSlack
  split <;> rfl

@[simp] theorem releaseHold_dp (k : Nat) (s : State) : (releaseHold k s).tide.dp = s.tide.dp := by
  unfold releaseHold
  split <;> rfl

@[simp] theorem passKnown_dp (cause : BitVec 8) (n : Nat) (s : State) : (passKnown cause n s).tide.dp = s.tide.dp := by
  unfold passKnown
  split <;> simp

@[simp] theorem passContract_dp (hs : List (Nat × Nat × Nat)) (s : State) : (passContract hs s).tide.dp = s.tide.dp := by
  unfold passContract
  exact foldl_keeps (·.tide.dp) _ (fun s h => passKnown_dp 8 h.2.2 s) hs s

@[simp] theorem advanceTo_dp (c : Nat) (s : State) : (advanceTo c s).tide.dp = s.tide.dp := passContract_dp ..

@[simp] theorem reachBefore_dp (c : Nat) (s : State) : (reachBefore c s).tide.dp = s.tide.dp := passContract_dp ..

@[simp] theorem raiseContract_dp (before c : Nat) (s : State) : (raiseContract before c s).tide.dp = s.tide.dp := by
  unfold raiseContract
  refine foldl_keeps (·.tide.dp) _ (fun s h => ?_) _ s
  split <;> rfl

theorem comb_congr {s t : State} (h : t.combs = s.combs) (q : Nat) : t.comb q = s.comb q := by rw [State.comb, h, State.comb]

theorem issued_dp (i : Issue) (op : TideOp) (s : State) : (issued i op s).tide.dp = s.tide.dp := advanceTo_dp ..

theorem issued_combs (i : Issue) (op : TideOp) (s : State) : ∃ f : Comb → Comb, (issued i op s).combs = upd s.combs i.comb f ∧
    ∀ c, ∃ pc busy, f c = { c with pc := pc, busy := busy } :=
  ⟨_, congrArg (upd · i.comb _) (by simp : (advanceTo i.cycle.toNat s).combs = s.combs), fun _ => ⟨_, _, rfl⟩⟩

theorem issued_length (i : Issue) (op : TideOp) (s : State) : (issued i op s).combs.length = s.combs.length := by
  obtain ⟨f, h, -⟩ := issued_combs i op s
  rw [h]
  exact List.length_modify ..

theorem issued_comb (i : Issue) (op : TideOp) (s : State) (q : Nat) :
    ∃ pc busy, (issued i op s).comb q = { s.comb q with pc := pc, busy := busy } := by
  obtain ⟨f, h, hf⟩ := issued_combs i op s
  rw [State.comb, h, nth_upd]
  split
  · exact hf _
  · exact ⟨_, _, rfl⟩

theorem issued_comb_other (i : Issue) (op : TideOp) (s : State) {q : Nat} (hq : q ≠ i.comb) : (issued i op s).comb q = s.comb q := by
  obtain ⟨f, h, -⟩ := issued_combs i op s
  rw [State.comb, h, nth_upd, if_neg fun h => hq h.1.symm]
  rfl

theorem issued_mem (i : Issue) (op : TideOp) (s : State) (q : Nat) : ((issued i op s).comb q).mem = (s.comb q).mem := by
  obtain ⟨_, _, h⟩ := issued_comb i op s q
  rw [h]

theorem issued_sameConfig (i : Issue) (op : TideOp) (s : State) : SameConfig s (issued i op s) := by simp [SameConfig]

theorem running_of_counting {s : State} (h : counting s = true) : s.tide.dp = .running := by
  simp only [counting, Bool.and_eq_true, decide_eq_true_eq] at h
  obtain ⟨⟨⟨⟨⟨hrun, -⟩, -⟩, -⟩, -⟩, -⟩ := h
  exact hrun

theorem running_of_relieving {c : Nat} {s : State} (h : relieving c s = true) : s.tide.dp = .running := by
  simp only [relieving, Bool.and_eq_true, decide_eq_true_eq] at h
  obtain ⟨⟨⟨⟨⟨⟨hrun, -⟩, -⟩, -⟩, -⟩, -⟩, -⟩ := h
  exact hrun

theorem issued_running {i : Issue} {op : TideOp} {s : State} (h : canIssue i op s = true) : (issued i op s).tide.dp = .running := by
  simp only [canIssue, Bool.and_eq_true, Bool.or_eq_true] at h
  obtain ⟨⟨⟨⟨⟨⟨⟨⟨-, hclock⟩, -⟩, -⟩, -⟩, -⟩, -⟩, -⟩, -⟩ := h
  rw [issued_dp]
  exact hclock.elim running_of_counting running_of_relieving

theorem issueAt_issued {i : Issue} {op : TideOp} {s : State} (h : canIssue i op s = true) (f : State → State) :
    issueAt i op f s = afterStop (stopWith i (issued i op s) (f (issued i op s))) := if_pos h

theorem afterStop_running {s : State} (h : s.tide.dp = .running) : afterStop s = s := if_pos h

/-- What leaves the data plane running stands as the instruction left it. -/
theorem unstopped (i : Issue) (u : State) {t : State} (h : t.tide.dp = .running) : afterStop (stopWith i u t) = t := by
  rw [stopWith_running i u h, afterStop_running h]

section Issued
variable {i : Issue} {s : State}

theorem exec_dot {o : DotOp} {out : OutRef} (h : canIssue i (.dot o) s = true) (hr : rowsReady i.comb (dotRows i o s) s = true) :
    exec (.dot i o out) s =
      .next (afterStop (stopWith i (issued i (.dot o) s) (runDot i o out (issued i (.dot o) s)))) :=
  congrArg Host.Outcome.next ((if_pos ⟨h, hr⟩).trans (issueAt_issued h _))

theorem exec_emit {o : EmitOp} {out : BitVec 3} (h : canIssue i (.emit o) s = true) (he : (s.comb i.comb).fallback = [])
    (hr : rowsReady i.comb (emitRows i o s) s = true) :
    exec (.emit i o out) s =
      .next (afterStop (stopWith i (issued i (.emit o) s) (runEmit i o out (issued i (.emit o) s)))) :=
  congrArg Host.Outcome.next ((if_pos ⟨h, he, hr⟩).trans (issueAt_issued h _))

theorem exec_fabric {o : FabricOp} (h : canIssue i (.fabric o) s = true) (hr : rowsReady i.comb (sendRows i o s) s = true) :
    exec (.fabric i o) s =
      .next (afterStop (stopWith i (issued i (.fabric o) s) (runFabric i o (issued i (.fabric o) s)))) :=
  congrArg Host.Outcome.next ((if_pos ⟨h, hr⟩).trans (issueAt_issued h _))

theorem exec_rotate {o : RotateOp} (h : canIssue i (.rotate o) s = true) :
    exec (.rotate i o) s =
      .next (afterStop (stopWith i (issued i (.rotate o) s) (runRotate i o (issued i (.rotate o) s)))) :=
  congrArg Host.Outcome.next (issueAt_issued h _)

end Issued

/-! ## Faults leave the memories (R213) -/

theorem scheduleFault_mem (f : FaultSite) (s : State) (q : Nat) : ((scheduleFault f s).comb q).mem = (s.comb q).mem := by
  unfold scheduleFault
  split
  · rw [(halt_comb_keeps .fault q _).1, comb_congr (by simp : (recordFault f false s).combs = s.combs)]
  · split <;> rfl

theorem raiseFaults_mem (fs : List FaultSite) (s : State) (q : Nat) : ((raiseFaults fs s).comb q).mem = (s.comb q).mem :=
  foldl_keeps (fun s : State => (s.comb q).mem) _ (fun s f => scheduleFault_mem f s q) _ s

/-! ## What one comb does alone

An instruction works on its own comb: besides it, only the records of errors change. -/

/-- Comb p changed, and what is recorded of errors; nothing else. -/
structure CombOnly (p : Nat) (s t : State) : Prop where
  others : ∀ q, q ≠ p → t.comb q = s.comb q
  length : t.combs.length = s.combs.length
  rest : { t with combs := s.combs, err := s.err } = s

namespace CombOnly
variable {p : Nat} {s t u : State}

theorem refl (p : Nat) (s : State) : CombOnly p s s := ⟨fun _ _ => rfl, rfl, rfl⟩

theorem trans (h : CombOnly p s t) (k : CombOnly p t u) : CombOnly p s u where
  others q hq := (k.others q hq).trans (h.others q hq)
  length := k.length.trans h.length
  rest := by
    calc { u with combs := s.combs, err := s.err }
      _ = { ({ u with combs := t.combs, err := t.err } : State) with combs := s.combs, err := s.err } := rfl
      _ = { t with combs := s.combs, err := s.err } := by rw [k.rest]
      _ = s := h.rest

theorem foldl {β : Type} {f : State → β → State} (h : ∀ s b, CombOnly p s (f s b)) (l : List β) (s : State) :
    CombOnly p s (l.foldl f s) := foldl_inv (CombOnly p s) f (fun t b ht => ht.trans (h t b)) l s (.refl p s)

theorem tide (h : CombOnly p s t) : t.tide = s.tide := (congrArg State.tide h.rest :)
theorem img (h : CombOnly p s t) : t.img = s.img := (congrArg State.img h.rest :)
theorem fabric (h : CombOnly p s t) : t.fabric = s.fabric := (congrArg State.fabric h.rest :)
theorem shelf (h : CombOnly p s t) : t.shelf = s.shelf := (congrArg State.shelf h.rest :)
theorem str (h : CombOnly p s t) : t.str = s.str := (congrArg State.str h.rest :)

theorem sameConfig (h : CombOnly p s t) : SameConfig s t :=
  ⟨(congrArg State.ident h.rest :), (congrArg State.cfg h.rest :), (congrArg State.live h.rest :), (congrArg State.flash h.rest :)⟩

end CombOnly

theorem SameConfig.trans {s t u : State} (h : SameConfig s t) (k : SameConfig t u) : SameConfig s u := by
  obtain ⟨h1, h2, h3, h4⟩ := h
  obtain ⟨k1, k2, k3, k4⟩ := k
  exact ⟨k1.trans h1, k2.trans h2, k3.trans h3, k4.trans h4⟩

theorem setComb_combOnly (p : Nat) (f : Comb → Comb) (s : State) : CombOnly p s (setComb p f s) :=
  ⟨fun q hq => by rw [setComb_comb, if_neg fun h => hq h.1.symm], setComb_length p f s, rfl⟩

theorem setComb_self {p : Nat} {s : State} (hp : p < s.combs.length) (f : Comb → Comb) : (setComb p f s).comb p = f (s.comb p) := by
  rw [setComb_comb, if_pos ⟨rfl, hp⟩]

/-- A field that a change of one comb leaves is as before in every comb. -/
theorem setComb_kept {α : Type} (g : Comb → α) (p : Nat) (f : Comb → Comb) (s : State) (q : Nat) (hf : ∀ c, g (f c) = g c) :
    g ((setComb p f s).comb q) = g (s.comb q) := by
  rw [setComb_comb]
  split
  · exact hf _
  · rfl

/-! ## What reads of rows leave behind -/

/-- Besides what it counts, queues and notes, a comb is as before. -/
def Comb.SameWork (c d : Comb) : Prop :=
  { d with record := c.record, scrubQueue := c.scrubQueue, mendQueue := c.mendQueue, accesses := c.accesses, writes := c.writes } = c

theorem Comb.SameWork.eq {c d : Comb} (h : c.SameWork d) :
    { d with record := c.record, scrubQueue := c.scrubQueue, mendQueue := c.mendQueue, accesses := c.accesses, writes := c.writes } = c := h

theorem Comb.SameWork.trans {c d e : Comb} (h : c.SameWork d) (k : d.SameWork e) : c.SameWork e := by
  unfold Comb.SameWork at *
  rw [← k] at h
  exact h

/-- Comb p counts, queues or notes what it has read, and errors are recorded. -/
structure Noted (p : Nat) (s t : State) : Prop extends CombOnly p s t where
  work : (s.comb p).SameWork (t.comb p)

namespace Noted
variable {p : Nat} {s t u : State}

theorem refl (p : Nat) (s : State) : Noted p s s := ⟨.refl p s, rfl⟩

theorem trans (h : Noted p s t) (k : Noted p t u) : Noted p s u := ⟨h.toCombOnly.trans k.toCombOnly, h.work.trans k.work⟩

theorem foldl {β : Type} {f : State → β → State} (h : ∀ s b, Noted p s (f s b)) (l : List β) (s : State) :
    Noted p s (l.foldl f s) := foldl_inv (Noted p s) f (fun t b ht => ht.trans (h t b)) l s (.refl p s)

theorem setComb (p : Nat) (f : Comb → Comb) (s : State) (hf : ∀ c : Comb, c.SameWork (f c)) : Noted p s (setComb p f s) where
  toCombOnly := setComb_combOnly p f s
  work := by
    rw [setComb_comb]
    split
    · exact hf _
    · rfl

theorem ofErr (p : Nat) {s t : State} (h : { t with err := s.err } = s) : Noted p s t :=
  have hcombs : t.combs = s.combs := (congrArg State.combs h :)
  ⟨⟨fun q _ => comb_congr hcombs q, congrArg List.length hcombs, by rw [← hcombs]; exact h⟩, by rw [comb_congr hcombs]; rfl⟩

/-- A field of a comb that reads leave is as before in every comb. -/
theorem kept {α : Type} (h : Noted p s t) (g : Comb → α) (hg : ∀ c d : Comb, c.SameWork d → g d = g c) (q : Nat) :
    g (t.comb q) = g (s.comb q) := by
  by_cases hq : q = p
  · rw [hq]
    exact hg _ _ h.work
  · rw [h.others q hq]

theorem mem (h : Noted p s t) : ∀ q, (t.comb q).mem = (s.comb q).mem := h.kept Comb.mem fun _ _ w => (congrArg Comb.mem w.eq :)
theorem cells (h : Noted p s t) : ∀ q, (t.comb q).cells = (s.comb q).cells := h.kept Comb.cells fun _ _ w => (congrArg Comb.cells w.eq :)
theorem mends (h : Noted p s t) : ∀ q, (t.comb q).mends = (s.comb q).mends := h.kept Comb.mends fun _ _ w => (congrArg Comb.mends w.eq :)
theorem shape (h : Noted p s t) : ∀ q, (t.comb q).shape = (s.comb q).shape := h.kept Comb.shape fun _ _ w => (congrArg Comb.shape w.eq :)
theorem fallback (h : Noted p s t) : ∀ q, (t.comb q).fallback = (s.comb q).fallback :=
  h.kept Comb.fallback fun _ _ w => (congrArg Comb.fallback w.eq :)
theorem rowOuts (h : Noted p s t) : ∀ q, (t.comb q).rowOuts = (s.comb q).rowOuts :=
  h.kept Comb.rowOuts fun _ _ w => (congrArg Comb.rowOuts w.eq :)

end Noted

theorem queueBad_noted (p : Nat) (rows : List (BitVec 22)) (s : State) : Noted p s (queueBad p rows s) :=
  Noted.setComb p _ s fun _ => rfl

/-- Reads of rows are counted; only where they find a row that was mended twice is the comb declared failed (R311). -/
theorem countReads_cases (p : Nat) (reads : List (Nat × List WordRead)) (s : State) : ∃ u, Noted p s u ∧
    (countReads p reads s = u ∨
      (∃ r, 2 ≤ (s.comb p).mends.count r) ∧ countReads p reads s = declareFailed (.comb p) u) := by
  unfold countReads
  dsimp only
  split
  next hagain =>
    obtain ⟨r, -, hr⟩ := List.any_eq_true.mp hagain
    refine ⟨_, .trans ?_ (queueBad_noted p _ _), .inr ⟨⟨r, of_decide_eq_true hr⟩, rfl⟩⟩
    exact .setComb p _ s fun _ => rfl
  · refine ⟨_, .trans ?_ (queueBad_noted p _ _), .inl rfl⟩
    exact .setComb p _ s fun _ => rfl

/-- No row of comb p has been mended twice in the epoch. -/
def Unworn (p : Nat) (s : State) : Prop := ∀ r, (s.comb p).mends.count r < 2

theorem countReads_noted {p : Nat} {s : State} (h : Unworn p s) (reads : List (Nat × List WordRead)) :
    Noted p s (countReads p reads s) := by
  obtain ⟨u, hu, heq | ⟨⟨r, hr⟩, -⟩⟩ := countReads_cases p reads s
  · exact heq ▸ hu
  · exact absurd (h r) (Nat.not_lt.mpr hr)

theorem reportPoison_noted (p : Nat) (r : PoisonReport) (s : State) : Noted p s (reportPoison r s) := .ofErr p rfl

theorem reportRows_noted (p operand : Nat) (slot : Nat → Nat) (reads : List (Nat × List WordRead)) (s : State) :
    Noted p s (reportRows p operand slot reads s) := Noted.foldl (fun s _ => reportPoison_noted p _ s) _ s

theorem reportSide_noted (p : Nat) (sl : SlotOp) (x : DotSide) (bs : List (Nat × Nat × BlockRead)) (s : State) :
    Noted p s (reportSide p sl x bs s) := by
  unfold reportSide
  dsimp only
  split
  · exact Noted.foldl (fun s _ => reportPoison_noted p _ s) _ s
  · split
    · exact .refl p s
    · exact reportPoison_noted p _ s

theorem noteAccesses_noted (i : Issue) (bs : List (Nat × Nat)) (s : State) : Noted i.comb s (noteAccesses i bs s) :=
  Noted.setComb i.comb _ s fun _ => rfl

theorem noteWrites_noted (i : Issue) (op : TideOp) (xs : List (Nat × Nat)) (s : State) : Noted i.comb s (noteWrites i op xs s) :=
  Noted.setComb i.comb _ s fun _ => rfl

/-! Without parity errors on the way, a unit receives what the scratchpad holds (R125). -/

theorem countParity_clean {i : Issue} (h : i.parity = []) (rows : List Nat) (s : State) : countParity i rows s = s := by
  rw [countParity, h]
  rfl

theorem heard_clean {i : Issue} (h : i.parity = []) (s : State) : heard i s = s := if_pos h

end Sys2Proof.Machine

namespace Sys2Proof.Machine

/-! ## Replays (R101 to R104)

A replay reads rows and adds into accumulators. It leaves the scratchpads and the data plane's state, unless a row that was
mended twice fails again: then its comb is declared failed, and the scratchpads alone are as before (R311). -/

/-- The data plane is in the same state; scratchpads, mends and shapes of the combs, the shelf, the streams and the
configuration are as before. -/
structure Steady (s t : State) : Prop where
  length : t.combs.length = s.combs.length
  combs : ∀ q, (t.comb q).mem = (s.comb q).mem ∧ (t.comb q).mends = (s.comb q).mends ∧ (t.comb q).shape = (s.comb q).shape
  dp : t.tide.dp = s.tide.dp
  shelf : t.shelf = s.shelf
  str : t.str = s.str
  config : SameConfig s t

/-- Every scratchpad is as before, and no load has begun. -/
structure KeepsMemory (s t : State) : Prop where
  length : t.combs.length = s.combs.length
  mem : ∀ q, (t.comb q).mem = (s.comb q).mem
  dp : s.tide.dp ≠ .loading → t.tide.dp ≠ .loading

namespace Steady
variable {p : Nat} {s t u : State}

theorem refl (s : State) : Steady s s := ⟨rfl, fun _ => ⟨rfl, rfl, rfl⟩, rfl, rfl, rfl, ⟨rfl, rfl, rfl, rfl⟩⟩

theorem trans (h : Steady s t) (k : Steady t u) : Steady s u where
  length := k.length.trans h.length
  combs q := by
    obtain ⟨h1, h2, h3⟩ := h.combs q
    obtain ⟨k1, k2, k3⟩ := k.combs q
    exact ⟨k1.trans h1, k2.trans h2, k3.trans h3⟩
  dp := k.dp.trans h.dp
  shelf := k.shelf.trans h.shelf
  str := k.str.trans h.str
  config := h.config.trans k.config

theorem ofCombOnly (h : CombOnly p s t)
    (hp : (t.comb p).mem = (s.comb p).mem ∧ (t.comb p).mends = (s.comb p).mends ∧ (t.comb p).shape = (s.comb p).shape) :
    Steady s t where
  length := h.length
  combs q := by
    by_cases hq : q = p
    · rw [hq]
      exact hp
    · rw [h.others q hq]
      exact ⟨rfl, rfl, rfl⟩
  dp := by rw [h.tide]
  shelf := h.shelf
  str := h.str
  config := h.sameConfig

theorem ofNoted (h : Noted p s t) : Steady s t := ofCombOnly h.toCombOnly ⟨h.mem p, h.mends p, h.shape p⟩

theorem setComb (p : Nat) (f : Comb → Comb) (s : State)
    (hf : ∀ c, (f c).mem = c.mem ∧ (f c).mends = c.mends ∧ (f c).shape = c.shape) : Steady s (setComb p f s) := by
  exact ofCombOnly (setComb_combOnly p f s) ⟨setComb_kept Comb.mem p f s p fun c => (hf c).1,
    setComb_kept Comb.mends p f s p fun c => (hf c).2.1, setComb_kept Comb.shape p f s p fun c => (hf c).2.2⟩

theorem unworn (h : Steady s t) (hs : Unworn p s) : Unworn p t := fun r => (h.combs p).2.1 ▸ hs r

/-- A fold whose steps hold an unworn comb's state steady does so too. -/
theorem foldl {β : Type} {f : State → β → State} (h : ∀ s b, Unworn p s → Steady s (f s b)) (l : List β) (hs : Unworn p s) :
    Steady s (l.foldl f s) :=
  foldl_inv (Steady s) f (fun t b ht => ht.trans (h t b (ht.unworn hs))) l s (.refl s)

theorem keepsMemory (h : Steady s t) : KeepsMemory s t := ⟨h.length, fun q => (h.combs q).1, fun hl => h.dp ▸ hl⟩

end Steady

namespace KeepsMemory
variable {s t u : State}

theorem refl (s : State) : KeepsMemory s s := (Steady.refl s).keepsMemory

theorem trans (h : KeepsMemory s t) (k : KeepsMemory t u) : KeepsMemory s u :=
  ⟨k.length.trans h.length, fun q => (k.mem q).trans (h.mem q), fun hl => k.dp (h.dp hl)⟩

theorem foldl {β : Type} {f : State → β → State} (h : ∀ s b, s.tide.dp ≠ .loading → KeepsMemory s (f s b)) (l : List β)
    (hs : s.tide.dp ≠ .loading) : KeepsMemory s (l.foldl f s) :=
  foldl_inv (KeepsMemory s) f (fun t b ht => ht.trans (h t b (ht.dp hs))) l s (.refl s)

end KeepsMemory

/-! ### A comb that is declared failed keeps its scratchpad -/

theorem halt_length (x : HaltCause) (s : State) : (halt x s).combs.length = s.combs.length := List.length_map ..

theorem haltForRemap_length {s : State} (h : remapApplies s = true) : (haltForRemap s).combs.length = s.combs.length := by
  rcases haltForRemap_cases h with heq | ⟨-, heq⟩ | ⟨-, heq⟩ <;> rw [heq]
  exact halt_length .remap s

theorem retireComb_keepsMemory (p : Nat) (s : State) : KeepsMemory s (retireComb p s) := by
  unfold retireComb
  split
  · have hcombs : (unitNotice 1 p (dropComb p s)).combs = (setComb p (fun c => { c with good := false }) s).combs := by simp [dropComb]
    have hset := Steady.setComb p (fun c => { c with good := false }) s fun _ => ⟨rfl, rfl, rfl⟩
    exact ⟨(congrArg List.length hcombs).trans hset.length, fun q => by rw [comb_congr hcombs]; exact (hset.combs q).1,
      fun hl => by simpa [dropComb] using hl⟩
  · exact .refl s

theorem declareFailed_comb_keepsMemory (p : Nat) {s : State} (hl : s.tide.dp ≠ .loading) :
    KeepsMemory s (declareFailed (.comb p) s) := by
  by_cases h : remapApplies s = true ∧ needsRemap (.comb p) s = true
  · obtain ⟨hdp, -, -, -, -, hcombs⟩ := haltForRemap_keeps h.1
    rw [declareFailed_displacing hl h.1 h.2]
    exact ⟨haltForRemap_length h.1, fun q => (hcombs q).1, fun _ => by simp [hdp]⟩
  · have hno : remapApplies s = false ∨ needsRemap (.comb p) s = false := by
      rw [← Bool.not_eq_true, ← Bool.not_eq_true]
      exact not_and_or.mp h
    rw [declareFailed_undisplacing hl hno]
    exact retireComb_keepsMemory p s

theorem countReads_keepsMemory (p : Nat) (reads : List (Nat × List WordRead)) {s : State} (hl : s.tide.dp ≠ .loading) :
    KeepsMemory s (countReads p reads s) := by
  obtain ⟨u, hu, heq | ⟨-, heq⟩⟩ := countReads_cases p reads s <;> rw [heq]
  · exact (Steady.ofNoted hu).keepsMemory
  · have hsu := (Steady.ofNoted hu).keepsMemory
    exact hsu.trans (declareFailed_comb_keepsMemory p (hsu.dp hl))

/-! ### Entries and slack -/

theorem eachCell_steady (p region : Nat) (fresh : Cell) (rs cs : List Nat) (slices : Nat) (f : Nat → Nat → Nat → Cell → Cell) (s : State) :
    Steady s (eachCell p region fresh rs cs slices f s) := Steady.setComb p _ s fun _ => ⟨rfl, rfl, rfl⟩

/-- Once its rows are read, a replay entry works on accumulators and counts its cycles. -/
theorem replayEntry_after_reads (p : Nat) (e : Replay) (s : State) :
    ∃ reads, Steady (countReads p reads s) (replayEntry p e s) :=
  ⟨_, (eachCell_steady ..).trans (Steady.setComb p _ _ fun _ => ⟨rfl, rfl, rfl⟩)⟩

theorem replayEntry_steady {p : Nat} {s : State} (h : Unworn p s) (e : Replay) : Steady s (replayEntry p e s) := by
  obtain ⟨reads, hr⟩ := replayEntry_after_reads p e s
  exact (Steady.ofNoted (countReads_noted h reads)).trans hr

theorem replayEntry_keepsMemory (p : Nat) (e : Replay) {s : State} (hl : s.tide.dp ≠ .loading) : KeepsMemory s (replayEntry p e s) := by
  obtain ⟨reads, hr⟩ := replayEntry_after_reads p e s
  exact (countReads_keepsMemory p reads hl).trans hr.keepsMemory

theorem markLayerSlack_noted (p l : Nat) (s : State) : Noted p s (markLayerSlack l s) := by
  unfold markLayerSlack
  split
  · exact .refl p s
  · exact .ofErr p rfl

theorem raiseHold_steady (cause : BitVec 8) (source : Source) (known : Option Nat) (s : State) :
    Steady s (raiseHold cause source known s) := ⟨rfl, fun _ => ⟨rfl, rfl, rfl⟩, rfl, rfl, rfl, ⟨rfl, rfl, rfl, rfl⟩⟩

theorem progress_steady (source : Source) (s : State) : Steady s (progress source s) :=
  ⟨rfl, fun _ => ⟨rfl, rfl, rfl⟩, rfl, rfl, rfl, ⟨rfl, rfl, rfl, rfl⟩⟩

/-- Slack for late replays: comb p counts it, the layers are marked, and a hold is raised (R103, R177). -/
theorem fallbackSlack_cases (p n : Nat) (source : Source) (layers : List Nat) (s : State) :
    fallbackSlack p n source layers s = s ∨
      ∃ v, Noted p s v ∧ fallbackSlack p n source layers s = raiseHold 5 source (some n) v := by
  unfold fallbackSlack
  split
  · exact .inl rfl
  · refine .inr ⟨_, .trans ?_ (Noted.foldl (fun s l => markLayerSlack_noted p l s) layers _), rfl⟩
    exact .setComb p _ s fun _ => rfl

theorem fallbackSlack_steady (p n : Nat) (source : Source) (layers : List Nat) (s : State) :
    Steady s (fallbackSlack p n source layers s) := by
  obtain heq | ⟨v, hv, heq⟩ := fallbackSlack_cases p n source layers s <;> rw [heq]
  · exact .refl s
  · exact (Steady.ofNoted hv).trans (raiseHold_steady ..)

theorem fallbackSlack_work (p n : Nat) (source : Source) (layers : List Nat) (s : State) :
    (s.comb p).SameWork ((fallbackSlack p n source layers s).comb p) := by
  obtain heq | ⟨v, hv, heq⟩ := fallbackSlack_cases p n source layers s <;> rw [heq]
  · rfl
  · exact hv.work

/-! ### The queue (R103) -/

theorem queueReplay_steady {p : Nat} {s : State} (h : Unworn p s) (e : Replay) : Steady s (queueReplay p e s) := by
  unfold queueReplay
  dsimp only
  refine Steady.trans ?_ (Steady.setComb p _ _ fun _ => ⟨rfl, rfl, rfl⟩)
  split
  · exact .refl s
  · split
    · exact .refl s
    · next x rest _ =>
      have hset := Steady.setComb p (fun c => { c with fallback := rest }) s fun _ => ⟨rfl, rfl, rfl⟩
      exact (hset.trans (replayEntry_steady (hset.unworn h) x)).trans (fallbackSlack_steady ..)

/-- Entries that find room stand at the end of the queue, in their order. -/
theorem queueReplays_comb {p : Nat} (es : List Replay) {s : State} (hp : p < s.combs.length)
    (hroom : (s.comb p).fallback.length + es.length ≤ 4096) :
    (es.foldl (fun s e => queueReplay p e s) s).comb p = { s.comb p with fallback := (s.comb p).fallback ++ es } := by
  induction es generalizing s with
  | nil => simp
  | cons e es ih =>
    rw [List.length_cons] at hroom
    have hstep : queueReplay p e s = setComb p (fun c => { c with fallback := c.fallback ++ [e] }) s := by
      rw [queueReplay, if_pos (by omega)]
    have hcomb : (queueReplay p e s).comb p = { s.comb p with fallback := (s.comb p).fallback ++ [e] } := by rw [hstep, setComb_self hp]
    rw [List.foldl_cons, ih (by simpa [hstep] using hp) (by simp [hcomb]; omega), hcomb]
    simp

end Sys2Proof.Machine

namespace Sys2Proof.Machine

/-! ## EMIT (R79, R118, R131, R152) -/

theorem regionPartials_congr {c d : Comb} (hcells : d.cells = c.cells) (hshape : d.shape = c.shape) (region : Nat) :
    regionPartials d region = regionPartials c region := by
  rw [regionPartials, hcells, hshape, regionPartials]

theorem issued_regionPartials (i : Issue) (op : TideOp) (s : State) (q region : Nat) :
    regionPartials ((issued i op s).comb q) region = regionPartials (s.comb q) region := by
  obtain ⟨_, _, h⟩ := issued_comb i op s q
  rw [h]
  exact regionPartials_congr rfl rfl region

/-- A cleared region has no accumulator and no shape. -/
theorem clearRegion_empties {p : Nat} {s : State} (hp : p < s.combs.length) (region : Nat) :
    (∀ y ∈ ((clearRegion p region s).comb p).cells, y.1.1 ≠ region) ∧
      (((clearRegion p region s).comb p).shape.find? fun y => y.1 = region) = none := by
  rw [clearRegion, setComb_self hp]
  exact ⟨fun y hy => of_decide_eq_true (List.mem_filter.mp hy).2, by simp [List.find?_eq_none]⟩

theorem clearRegion_mem (p region : Nat) (s : State) (q : Nat) : ((clearRegion p region s).comb q).mem = (s.comb q).mem :=
  setComb_kept Comb.mem p _ s q fun _ => rfl

/-- A flow that a send names is named, and what else the fabric holds stands (R147). -/
theorem nameFlow_named (x : NamedFlow) (s : State) :
    ((nameFlow x s).fabric.named.any fun y => y.flow = x.flow) = true ∧
      { (nameFlow x s).fabric with named := s.fabric.named } = s.fabric ∧ { nameFlow x s with fabric := s.fabric } = s := by
  unfold nameFlow
  split
  next h => exact ⟨h, rfl, rfl⟩
  · simp

/-! ### To a flow -/

theorem runEmit_otherFlow {o : EmitOp} {s : State} (i : Issue) (out : BitVec 3) (h : o.toRow = false)
    (hflow : flowRuns 2 o.flow.toNat s = false) :
    runEmit i o out s = scheduleFault { combSite i 0x0A 4 with flow := o.flow.toNat } s := by
  simp [runEmit, h, hflow]

/-- The region's partials, or zeros where no DOT has run. -/
def emitted (region flow : Nat) (c : Comb) (s : State) : Nat × List Partial :=
  let n := Flow.elements (flowRecord flow s)
  (regionPartials c region).getD (n, List.replicate n (0, false, false))

theorem runEmit_toFlow {o : EmitOp} {s : State} (i : Issue) (out : BitVec 3) (h : o.toRow = false)
    (hflow : flowRuns 2 o.flow.toNat s = true) :
    let region := regionOf o.quadMode o.quad
    let x := emitted region o.flow.toNat (s.comb i.comb) s
    ∃ first width, runEmit i o out s = sendPartials i o.flow.toNat ⟨o.layer, out⟩ x.1 x.2
      (clearRegion i.comb region (nameFlow ⟨o.flow, ⟨o.layer, out⟩, first, width⟩ s)) := by
  intro region x
  refine ⟨(slotDeclaration (s.comb i.comb)).first.toNat, flowColumns o.flow.toNat x.1 x.2.length s, ?_⟩
  simp only [runEmit, h, hflow]
  rfl

/-- What an EMIT to a flow leaves of the state before its partials go. -/
theorem emit_toFlow {i : Issue} {o : EmitOp} {s : State} (out : BitVec 3) (hp : i.comb < s.combs.length) (h : o.toRow = false)
    (hflow : flowRuns 2 o.flow.toNat s = true) :
    let region := regionOf o.quadMode o.quad
    let x := emitted region o.flow.toNat (s.comb i.comb) s
    ∃ v, runEmit i o out s = sendPartials i o.flow.toNat ⟨o.layer, out⟩ x.1 x.2 v ∧
      (∀ y ∈ (v.comb i.comb).cells, y.1.1 ≠ region) ∧ ((v.comb i.comb).shape.find? fun y => y.1 = region) = none ∧
      (v.fabric.named.any fun y => y.flow = o.flow) = true ∧ { v with combs := s.combs, fabric := s.fabric } = s ∧
      { v.fabric with named := s.fabric.named } = s.fabric ∧ ∀ q, (v.comb q).mem = (s.comb q).mem := by
  obtain ⟨first, width, hrun⟩ := runEmit_toFlow i out h hflow
  generalize hx : (⟨o.flow, ⟨o.layer, out⟩, first, width⟩ : NamedFlow) = x at hrun
  obtain ⟨hnamed, hfabric, hrest⟩ := nameFlow_named x s
  have hcombs : (nameFlow x s).combs = s.combs := by simp
  have hclear := clearRegion_empties (hcombs.symm ▸ hp) (regionOf o.quadMode o.quad)
  refine ⟨_, hrun, hclear.1, hclear.2, by simpa [← hx] using hnamed, ?_, by simpa using hfabric, fun q => ?_⟩
  · calc _ = { ({ nameFlow x s with fabric := s.fabric } : State) with combs := s.combs } := rfl
      _ = s := by rw [hrest]
  · rw [clearRegion_mem, comb_congr hcombs]

/-! ### Into rows -/

theorem runEmit_nothing {i : Issue} {o : EmitOp} {s : State} (out : BitVec 3) (h : o.toRow = true)
    (hd : regionPartials (s.comb i.comb) (regionOf o.quadMode o.quad) = none) : runEmit i o out s = s := by
  simp [runEmit, h, hd]

/-- Rows changed one after another in comb p's scratchpad. -/
theorem foldl_setMem {β : Type} {p : Nat} (g : β → Memory → Memory) (l : List β) {s : State} (hp : p < s.combs.length) :
    ((l.foldl (fun s b => setComb p (fun c => { c with mem := g b c.mem }) s) s).comb p) =
      { s.comb p with mem := l.foldl (fun m b => g b m) (s.comb p).mem } := by
  induction l generalizing s with
  | nil => rfl
  | cons b l ih => rw [List.foldl_cons, ih (by simpa using hp), setComb_self hp]; rfl

/-- Partials added into skW rows from a row on: 32 to a row (R118, R120). -/
def drained (first : Nat) (xs : List Partial) (m : Memory) : Memory :=
  (List.range ((xs.length + 31) / 32)).foldl (fun m k =>
    writeRow m (first + k) (skwAddRow (carried (readRow m (first + k))) (((xs.drop (32 * k)).take 32).map partialEntry))) m

theorem drainRows_combOnly (p first : Nat) (bad : List (BitVec 22 × Nat)) (xs : List Partial) (s : State) :
    CombOnly p s (drainRows p first bad xs s) := CombOnly.foldl (fun s _ => setComb_combOnly p _ s) _ s

theorem drainRows_comb {p : Nat} {s : State} (hp : p < s.combs.length) (first : Nat) (xs : List Partial) :
    (drainRows p first [] xs s).comb p = { s.comb p with mem := drained first xs (s.comb p).mem } :=
  foldl_setMem (fun k m => writeRow m (first + k) (skwAddRow (hearRow [] m (first + k)) (((xs.drop (32 * k)).take 32).map partialEntry))) _ hp

/-- The rows of an EMIT carry the partials of its output. -/
def carrying (rows : List Nat) (ref : OutRef) (cols : Nat) (c : Comb) : Comb :=
  { c with rowOuts := c.rowOuts.filter (fun y => !rows.contains y.1) ++ rows.map fun r => (r, ref, cols) }

section ToRows
variable {i : Issue} {o : EmitOp} {s : State} {cols : Nat} {xs : List Partial} (out : BitVec 3) (h : o.toRow = true)
  (hd : regionPartials (s.comb i.comb) (regionOf o.quadMode o.quad) = some (cols, xs)) (hparity : i.parity = [])
  (hdest : destFaults i 4 ((emitWrites i o xs.length).map (·.1)) = [])
  (hbank : bankFaults i 4 (bankCycles true (emitWrites i o xs.length)) s = [])
include h hd hparity hdest hbank

theorem runEmit_toRows :
    let p := i.comb
    let w := emitWrites i o xs.length
    runEmit i o out s = clearRegion p (regionOf o.quadMode o.quad) (setComb p (carrying (w.map (·.1)) ⟨o.layer, out⟩ cols)
      (noteWrites i (.emit o) w (noteAccesses i (bankCycles true w)
        (drainRows p o.firstRow.toNat [] xs (countReads p (readRows (s.comb p) (w.map (·.1))) s))))) := by
  simp only [runEmit, h, hd, hdest, hbank, countParity_clean hparity]
  rw [hparity]
  rfl

/-- An EMIT to rows works on its comb alone: it clears its region and adds its partials into its rows. -/
theorem emit_toRows (hp : i.comb < s.combs.length) (hworn : Unworn i.comb s) :
    CombOnly i.comb s (runEmit i o out s) ∧
      (∀ y ∈ ((runEmit i o out s).comb i.comb).cells, y.1.1 ≠ regionOf o.quadMode o.quad) ∧
      ((runEmit i o out s).comb i.comb).mem = drained o.firstRow.toNat xs (s.comb i.comb).mem := by
  have hv := countReads_noted hworn (readRows (s.comb i.comb) ((emitWrites i o xs.length).map (·.1)))
  rw [runEmit_toRows out h hd hparity hdest hbank]
  generalize countReads i.comb _ s = v at hv ⊢
  have hdrain := drainRows_combOnly i.comb o.firstRow.toNat [] xs v
  have hw := (noteAccesses_noted i (bankCycles true (emitWrites i o xs.length)) (drainRows i.comb o.firstRow.toNat [] xs v)).trans
    (noteWrites_noted i (.emit o) (emitWrites i o xs.length) _)
  generalize noteWrites i (.emit o) _ _ = w at hw ⊢
  have hvp : i.comb < v.combs.length := hv.length.symm ▸ hp
  have hwp : i.comb < w.combs.length := (hw.length.trans hdrain.length).symm ▸ hvp
  have hfp : i.comb < (setComb i.comb (carrying ((emitWrites i o xs.length).map (·.1)) ⟨o.layer, out⟩ cols) w).combs.length := by
    simpa using hwp
  refine ⟨?_, (clearRegion_empties hfp _).1, ?_⟩
  · exact (((hv.toCombOnly.trans hdrain).trans hw.toCombOnly).trans (setComb_combOnly ..)).trans (setComb_combOnly ..)
  · rw [clearRegion, setComb_self hfp, setComb_self hwp]
    calc (w.comb i.comb).mem
      _ = ((drainRows i.comb o.firstRow.toNat [] xs v).comb i.comb).mem := hw.mem i.comb
      _ = drained o.firstRow.toNat xs (s.comb i.comb).mem := by rw [drainRows_comb hvp, hv.mem]

end ToRows

end Sys2Proof.Machine

namespace Sys2Proof.Machine

/-! ## DOT (R79, R101, R105) -/

/-! ### Accumulators -/

theorem lookup_assign {α β : Type} [DecidableEq α] (l : List (α × β)) (k x : α) (v : β) :
    lookup (assign l k v) x = if x = k then some v else lookup l x := by
  induction l with
  | nil =>
    by_cases h : x = k
    · simp [lookup, assign, h]
    · simp [lookup, assign, h, Ne.symm h]
  | cons y l ih =>
    unfold lookup at ih ⊢
    rw [assign]
    split
    next hy =>
      by_cases h : x = k
      · simp [h]
      · rw [List.find?_cons_of_neg (by simpa using Ne.symm h), List.find?_cons_of_neg (by simpa [hy] using Ne.symm h), if_neg h]
    next hy =>
      by_cases h : y.1 = x
      · have hx : x ≠ k := h ▸ hy
        simp [h, hx]
      · rw [List.find?_cons_of_neg (by simpa using h), List.find?_cons_of_neg (by simpa using h), ih]

/-- Where a cell's accumulator is keyed: region, row, column, slice. -/
abbrev CellKey := Nat × Nat × Nat × Nat

/-- One cell changed by f: a cell that stays as it was need not be listed. -/
def turnCell (fresh : Cell) (f : Nat → Nat → Nat → Cell → Cell) (cells : List (CellKey × Cell)) (key : CellKey) : List (CellKey × Cell) :=
  let old := (lookup cells key).getD fresh
  let new := f key.2.1 key.2.2.1 key.2.2.2 old
  if new = old then cells else assign cells key new

/-- Keys of the cells (r, c, j) of a region. -/
def cellKeys (region : Nat) (rs cs : List Nat) (slices : Nat) : List CellKey :=
  rs.flatMap fun r => cs.flatMap fun c => (List.range slices).map fun j => (region, r, c, j)

theorem eachCell_eq (p region : Nat) (fresh : Cell) (rs cs : List Nat) (slices : Nat) (f : Nat → Nat → Nat → Cell → Cell) (s : State) :
    eachCell p region fresh rs cs slices f s =
      setComb p (fun k => { k with cells := (cellKeys region rs cs slices).foldl (turnCell fresh f) k.cells }) s := rfl

theorem mem_cellKeys {region slices : Nat} {rs cs : List Nat} {key : CellKey} :
    key ∈ cellKeys region rs cs slices ↔ key.1 = region ∧ key.2.1 ∈ rs ∧ key.2.2.1 ∈ cs ∧ key.2.2.2 < slices := by
  obtain ⟨g, r, c, j⟩ := key
  simp only [cellKeys, List.mem_flatMap, List.mem_map, List.mem_range, Prod.mk.injEq]
  constructor
  · rintro ⟨r', hr, c', hc, j', hj, rfl, rfl, rfl, rfl⟩
    exact ⟨rfl, hr, hc, hj⟩
  · rintro ⟨rfl, hr, hc, hj⟩
    exact ⟨r, hr, c, hc, j, hj, rfl, rfl, rfl, rfl⟩

/-- Every cell of a region is met once. -/
theorem cellKeys_nodup (region slices : Nat) {rs cs : List Nat} (hr : rs.Nodup) (hc : cs.Nodup) : (cellKeys region rs cs slices).Nodup := by
  have heq : cellKeys region rs cs slices = (rs ×ˢ (cs ×ˢ List.range slices)).map fun x => (region, x) := by
    simp only [cellKeys, SProd.sprod, List.product, List.map_flatMap, List.map_map]
    rfl
  rw [heq]
  exact (hr.product (hc.product List.nodup_range)).map (Prod.mk_right_injective region)

theorem lookup_turnCell_other (fresh : Cell) (f : Nat → Nat → Nat → Cell → Cell) (cells : List (CellKey × Cell)) {key x : CellKey}
    (h : x ≠ key) : lookup (turnCell fresh f cells key) x = lookup cells x := by
  unfold turnCell
  dsimp only
  split
  · rfl
  · rw [lookup_assign, if_neg h]

theorem lookup_turnCell_same (fresh : Cell) (f : Nat → Nat → Nat → Cell → Cell) (cells : List (CellKey × Cell)) (key : CellKey) :
    (lookup (turnCell fresh f cells key) key).getD fresh = f key.2.1 key.2.2.1 key.2.2.2 ((lookup cells key).getD fresh) := by
  unfold turnCell
  dsimp only
  split
  next h => exact h.symm
  · rw [lookup_assign, if_pos rfl, Option.getD_some]

theorem lookup_turnCells_other {fresh : Cell} {f : Nat → Nat → Nat → Cell → Cell} {keys : List CellKey} {x : CellKey} (h : x ∉ keys)
    (cells : List (CellKey × Cell)) : lookup (keys.foldl (turnCell fresh f) cells) x = lookup cells x := by
  induction keys generalizing cells with
  | nil => rfl
  | cons key keys ih =>
    obtain ⟨hne, hout⟩ := not_or.mp (mt List.mem_cons.mpr h)
    rw [List.foldl_cons, ih hout, lookup_turnCell_other fresh f cells hne]

theorem lookup_turnCells {fresh : Cell} {f : Nat → Nat → Nat → Cell → Cell} {keys : List CellKey} (hkeys : keys.Nodup) {x : CellKey}
    (h : x ∈ keys) (cells : List (CellKey × Cell)) :
    (lookup (keys.foldl (turnCell fresh f) cells) x).getD fresh = f x.2.1 x.2.2.1 x.2.2.2 ((lookup cells x).getD fresh) := by
  induction keys generalizing cells with
  | nil => exact absurd h List.not_mem_nil
  | cons key keys ih =>
    obtain ⟨hout, hkeys⟩ := List.nodup_cons.mp hkeys
    rw [List.foldl_cons]
    rcases List.mem_cons.mp h with rfl | h
    · rw [lookup_turnCells_other hout, lookup_turnCell_same]
    · have hne : x ≠ key := fun hx => hout (hx ▸ h)
      rw [ih hkeys h, lookup_turnCell_other fresh f cells hne]

/-! ### The effect of a DOT -/

theorem dotSide_vectors_nodup (serial : Bool) (p : Nat) (o : DotOp) (sl : SlotOp) (s : State) : (dotSide serial p o sl s).vectors.Nodup :=
  List.nodup_range.filter _

theorem freshCell_congr {s t : State} (h : t.img = s.img) (out : OutRef) : freshCell out t = freshCell out s := by
  rw [freshCell, outputOf, h, freshCell, outputOf]

/-- The region's shape is that of its last DOT. -/
def shaped (region a b : Nat) (c : Comb) : Comb := { c with shape := (region, a, b) :: c.shape.filter (·.1 ≠ region) }

section Dot
variable (i : Issue) (o : DotOp) (out : OutRef) (u : State)

/-- The two sides of a DOT at its issue, as lane vectors and serial columns. -/
def laneSide : DotSide := dotSide false i.comb o (slotDeclaration (u.comb i.comb)) u
def serialSide : DotSide := dotSide true i.comb o (slotDeclaration (u.comb i.comb)) u

/-- The entries that a DOT queues for replay. -/
def dotReplays : List Replay :=
  let m := (u.comb i.comb).mem
  replaysOf i o out (slotDeclaration (u.comb i.comb)) (laneSide i o u) (serialSide i o u) (sideBlocks m (laneSide i o u))
    (sideBlocks m (serialSide i o u))

/-- A DOT's reads are counted, and the poison that its sides hold is reported. -/
def dotRead : State :=
  let p := i.comb
  let sl := slotDeclaration (u.comb p)
  let m := (u.comb p).mem
  reportSide p sl (serialSide i o u) (sideBlocks m (serialSide i o u))
    (reportSide p sl (laneSide i o u) (sideBlocks m (laneSide i o u))
      (countReads p (readRows (u.comb p) ((dotReads i o u).map (·.1))) (noteAccesses i (bankCycles false (dotReads i o u)) u)))

/-- Cell (r, c, j) of a DOT with the products of its lane groups. -/
def multipliedCell : Nat → Nat → Nat → Cell → Cell :=
  let m := (u.comb i.comb).mem
  dotCell o (runLimit (Desc.format (serialSide i o u).d)) (sideBlocks m (laneSide i o u)) (sideBlocks m (serialSide i o u))

/-- v with the products in the accumulators, the region's shape, and the beats that they took. -/
def multiplied (v : State) : State :=
  let p := i.comb
  let l := laneSide i o u
  let x := serialSide i o u
  let region := regionOf o.quadMode o.quad
  countBeats p region (o.laneGroups.toNat * groupCycles (Desc.format l.d) (Desc.format x.d)) (setComb p (shaped region o.a.toNat o.b.toNat)
    (eachCell p region (freshCell out v) l.vectors x.vectors (dotShape o).2.2 (multipliedCell i o u) v))

variable {i o u}

theorem runDot_faults (h : dotFaults i o u ≠ []) : runDot i o out u = raiseFaults (dotFaults i o u) u := by
  unfold runDot
  dsimp only
  split
  next hnil => exact absurd hnil h
  · rfl

theorem dotRead_noted (hworn : Unworn i.comb u) : Noted i.comb u (dotRead i o u) := by
  have hnote := noteAccesses_noted i (bankCycles false (dotReads i o u)) u
  have hread := countReads_noted (fun r => hnote.mends i.comb ▸ hworn r) (readRows (u.comb i.comb) ((dotReads i o u).map (·.1)))
  exact ((hnote.trans hread).trans (reportSide_noted ..)).trans (reportSide_noted ..)

/-- A DOT whose reads find nothing wrong: reads are counted, products enter the accumulators, and fallbacks are queued. -/
theorem runDot_clean (h : dotFaults i o u = []) (hparity : i.parity = []) :
    runDot i o out u =
      (dotReplays i o out u).foldl (fun s e => queueReplay i.comb e s) (multiplied i o out u (dotRead i o u)) := by
  unfold runDot
  simp only [h, heard_clean hparity, countParity_clean hparity]
  rfl

/-- The comb once the products have entered its accumulators. -/
theorem multiplied_comb {v : State} (hp : i.comb < v.combs.length) :
    (multiplied i o out u v).comb i.comb = shaped (regionOf o.quadMode o.quad) o.a.toNat o.b.toNat
      { v.comb i.comb with
        cells := (cellKeys (regionOf o.quadMode o.quad) (laneSide i o u).vectors (serialSide i o u).vectors (dotShape o).2.2).foldl
          (turnCell (freshCell out v) (multipliedCell i o u)) (v.comb i.comb).cells } := by
  have hstate : (multiplied i o out u v).comb i.comb = (setComb i.comb (shaped (regionOf o.quadMode o.quad) o.a.toNat o.b.toNat)
      (eachCell i.comb (regionOf o.quadMode o.quad) (freshCell out v) (laneSide i o u).vectors (serialSide i o u).vectors
        (dotShape o).2.2 (multipliedCell i o u) v)).comb i.comb := rfl
  rw [hstate, eachCell_eq, setComb_self (by simpa using hp), setComb_self hp]

/-- What a DOT's products leave. -/
theorem multiplied_keeps (v : State) :
    let t := multiplied i o out u v
    t.combs.length = v.combs.length ∧ (∀ q, (t.comb q).mem = (v.comb q).mem) ∧ (∀ q, (t.comb q).mends = (v.comb q).mends) ∧
      t.tide = v.tide ∧ t.shelf = v.shelf ∧ t.str = v.str ∧ SameConfig v t := by
  have hcells := (eachCell_steady i.comb (regionOf o.quadMode o.quad) (freshCell out v) (laneSide i o u).vectors (serialSide i o u).vectors
    (dotShape o).2.2 (multipliedCell i o u) v).combs
  refine ⟨?_, fun q => ?_, fun q => ?_, rfl, rfl, rfl, ⟨rfl, rfl, rfl, rfl⟩⟩
  · exact (setComb_length ..).trans (setComb_length ..)
  · exact (setComb_kept Comb.mem i.comb (shaped _ _ _) _ q fun _ => rfl).trans (hcells q).1
  · exact (setComb_kept Comb.mends i.comb (shaped _ _ _) _ q fun _ => rfl).trans (hcells q).2.1

/-- A clean DOT leaves the scratchpads, the shelf, the streams and the configuration, and the data plane runs on; its region
has the DOT's shape. -/
theorem dot_keeps (hfaults : dotFaults i o u = []) (hparity : i.parity = []) (hworn : Unworn i.comb u) (hp : i.comb < u.combs.length) :
    let t := runDot i o out u
    (∀ q, (t.comb q).mem = (u.comb q).mem) ∧ t.tide.dp = u.tide.dp ∧ t.shelf = u.shelf ∧ t.str = u.str ∧ SameConfig u t ∧
      ((t.comb i.comb).shape.find? fun y => y.1 = regionOf o.quadMode o.quad) =
        some (regionOf o.quadMode o.quad, o.a.toNat, o.b.toNat) := by
  have hv := dotRead_noted (o := o) hworn
  obtain ⟨hlength, hmem, hmends, htide, hshelf, hstr, hconfig⟩ := multiplied_keeps (i := i) (o := o) out (u := u) (dotRead i o u)
  have hcomb := multiplied_comb (o := o) out (u := u) (hv.length.symm ▸ hp)
  rw [runDot_clean out hfaults hparity]
  generalize multiplied i o out u _ = w at *
  have hw : Unworn i.comb w := fun r => by rw [hmends, hv.mends]; exact hworn r
  have hqueue := Steady.foldl (fun s e h => queueReplay_steady h e) (dotReplays i o out u) hw
  generalize List.foldl _ w _ = t at *
  refine ⟨fun q => ?_, ?_, ?_, ?_, ?_, ?_⟩
  · rw [(hqueue.combs q).1, hmem, hv.mem]
  · rw [hqueue.dp, htide, hv.tide]
  · rw [hqueue.shelf, hshelf, hv.shelf]
  · rw [hqueue.str, hstr, hv.str]
  · exact (hv.sameConfig.trans hconfig).trans hqueue.config
  · rw [(hqueue.combs i.comb).2.2, hcomb]
    simp [shaped]

/-- Where the queue has room, a clean DOT changes the cells of its region alone, each active one by its products, and queues
what fell back. -/
theorem dot_cells (hfaults : dotFaults i o u = []) (hparity : i.parity = []) (hworn : Unworn i.comb u) (hp : i.comb < u.combs.length)
    (hroom : (u.comb i.comb).fallback.length + (dotReplays i o out u).length ≤ 4096) :
    let c := (runDot i o out u).comb i.comb
    c.fallback = (u.comb i.comb).fallback ++ dotReplays i o out u ∧
      (∀ key : CellKey, key.1 ≠ regionOf o.quadMode o.quad → lookup c.cells key = lookup (u.comb i.comb).cells key) ∧
      ∀ x ∈ (laneSide i o u).vectors, ∀ y ∈ (serialSide i o u).vectors, ∀ j < (dotShape o).2.2,
        (lookup c.cells (regionOf o.quadMode o.quad, x, y, j)).getD (freshCell out u) =
          multipliedCell i o u x y j ((lookup (u.comb i.comb).cells (regionOf o.quadMode o.quad, x, y, j)).getD (freshCell out u)) := by
  have hv := dotRead_noted (o := o) hworn
  have hvp : i.comb < (dotRead i o u).combs.length := hv.length.symm ▸ hp
  obtain ⟨hlength, -⟩ := multiplied_keeps (i := i) (o := o) out (u := u) (dotRead i o u)
  have hcomb := multiplied_comb (o := o) out (u := u) hvp
  rw [hv.cells, freshCell_congr hv.img] at hcomb
  have hfallback : ((multiplied i o out u (dotRead i o u)).comb i.comb).fallback = (u.comb i.comb).fallback := by
    rw [hcomb, ← hv.fallback]
    rfl
  rw [runDot_clean out hfaults hparity, queueReplays_comb _ (hlength.symm ▸ hvp) (by rw [hfallback]; exact hroom), hfallback, hcomb]
  have hkeys : (cellKeys (regionOf o.quadMode o.quad) (laneSide i o u).vectors (serialSide i o u).vectors (dotShape o).2.2).Nodup :=
    cellKeys_nodup _ _ (dotSide_vectors_nodup ..) (dotSide_vectors_nodup ..)
  refine ⟨rfl, fun key hkey => ?_, fun x hx y hy j hj => ?_⟩
  · exact lookup_turnCells_other (fun h => hkey (mem_cellKeys.mp h).1) _
  · exact lookup_turnCells hkeys (mem_cellKeys.mpr ⟨rfl, hx, hy, hj⟩) _

end Dot

end Sys2Proof.Machine

namespace Sys2Proof.Machine

/-! ### What an issue leaves for a DOT and an EMIT to work with -/

theorem Unworn.issued {p : Nat} {s : State} (h : Unworn p s) (i : Issue) (op : TideOp) : Unworn p (Machine.issued i op s) := by
  obtain ⟨_, _, hcomb⟩ := issued_comb i op s p
  unfold Unworn
  rw [hcomb]
  exact h

section IssuedDot
variable (i : Issue) (o : DotOp) (op : TideOp) (s : State)

theorem issued_slotDeclaration (q : Nat) : slotDeclaration ((issued i op s).comb q) = slotDeclaration (s.comb q) := by
  obtain ⟨_, _, hcomb⟩ := issued_comb i op s q
  rw [hcomb]
  rfl

theorem laneSide_issued :
    laneSide i o (issued i op s) = dotSide false i.comb o (slotDeclaration (s.comb i.comb)) (issued i op s) := by
  rw [laneSide, issued_slotDeclaration]

theorem serialSide_issued :
    serialSide i o (issued i op s) = dotSide true i.comb o (slotDeclaration (s.comb i.comb)) (issued i op s) := by
  rw [serialSide, issued_slotDeclaration]

end IssuedDot

/-- Settles O42: a DOT is its reads, products and queued replays, an EMIT its drained region; each works on its own comb. -/
theorem dotAndEmitUseTheirRegion : Obligations.DotAndEmitUseTheirRegion := by
  unfold Obligations.DotAndEmitUseTheirRegion
  refine ⟨fun i o out s hissue hready hp => ?dot, fun i o out s hissue hempty hready hp => ?emit⟩
  case dot =>
    intro u t
    have hup : i.comb < u.combs.length := (issued_length ..).symm ▸ hp
    refine ⟨exec_dot hissue hready, fun hfaults => ⟨runDot_faults out hfaults, fun p => ?_⟩, fun hfaults hparity hworn => ?clean⟩
    · rw [show t = raiseFaults _ u from runDot_faults out hfaults, raiseFaults_mem, issued_mem]
    case clean =>
      intro region sl l x ls ss es
      have hu : Unworn i.comb u := Unworn.issued hworn _ _
      obtain ⟨pc, busy, hcomb⟩ := issued_comb i (.dot o) s i.comb
      obtain ⟨hmem, hdp, hshelf, hstr, hconfig, hshape⟩ := dot_keeps out hfaults hparity hu hup
      have hl : laneSide i o u = l := laneSide_issued ..
      have hx : serialSide i o u = x := serialSide_issued ..
      have hes : dotReplays i o out u = es := by
        simp only [dotReplays, hl, hx, u, issued_slotDeclaration, issued_mem]
        rfl
      have hcell : multipliedCell i o u = dotCell o (runLimit (Desc.format x.d)) ls ss := by
        simp only [multipliedCell, hl, hx, u, issued_mem]
        rfl
      refine ⟨?_, fun p => (hmem p).trans (issued_mem ..), hshelf.trans (by simp [u]), (issued_sameConfig ..).trans hconfig,
        hstr.trans (by simp [u]), hshape, fun hroom => ?_⟩
      · rw [exec_dot hissue hready, unstopped i u (hdp.trans (issued_running hissue))]
      · have hcells := dot_cells out hfaults hparity hu hup (by rw [hes, hcomb]; exact hroom)
        rw [hl, hx, hes, hcell, hcomb] at hcells
        exact hcells
  case emit =>
    intro u region ref flow
    have hup : i.comb < u.combs.length := (issued_length ..).symm ▸ hp
    have hpartials : regionPartials (u.comb i.comb) region = regionPartials (s.comb i.comb) region := issued_regionPartials ..
    refine ⟨exec_emit hissue hempty hready, fun h hflow => runEmit_otherFlow i out h hflow, fun h hflow => ?toFlow, fun h hnone => ?nothing,
      fun h cols xs hsome hparity hdest hbank hworn => ?toRows⟩
    case toFlow =>
      intro n x
      obtain ⟨v, hrun, hcells, hshape, hnamed, hrest, hfabric, hmem⟩ := emit_toFlow out hup h hflow
      have hx : emitted region o.flow.toNat (u.comb i.comb) u = x := by rw [emitted, hpartials]
      rw [hx] at hrun
      exact ⟨v, hrun, hcells, hshape, hnamed, hrest, hfabric, fun p => (hmem p).trans (issued_mem ..)⟩
    case nothing =>
      rw [exec_emit hissue hempty hready, runEmit_nothing out h (hpartials.trans hnone), unstopped i u (issued_running hissue)]
    case toRows =>
      obtain ⟨honly, hcells, hmem⟩ := emit_toRows out h (hpartials.trans hsome) hparity hdest hbank hup (Unworn.issued hworn _ _)
      refine ⟨runEmit i o out u, ?_, hcells, ?_, fun q hq => (honly.others q hq).trans (issued_comb_other i _ s hq),
        honly.shelf.trans (by simp [u]), (issued_sameConfig ..).trans honly.sameConfig⟩
      · rw [exec_emit hissue hempty hready, unstopped i u (by rw [honly.tide]; exact issued_running hissue)]
      · rw [hmem, issued_mem]
        rfl

end Sys2Proof.Machine

namespace Sys2Proof.Machine

/-! ## FABRIC (R91, R116, R145, R147, R152) -/

theorem runFabric_otherFlow {i : Issue} {o : FabricOp} {s : State} (h : flowRuns (if o.send then 2 else 1) o.flow.toNat s = false) :
    runFabric i o s = scheduleFault { combSite i 0x0A 3 with flow := o.flow.toNat } s := by
  simp [runFabric, h]

theorem runFabric_send {i : Issue} {o : FabricOp} {s : State} (h : o.send = true) (hflow : flowRuns 2 o.flow.toNat s = true) :
    runFabric i o s = runSend i o s := by
  simp [runFabric, h, hflow]

theorem runFabric_receive {i : Issue} {o : FabricOp} {s : State} (h : o.send = false) (hflow : flowRuns 1 o.flow.toNat s = true) :
    runFabric i o s = runReceive i o s := by
  simp [runFabric, h, hflow]

/-! ### A send -/

section Send
variable (i : Issue) (o : FabricOp) (u : State)

/-- A send's reads are counted, and the poison that its rows hold is reported. -/
def sendRead : State :=
  let p := i.comb
  let rows := sendRows i o u
  let reads := readRows (u.comb p) rows
  noteAccesses i (bankCycles false (sendReads i o u))
    (reportRows p (operandIn (phasePos u).1 1 u) (fun _ => 0) reads (countReads p reads u))

/-- The partials that a send's rows hold, as many as its flow has elements. -/
def sentPartials : List Partial :=
  ((sendRows i o u).flatMap fun r => rowPartials (carried (readRow (u.comb i.comb).mem r))).take (Flow.elements (flowRecord o.flow.toNat u))

/-- The output of a send's rows, and the columns of its region. -/
def sentOutput : OutRef × Nat :=
  ((sendRows i o u).findSome? (lookup (u.comb i.comb).rowOuts)).getD (⟨0, 0⟩, Flow.elements (flowRecord o.flow.toNat u))

variable {i o u}

theorem sendRead_noted (hworn : Unworn i.comb u) : Noted i.comb u (sendRead i o u) :=
  ((countReads_noted hworn _).trans (reportRows_noted ..)).trans (noteAccesses_noted ..)

theorem flowRecord_congr {s t : State} (h : t.img = s.img) (flow : Nat) : flowRecord flow t = flowRecord flow s := by
  rw [flowRecord, h, flowRecord]

/-- A send whose reads find nothing wrong names its flow and gives it the partials of its rows. -/
theorem runSend_clean (hparity : i.parity = []) (hworn : Unworn i.comb u)
    (hfaults : (sendReads i o u).flatMap (rowFaults i 3 u) ++ bankFaults i 3 (bankCycles false (sendReads i o u)) u = []) :
    ∃ x : NamedFlow, x.flow = o.flow ∧ runSend i o u =
      sendPartials i o.flow.toNat (sentOutput i o u).1 (sentOutput i o u).2 (sentPartials i o u) (nameFlow x (sendRead i o u)) := by
  have hv := sendRead_noted (o := o) hworn
  have hrecord := flowRecord_congr hv.img o.flow.toNat
  refine ⟨⟨o.flow, (sentOutput i o u).1, (slotDeclaration ((sendRead i o u).comb i.comb)).first.toNat,
    flowColumns o.flow.toNat (sentOutput i o u).2 (sentPartials i o u).length (sendRead i o u)⟩, rfl, ?_⟩
  have houtput : sentOutput i o u = ((sendRows i o u).findSome? (lookup ((sendRead i o u).comb i.comb).rowOuts)).getD
      (⟨0, 0⟩, Flow.elements (flowRecord o.flow.toNat (sendRead i o u))) := by
    rw [hv.rowOuts, hrecord, sentOutput]
  have hpartials : sentPartials i o u = ((sendRows i o u).flatMap fun r => rowPartials (hearRow [] (u.comb i.comb).mem r)).take
      (Flow.elements (flowRecord o.flow.toNat (sendRead i o u))) := by
    rw [hrecord]
    rfl
  rw [houtput, hpartials]
  unfold runSend
  simp only [hfaults, countParity_clean hparity]
  rw [hparity]
  rfl

end Send

/-! ### A receive -/

/-- What a receive does with its flow: image and scratchpads stand, and where the flow has no tail a pending row stays
pending. -/
structure Receiving (p flow : Nat) (s t : State) : Prop where
  img : t.img = s.img
  length : t.combs.length = s.combs.length
  mem : ∀ q, (t.comb q).mem = (s.comb q).mem
  pending : Flow.tailRows (flowRecord flow s) = 0 → ∀ r, rowPending (s.comb p) r = true → rowPending (t.comb p) r = true

namespace Receiving
variable {p flow : Nat} {s t u : State}

theorem refl (p flow : Nat) (s : State) : Receiving p flow s s := ⟨rfl, rfl, fun _ => rfl, fun _ _ h => h⟩

theorem trans (h : Receiving p flow s t) (k : Receiving p flow t u) : Receiving p flow s u where
  img := k.img.trans h.img
  length := k.length.trans h.length
  mem q := (k.mem q).trans (h.mem q)
  pending htail r hr := k.pending (by rw [flowRecord_congr h.img]; exact htail) r (h.pending htail r hr)

theorem foldl {β : Type} {f : State → β → State} (h : ∀ s b, Receiving p flow s (f s b)) (l : List β) (s : State) :
    Receiving p flow s (l.foldl f s) := foldl_inv (Receiving p flow s) f (fun t b ht => ht.trans (h t b)) l s (.refl p flow s)

theorem setComb (p flow : Nat) (f : Comb → Comb) (s : State) (hmem : ∀ c, (f c).mem = c.mem)
    (hpending : Flow.tailRows (flowRecord flow s) = 0 → ∀ c r, rowPending c r = true → rowPending (f c) r = true) :
    Receiving p flow s (setComb p f s) where
  img := rfl
  length := setComb_length p f s
  mem q := setComb_kept Comb.mem p f s q hmem
  pending htail r hr := by
    rw [setComb_comb]
    split
    · exact hpending htail _ r hr
    · exact hr

theorem ofCombs (p flow : Nat) {s t : State} (himg : t.img = s.img) (hcombs : t.combs = s.combs) : Receiving p flow s t :=
  ⟨himg, by rw [hcombs], fun q => by rw [comb_congr hcombs], fun _ r hr => by rw [comb_congr hcombs]; exact hr⟩

end Receiving

theorem rowPending_iff {c : Comb} {r : Nat} : rowPending c r = true ↔ ∃ x ∈ c.pending, x.ra.toNat = r := by
  simp [rowPending]

/-- What is pending stays so when a row becomes pending, that row too. -/
theorem pendRow_receiving (p flow r : Nat) (data : Bytes) (cause : BitVec 8) (s : State) :
    Receiving p flow s (pendRow p r data cause s) := by
  refine .setComb p flow _ s (fun _ => rfl) fun _ c q hq => ?_
  obtain ⟨x, hx, rfl⟩ := rowPending_iff.mp hq
  refine rowPending_iff.mpr ?_
  by_cases hr : x.ra.toNat = r
  · refine ⟨_, List.mem_append_right _ (List.mem_singleton_self _), ?_⟩
    simp [← hr]
  · exact ⟨x, List.mem_append_left _ (List.mem_filter.mpr ⟨hx, decide_eq_true hr⟩), rfl⟩

theorem pendRow_pends {p r : Nat} {s : State} (hp : p < s.combs.length) (hr : r < 2 ^ 22) (data : Bytes) (cause : BitVec 8) :
    rowPending ((pendRow p r data cause s).comb p) r = true := by
  rw [pendRow, setComb_self hp]
  exact rowPending_iff.mpr ⟨_, List.mem_append_right _ (List.mem_singleton_self _), by
    rw [BitVec.toNat_ofNat, Nat.mod_eq_of_lt hr]⟩

theorem pendRows_receiving (p flow : Nat) (cause : BitVec 8) (rows : List Nat) (s : State) :
    Receiving p flow s (rows.foldl (fun s r => pendRow p r [] cause s) s) := Receiving.foldl (fun s r => pendRow_receiving p flow r [] cause s) rows s

/-- Each of the rows that become pending is pending. -/
theorem pendRows_pend {p flow : Nat} {rows : List Nat} {s : State} (hp : p < s.combs.length) (hrows : ∀ r ∈ rows, r < 2 ^ 22)
    (htail : Flow.tailRows (flowRecord flow s) = 0) (cause : BitVec 8) :
    ∀ r ∈ rows, rowPending ((rows.foldl (fun s r => pendRow p r [] cause s) s).comb p) r = true := by
  induction rows generalizing s with
  | nil => simp
  | cons x rows ih =>
    obtain ⟨hx, hrows⟩ := List.forall_mem_cons.mp hrows
    have hstep := pendRow_receiving p flow x [] cause s
    have htail' : Flow.tailRows (flowRecord flow (pendRow p x [] cause s)) = 0 := by rw [flowRecord_congr hstep.img]; exact htail
    intro r hr
    rw [List.foldl_cons]
    rcases List.mem_cons.mp hr with rfl | hr
    · exact (pendRows_receiving p flow cause rows _).pending htail' r (pendRow_pends hp hx [] cause)
    · exact ih (hstep.length.symm ▸ hp) hrows htail' r hr

/-- Destination rows without a fault lie in the scratchpad, so that a pending row can hold their addresses (R112). -/
theorem rows_of_destFaults {i : Issue} {n : Nat} {rows : List Nat} (h : destFaults i n rows = []) : ∀ r ∈ rows, r < 2 ^ 22 := by
  intro r hr
  unfold destFaults at h
  split at h
  next x hx =>
    have hbeyond := List.find?_some hx
    rw [decide_eq_true_iff] at hbeyond
    rw [rangeFaults, if_neg (by omega)] at h
    exact absurd h (List.cons_ne_nil _ _)
  next hnone =>
    have hin := List.find?_eq_none.mp hnone r hr
    rw [decide_eq_true_iff, rowIndex] at hin
    omega

theorem progress_receiving (p flow : Nat) (source : Source) (s : State) : Receiving p flow s (progress source s) := .ofCombs p flow rfl rfl

/-- The end of a flow without a tail leaves every pending row. -/
theorem endTail_pending {fl : BitVec 256} (h : Flow.tailRows fl = 0) (x : Receive) (f : Nat) (c : Comb) : (endTail fl x f c).pending = c.pending := by
  simp [endTail, tailRows, h]

/-- After a flit the flow ends, the next row becomes pending, or the row goes on. -/
theorem flitEnd_receiving {p flow : Nat} {w : State} {fl : BitVec 256} (hfl : fl = flowRecord flow w) (c : Comb) (x : Receive) (y : Staged)
    (cause : BitVec 8) :
    Receiving p flow w (if y.last then setComb p (endTail fl x y.flit) w
      else if y.flit % 4 = 3 then pendRow p (broadcastRow c fl x (y.flit + 1)) [] cause w else w) := by
  split
  · refine .setComb _ _ _ _ (fun _ => rfl) fun htail c r hr => ?_
    rw [rowPending, endTail_pending (by rw [hfl]; exact htail)]
    exact hr
  · split
    · exact pendRow_receiving ..
    · exact .refl ..

theorem deliverFlit_receiving (p flow : Nat) (y : Staged) (s : State) : Receiving p flow s (deliverFlit p flow y s) := by
  unfold deliverFlit
  dsimp only
  split
  next x _ =>
    split
    · refine .trans (.trans (.trans ?_ (flitEnd_receiving rfl (s.comb p) x y _)) (progress_receiving ..))
        (.setComb _ _ _ _ (fun _ => rfl) fun _ _ _ h => h)
      exact pendRow_receiving ..
    · exact .refl ..
  · exact .refl ..

theorem takeStaged_receiving (p flow : Nat) (s : State) : Receiving p flow s (takeStaged p flow s) :=
  .trans (.foldl (fun s x => deliverFlit_receiving p flow x s) _ s) (.ofCombs p flow rfl rfl)

/-- A receive whose rows lie in the scratchpad: they become pending, and what it does after that leaves them so. -/
theorem runReceive_clean {i : Issue} {o : FabricOp} {u : State}
    (h : destFaults i 3 (receiveRows i o u ++ tailRows (u.comb i.comb) (flowRecord o.flow.toNat u) o.desc) = []) :
    Receiving i.comb o.flow.toNat ((receiveRows i o u).foldl (fun s r => pendRow i.comb r [] 3 s) u) (runReceive i o u) := by
  unfold runReceive
  simp only [h]
  refine .trans (.trans ?_ (.setComb _ _ _ _ ?_ ?_)) (takeStaged_receiving i.comb o.flow.toNat _)
  · exact pendRows_receiving ..
  · exact fun _ => rfl
  · exact fun _ _ _ h => h

end Sys2Proof.Machine

namespace Sys2Proof.Machine

/-! ## ROTATE (R91) -/

theorem runRotate_waits {i : Issue} {o : RotateOp} {s : State} (h : ∀ x ∈ (s.comb i.comb).drained, x.1 ≠ o.flow) :
    runRotate i o s = setComb i.comb (fun c => { c with rotations := c.rotations ++ [o] }) s := by
  have hnone : ((s.comb i.comb).drained.find? fun x => x.1 = o.flow) = none := by simpa [List.find?_eq_none] using h
  unfold runRotate
  rw [hnone]

theorem runRotate_enters {i : Issue} {o : RotateOp} {s : State} {x : BitVec 16 × Nat × List Partial}
    (h : ((s.comb i.comb).drained.find? fun x => x.1 = o.flow) = some x) :
    runRotate i o s = enterRotated i o x.2.1 x.2.2 (setComb i.comb (fun c => { c with drained := c.drained.erase x }) s) := by
  unfold runRotate
  rw [h]

theorem issued_drained (i : Issue) (op : TideOp) (s : State) (q : Nat) : ((issued i op s).comb q).drained = (s.comb q).drained := by
  obtain ⟨_, _, h⟩ := issued_comb i op s q
  rw [h]

/-! ## The close of a replay window (R102, R103) -/

theorem countWait_noted (p n : Nat) (s : State) : Noted p s (countWait p n s) := by
  unfold countWait
  split
  · exact .refl p s
  · exact .setComb p _ s fun _ => rfl

/-- A comb whose queue is replayed and whose window is closed. -/
def windowClosed (c : Comb) : Comb := { c with fallback := [], windowOpen := false }

/-- The entries of a comb's queue are replayed, one after another. -/
def replayQueue (p : Nat) (s : State) : State :=
  (s.comb p).fallback.foldl (fun t e => progress (.comb p) (replayEntry p e t))
    (countWait p (replayWaits p s (s.comb p).windowAt.toNat (s.comb p).fallback) s)

theorem closeWindow_eq (p w : Nat) (s : State) :
    closeWindow p w s = fallbackSlack p (windowOverrun p w s) (.comb p) ((s.comb p).fallback.map (·.out.layer.toNat)).dedup
      (setComb p windowClosed (replayQueue p s)) := rfl

theorem replayQueue_steady {p : Nat} {s : State} (h : Unworn p s) : Steady s (replayQueue p s) := by
  have hwait := Steady.ofNoted (countWait_noted p (replayWaits p s (s.comb p).windowAt.toNat (s.comb p).fallback) s)
  exact hwait.trans (Steady.foldl (fun s e h => (replayEntry_steady h e).trans (progress_steady ..)) _ (hwait.unworn h))

theorem replayQueue_keepsMemory (p : Nat) {s : State} (hl : s.tide.dp ≠ .loading) : KeepsMemory s (replayQueue p s) := by
  have hwait := (Steady.ofNoted (countWait_noted p (replayWaits p s (s.comb p).windowAt.toNat (s.comb p).fallback) s)).keepsMemory
  exact hwait.trans
    (KeepsMemory.foldl (fun s e hl => (replayEntry_keepsMemory p e hl).trans (progress_steady ..).keepsMemory) _ (hwait.dp hl))

theorem closing_steady (p n : Nat) (source : Source) (layers : List Nat) (s : State) :
    Steady s (fallbackSlack p n source layers (setComb p windowClosed s)) :=
  (Steady.setComb p windowClosed s fun _ => ⟨rfl, rfl, rfl⟩).trans (fallbackSlack_steady ..)

theorem closeWindow_steady {p : Nat} {s : State} (h : Unworn p s) (w : Nat) : Steady s (closeWindow p w s) := by
  rw [closeWindow_eq]
  exact (replayQueue_steady h).trans (closing_steady ..)

theorem closeWindow_keepsMemory (p w : Nat) {s : State} (hl : s.tide.dp ≠ .loading) : KeepsMemory s (closeWindow p w s) := by
  rw [closeWindow_eq]
  exact (replayQueue_keepsMemory p hl).trans (closing_steady ..).keepsMemory

/-- Whatever the replays met, the queue is empty and the window closed. -/
theorem closeWindow_closes {p : Nat} {s : State} (hp : p < s.combs.length) (hl : s.tide.dp ≠ .loading) (w : Nat) :
    ((closeWindow p w s).comb p).fallback = [] ∧ ((closeWindow p w s).comb p).windowOpen = false := by
  have hqp : p < (replayQueue p s).combs.length := (replayQueue_keepsMemory p hl).length.symm ▸ hp
  have hwork := fallbackSlack_work p (windowOverrun p w s) (.comb p) ((s.comb p).fallback.map (·.out.layer.toNat)).dedup
    (setComb p windowClosed (replayQueue p s))
  rw [← closeWindow_eq, setComb_self hqp] at hwork
  exact ⟨(congrArg Comb.fallback hwork.eq :), (congrArg Comb.windowOpen hwork.eq :)⟩

/-- The state in which a counted window's close leaves the module: what does not fit the window stands as slack, beside a
contract hold at its end. -/
def windowClose (p : Nat) (s : State) : State :=
  let w := windowLength s
  let c := windowEnd p w s
  if windowOverrun p w s = 0 then closeWindow p w (advanceTo c s)
  else raiseContract (phaseCycle s) c (closeWindow p w (reachBefore c s))

theorem exec_window_counting {p : Nat} {s : State} (ha : s.awake = true) (ho : (s.comb p).windowOpen = true)
    (hr : replayReady p s = true) (hc : counting s = true) (hahead : ahead (windowEnd p (windowLength s) s) s = true) :
    exec (.fallbackWindowClose p) s = .next (afterStop (windowClose p s)) := by
  have hexec : exec (.fallbackWindowClose p) s = execFallbackWindowClose p s := rfl
  have hrun := running_of_counting hc
  rw [hexec, execFallbackWindowClose, windowClose]
  simp only [ha, hrun, ho, hr, hc, hahead]
  by_cases h : windowOverrun p (windowLength s) s = 0 <;> simp [h]

theorem exec_window_slack {p : Nat} {s : State} (ha : s.awake = true) (hrun : s.tide.dp = .running) (ho : (s.comb p).windowOpen = true)
    (hr : replayReady p s = true) (hholds : s.tide.holds ≠ []) :
    exec (.fallbackWindowClose p) s = .next (if phaseCycle s = windowEnd p (windowLength s) s then
      afterStop (closeWindow p (windowLength s) s) else s) := by
  have hexec : exec (.fallbackWindowClose p) s = execFallbackWindowClose p s := rfl
  have hstill : counting s = false := by simp [counting, hholds]
  rw [hexec, execFallbackWindowClose]
  simp [ha, hrun, ho, hr, hstill, hholds]

/-- What the counters pass on their way to a cycle leaves the combs. -/
theorem windowClose_cases (p : Nat) (s : State) : ∃ u, u.combs = s.combs ∧ u.tide.dp = s.tide.dp ∧
    (windowClose p s).combs = (closeWindow p (windowLength s) u).combs ∧
    (windowClose p s).tide.dp = (closeWindow p (windowLength s) u).tide.dp := by
  unfold windowClose
  dsimp only
  split
  · exact ⟨_, by simp, by simp, rfl, rfl⟩
  · exact ⟨reachBefore (windowEnd p (windowLength s) s) s, by simp, by simp, by simp, by simp⟩

theorem Unworn.congr {p : Nat} {s t : State} (h : Unworn p s) (hcombs : t.combs = s.combs) : Unworn p t := fun r => by
  rw [comb_congr hcombs]
  exact h r

/-- A counted window's close empties the queue, closes the window and leaves every scratchpad; the data plane runs on unless a row
that was mended twice has failed again. -/
theorem windowClose_closes {p : Nat} {s : State} (hp : p < s.combs.length) (hrun : s.tide.dp = .running) :
    ((windowClose p s).comb p).fallback = [] ∧ ((windowClose p s).comb p).windowOpen = false ∧
      (∀ q, ((windowClose p s).comb q).mem = (s.comb q).mem) ∧ (Unworn p s → (windowClose p s).tide.dp = .running) := by
  obtain ⟨u, hu, hdp, hcombs, htide⟩ := windowClose_cases p s
  have hl : u.tide.dp ≠ .loading := by simp [hdp, hrun]
  have hclosed := closeWindow_closes (hu.symm ▸ hp) hl (windowLength s)
  rw [comb_congr hcombs p, htide]
  refine ⟨hclosed.1, hclosed.2, fun q => ?_, fun hworn => ?_⟩
  · rw [comb_congr hcombs, (closeWindow_keepsMemory p _ hl).mem, comb_congr hu]
  · rw [(closeWindow_steady (hworn.congr hu) _).dp, hdp, hrun]

/-- Settles O43: a FABRIC by its sending and its receiving course, a ROTATE by what waits, a window by the replay of its queue. -/
theorem fabricRotateAndReplayIssue : Obligations.FabricRotateAndReplayIssue := by
  unfold Obligations.FabricRotateAndReplayIssue
  refine ⟨⟨fun i o s hissue hready => ?fabric, fun i o s hissue => ?rotate⟩, fun p s ha ho hr hc => ?counted,
    fun p s ha hrun ho hr hholds => ?slack⟩
  case fabric =>
    intro u
    refine ⟨exec_fabric hissue hready, runFabric_otherFlow, fun hflow h hp hparity hworn hfaults => ?send, fun hflow h hp hdest => ?receive⟩
    case send =>
      intro rows n x
      have hu : Unworn i.comb u := Unworn.issued hworn _ _
      obtain ⟨pc, busy, hcomb⟩ := issued_comb i (.fabric o) s i.comb
      obtain ⟨y, hy, hrun⟩ := runSend_clean hparity hu hfaults
      have hv := sendRead_noted (o := o) hu
      obtain ⟨hnamed, hfabric, hrest⟩ := nameFlow_named y (sendRead i o u)
      have hcombs : (nameFlow y (sendRead i o u)).combs = (sendRead i o u).combs := by simp
      have houtput : sentOutput i o u = x := by
        simp only [sentOutput, u, hcomb]
        rfl
      have hpartials : sentPartials i o u = (rows.flatMap fun r => rowPartials (carried (readRow (s.comb i.comb).mem r))).take n := by
        simp only [sentPartials, u, issued_mem]
        rfl
      refine ⟨nameFlow y (sendRead i o u), ?_, by simpa [hy] using hnamed, ?_, fun p => ⟨?_, ?_⟩, ?_, ?_, ?_, ?_⟩
      · rw [runFabric_send h hflow, hrun, houtput, hpartials]
      · rw [← hv.fabric]
        exact hfabric
      · rw [comb_congr hcombs, hv.mem, issued_mem]
      · rw [comb_congr hcombs, hv.cells]
        obtain ⟨_, _, hp⟩ := issued_comb i (.fabric o) s p
        rw [hp]
      · simp [hv.shelf, u]
      · simp [hv.str, u]
      · simp [hv.tide]
      · exact ((issued_sameConfig ..).trans hv.sameConfig).trans (by simp [SameConfig])
    case receive =>
      have hrows := rows_of_destFaults hdest
      have hpend := pendRows_receiving i.comb o.flow.toNat 3 (receiveRows i o u) u
      have hall := runReceive_clean hdest
      rw [runFabric_receive h hflow]
      refine ⟨fun p => ?_, fun htail r hr => ?_⟩
      · rw [hall.mem, hpend.mem, issued_mem]
      · refine hall.pending (by rw [flowRecord_congr hpend.img]; exact htail) r ?_
        exact pendRows_pend ((issued_length ..).symm ▸ hp) (fun r hr => hrows r (List.mem_append_left _ hr)) htail 3 r hr
  case rotate =>
    intro u
    refine ⟨fun hnone => ?_, fun x hx => ?_⟩
    · have hrotate := runRotate_waits (i := i) (o := o) (s := u) (by rw [issued_drained]; exact hnone)
      rw [exec_rotate hissue, hrotate, unstopped i u (by simpa using issued_running hissue)]
    · rw [exec_rotate hissue, runRotate_enters (by rw [issued_drained]; exact hx)]
  case counted =>
    intro w c hahead hp
    obtain ⟨hqueue, hclosed, hmem, hdp⟩ := windowClose_closes hp (running_of_counting hc)
    exact ⟨windowClose p s, exec_window_counting ha ho hr hc hahead, fun hworn => afterStop_running (hdp hworn), rfl, hqueue, hclosed, hmem⟩
  case slack =>
    refine ⟨fun hc => ?_, fun hc => ?_⟩
    · rw [exec_window_slack ha hrun ho hr hholds, if_pos hc]
    · rw [exec_window_slack ha hrun ho hr hholds, if_neg hc]

end Sys2Proof.Machine

namespace Sys2Proof

/-! ## Instruction words (R130, R131)

A word is the concatenation of its fields, so that it is given by its cuts. -/

theorem cut_all {n : Nat} (b : BitVec n) : cut n b 0 = b := BitVec.eq_of_getLsbD_eq fun i hi => by simp [cut, hi]

/-- A cut of a cut is a cut of the word. -/
theorem cut_cut {n k w lo off : Nat} (b : BitVec n) (h : lo + w ≤ k) : cut w (cut k b off) lo = cut w b (off + lo) := by
  refine BitVec.eq_of_getLsbD_eq fun i hi => ?_
  have : lo + i < k := by omega
  simp [cut, hi, this, Nat.add_assoc]

/-- A concatenation is the word whose cuts are its parts. -/
theorem append_eq_iff {n m : Nat} (x : BitVec n) (y : BitVec m) (b : BitVec (n + m)) :
    x ++ y = b ↔ x = cut n b m ∧ y = cut m b 0 := by
  constructor
  · rintro rfl
    constructor
    · exact BitVec.eq_of_getLsbD_eq fun i hi => by simp [cut, BitVec.getLsbD_append, hi]
    · exact BitVec.eq_of_getLsbD_eq fun i hi => by simp [cut, BitVec.getLsbD_append, hi]
  · rintro ⟨rfl, rfl⟩
    refine BitVec.eq_of_getLsbD_eq fun i hi => ?_
    rw [BitVec.getLsbD_append]
    split
    next hlow => simp [cut, hlow]
    next hhigh =>
      have hi : i - m < n := by omega
      simp [cut, hi, Nat.add_sub_cancel' (Nat.not_lt.mp hhigh)]

/-- The two parts of a concatenation, read where they stand in a longer word. -/
theorem append_eq_cut_iff {n m k off : Nat} {x : BitVec n} {y : BitVec m} {b : BitVec k} :
    x ++ y = cut (n + m) b off ↔ x = cut n b (off + m) ∧ y = cut m b off := by
  rw [append_eq_iff, cut_cut b (by omega), cut_cut b (by omega), Nat.add_zero]

/-- The last field of a concatenation is read; the others are read as P says. -/
theorem last_field_iff {n m k off : Nat} {x : BitVec n} {y : BitVec m} {b : BitVec k} {P : Prop} (h : x = cut n b (off + m) ↔ P) :
    x ++ y = cut (n + m) b off ↔ P ∧ y = cut m b off := append_eq_cut_iff.trans (and_congr_left' h)

theorem bit1_eq_cut_iff {n : Nat} (x : Bool) (b : BitVec n) (i : Nat) : bit1 x = cut 1 b i ↔ x = cutBit b i := by
  have h : cut 1 b i = bit1 (cutBit b i) := by
    refine BitVec.eq_of_getLsbD_eq fun k hk => ?_
    obtain rfl : k = 0 := by omega
    simp only [cut, cutBit, BitVec.getLsbD_extractLsb']
    cases b.getLsbD i <;> rfl
  rw [h]
  cases x <;> cases cutBit b i <;> decide

/-! ### The fields of each class -/

theorem dot_body_iff (o : DotOp) (b : BitVec 96) : (TideOp.dot o).body = b ↔
    o = ⟨cut 10 b 86, cut 10 b 76, cut 12 b 64, cut 4 b 60, cut 3 b 57, cutBit b 56, cut 2 b 54⟩ ∧ cut 54 b 0 = 0 := by
  have h : (TideOp.dot o).body = cut 96 b 0 ↔ _ :=
    last_field_iff (last_field_iff (last_field_iff (last_field_iff (last_field_iff (last_field_iff append_eq_cut_iff)))))
  rw [cut_all] at h
  obtain ⟨laneDesc, serialDesc, laneGroups, a, b', quadMode, quad⟩ := o
  simpa [bit1_eq_cut_iff, and_assoc, eq_comm] using h

theorem emit_body_iff (o : EmitOp) (b : BitVec 96) : (TideOp.emit o).body = b ↔
    o = ⟨cut 12 b 84, cutBit b 83, cut 2 b 81, cutBit b 80, cut 16 b 64, cut 22 b 42⟩ ∧ cut 42 b 0 = 0 := by
  have h : (TideOp.emit o).body = cut 96 b 0 ↔ _ :=
    last_field_iff (last_field_iff (last_field_iff (last_field_iff (last_field_iff append_eq_cut_iff))))
  rw [cut_all] at h
  obtain ⟨layer, quadMode, quad, toRow, flow, firstRow⟩ := o
  simpa [bit1_eq_cut_iff, and_assoc, eq_comm] using h

theorem row_body_iff (o : RowOp) (b : BitVec 96) : (TideOp.row o).body = b ↔
    o = ⟨cut 22 b 74, cut 22 b 52, cut 12 b 40, cut 2 b 38, cut 2 b 36⟩ ∧ cut 36 b 0 = 0 := by
  have h : (TideOp.row o).body = cut 96 b 0 ↔ _ :=
    last_field_iff (last_field_iff (last_field_iff (last_field_iff append_eq_cut_iff)))
  rw [cut_all] at h
  obtain ⟨src, dst, count, mode, laneWidth⟩ := o
  simpa [and_assoc, eq_comm] using h

theorem shelf_body_iff (o : ShelfOp) (b : BitVec 96) : (TideOp.shelf o).body = b ↔
    o = ⟨cut 38 b 58, cut 10 b 48, cut 12 b 36, cutBit b 35, cut 22 b 13⟩ ∧ cut 13 b 0 = 0 := by
  have h : (TideOp.shelf o).body = cut 96 b 0 ↔ _ :=
    last_field_iff (last_field_iff (last_field_iff (last_field_iff append_eq_cut_iff)))
  rw [cut_all] at h
  obtain ⟨addr, desc, count, gather, indexRow⟩ := o
  simpa [bit1_eq_cut_iff, and_assoc, eq_comm] using h

theorem fabric_body_iff (o : FabricOp) (b : BitVec 96) : (TideOp.fabric o).body = b ↔
    o = ⟨cut 16 b 80, cutBit b 79, cut 10 b 69, cut 12 b 57⟩ ∧ cut 57 b 0 = 0 := by
  have h : (TideOp.fabric o).body = cut 96 b 0 ↔ _ := last_field_iff (last_field_iff (last_field_iff append_eq_cut_iff))
  rw [cut_all] at h
  obtain ⟨flow, send, desc, count⟩ := o
  simpa [bit1_eq_cut_iff, and_assoc, eq_comm] using h

theorem rotate_body_iff (o : RotateOp) (b : BitVec 96) : (TideOp.rotate o).body = b ↔
    o = ⟨cut 4 b 92, cut 12 b 80, cut 4 b 76, cut 16 b 60⟩ ∧ cut 60 b 0 = 0 := by
  have h : (TideOp.rotate o).body = cut 96 b 0 ↔ _ := last_field_iff (last_field_iff (last_field_iff append_eq_cut_iff))
  rw [cut_all] at h
  obtain ⟨k, layer, point, flow⟩ := o
  simpa [and_assoc, eq_comm] using h

theorem slot_body_iff (o : SlotOp) (b : BitVec 96) : (TideOp.slot o).body = b ↔
    o = ⟨cut 8 b 88, cut 9 b 79, cut 2 b 77⟩ ∧ cut 77 b 0 = 0 := by
  have h : (TideOp.slot o).body = cut 96 b 0 ↔ _ := last_field_iff (last_field_iff append_eq_cut_iff)
  rw [cut_all] at h
  obtain ⟨first, count, cls⟩ := o
  simpa [and_assoc, eq_comm] using h

/-! ### Decoding -/

theorem ifOk_eq_some_iff {c : Bool} {o p : TideOp} : ifOk c o = some p ↔ c = true ∧ o = p := by
  cases c <;> simp [ifOk]

/-- A class and a body decode to the well-formed instruction that they spell, and to no other. -/
theorem decodeBody_eq_some_iff {c : BitVec 4} {b : BitVec 96} {o : TideOp} :
    decodeBody c b = some o ↔ o.wellFormed = true ∧ o.cls = c ∧ o.body = b := by
  constructor
  · intro h
    unfold decodeBody at h
    split at h
    case h_11 => exact absurd h (by simp)
    case h_1 hc =>
      obtain ⟨hok, rfl⟩ := ifOk_eq_some_iff.mp h
      exact ⟨rfl, BitVec.eq_of_toNat_eq hc.symm, (beq_iff_eq.mp hok).symm⟩
    case h_2 hc =>
      obtain ⟨hok, rfl⟩ := ifOk_eq_some_iff.mp h
      simp only [Bool.and_eq_true, beq_iff_eq, and_assoc] at hok
      obtain ⟨hz, hwf⟩ := hok
      exact ⟨by simpa [TideOp.wellFormed, and_assoc] using hwf, BitVec.eq_of_toNat_eq hc.symm, (dot_body_iff _ b).mpr ⟨rfl, hz⟩⟩
    case h_3 hc =>
      obtain ⟨hok, rfl⟩ := ifOk_eq_some_iff.mp h
      exact ⟨rfl, BitVec.eq_of_toNat_eq hc.symm, (emit_body_iff _ b).mpr ⟨rfl, beq_iff_eq.mp hok⟩⟩
    case h_4 hc =>
      obtain ⟨hok, rfl⟩ := ifOk_eq_some_iff.mp h
      simp only [Bool.and_eq_true, beq_iff_eq, and_assoc] at hok
      obtain ⟨hz, hwf⟩ := hok
      exact ⟨by simpa [TideOp.wellFormed, and_assoc] using hwf, BitVec.eq_of_toNat_eq hc.symm, (row_body_iff _ b).mpr ⟨rfl, hz⟩⟩
    case h_5 hc =>
      obtain ⟨hok, rfl⟩ := ifOk_eq_some_iff.mp h
      exact ⟨rfl, BitVec.eq_of_toNat_eq hc.symm, (shelf_body_iff _ b).mpr ⟨rfl, beq_iff_eq.mp hok⟩⟩
    case h_6 hc =>
      obtain ⟨hok, rfl⟩ := ifOk_eq_some_iff.mp h
      exact ⟨rfl, BitVec.eq_of_toNat_eq hc.symm, (fabric_body_iff _ b).mpr ⟨rfl, beq_iff_eq.mp hok⟩⟩
    case h_7 hc =>
      obtain ⟨hok, rfl⟩ := ifOk_eq_some_iff.mp h
      simp only [Bool.and_eq_true, beq_iff_eq, and_assoc] at hok
      obtain ⟨hz, hwf⟩ := hok
      exact ⟨by simpa [TideOp.wellFormed, and_assoc] using hwf, BitVec.eq_of_toNat_eq hc.symm, (rotate_body_iff _ b).mpr ⟨rfl, hz⟩⟩
    case h_8 hc =>
      obtain ⟨hok, rfl⟩ := ifOk_eq_some_iff.mp h
      exact ⟨rfl, BitVec.eq_of_toNat_eq hc.symm, (beq_iff_eq.mp hok).symm⟩
    case h_9 hc =>
      obtain ⟨hok, rfl⟩ := ifOk_eq_some_iff.mp h
      simp only [Bool.and_eq_true, beq_iff_eq, and_assoc] at hok
      obtain ⟨hz, hwf⟩ := hok
      exact ⟨by simpa [TideOp.wellFormed, and_assoc] using hwf, BitVec.eq_of_toNat_eq hc.symm, (slot_body_iff _ b).mpr ⟨rfl, hz⟩⟩
    case h_10 hc =>
      obtain ⟨hok, rfl⟩ := ifOk_eq_some_iff.mp h
      exact ⟨rfl, BitVec.eq_of_toNat_eq hc.symm, (beq_iff_eq.mp hok).symm⟩
  · rintro ⟨hwf, rfl, hb⟩
    cases o with
    | wait => subst hb; rfl
    | fbwin => subst hb; rfl
    | done => subst hb; rfl
    | dot o =>
      obtain ⟨rfl, hz⟩ := (dot_body_iff o b).mp hb
      exact ifOk_eq_some_iff.mpr ⟨by simpa [TideOp.wellFormed, hz] using hwf, rfl⟩
    | emit o =>
      obtain ⟨rfl, hz⟩ := (emit_body_iff o b).mp hb
      exact ifOk_eq_some_iff.mpr ⟨by simp [hz], rfl⟩
    | row o =>
      obtain ⟨rfl, hz⟩ := (row_body_iff o b).mp hb
      exact ifOk_eq_some_iff.mpr ⟨by simpa [TideOp.wellFormed, hz] using hwf, rfl⟩
    | shelf o =>
      obtain ⟨rfl, hz⟩ := (shelf_body_iff o b).mp hb
      exact ifOk_eq_some_iff.mpr ⟨by simp [hz], rfl⟩
    | fabric o =>
      obtain ⟨rfl, hz⟩ := (fabric_body_iff o b).mp hb
      exact ifOk_eq_some_iff.mpr ⟨by simp [hz], rfl⟩
    | rotate o =>
      obtain ⟨rfl, hz⟩ := (rotate_body_iff o b).mp hb
      exact ifOk_eq_some_iff.mpr ⟨by simpa [TideOp.wellFormed, hz] using hwf, rfl⟩
    | slot o =>
      obtain ⟨rfl, hz⟩ := (slot_body_iff o b).mp hb
      exact ifOk_eq_some_iff.mpr ⟨by simpa [TideOp.wellFormed, hz] using hwf, rfl⟩

/-- A word is an encoding where its reserved bits are zero and its other fields spell the class, the cycle and the body. -/
theorem encodeTide_eq_iff {cycle : BitVec 13} {o : TideOp} {w : BitVec 128} :
    encodeTide cycle o = w ↔ o.cls = cut 4 w 124 ∧ cycle = cut 13 w 111 ∧ cut 15 w 96 = 0 ∧ o.body = cut 96 w 0 := by
  have h : encodeTide cycle o = cut 128 w 0 ↔ _ := last_field_iff (last_field_iff append_eq_cut_iff)
  rw [cut_all] at h
  simpa [and_assoc, eq_comm (a := 0#15)] using h

/-- A word decodes to the well-formed instructions that it encodes (R130, R131). -/
theorem decodeTide_eq_some_iff {w : BitVec 128} {cycle : BitVec 13} {o : TideOp} :
    decodeTide w = some (cycle, o) ↔ o.wellFormed = true ∧ encodeTide cycle o = w := by
  rw [encodeTide_eq_iff, decodeTide]
  split
  next hz =>
    simp only [Option.map_eq_some_iff, Prod.mk.injEq, decodeBody_eq_some_iff]
    constructor
    · rintro ⟨o, ⟨hwf, hcls, hbody⟩, hcycle, rfl⟩
      exact ⟨hwf, hcls, hcycle.symm, hz, hbody⟩
    · rintro ⟨hwf, hcls, hcycle, -, hbody⟩
      exact ⟨o, ⟨hwf, hcls, hbody⟩, hcycle.symm, rfl⟩
  next hz =>
    constructor
    · exact fun h => absurd h (by simp)
    · rintro ⟨-, -, -, hzero, -⟩
      exact absurd hzero hz

/-- Settles O59: an instruction's word spells it. -/
theorem tideInstructionsRoundTrip : Obligations.TideInstructionsRoundTrip :=
  fun _ _ hwf => decodeTide_eq_some_iff.mpr ⟨hwf, rfl⟩

/-- Settles O60: a word decodes to what it is the encoding of. -/
theorem tideWordsHaveOneMeaning : Obligations.TideWordsHaveOneMeaning := fun _ _ _ => decodeTide_eq_some_iff.mp

/-- Settles O58: each word is decoded by evaluation. -/
theorem tideWordsDecode : Obligations.TideWordsDecode := by
  unfold Obligations.TideWordsDecode
  decide

end Sys2Proof

namespace Sys2Proof.Machine

/-! ## The columns of R122 -/

/-- Among the numbers below n that p selects, the one at place d has d selected numbers below it. -/
theorem selected_at {p : Nat → Bool} {n d h : Nat} (hd : ((List.range n).filter p)[d]? = some h) :
    h < n ∧ p h = true ∧ (List.range h).countP p = d := by
  induction n with
  | zero => simp at hd
  | succ n ih =>
    rw [List.range_succ, List.filter_append] at hd
    rcases Nat.lt_or_ge d ((List.range n).filter p).length with hlt | hge
    · rw [List.getElem?_append_left hlt] at hd
      obtain ⟨hn, hp, hc⟩ := ih hd
      exact ⟨hn.trans (Nat.lt_succ_self n), hp, hc⟩
    · rw [List.getElem?_append_right hge] at hd
      cases hp : p n with
      | false => simp [hp] at hd
      | true =>
        rw [List.filter_singleton, hp, cond_true, List.getElem?_singleton] at hd
        split at hd
        next hz =>
          obtain rfl := Option.some.inj hd
          exact ⟨Nat.lt_succ_self n, hp, by rw [List.countP_eq_length_filter]; omega⟩
        next => simp at hd

/-- The bytes with w set bits, rising. -/
def bytesOfWeight (w : Nat) : List Nat := (List.range 256).filter fun x => weight8 x = w

theorem columns_eq : columns = bytesOfWeight 3 ++ (bytesOfWeight 5).take 8 := rfl

theorem bytesOfWeight_length : (bytesOfWeight 3).length = 56 ∧ (bytesOfWeight 5).length = 56 := by decide +kernel

theorem byteOfWeight {w d : Nat} (hd : d < (bytesOfWeight w).length) : ∃ h, (bytesOfWeight w)[d]? = some h ∧ h < 256 ∧ weight8 h = w ∧
    ((List.range h).countP fun x => weight8 x = w) = d := by
  have hget := List.getElem?_eq_getElem hd
  obtain ⟨hlt, hw, hc⟩ := selected_at hget
  exact ⟨_, hget, hlt, of_decide_eq_true hw, hc⟩

theorem columns_length : columns.length = 64 := by simp [columns_eq, bytesOfWeight_length]

theorem columns_distinct : columns.Nodup := by decide +kernel

/-- No column is 0, a single bit or the poison byte. -/
theorem column_spec : ∀ h ∈ columns, h ≠ 0 ∧ weight8 h ≠ 1 ∧ h ≠ 0xFF := by decide +kernel

theorem columns_low {d : Nat} (hd : d < 56) : columns[d]? = (bytesOfWeight 3)[d]? := by
  rw [columns_eq, List.getElem?_append_left (bytesOfWeight_length.1 ▸ hd)]

theorem columns_high {d : Nat} (hlow : 56 ≤ d) (hd : d < 64) : columns[d]? = (bytesOfWeight 5)[d - 56]? := by
  rw [columns_eq, List.getElem?_append_right (bytesOfWeight_length.1 ▸ hlow), bytesOfWeight_length.1, List.getElem?_take,
    if_pos (by omega)]

/-- A column's data bit is found from it. -/
theorem findIdx?_column {k y : Nat} (h : columns[k]? = some y) : (columns.findIdx? (· = y)) = some k := by
  obtain ⟨hk, hy⟩ := List.getElem?_eq_some_iff.mp h
  refine List.findIdx?_eq_some_iff_getElem.mpr ⟨hk, by simpa using hy, fun j hj hjy => ?_⟩
  have heq : columns[j] = columns[k] := by simpa [hy] using hjy
  exact absurd ((columns_distinct.getElem_inj_iff).mp heq) (by omega)

/-! ## What a read gives (R123) -/

section Decode
variable {d : BitVec 64} {c : Nat}

theorem decodeWord_clean (h : Nat.xor c (checkByte d) = 0) : decodeWord d c = ⟨d, false, false, false⟩ := if_pos h

theorem weight8_zero : weight8 0 = 0 := by decide

theorem decodeWord_checkFlipped (h : weight8 (Nat.xor c (checkByte d)) = 1) : decodeWord d c = ⟨d, false, true, false⟩ := by
  have hne : Nat.xor c (checkByte d) ≠ 0 := fun hz => by rw [hz, weight8_zero] at h; omega
  exact (if_neg hne).trans (if_pos h)

theorem decodeWord_column {k : Nat} (h : columns[k]? = some (Nat.xor c (checkByte d))) :
    decodeWord d c = ⟨d ^^^ BitVec.ofNat 64 (2 ^ k), false, true, false⟩ := by
  obtain ⟨hz, hw, -⟩ := column_spec _ (List.mem_of_getElem? h)
  unfold decodeWord
  dsimp only
  rw [if_neg hz, if_neg hw, findIdx?_column h]

theorem decodeWord_other (hz : Nat.xor c (checkByte d) ≠ 0) (hw : weight8 (Nat.xor c (checkByte d)) ≠ 1)
    (hc : Nat.xor c (checkByte d) ∉ columns) :
    decodeWord d c = if Nat.xor c (checkByte d) = 0xFF then ⟨0, true, false, false⟩ else ⟨0, true, false, true⟩ := by
  have hfind : columns.findIdx? (· = Nat.xor c (checkByte d)) = none :=
    List.findIdx?_eq_none_iff.mpr fun x hx => decide_eq_false fun heq => hc (heq ▸ hx)
  unfold decodeWord
  dsimp only
  rw [if_neg hz, if_neg hw, hfind]

theorem decodeWord_poison (h : Nat.xor c (checkByte d) = 0xFF) : decodeWord d c = ⟨0, true, false, false⟩ := by
  have hc : Nat.xor c (checkByte d) ∉ columns := fun hmem => (column_spec _ hmem).2.2 h
  rw [decodeWord_other (by rw [h]; decide) (by rw [h]; decide) hc, if_pos h]

theorem decodeWord_uncorrectable (hz : Nat.xor c (checkByte d) ≠ 0) (hw : weight8 (Nat.xor c (checkByte d)) ≠ 1)
    (hc : Nat.xor c (checkByte d) ∉ columns) (hp : Nat.xor c (checkByte d) ≠ 0xFF) : decodeWord d c = ⟨0, true, false, true⟩ := by
  rw [decodeWord_other hz hw hc, if_neg hp]

end Decode

/-- Settles O54: the syndromes of R123 exclude one another. -/
theorem readsDecodeBySyndrome : Obligations.ReadsDecodeBySyndrome := by
  unfold Obligations.ReadsDecodeBySyndrome
  intro d c _ y
  refine ⟨decodeWord_clean, decodeWord_checkFlipped, fun k => decodeWord_column, fun h => ?poison, fun hz hw hc hp => ?uncorrectable⟩
  case poison => simp [decodeWord_poison h]
  case uncorrectable => simp [decodeWord_uncorrectable hz hw hc hp]

/-! ## The check byte (R122) -/

/-- What data bit p.2, of column p.1, adds to the check byte. -/
def columnOf (d : BitVec 64) (p : Nat × Nat) : Nat := if d.getLsbD p.2 then p.1 else 0

/-- The check byte as far as the columns l, taken in one after another, give it. -/
def xorColumns (d : BitVec 64) (l : List (Nat × Nat)) (a : Nat) : Nat := l.foldl (fun a p => a ^^^ columnOf d p) a

theorem checkByte_eq (d : BitVec 64) : checkByte d = xorColumns d columns.zipIdx 0 := by
  refine congrArg (fun f => columns.zipIdx.foldl f 0) (funext fun a => funext fun p => ?_)
  change (if d.getLsbD p.2 then a ^^^ p.1 else a) = a ^^^ columnOf d p
  rw [columnOf]
  split <;> simp

theorem testBit_columnOf (d : BitVec 64) (p : Nat × Nat) (i : Nat) :
    (columnOf d p).testBit i = (d.getLsbD p.2 && p.1.testBit i) := by
  rw [columnOf]
  split <;> simp [*]

theorem columnOf_xor (d e : BitVec 64) (p : Nat × Nat) : columnOf (d ^^^ e) p = columnOf d p ^^^ columnOf e p :=
  Nat.eq_of_testBit_eq fun i => by
    rw [Nat.testBit_xor, testBit_columnOf, testBit_columnOf, testBit_columnOf, BitVec.getLsbD_xor, Bool.and_xor_distrib_right]

theorem testBit_xorColumns (d : BitVec 64) (l : List (Nat × Nat)) (a i : Nat) : (xorColumns d l a).testBit i =
    (a.testBit i ^^ decide ((l.countP fun p => d.getLsbD p.2 && p.1.testBit i) % 2 = 1)) := by
  induction l generalizing a with
  | nil => simp [xorColumns]
  | cons p l ih =>
    rw [xorColumns, List.foldl_cons, ← xorColumns, ih, Nat.testBit_xor, testBit_columnOf, Bool.xor_assoc, List.countP_cons]
    generalize l.countP (fun p => d.getLsbD p.2 && p.1.testBit i) = n
    cases d.getLsbD p.2 && p.1.testBit i
    · simp
    · rcases Nat.mod_two_eq_zero_or_one n with hn | hn <;> simp [Nat.add_mod, hn]

theorem testBit_checkByte (d : BitVec 64) (i : Nat) : (checkByte d).testBit i =
    decide (((List.range 64).countP fun k => d.getLsbD k && (nth columns k 0).testBit i) % 2 = 1) := by
  have hzip : columns.zipIdx = (List.range 64).map fun k => (nth columns k 0, k) := by decide +kernel
  rw [checkByte_eq, testBit_xorColumns, hzip, List.countP_map]
  simp [Function.comp_def]

/-- The check byte is linear in its word. -/
theorem xorColumns_xor (d e : BitVec 64) (l : List (Nat × Nat)) (a b : Nat) :
    xorColumns (d ^^^ e) l (a ^^^ b) = xorColumns d l a ^^^ xorColumns e l b := by
  induction l generalizing a b with
  | nil => rfl
  | cons p l ih =>
    simp only [xorColumns, List.foldl_cons] at ih ⊢
    rw [← ih, columnOf_xor]
    congr 1
    ac_rfl

theorem checkByte_xor (d e : BitVec 64) : checkByte (d ^^^ e) = checkByte d ^^^ checkByte e := by
  rw [checkByte_eq, checkByte_eq, checkByte_eq]
  exact xorColumns_xor d e _ 0 0

theorem checkByte_bit : ∀ k < 64, columns[k]? = some (checkByte (BitVec.ofNat 64 (2 ^ k))) := by decide +kernel

theorem checkByte_zero : checkByte 0 = 0 := by decide +kernel

theorem weight8_bit : ∀ k < 8, weight8 (2 ^ k) = 1 := by decide

/-! ### One flipped bit -/

theorem decodeWord_dataFlipped (d : BitVec 64) {k : Nat} (hk : k < 64) :
    decodeWord (d ^^^ BitVec.ofNat 64 (2 ^ k)) (checkByte d) = ⟨d, false, true, false⟩ := by
  have hsyndrome : Nat.xor (checkByte d) (checkByte (d ^^^ BitVec.ofNat 64 (2 ^ k))) = checkByte (BitVec.ofNat 64 (2 ^ k)) := by
    rw [checkByte_xor]
    exact Nat.xor_xor_cancel_left ..
  rw [decodeWord_column (k := k) (by rw [hsyndrome, checkByte_bit k hk]), BitVec.xor_assoc, BitVec.xor_self, BitVec.xor_zero]

theorem xor_flipped (c x : Nat) : Nat.xor (Nat.xor c x) c = x := by
  change c ^^^ x ^^^ c = x
  rw [Nat.xor_comm c x, Nat.xor_assoc, Nat.xor_self, Nat.xor_zero]

/-- Settles O53: the columns by their place among the bytes of their weight; the check byte is linear, so that a flipped bit's
syndrome is its column. -/
theorem checkByteFollowsItsColumns : Obligations.CheckByteFollowsItsColumns := by
  unfold Obligations.CheckByteFollowsItsColumns
  refine ⟨⟨fun d hd => ?low, fun d hlow hd => ?high, columns_length, testBit_checkByte⟩,
    fun d k => decodeWord_dataFlipped d, fun d k hk => ?check, fun d => ?clean, ?poison⟩
  case low =>
    rw [columns_low hd]
    exact byteOfWeight (hd.trans_eq bytesOfWeight_length.1.symm)
  case high =>
    rw [columns_high hlow hd]
    exact byteOfWeight (by rw [bytesOfWeight_length.2]; omega)
  case check => exact decodeWord_checkFlipped ((congrArg weight8 (xor_flipped _ _)).trans (weight8_bit k hk))
  case clean => exact decodeWord_clean (Nat.xor_self _)
  case poison => exact decodeWord_poison (by rw [checkByte_zero]; rfl)

/-! ## Reads of words (R117, R124, R217) -/

/-- Bytes read from a window of a memory are those of the memory. -/
theorem readBytes_eq (m : Memory) (a n : Nat) : m.readBytes a n = (List.range n).map fun i => m.read (a + i) := by
  refine List.map_congr_left fun i hi => ?_
  have hi := List.mem_range.mp hi
  rw [Memory.read, lookup_filter m (fun x => decide (a ≤ x) && decide (x < a + n)) (a + i), if_pos (by simp; omega), Memory.read]

/-- A word is decoded from nine bytes. -/
def wordAt (f : Nat → Byte) (i : Nat) : WordRead :=
  let bs := (List.range 9).map fun k => f (9 * i + k)
  decodeWord (BitVec.ofNat 64 (natLE (bs.take 8))) (natLE (bs.drop 8))

theorem readSlot_eq (m : Memory) (i : Nat) : readSlot m i = wordAt m.read i := by
  rw [readSlot, readBytes_eq, wordAt]

theorem readSlots_eq (m : Memory) (i n : Nat) : readSlots m i n = (List.range n).map fun k => wordAt m.read (i + k) := by
  refine List.map_congr_left fun k hk => ?_
  have hk := List.mem_range.mp hk
  rw [readSlot_eq, wordAt, wordAt]
  have hbytes : (List.range 9).map (fun j => Memory.read (m.filter fun c => decide (9 * i ≤ c.1) && decide (c.1 < 9 * (i + n))) (9 * (i + k) + j))
      = (List.range 9).map fun j => m.read (9 * (i + k) + j) := by
    refine List.map_congr_left fun j hj => ?_
    have hj := List.mem_range.mp hj
    rw [Memory.read, lookup_filter m (fun x => decide (9 * i ≤ x) && decide (x < 9 * (i + n))), if_pos (by simp; omega), Memory.read]
  rw [hbytes]

/-! ## Words as stored (R122, R124) -/

/-- What a word reads as: a poisoned one as poison. -/
def storedRead (w : Word64) : WordRead := if w.2 then ⟨0, true, false, false⟩ else ⟨w.1, false, false, false⟩

theorem xorColumns_lt (d : BitVec 64) {l : List (Nat × Nat)} (hl : ∀ p ∈ l, p.1 < 2 ^ 8) {a : Nat} (ha : a < 2 ^ 8) :
    xorColumns d l a < 2 ^ 8 := by
  induction l generalizing a with
  | nil => exact ha
  | cons p l ih =>
    have hp : columnOf d p < 2 ^ 8 := by
      rw [columnOf]
      split
      · exact hl p List.mem_cons_self
      · exact Nat.two_pow_pos 8
    exact ih (fun q hq => hl q (List.mem_cons_of_mem _ hq)) (Nat.xor_lt_two_pow ha hp)

theorem checkByte_lt (d : BitVec 64) : checkByte d < 256 := by
  rw [checkByte_eq]
  exact xorColumns_lt d (by decide +kernel) (Nat.two_pow_pos 8)

/-- The bytes of a stored word are decoded to it. -/
theorem decode_encodeWord (d : BitVec 64) (p : Bool) :
    decodeWord (BitVec.ofNat 64 (natLE ((encodeWord d p).take 8))) (natLE ((encodeWord d p).drop 8)) = storedRead (d, p) := by
  cases p with
  | true =>
    have hdata : BitVec.ofNat 64 (natLE ((encodeWord d true).take 8)) = 0 := rfl
    have hcheck : natLE ((encodeWord d true).drop 8) = 0xFF := rfl
    exact decodeWord_poison (by rw [hdata, hcheck, checkByte_zero]; rfl)
  | false =>
    have hdata : natLE ((encodeWord d false).take 8) = d.toNat := by
      rw [encodeWord, if_neg Bool.false_ne_true, List.take_left' (bytesLE_length 8 _), natLE_bytesLE, Nat.mod_eq_of_lt d.isLt]
    have hcheck : natLE ((encodeWord d false).drop 8) = checkByte d := by
      rw [encodeWord, if_neg Bool.false_ne_true, List.drop_left' (bytesLE_length 8 _), natLE_cons, BitVec.toNat_ofNat,
        Nat.mod_eq_of_lt (checkByte_lt d)]
      exact Nat.zero_add _
    rw [hdata, hcheck, BitVec.ofNat_toNat, BitVec.setWidth_eq]
    exact decodeWord_clean (Nat.xor_self _)

/-- Where each element gives n bytes, byte j of element k stands at n * k + j. -/
theorem getD_flatMap {α : Type} (f : α → Bytes) {n : Nat} (hf : ∀ x, (f x).length = n) (l : List α) {k j : Nat} (hk : k < l.length)
    (hj : j < n) : (l.flatMap f).getD (n * k + j) 0 = (f l[k]).getD j 0 := by
  induction l generalizing k with
  | nil => exact absurd hk (Nat.not_lt_zero k)
  | cons x l ih =>
    rw [List.flatMap_cons]
    cases k with
    | zero => rw [Nat.mul_zero, Nat.zero_add, List.getD_append _ _ _ _ (by rw [hf]; exact hj), List.getElem_cons_zero]
    | succ k =>
      have hplace : n * (k + 1) + j - (f x).length = n * k + j := by rw [hf, Nat.mul_succ]; omega
      rw [List.getD_append_right _ _ _ _ (by rw [hf, Nat.mul_succ]; omega), hplace, ih (Nat.lt_of_succ_lt_succ hk),
        List.getElem_cons_succ]

theorem encodeWords_length (ws : List Word64) : (ws.flatMap fun w => encodeWord w.1 w.2).length = 9 * ws.length := by
  rw [List.length_flatMap, List.map_congr_left fun w _ => encodeWord_length w.1 w.2, List.map_const', List.sum_replicate,
    smul_eq_mul, Nat.mul_comm]

theorem wordAt_writeSlots_in (m : Memory) (i : Nat) (ws : List Word64) {k : Nat} (hk : k < ws.length) :
    wordAt (writeSlots m i ws).read (i + k) = storedRead ws[k] := by
  have hbytes : ((List.range 9).map fun j => (writeSlots m i ws).read (9 * (i + k) + j)) = encodeWord ws[k].1 ws[k].2 := by
    refine List.ext_getElem (by simp) fun j hj _ => ?_
    have hj : j < 9 := by simpa using hj
    rw [List.getElem_map, List.getElem_range, writeSlots, Memory.read_write_in _ _ _ _ (by omega) (by rw [encodeWords_length]; omega),
      show 9 * (i + k) + j - 9 * i = 9 * k + j by omega, getD_flatMap _ (fun w => encodeWord_length w.1 w.2) ws hk hj,
      List.getD_eq_getElem?_getD, List.getElem?_eq_getElem, Option.getD_some]
  rw [wordAt, hbytes]
  exact decode_encodeWord _ _

theorem wordAt_writeSlots_out (m : Memory) {i j : Nat} (ws : List Word64) (h : j < i ∨ i + ws.length ≤ j) :
    wordAt (writeSlots m i ws).read j = wordAt m.read j := by
  have hbytes : ((List.range 9).map fun k => (writeSlots m i ws).read (9 * j + k)) = (List.range 9).map fun k => m.read (9 * j + k) :=
    List.map_congr_left fun k hk => read_writeSlots_out m i ws _ (by have := List.mem_range.mp hk; omega)
  rw [wordAt, hbytes, wordAt]

/-- Words stored in whole records of n slots read as stored, and the other records as before. -/
theorem readSlots_writeSlots_same (m : Memory) (i : Nat) (ws : List Word64) :
    readSlots (writeSlots m i ws) i ws.length = ws.map storedRead := by
  rw [readSlots_eq]
  refine List.ext_getElem (by simp) fun k hk _ => ?_
  have hk : k < ws.length := by simpa using hk
  rw [List.getElem_map, List.getElem_range, wordAt_writeSlots_in m i ws hk, List.getElem_map]

theorem readSlots_writeSlots_other (m : Memory) {i j n : Nat} (ws : List Word64) (h : j + n ≤ i ∨ i + ws.length ≤ j) :
    readSlots (writeSlots m i ws) j n = readSlots m j n := by
  rw [readSlots_eq, readSlots_eq]
  exact List.map_congr_left fun k hk => wordAt_writeSlots_out m ws (by have := List.mem_range.mp hk; omega)

/-- Records of n slots each, stored and read by their number: the one stored reads as stored, any other as before. -/
theorem readSlots_record (m : Memory) {i k n : Nat} {ws : List Word64} (hl : ws.length = n) :
    readSlots (writeSlots m (i * n) ws) (i * n) n = ws.map storedRead ∧
      (k ≠ i → readSlots (writeSlots m (i * n) ws) (k * n) n = readSlots m (k * n) n) := by
  subst hl
  refine ⟨readSlots_writeSlots_same m _ ws, fun hne => readSlots_writeSlots_other m ws ?_⟩
  rcases Nat.lt_or_gt_of_ne hne with hlt | hgt
  · exact .inl (by rw [← Nat.succ_mul]; exact Nat.mul_le_mul_right _ hlt)
  · exact .inr (by rw [← Nat.succ_mul]; exact Nat.mul_le_mul_right _ hgt)

/-- Settles O55: a row is a record of 64 slots, a unit one of 8. -/
theorem memoryReadsWhatWasWritten : Obligations.MemoryReadsWhatWasWritten := by
  unfold Obligations.MemoryReadsWhatWasWritten
  exact fun m n k ws => ⟨readSlots_record m, readSlots_record m, fun h => writeRow_wf h n ws⟩

end Sys2Proof.Machine

namespace Sys2Proof.Machine

/-! ## What an issue does to the counters (R162, R186)

Contract holds on the way pass in slack, which moves neither the tide nor its program. -/

@[simp] theorem passKnown_number (cause : BitVec 8) (n : Nat) (s : State) :
    (passKnown cause n s).tide.number = s.tide.number := by
  unfold passKnown passSlack releaseHold
  (repeat' split) <;> rfl

theorem passContract_number (hs : List (Nat × Nat × Nat)) (s : State) : (passContract hs s).tide.number = s.tide.number :=
  foldl_keeps (·.tide.number) _ (fun s h => passKnown_number 8 h.2.2 s) hs s

/-- Where the phase and the tide in it stand is read from the tide number and the image. -/
theorem tideBase_congr {s t : State} (hnumber : t.tide.number = s.tide.number) (himg : t.img = s.img) : tideBase t = tideBase s := by
  unfold tideBase phasePos State.tideLen
  rw [hnumber, himg]

theorem advanceTo_tideCycle (c : Nat) (s : State) : (advanceTo c s).tide.tideCycle = BitVec.ofNat 13 (c - tideBase s) := by
  unfold advanceTo
  generalize contractAt (phaseCycle s + 1) c s = hs
  rw [← tideBase_congr (passContract_number hs s) (by simp)]
  rfl

/-- Besides the counters and the issuing comb an issue changes nothing. -/
theorem issued_rest (i : Issue) (op : TideOp) (s : State) : { issued i op s with tide := s.tide, combs := s.combs } = s := by
  simp

theorem pc_of_canIssue {i : Issue} {op : TideOp} {s : State} (h : canIssue i op s = true) : (s.comb i.comb).pc = i.pc.toNat := by
  simp only [canIssue, fetches, Bool.and_eq_true, decide_eq_true_eq] at h
  obtain ⟨⟨-, ⟨⟨hpc, -⟩, -⟩, -⟩, -⟩ := h
  exact hpc.symm

theorem issued_tide (i : Issue) (op : TideOp) (s : State) : (issued i op s).tide = (advanceTo i.cycle.toNat s).tide := rfl

theorem issued_pc {i : Issue} {s : State} (hp : i.comb < s.combs.length) (op : TideOp) :
    ((issued i op s).comb i.comb).pc = (s.comb i.comb).pc + 1 := by
  have hcombs : (advanceTo i.cycle.toNat s).combs = s.combs := by simp
  rw [issued, setComb_self (hcombs ▸ hp), comb_congr hcombs]

theorem issued_cells (i : Issue) (op : TideOp) (s : State) (q : Nat) : ((issued i op s).comb q).cells = (s.comb q).cells := by
  obtain ⟨_, _, h⟩ := issued_comb i op s q
  rw [h]

/-! ## WAIT, END, FBWIN and SLOT (R102, R131, R134) -/

section Control
variable {i : Issue} {s : State}

/-- An instruction with an effect that leaves the data plane running. -/
theorem issueAt_running {op : TideOp} (h : canIssue i op s = true) {f : State → State}
    (hf : (f (issued i op s)).tide = (issued i op s).tide) : issueAt i op f s = f (issued i op s) := by
  rw [issueAt_issued h, unstopped i _ (by rw [hf]; exact issued_running h)]

theorem exec_wait (h : canIssue i .wait s = true) : exec (.wait i) s = .next (issued i .wait s) :=
  congrArg Host.Outcome.next (issueAt_running h rfl)

theorem exec_done (h : canIssue i .done s = true) :
    exec (.done i) s = .next (setComb i.comb (fun c => { c with ended := true }) (issued i .done s)) :=
  congrArg Host.Outcome.next (issueAt_running h rfl)

theorem exec_fbwin (h : canIssue i .fbwin s = true) :
    exec (.fbwin i) s = .next (setComb i.comb (fun c => { c with windowOpen := true, windowAt := i.cycle }) (issued i .fbwin s)) :=
  congrArg Host.Outcome.next (issueAt_running h rfl)

theorem exec_slot {o : SlotOp} (h : canIssue i (.slot o) s = true) :
    exec (.slot i o) s = .next (afterStop (stopWith i (issued i (.slot o) s) (runSlot i o (issued i (.slot o) s)))) :=
  congrArg Host.Outcome.next (issueAt_issued h _)

end Control

/-- The slots of a declaration's range, rising. -/
def declaredSlots (o : SlotOp) : List Nat := (List.range o.count.toNat).map (o.first.toNat + ·)

theorem runSlot_declares {i : Issue} {o : SlotOp} {u : State} (h : ∀ k < o.count.toNat, slotClash o (o.first.toNat + k) u = false) :
    runSlot i o u = setComb i.comb (fun c => { c with slots := c.slots ++ [o] }) u := by
  have hfind : (declaredSlots o).find? (fun k => slotClash o k u) = none := by
    rw [List.find?_eq_none]
    intro x hx
    obtain ⟨k, hk, rfl⟩ := List.mem_map.mp hx
    simp [h k (List.mem_range.mp hk)]
  rw [declaredSlots] at hfind
  simp only [runSlot, hfind]

theorem runSlot_clashes {i : Issue} {o : SlotOp} {u : State} {k : Nat} (hk : k < o.count.toNat)
    (hclash : slotClash o (o.first.toNat + k) u = true) (hfirst : ∀ j < k, slotClash o (o.first.toNat + j) u = false) :
    runSlot i o u = scheduleFault { combSite i 1 5 with slot := o.first.toNat + k } u := by
  have hfind : (declaredSlots o).find? (fun k => slotClash o k u) = some (o.first.toNat + k) := by
    rw [List.find?_eq_some_iff_getElem]
    refine ⟨hclash, k, by simpa [declaredSlots] using hk, by simp [declaredSlots], fun j hj => ?_⟩
    simp [declaredSlots, hfirst j hj]
  rw [declaredSlots] at hfind
  simp only [runSlot, hfind]

theorem countOthers_tide (n : Nat) (s : State) : (countOthers n s).tide = s.tide :=
  foldl_keeps State.tide _ (fun s _ => by simp) _ s

/-- What another comb's fault replaces in a fault's stop is a fault's stop. -/
theorem stopWith_halted {i : Issue} {u t : State} (hu : u.tide.dp = .running) (ht : t.tide.dp = .halted) :
    (stopWith i u t).tide.dp = .halted := by
  unfold stopWith
  split
  · dsimp only
    split
    · split
      · rw [countOthers_tide]
        exact (scheduleFault_running hu _).1
      · rw [countOthers_tide, ht]
    · rw [countOthers_tide, ht]
  · exact ht

theorem afterStop_halted {s : State} (h : s.tide.dp = .halted) : afterStop s = advanceService s := if_neg (by rw [h]; decide)

/-- Settles O40: the issue by its frame, the four instructions by their effect on the issuing comb. -/
theorem controlInstructionsIssue : Obligations.ControlInstructionsIssue := by
  unfold Obligations.ControlInstructionsIssue
  refine fun i o s hp => ⟨fun op h => ?issue, exec_wait, exec_done, exec_fbwin, fun h =>
    ⟨fun hfree => ?declares, fun k hk hclash hfirst => ?clashes⟩⟩
  case issue =>
    exact ⟨issued_rest i op s, issued_running h, passContract_number _ s, advanceTo_tideCycle _ s, pc_of_canIssue h,
      by rw [issued_pc hp, pc_of_canIssue h], issued_mem i op s _, issued_cells i op s _, fun q => issued_comb_other i op s⟩
  case declares => rw [exec_slot h, runSlot_declares hfree, unstopped i _ (by simpa using issued_running h)]
  case clashes =>
    have hrun := issued_running h
    rw [exec_slot h, runSlot_clashes hk hclash hfirst, afterStop_halted (stopWith_halted hrun (scheduleFault_running hrun _).1)]

end Sys2Proof.Machine

namespace Sys2Proof.Machine

/-! ## ROW (R112, R114, R115, R118) -/

section Row
variable {i : Issue} {o : RowOp} {s : State}

theorem exec_row (h : canIssue i (.row o) s = true) (hr : rowsReady i.comb (rowInputs o) s = true) :
    exec (.row i o) s = .next (afterStop (stopWith i (issued i (.row o) s) (runRow i o (issued i (.row o) s)))) :=
  congrArg Host.Outcome.next ((if_pos ⟨h, hr⟩).trans (issueAt_issued h _))

theorem runRow_faults (h : rowOpFaults i o s ≠ []) : runRow i o s = raiseFaults (rowOpFaults i o s) s := by
  unfold runRow
  dsimp only
  split
  next hnil => exact absurd hnil h
  next => rfl

/-- Row k of a ROW written in its mode. -/
def moveRow (o : RowOp) (k : Nat) (m : Memory) : Memory :=
  writeRow m (o.dst.toNat + k) (writeMode o.mode.toNat o.laneWidth.toNat (carried (readRow m (o.src.toNat + k)))
    (carried (readRow m (o.dst.toNat + k))))

/-- The rows of a ROW written one after another in comb p's scratchpad. -/
def moveRows (p : Nat) (o : RowOp) (s : State) : State :=
  (List.range o.count.toNat).foldl (fun s k => setComb p (fun c => { c with mem := moveRow o k c.mem }) s) s

/-- A ROW's reads are counted, and the poison that its source rows hold is reported. -/
def rowRead (i : Issue) (o : RowOp) (s : State) : State :=
  let reads := readRows (s.comb i.comb) (rowInputs o)
  noteAccesses i (rowBanks i o) (reportRows i.comb (operandIn (phasePos s).1 1 s) (fun _ => 0)
    (reads.take (rowSources o).length) (countReads i.comb reads s))

theorem rowRead_noted (hworn : Unworn i.comb s) : Noted i.comb s (rowRead i o s) :=
  ((countReads_noted hworn _).trans (reportRows_noted ..)).trans (noteAccesses_noted ..)

/-- A ROW whose reads find nothing wrong: reads are counted, rows move, their outputs with them, and its writes are noted. -/
theorem runRow_clean (h : rowOpFaults i o s = []) (hparity : i.parity = []) :
    runRow i o s = noteWrites i (.row o) (destWrites i o)
      (setComb i.comb (fun c => { c with rowOuts := movedOuts o c.rowOuts }) (moveRows i.comb o (rowRead i o s))) := by
  unfold runRow
  simp only [h, countParity_clean hparity]
  rw [hparity]
  rfl

/-- A clean ROW works on its comb alone: its rows move, and the accumulators stay. -/
theorem row_moves (h : rowOpFaults i o s = []) (hparity : i.parity = []) (hp : i.comb < s.combs.length) (hworn : Unworn i.comb s) :
    CombOnly i.comb s (runRow i o s) ∧
      ((runRow i o s).comb i.comb).mem = (List.range o.count.toNat).foldl (fun m k => moveRow o k m) (s.comb i.comb).mem ∧
      ((runRow i o s).comb i.comb).cells = (s.comb i.comb).cells := by
  have hread := rowRead_noted (o := o) hworn
  rw [runRow_clean h hparity]
  generalize rowRead i o s = u at hread ⊢
  have hup : i.comb < u.combs.length := hread.length.symm ▸ hp
  have hmoved := foldl_setMem (moveRow o) (List.range o.count.toNat) hup
  have honly : CombOnly i.comb u (moveRows i.comb o u) := CombOnly.foldl (fun s _ => setComb_combOnly i.comb _ s) _ u
  rw [← moveRows] at hmoved
  generalize moveRows i.comb o u = v at hmoved honly ⊢
  have hvp : i.comb < v.combs.length := honly.length.symm ▸ hup
  have hnote := noteWrites_noted i (.row o) (destWrites i o) (setComb i.comb (fun c => { c with rowOuts := movedOuts o c.rowOuts }) v)
  refine ⟨((hread.toCombOnly.trans honly).trans (setComb_combOnly ..)).trans hnote.toCombOnly, ?_, ?_⟩
  · rw [hnote.mem, setComb_self hvp, hmoved, hread.mem]
  · rw [hnote.cells, setComb_self hvp, hmoved, hread.cells]

end Row

/-- Settles O41: a ROW is its reads, its rows moved one after another and its notes; it works on its own comb. -/
theorem rowMovesRows : Obligations.RowMovesRows := by
  unfold Obligations.RowMovesRows
  intro i o s hissue hready u fs
  refine ⟨exec_row hissue hready, fun hfaults => ⟨runRow_faults hfaults, fun p => ?mem⟩, fun hfaults hparity hworn hp => ?clean⟩
  case mem => rw [raiseFaults_mem, issued_mem]
  case clean =>
    obtain ⟨honly, hmem, hcells⟩ := row_moves hfaults hparity ((issued_length i (.row o) s).symm ▸ hp) (Unworn.issued hworn _ _)
    obtain ⟨_, _, hcomb⟩ := issued_comb i (.row o) s i.comb
    refine ⟨runRow i o u, ?_, ?_, ?_, fun q hq => (honly.others q hq).trans (issued_comb_other i _ s hq), ?_, ?_, ?_, honly.tide⟩
    · rw [exec_row hissue hready, unstopped i u (by rw [honly.tide]; exact issued_running hissue)]
    · rw [hmem, issued_mem]
      rfl
    · rw [hcells, hcomb]
    · exact honly.shelf.trans (by simp [u])
    · exact honly.str.trans (by simp [u])
    · exact (issued_sameConfig ..).trans honly.sameConfig

end Sys2Proof.Machine

namespace Sys2Proof.Machine

/-! ## Reads of the shelf (R217)

A read of a unit counts what it finds in the record of its stack, and changes nothing else. -/

/-- Besides what the records of the stacks count, a state is as before. -/
structure StackCounted (s t : State) : Prop where
  rest : { t with shelf := s.shelf } = s
  mem : ∀ k, (t.stack k).mem = (s.stack k).mem

namespace StackCounted
variable {s t u : State}

theorem refl (s : State) : StackCounted s s := ⟨rfl, fun _ => rfl⟩

theorem trans (h : StackCounted s t) (k : StackCounted t u) : StackCounted s u where
  rest := by
    calc { u with shelf := s.shelf }
      _ = { ({ u with shelf := t.shelf } : State) with shelf := s.shelf } := rfl
      _ = { t with shelf := s.shelf } := by rw [k.rest]
      _ = s := h.rest
  mem j := (k.mem j).trans (h.mem j)

theorem combs (h : StackCounted s t) : t.combs = s.combs := (congrArg State.combs h.rest :)
theorem tide (h : StackCounted s t) : t.tide = s.tide := (congrArg State.tide h.rest :)
theorem img (h : StackCounted s t) : t.img = s.img := (congrArg State.img h.rest :)
theorem err (h : StackCounted s t) : t.err = s.err := (congrArg State.err h.rest :)

theorem sameConfig (h : StackCounted s t) : SameConfig s t :=
  ⟨(congrArg State.ident h.rest :), (congrArg State.cfg h.rest :), (congrArg State.live h.rest :), (congrArg State.flash h.rest :)⟩

end StackCounted

theorem countUnit_counted (j u : Nat) (rs : List WordRead) (s : State) : StackCounted s (countUnit j u rs s) := by
  unfold countUnit
  dsimp only
  split
  · exact .refl s
  · refine ⟨rfl, fun k => ?_⟩
    rw [setStack_stack]
    split <;> rfl

theorem readUnits_counted (j u n : Nat) (s : State) : StackCounted s (readUnits j u n s).2 :=
  foldl_inv (StackCounted s) _ (fun _ _ h => h.trans (countUnit_counted ..)) _ _ (.refl s)

/-! ## SHELF (R116, R217, R222 to R224) -/

theorem KeepsMemory.ofCombs {s t : State} (hcombs : t.combs = s.combs) (htide : t.tide = s.tide) : KeepsMemory s t :=
  ⟨by rw [hcombs], fun q => by rw [comb_congr hcombs], fun hl => by rw [htide]; exact hl⟩

theorem StackCounted.keepsMemory {s t : State} (h : StackCounted s t) : KeepsMemory s t := .ofCombs h.combs h.tide

theorem KeepsMemory.setComb (p : Nat) (f : Comb → Comb) (s : State) (hf : ∀ c, (f c).mem = c.mem) : KeepsMemory s (setComb p f s) :=
  ⟨setComb_length p f s, fun q => setComb_kept Comb.mem p f s q hf, fun hl => hl⟩

/-- A fold whose steps keep every scratchpad, whatever the data plane does, keeps them. -/
theorem KeepsMemory.folds {β : Type} {f : State → β → State} (h : ∀ s b, KeepsMemory s (f s b)) (l : List β) (s : State) :
    KeepsMemory s (l.foldl f s) := foldl_inv (KeepsMemory s) f (fun t b ht => ht.trans (h t b)) l s (.refl s)

theorem pendRow_keepsMemory (p ra : Nat) (data : Bytes) (cause : BitVec 8) (s : State) : KeepsMemory s (pendRow p ra data cause s) :=
  .setComb p _ s fun _ => rfl

theorem pendRows_keepsMemory (p : Nat) (row : Nat → Nat) (us : List (Option (List Word64))) (s : State) :
    KeepsMemory s (pendRows p row us s) := .folds (fun s _ => pendRow_keepsMemory p _ _ _ s) _ s

theorem chainRow_keepsMemory (p ra : Nat) (after : BitVec 22) (s : State) : KeepsMemory s (chainRow p ra after s) :=
  .setComb p _ s fun _ => rfl

theorem reportPoison_keepsMemory (r : PoisonReport) (s : State) : KeepsMemory s (reportPoison r s) := .ofCombs (by simp) (by simp)

theorem damageKv_keepsMemory (j u : Nat) (s : State) : KeepsMemory s (damageKv j u s) := by
  have hwithdrawn (xs : List Prefix) : KeepsMemory s (xs.foldl (fun s x => withdrawPrefix x.index s) s) :=
    .folds (fun s x => .ofCombs (by simp) (by simp)) xs s
  exact (hwithdrawn _).trans (.ofCombs rfl rfl)

theorem startPagein_keepsMemory (j v layer expert : Nat) (s : State) : KeepsMemory s (startPagein j v layer expert s) := by
  unfold startPagein
  split
  · split
    · exact .refl s
    · exact .ofCombs (by simp) (by simp)
  · exact .refl s

/-- A step that only some elements take. -/
theorem KeepsMemory.ite {c : Prop} [Decidable c] {s t : State} (h : KeepsMemory s t) : KeepsMemory s (if c then t else s) := by
  split
  · exact h
  · exact .refl s

theorem fillStream_keepsMemory (p : Nat) (o : ShelfOp) (parity next : Nat) (s : State) : KeepsMemory s (fillStream p o parity next s) := by
  unfold fillStream
  dsimp only
  refine .trans ?_ (.folds (fun s _ => chainRow_keepsMemory p _ _ s) _ _)
  refine .trans ?_ (pendRows_keepsMemory ..)
  refine .trans ?_ (.folds (fun s u => .ite (reportPoison_keepsMemory _ s)) _ _)
  exact (readUnits_counted ..).keepsMemory

theorem gatherPart_keepsMemory (p v next : Nat) (d : BitVec 256) (base : Nat) (x : GatherPart)
    (acc : List (Option (List Word64)) × State) : KeepsMemory acc.2 (gatherPart p v next d base x acc).2 := by
  unfold gatherPart
  cases x with
  | direct u n =>
    refine .trans ?_ (.folds (fun s w => .ite ?_) _ _)
    · exact (readUnits_counted ..).keepsMemory
    · exact (reportPoison_keepsMemory _ s).trans (damageKv_keepsMemory ..)
  | expert l e n =>
    dsimp only
    split
    · split
      · refine .trans ?_ (.ite (.ofCombs (by simp) (by simp)))
        refine .trans ?_ (.folds (fun s w => .ite (reportPoison_keepsMemory _ s)) _ _)
        refine .trans ?_ (readUnits_counted ..).keepsMemory
        exact .setComb _ _ _ fun _ => rfl
      · refine .trans ?_ (startPagein_keepsMemory ..)
        exact .setComb _ _ _ fun _ => rfl
    · exact .setComb _ _ _ fun _ => rfl

theorem fillGather_keepsMemory (p : Nat) (o : ShelfOp) (parity next : Nat) (g : GatherList) (s : State) :
    KeepsMemory s (fillGather p o parity next g s) := by
  unfold fillGather
  dsimp only
  refine .trans ?_ (pendRows_keepsMemory ..)
  split
  · exact .setComb _ _ _ fun _ => rfl
  · refine foldl_inv (fun acc : List (Option (List Word64)) × State => KeepsMemory s acc.2) _ (fun acc x h => h.trans (gatherPart_keepsMemory ..)) _ _ ?_
    exact .setComb _ _ _ fun _ => rfl

theorem countCombTransport_keepsMemory (p row k : Nat) {s : State} (hl : s.tide.dp ≠ .loading) :
    KeepsMemory s (countCombTransport p row k s) := by
  have hset : KeepsMemory s (setComb p (fun c => { c with transportErrors := c.transportErrors + k }) s) := .setComb p _ s fun _ => rfl
  have hcount := hset.trans (reportPoison_keepsMemory (poisonOf true 1 0 p row) _)
  unfold countCombTransport
  dsimp only
  split
  · exact .refl s
  · split
    · exact hcount.trans (declareFailed_comb_keepsMemory p (hcount.dp hl))
    · exact hcount

theorem countParity_keepsMemory (i : Issue) (rows : List Nat) {s : State} (hl : s.tide.dp ≠ .loading) :
    KeepsMemory s (countParity i rows s) := countCombTransport_keepsMemory _ _ _ hl

theorem noteAccesses_keepsMemory (i : Issue) (bs : List (Nat × Nat)) (s : State) : KeepsMemory s (noteAccesses i bs s) :=
  .setComb i.comb _ s fun _ => rfl

/-- A SHELF writes no row of any scratchpad at its issue. -/
theorem runShelf_mem (i : Issue) (o : ShelfOp) {u : State} (hl : u.tide.dp ≠ .loading) (q : Nat) :
    ((runShelf i o u).comb q).mem = (u.comb q).mem := by
  unfold runShelf
  dsimp only
  split
  next => -- a gather
    split
    next =>
      refine (KeepsMemory.trans ?_ (fillGather_keepsMemory ..)).mem q
      refine .trans ?_ (.ite (.ofCombs (by simp) (by simp)))
      have hread := (countReads_keepsMemory i.comb (readRows (u.comb i.comb) (gatherList i.comb o (heard i u)).rows) hl).trans
        (noteAccesses_keepsMemory i (bankCycles false (indexReads i (gatherList i.comb o (heard i u)))) _)
      exact hread.trans (countParity_keepsMemory _ _ (hread.dp hl))
    next => exact raiseFaults_mem ..
  next => -- a stream
    split
    next => exact (fillStream_keepsMemory ..).mem q
    next => exact raiseFaults_mem ..

/-! ### The rows of a stream become pending -/

/-- What is pending in comb p stays so. -/
def StaysPending (p : Nat) (s t : State) : Prop :=
  t.combs.length = s.combs.length ∧ ∀ r, rowPending (s.comb p) r = true → rowPending (t.comb p) r = true

theorem StaysPending.trans {p : Nat} {s t u : State} (h : StaysPending p s t) (k : StaysPending p t u) : StaysPending p s u :=
  ⟨k.1.trans h.1, fun r hr => k.2 r (h.2 r hr)⟩

theorem StaysPending.foldl {p : Nat} {β : Type} {f : State → β → State} (h : ∀ s b, StaysPending p s (f s b)) (l : List β) (s : State) :
    StaysPending p s (l.foldl f s) := foldl_inv (StaysPending p s) f (fun t b ht => ht.trans (h t b)) l s ⟨rfl, fun _ hr => hr⟩

theorem StaysPending.setComb {p : Nat} {f : Comb → Comb} (hf : ∀ c r, rowPending c r = true → rowPending (f c) r = true) (s : State) :
    StaysPending p s (setComb p f s) := by
  refine ⟨setComb_length p f s, fun r hr => ?_⟩
  rw [setComb_comb]
  split
  · exact hf _ r hr
  · exact hr

theorem pendRow_staysPending (p ra : Nat) (data : Bytes) (cause : BitVec 8) (s : State) :
    StaysPending p s (pendRow p ra data cause s) := by
  refine .setComb (fun c r hr => ?_) s
  obtain ⟨x, hx, rfl⟩ := rowPending_iff.mp hr
  refine rowPending_iff.mpr ?_
  by_cases h : x.ra.toNat = ra
  · exact ⟨_, List.mem_append_right _ (List.mem_singleton_self _), by simp [← h]⟩
  · exact ⟨x, List.mem_append_left _ (List.mem_filter.mpr ⟨hx, decide_eq_true h⟩), rfl⟩

theorem chainRow_staysPending (p ra : Nat) (after : BitVec 22) (s : State) : StaysPending p s (chainRow p ra after s) := by
  refine .setComb (fun c r hr => ?_) s
  obtain ⟨x, hx, rfl⟩ := rowPending_iff.mp hr
  refine rowPending_iff.mpr ⟨_, List.mem_map_of_mem hx, ?_⟩
  split <;> rfl

/-- Rows that become pending one after another are all pending at the end. -/
theorem pended_rows {p : Nat} {β : Type} (ra : β → Nat) (data : β → Bytes) (cause : β → BitVec 8) {l : List β}
    (hrows : ∀ b ∈ l, ra b < 2 ^ 22) {s : State} (hp : p < s.combs.length) :
    ∀ b ∈ l, rowPending ((l.foldl (fun s b => pendRow p (ra b) (data b) (cause b) s) s).comb p) (ra b) = true := by
  induction l generalizing s with
  | nil => simp
  | cons x l ih =>
    obtain ⟨hx, hrows⟩ := List.forall_mem_cons.mp hrows
    have hlater := StaysPending.foldl (p := p) (fun s b => pendRow_staysPending p (ra b) (data b) (cause b) s) l
      (pendRow p (ra x) (data x) (cause x) s)
    intro b hb
    rw [List.foldl_cons]
    rcases List.mem_cons.mp hb with rfl | hb
    · exact hlater.2 _ (pendRow_pends hp hx ..)
    · exact ih hrows (by rw [pendRow, setComb_length]; exact hp) b hb

theorem unitsOf_length (n : Nat) (ws : List Word64) : (unitsOf n ws).length = n := by simp [unitsOf]

/-- Where the rows of a stream stand is read from the combs and the image. -/
theorem streamRow_congr {s t : State} (hcombs : t.combs = s.combs) (himg : t.img = s.img) (p n k : Nat) :
    streamRow p n k t = streamRow p n k s := by
  have hops : combOps p t = combOps p s := by
    unfold combOps vcombOn
    rw [himg]
  rw [streamRow, comb_congr hcombs, hops, streamRow]

theorem mem_shelfRows {p : Nat} {o : ShelfOp} {parity r : Nat} {s : State} (ho : o.gather = false) : r ∈ shelfRows p o parity s ↔
    ∃ k < o.count.toNat, r = streamRow p o.desc.toNat k s + setOffset (descriptorAt (s.comb p) o.desc.toNat) parity := by
  simp [shelfRows, ho, eq_comm]

/-- Each row of a stream that lies in the scratchpad becomes pending. -/
theorem fillStream_pends {p : Nat} {o : ShelfOp} {parity : Nat} {s : State} (next : Nat) (hp : p < s.combs.length) (ho : o.gather = false)
    (hrows : ∀ r ∈ shelfRows p o parity s, r < 2 ^ 22) :
    ∀ r ∈ shelfRows p o parity s, rowPending ((fillStream p o parity next s).comb p) r = true := by
  have hread := readUnits_counted (dieOf p) o.addr.toNat (8 * o.count.toNat) s
  unfold fillStream
  simp only [streamRow_congr hread.combs hread.img]
  generalize readUnits (dieOf p) o.addr.toNat (8 * o.count.toNat) s = x at hread ⊢
  intro r hr
  obtain ⟨k, hk, rfl⟩ := (mem_shelfRows ho).mp hr
  refine (StaysPending.foldl (fun s k => chainRow_staysPending p _ _ s) _ _).2 _ ?_
  refine pended_rows (fun k => streamRow p o.desc.toNat k s + setOffset (descriptorAt (s.comb p) o.desc.toNat) parity) _ _ ?_ ?_ k ?_
  · intro k hk
    exact hrows _ ((mem_shelfRows ho).mpr ⟨k, by simpa [unitsOf_length] using hk, rfl⟩)
  · refine hp.trans_eq (Eq.symm ((KeepsMemory.length ?_).trans (congrArg List.length hread.combs)))
    exact .folds (fun s u => .ite (reportPoison_keepsMemory _ s)) _ _
  · simpa [unitsOf_length] using hk

section Shelf
variable {i : Issue} {o : ShelfOp} {s : State}

theorem exec_shelf_outside (h : canIssue i (.shelf o) s = true) (hr : rowsReady i.comb (indexRows i.comb o s) s = true)
    (hout : shelfOutside i.comb o s = true) : exec (.shelf i o) s = .fault .shelfAddressOutside := (if_pos ⟨h, hr⟩).trans (if_pos hout)

theorem exec_shelf (h : canIssue i (.shelf o) s = true) (hr : rowsReady i.comb (indexRows i.comb o s) s = true)
    (hin : shelfOutside i.comb o s = false) :
    exec (.shelf i o) s = .next (afterStop (stopWith i (issued i (.shelf o) s) (runShelf i o (issued i (.shelf o) s)))) :=
  ((if_pos ⟨h, hr⟩).trans (if_neg (ne_true_of_eq_false hin))).trans (congrArg Host.Outcome.next (issueAt_issued h _))

theorem runShelf_stream (ho : o.gather = false) (hdest : destFaults i 2 (shelfRows i.comb o ((phaseParity s + 1) % 2) s) = []) :
    runShelf i o s = fillStream i.comb o ((phaseParity s + 1) % 2) (followingPhase s) s := by
  simp [runShelf, ho, hdest]

end Shelf

/-! ### A row lands (R116, R222) -/

theorem exec_rowLands {p : Nat} {ra : BitVec 22} {s : State} (ha : s.awake = true) (hrun : s.tide.dp = .running)
    (hland : canLand (s.comb p) ra = true) (parity : List Nat) :
    exec (.rowLands p ra parity) s = .next (afterStop (spoilRow p ra parity (rowProgress p (landRow p ra.toNat s)))) :=
  congrArg Host.Outcome.next (if_pos ⟨ha, hrun, hland⟩)

theorem canLand_of_complete {c : Comb} {ra : BitVec 22} {x : Pending} (hx : c.pending.find? (fun y => y.ra.toNat = ra.toNat) = some x)
    (hdata : x.data.length = 576) (hafter : ∀ r, x.after = some r → rowPending c r.toNat = false) : canLand c ra = true := by
  have hra : x.ra = ra := BitVec.eq_of_toNat_eq (of_decide_eq_true (List.find?_some hx :))
  refine List.any_eq_true.mpr ⟨x, List.mem_of_find?_eq_some hx, ?_⟩
  cases h : x.after with
  | none => simp [hra, hdata]
  | some r => simp [hra, hdata, hafter r h]

/-- The comb of a row that lands. -/
theorem landRow_comb {p ra : Nat} {s : State} {x : Pending} (hp : p < s.combs.length)
    (hx : (s.comb p).pending.find? (fun y => y.ra.toNat = ra) = some x) :
    (landRow p ra s).comb p = { s.comb p with mem := Memory.write (s.comb p).mem (ra * 576) x.data
                                              pending := (s.comb p).pending.filter fun y => y.ra.toNat ≠ ra } := by
  rw [landRow, setComb_self hp, hx]

/-- Without a parity error a row stays as it landed. -/
theorem spoilRow_clean (p : Nat) (ra : BitVec 22) (s : State) : spoilRow p ra [] s = s := by
  have hcomb : setComb p (fun c => { c with mem := spoiled c.mem [] }) s = s := by
    have hid : upd s.combs p (fun c => { c with mem := spoiled c.mem [] }) = s.combs := List.modify_id _ _
    rw [setComb, hid]
  exact hcomb

/-- Settles O44: a SHELF's fill leaves the scratchpads, and pends its rows one after another; a landing is a write of its comb. -/
theorem shelfRowsArePendingUntilTheyLand : Obligations.ShelfRowsArePendingUntilTheyLand := by
  unfold Obligations.ShelfRowsArePendingUntilTheyLand
  refine ⟨fun i o s hissue hready => ⟨exec_shelf_outside hissue hready, fun hin => ?issue⟩,
    fun p ra x s ha hrun hp hx hdata hafter parity => ?lands⟩
  case issue =>
    intro u rows
    have hloading : u.tide.dp ≠ .loading := by rw [issued_running hissue]; decide
    refine ⟨exec_shelf hissue hready hin, fun p => ?_, fun ho hp hdest => ?_⟩
    · rw [runShelf_mem i o hloading, issued_mem]
    · rw [runShelf_stream ho hdest]
      exact fillStream_pends _ ((issued_length ..).symm ▸ hp) ho (rows_of_destFaults hdest)
  case lands =>
    have hexec := exec_rowLands ha hrun (canLand_of_complete hx hdata hafter)
    have hcomb := landRow_comb hp hx
    refine ⟨rowProgress p (landRow p ra.toNat s), hexec parity, ?_, ?_, fun y hy => ?_, fun q hq => ?_, rfl, rfl⟩
    · rintro rfl
      rw [hexec, spoilRow_clean]
      exact congrArg Host.Outcome.next (afterStop_running hrun)
    · exact congrArg Comb.mem hcomb
    · have hy : y ∈ ((landRow p ra.toNat s).comb p).pending := hy
      rw [hcomb] at hy
      exact fun h => of_decide_eq_true (List.mem_filter.mp hy).2 (congrArg BitVec.toNat h)
    · exact (setComb_combOnly p _ s).others q hq

end Sys2Proof.Machine

namespace Sys2Proof.Machine

/-! ## Mends (R126, R130, R302) -/

/-- A wait for a bank is counted in its comb's record, and nowhere else. -/
theorem countWait_comb (p n : Nat) (s : State) (q : Nat) :
    ∃ w, (countWait p n s).comb q = { s.comb q with record := { (s.comb q).record with bankWait := w } } := by
  unfold countWait
  split
  · exact ⟨_, rfl⟩
  · rw [setComb_comb]
    split
    · exact ⟨_, rfl⟩
    · exact ⟨_, rfl⟩

theorem waitForBank_comb (p ra : Nat) (s : State) (q : Nat) :
    ∃ w, (waitForBank p ra s).comb q = { s.comb q with record := { (s.comb q).record with bankWait := w } } := countWait_comb ..

theorem waitForBank_combOnly (p ra : Nat) (s : State) : CombOnly p s (waitForBank p ra s) := (countWait_noted ..).toCombOnly

/-- A row rewritten from its backing copy, which scrub and mend need not look at again. -/
def mendedRow (ra : BitVec 22) (ws : List Word64) (c : Comb) : Comb :=
  { c with mem := writeRow c.mem ra.toNat ws, mends := c.mends ++ [ra], mendQueue := c.mendQueue.filter (· ≠ ra)
           scrubQueue := c.scrubQueue.filter (· ≠ ra) }

/-- What a mend leaves as it was: the other combs, the memories of the stacks, the configuration and the tide. -/
structure MendKeeps (p : Nat) (s t : State) : Prop where
  others : ∀ q, q ≠ p → t.comb q = s.comb q
  stackMem : ∀ k, (t.stack k).mem = (s.stack k).mem
  config : SameConfig s t
  tide : t.tide = s.tide

theorem StackCounted.mendKeeps {p : Nat} {s t u : State} (h : StackCounted s t) (k : CombOnly p t u) : MendKeeps p s u where
  others q hq := (k.others q hq).trans (comb_congr h.combs q)
  stackMem j := by rw [State.stack, k.shelf, ← h.mem j, State.stack]
  config := h.sameConfig.trans k.sameConfig
  tide := k.tide.trans h.tide

/-- A mend is counted, and that leaves everything else. -/
theorem MendKeeps.countMend {p : Nat} {s t : State} (h : MendKeeps p s t) : MendKeeps p s (countMend t) := { h with }

section Mend
variable {p : Nat} {s : State} {i : Image}

/-- The conditions of a mend: the firmware runs, and the comb is good and runs a virtual comb of the image. -/
def mendable (p : Nat) (s : State) : Prop := s.awake = true ∧ p < 96 ∧ (s.comb p).good = true ∧ mapped p s = true

theorem exec_mend_none (hi : s.img.image = none) (t : MendTarget) : exec (.mend p t) s = .next s := by
  change execMend p t s = _
  simp only [execMend, hi]

theorem exec_mend_row {u : Nat} {ra : BitVec 22} (hi : s.img.image = some i) (hm : mendable p s)
    (hu : backingUnit i s.img.place (vcombOn p s) ra.toNat = some u) (hbad : (readRow (s.comb p).mem ra.toNat).any (·.poison) = true) :
    exec (.mend p (.row ra)) s = .next
      (let r := readUnits (dieOf p) u 8 s
       if r.1.any (·.2) then r.2 else countMend (waitForBank p ra.toNat (setComb p (mendedRow ra r.1) r.2))) := by
  change execMend p (.row ra) s = _
  simp only [execMend, hi, hu, hbad, if_true]
  exact congrArg Host.Outcome.next (if_neg (not_not_intro hm))

theorem exec_mend_readable {ra : BitVec 22} (hgood : (readRow (s.comb p).mem ra.toNat).any (·.poison) = false) :
    exec (.mend p (.row ra)) s = .next s := by
  change execMend p (.row ra) s = _
  simp only [execMend, hgood, Bool.false_eq_true, if_false]
  cases s.img.image with
  | none => rfl
  | some i =>
    dsimp only
    cases backingUnit i s.img.place (vcombOn p s) ra.toNat with
    | none => simp
    | some u => simp

theorem mendRow_mends {ra : BitVec 22} {v : State} (hv : StackCounted s v) (hp : p < s.combs.length) (ws : List Word64) :
    let t := countMend (waitForBank p ra.toNat (setComb p (mendedRow ra ws) v))
    MendKeeps p s t ∧ (t.comb p).mem = writeRow (s.comb p).mem ra.toNat ws ∧ (t.comb p).mends = (s.comb p).mends ++ [ra] ∧
      t.err.record.mendsTotal = satInc s.err.record.mendsTotal := by
  intro t
  have hset := setComb_self (hv.combs.symm ▸ hp) (mendedRow ra ws)
  rw [comb_congr hv.combs] at hset
  obtain ⟨w, hw⟩ := waitForBank_comb p ra.toNat (setComb p (mendedRow ra ws) v) p
  have hcomb : t.comb p = _ := hw
  rw [hset] at hcomb
  have honly := (setComb_combOnly p (mendedRow ra ws) v).trans (waitForBank_combOnly p ra.toNat _)
  refine ⟨(hv.mendKeeps honly).countMend, by rw [hcomb]; rfl, by rw [hcomb]; rfl, ?_⟩
  have herr : (waitForBank p ra.toNat (setComb p (mendedRow ra ws) v)).err = s.err := by simp [hv.err]
  exact congrArg satInc (by rw [herr])

/-! ### Program memory (R130) -/

/-- The place of a word group in the backing copy's program memory and in the comb's, and its length (R130). -/
structure CodeGroup where
  byte : Nat
  slot : Nat
  words : Nat

/-- The words of the image that stand in a group's units, as the copy gives them, and the state after the read. -/
def copyRead (i : Image) (p : Nat) (g : CodeGroup) (s : State) : List Word64 × State :=
  let at_ := codeOffset i s.img.place (vcombOn p s) + g.byte
  readUnits (dieOf p) (codeUnit i s.img.place (dieOf p) + at_ / 64) ((at_ % 64 + 8 * g.words + 63) / 64) s

/-- The words of a group among those that its units hold. -/
def copyWords (i : Image) (p : Nat) (g : CodeGroup) (s : State) : List Word64 :=
  wordsOf (((bytesOf (copyRead i p g s).1).drop ((codeOffset i s.img.place (vcombOn p s) + g.byte) % 64)).take (8 * g.words))

theorem mendFrom_eq (i : Image) (p : Nat) (g : CodeGroup) (s : State) : mendFrom i p g.byte g.slot g.words s =
    if (copyRead i p g s).1.any (·.2) then (copyRead i p g s).2 else mendCode p g.slot g.words (copyWords i p g s) (copyRead i p g s).2 := rfl

theorem copyRead_counted (i : Image) (p : Nat) (g : CodeGroup) (s : State) : StackCounted s (copyRead i p g s).2 := readUnits_counted ..

theorem mendCode_reads {n slot : Nat} {ws : List Word64} (h : (readSlots (s.comb p).code slot n).any (·.uncorrectable) = false) :
    mendCode p slot n ws s = s := by
  refine if_pos (List.countP_eq_zero.mpr ?_)
  simpa using h

/-- A word group rewritten in the program memory, bad words counted. -/
def mendedCode (slot bad : Nat) (ws : List Word64) (c : Comb) : Comb :=
  { c with code := writeSlots c.code slot ws
           record := { c.record with eccUncorrectable := satAdd c.record.eccUncorrectable bad } }

theorem mendCode_unreadable {n slot : Nat} (ws : List Word64) (h : (readSlots (s.comb p).code slot n).any (·.uncorrectable) = true) :
    ∃ bad, mendCode p slot n ws s = countMend (setComb p (mendedCode slot bad ws) s) := by
  refine ⟨_, if_neg fun hzero => ?_⟩
  obtain ⟨w, hw, hu⟩ := List.any_eq_true.mp h
  exact List.countP_eq_zero.mp hzero w hw hu

theorem mendCode_mends {v : State} (hv : StackCounted s v) (hp : p < s.combs.length) (slot bad : Nat) (ws : List Word64) :
    let t := countMend (setComb p (mendedCode slot bad ws) v)
    MendKeeps p s t ∧ (t.comb p).code = writeSlots (s.comb p).code slot ws ∧ (t.comb p).mem = (s.comb p).mem ∧
      t.err.record.mendsTotal = satInc s.err.record.mendsTotal := by
  intro t
  have hcomb : t.comb p = _ := setComb_self (hv.combs.symm ▸ hp) (mendedCode slot bad ws)
  rw [comb_congr hv.combs] at hcomb
  refine ⟨(hv.mendKeeps (setComb_combOnly p (mendedCode slot bad ws) v)).countMend, by rw [hcomb]; rfl, by rw [hcomb]; rfl, ?_⟩
  exact congrArg satInc (by simp [hv.err])

theorem exec_mend_program {pc : BitVec 16} (hi : s.img.image = some i) (hm : mendable p s)
    (hpc : pc.toNat < (programWords i (vcombOn p s)).length) :
    exec (.mend p (.program pc)) s = .next (mendFrom i p (16 * pc.toNat) (instructionSlot pc.toNat) 2 s) := by
  change execMend p (.program pc) s = _
  simp only [execMend, hi]
  exact congrArg Host.Outcome.next ((if_neg (not_not_intro hm)).trans (if_pos hpc))

theorem exec_mend_descriptor {n : BitVec 10} (hi : s.img.image = some i) (hm : mendable p s)
    (hn : n.toNat < (descriptorWords i (vcombOn p s)).length) :
    exec (.mend p (.descriptor n)) s =
      .next (mendFrom i p (16 * (programWords i (vcombOn p s)).length + 32 * n.toNat) (descriptorSlot n.toNat) 4 s) := by
  change execMend p (.descriptor n) s = _
  simp only [execMend, hi]
  exact congrArg Host.Outcome.next ((if_neg (not_not_intro hm)).trans (if_pos hn))

end Mend

/-! ## Scrub (R127, R128, R311) -/

section Scrub
variable {p : Nat} {ra : BitVec 22} {s : State}

/-- A scrubbed row of a comb: what was corrected is written back, what cannot be as the poison word, and both are counted. -/
def scrubbed (ra : BitVec 22) (rs : List WordRead) (c : Comb) : Comb :=
  { c with
    mem := if rs.any (fun w => w.corrected || w.poison) then writeRow c.mem ra.toNat (carried rs) else c.mem
    scrubQueue := c.scrubQueue.filter (· ≠ ra)
    record := { c.record with eccCorrected := satAdd c.record.eccCorrected (rs.countP (·.corrected))
                              eccUncorrectable := satAdd c.record.eccUncorrectable (rs.countP (·.uncorrectable))
                              scrubRows := c.record.scrubRows + 1 } }

/-- The scrub of a row: its words written back, its mend queued where it does not read, its wait for the bank counted. -/
def scrubRow (p : Nat) (ra : BitVec 22) (s : State) : State :=
  let rs := readRow (s.comb p).mem ra.toNat
  let u := setComb p (scrubbed ra rs) s
  waitForBank p ra.toNat (if rs.any (·.uncorrectable) then queueMend p ra u else u)

theorem exec_scrubRow (ha : s.awake = true) (hp : p < 96) (hg : (s.comb p).good = true) (hr : rowIndex ra.toNat < 10240) :
    exec (.scrubRow p ra) s = .next (afterStop
      (if (readRow (s.comb p).mem ra.toNat).any (·.uncorrectable) && decide (2 ≤ (s.comb p).mends.count ra)
       then declareFailed (.comb p) (scrubRow p ra s) else scrubRow p ra s)) :=
  congrArg Host.Outcome.next (if_pos ⟨ha, hp, hg, hr⟩)

theorem queueMend_combOnly (p : Nat) (ra : BitVec 22) (s : State) : CombOnly p s (queueMend p ra s) := by
  unfold queueMend
  split
  · exact setComb_combOnly ..
  · exact .refl p s

/-- A queued mend changes the mend queue alone, and stands in it. -/
theorem queueMend_comb (hp : p < s.combs.length) (ra : BitVec 22) :
    ∃ q, (queueMend p ra s).comb p = { s.comb p with mendQueue := q } ∧ (resident p ra.toNat s = true → ra ∈ q) := by
  unfold queueMend
  split
  next => exact ⟨_, setComb_self hp _, fun _ => List.mem_append_right _ (List.mem_singleton_self ra)⟩
  next h => exact ⟨_, rfl, fun hr => absurd hr h⟩

theorem scrubRow_combOnly (p : Nat) (ra : BitVec 22) (s : State) : CombOnly p s (scrubRow p ra s) := by
  refine (CombOnly.trans ?_ (waitForBank_combOnly ..))
  split
  · exact (setComb_combOnly ..).trans (queueMend_combOnly ..)
  · exact setComb_combOnly ..

theorem scrubRow_comb (hp : p < s.combs.length) (ra : BitVec 22) :
    let rs := readRow (s.comb p).mem ra.toNat
    ∃ q w, (scrubRow p ra s).comb p =
        { scrubbed ra rs (s.comb p) with mendQueue := q, record := { (scrubbed ra rs (s.comb p)).record with bankWait := w } } ∧
      (rs.any (·.uncorrectable) = true → resident p ra.toNat s = true → ra ∈ q) := by
  intro rs
  have hset := setComb_self hp (scrubbed ra rs)
  obtain ⟨q, hq, hmem⟩ := queueMend_comb (s := setComb p (scrubbed ra rs) s) (by simpa using hp) ra
  unfold scrubRow
  dsimp only
  split
  next =>
    obtain ⟨w, hw⟩ := waitForBank_comb p ra.toNat (queueMend p ra (setComb p (scrubbed ra rs) s)) p
    rw [hq, hset] at hw
    exact ⟨q, w, hw, fun _ => hmem⟩
  next h =>
    obtain ⟨w, hw⟩ := waitForBank_comb p ra.toNat (setComb p (scrubbed ra rs) s) p
    rw [hset] at hw
    exact ⟨_, w, hw, fun hu => absurd hu h⟩

theorem queueMend_err (p : Nat) (ra : BitVec 22) (s : State) : (queueMend p ra s).err = s.err := by
  unfold queueMend
  split <;> rfl

theorem scrubRow_err (p : Nat) (ra : BitVec 22) (s : State) : (scrubRow p ra s).err = s.err := by
  unfold scrubRow
  dsimp only
  split
  · simp [queueMend_err]
  · simp

/-- A scrub changes its comb, and nothing else of the state. -/
theorem scrubRow_rest (p : Nat) (ra : BitVec 22) (s : State) : { scrubRow p ra s with combs := s.combs } = s := by
  calc { scrubRow p ra s with combs := s.combs }
    _ = { scrubRow p ra s with combs := s.combs, err := s.err } := by rw [← scrubRow_err p ra s]
    _ = s := (scrubRow_combOnly p ra s).rest

end Scrub

/-- Settles O46: a mend rewrites what does not read from units whose reads are counted; a scrub works on its own comb. -/
theorem mendAndScrubRestoreRows : Obligations.MendAndScrubRestoreRows := by
  unfold Obligations.MendAndScrubRestoreRows
  refine ⟨fun p ra s i u hi ha h96 hp hg hm hu hbad => ?row, fun p ra s h => ?stays, fun p s i hi ha h96 hp hg hm => ?code,
    fun p ra s ha h96 hp hg hr => ?scrub⟩
  case row =>
    intro r
    have hexec := exec_mend_row hi ⟨ha, h96, hg, hm⟩ hu hbad
    have hread := readUnits_counted (dieOf p) u 8 s
    refine ⟨fun hpoison => ⟨hexec.trans (congrArg Host.Outcome.next (if_pos hpoison)), hread.combs⟩, fun hclean => ?_⟩
    obtain ⟨hkeeps, hmem, hmends, htotal⟩ := mendRow_mends (ra := ra) hread hp r.1
    exact ⟨_, hexec.trans (congrArg Host.Outcome.next (if_neg (ne_true_of_eq_false hclean))), hmem, hmends, htotal,
      hkeeps.others, hkeeps.stackMem, hkeeps.config, hkeeps.tide⟩
  case stays => exact h.elim (fun hnone => exec_mend_none hnone _) exec_mend_readable
  case code =>
    intro instructions x hx at_ n r unreadable
    have hread := copyRead_counted i p ⟨x.2.1, x.2.2.1, n⟩ s
    have hexec : exec (.mend p x.1) s = .next (mendFrom i p x.2.1 x.2.2.1 n s) := by
      rcases hx with ⟨pc, hpc, rfl⟩ | ⟨k, hk, rfl⟩
      · exact exec_mend_program hi ⟨ha, h96, hg, hm⟩ hpc
      · exact exec_mend_descriptor hi ⟨ha, h96, hg, hm⟩ hk
    rw [hexec, mendFrom_eq i p ⟨x.2.1, x.2.2.1, n⟩ s]
    have hreads : (readSlots (r.2.comb p).code x.2.2.1 n).any (·.uncorrectable) = unreadable := by
      rw [show r.2.comb p = s.comb p from comb_congr hread.combs p]
    refine ⟨fun h => ⟨congrArg Host.Outcome.next ?_, hread.combs⟩, fun hclean hbad => ?_⟩
    · cases hpoison : r.1.any (·.2) with
      | true => exact if_pos hpoison
      | false =>
        have hgood := h.resolve_left (ne_true_of_eq_false hpoison)
        exact (if_neg (ne_true_of_eq_false hpoison)).trans (mendCode_reads (hreads.trans hgood))
    · obtain ⟨bad, hmend⟩ := mendCode_unreadable (copyWords i p ⟨x.2.1, x.2.2.1, n⟩ s) (hreads.trans hbad)
      obtain ⟨hkeeps, hcode, hmem, htotal⟩ := mendCode_mends hread hp x.2.2.1 bad (copyWords i p ⟨x.2.1, x.2.2.1, n⟩ s)
      exact ⟨_, congrArg Host.Outcome.next ((if_neg (ne_true_of_eq_false hclean)).trans hmend), hcode, hmem, htotal, hkeeps.others,
        hkeeps.config, hkeeps.tide⟩
  case scrub =>
    intro rs again
    obtain ⟨q, w, hcomb, hqueue⟩ := scrubRow_comb hp ra
    have honly := scrubRow_combOnly p ra s
    refine ⟨scrubRow p ra s, exec_scrubRow ha h96 hg hr, fun hagain hrun => ?_, by rw [hcomb]; rfl, by rw [hcomb]; rfl, by rw [hcomb]; rfl,
      fun hu hres => ?_, honly.others, scrubRow_rest p ra s⟩
    · have hnot : ¬again = true := ne_true_of_eq_false hagain
      rw [exec_scrubRow ha h96 hg hr]
      exact congrArg Host.Outcome.next ((congrArg afterStop (if_neg hnot)).trans (afterStop_running (by rw [honly.tide]; exact hrun)))
    · rw [hcomb]
      exact hqueue hu hres

end Sys2Proof.Machine

/-! # Every step keeps every memory in its canonical form

One lemma for each operation, in the order of the model's definitions: it keeps every memory in canonical form. The
proof of an operation's lemma names the operations that it is composed of; where it branches, each branch. -/

namespace Sys2Proof.Machine

section
variable {s t : State}

/-! ## What holds of every composition -/

theorem ite_memoryWf {c : Prop} [Decidable c] (hs : s.memoryWf) (ht : t.memoryWf) : (if c then s else t).memoryWf := by
  split
  · exact hs
  · exact ht

/-- A branch that stops at a state from which the other one goes on. -/
theorem unless_memoryWf {c : Prop} [Decidable c] (hs : s.memoryWf) (ht : s.memoryWf → t.memoryWf) :
    (if c then s else t).memoryWf := ite_memoryWf hs (ht hs)

/-- A branch that goes on from the state at which the other one stops. -/
theorem when_memoryWf {c : Prop} [Decidable c] (ht : t.memoryWf) (hs : t.memoryWf → s.memoryWf) :
    (if c then s else t).memoryWf := ite_memoryWf (hs ht) ht

theorem snd_ite_memoryWf {α : Type} {c : Prop} [Decidable c] {x y : α × State} (hx : x.2.memoryWf) (hy : y.2.memoryWf) :
    (if c then x else y).2.memoryWf := by
  split
  · exact hx
  · exact hy

theorem decision_ite_memoryWf {c : Prop} [Decidable c] {x y : Decision} (hx : x.state.memoryWf) (hy : y.state.memoryWf) :
    (if c then x else y).state.memoryWf := by
  split
  · exact hx
  · exact hy

theorem answer_ite_memoryWf {c : Prop} [Decidable c] {x y : Answer} (hx : x.state.memoryWf) (hy : y.state.memoryWf) :
    (if c then x else y).state.memoryWf := by
  split
  · exact hx
  · exact hy

theorem foldl_memoryWf {β : Type} {f : State → β → State} {l : List β} (hf : ∀ s b, s.memoryWf → (f s b).memoryWf)
    (h : s.memoryWf) : (l.foldl f s).memoryWf := foldl_inv State.memoryWf f hf l s h

theorem snd_foldl_memoryWf {α β : Type} {f : α × State → β → α × State} {l : List β} {x : α × State}
    (hf : ∀ x b, x.2.memoryWf → (f x b).2.memoryWf) (h : x.2.memoryWf) : (l.foldl f x).2.memoryWf :=
  foldl_inv (fun x => x.2.memoryWf) f hf l x h

theorem decision_foldl_memoryWf {β : Type} {f : Decision → β → Decision} {l : List β} {d : Decision}
    (hf : ∀ d b, d.state.memoryWf → (f d b).state.memoryWf) (h : d.state.memoryWf) : (l.foldl f d).state.memoryWf :=
  foldl_inv (fun d => d.state.memoryWf) f hf l d h

theorem of_eq_pair_memoryWf {α : Type} {a : α} {x : α × State} (h : x.2.memoryWf) (hx : x = (a, t)) :
    t.memoryWf := by
  rw [hx] at h
  exact h

/-- Memories are in the combs and the shelf alone. -/
theorem groups_memoryWf {i c l f m o p d g b v r e n w k q u} (h : s.memoryWf) :
    (State.mk i c l f m o p d g s.combs b s.shelf v r e n w k q u).memoryWf := h

/-- In the shelf, memories are in the stacks alone. -/
theorem shelf_memoryWf {i c l f m o p d g b v r e n w k q u x y z a} (h : s.memoryWf) :
    (State.mk i c l f m o p d g s.combs b ⟨s.shelf.stk, x, y, z, a⟩ v r e n w k q u).memoryWf := h

/-- What an outcome goes on with has its memories in canonical form. -/
def NextMemoryWf (o : Out) : Prop := ∀ t, o = .next t → t.memoryWf

theorem nextMemoryWf_next (h : s.memoryWf) : NextMemoryWf (.next s) := fun _ ht => Host.Outcome.next.inj ht ▸ h

theorem nextMemoryWf_fault {f : Fault} : NextMemoryWf (.fault f) := fun _ ht => by cases ht

theorem nextMemoryWf_ite {c : Prop} [Decidable c] {o p : Out} (ho : NextMemoryWf o) (hp : NextMemoryWf p) :
    NextMemoryWf (if c then o else p) := by
  split
  · exact ho
  · exact hp

/-- The effect of a request under an opcode keeps the memories in canonical form. -/
def Op.KeepsMemory (op : Op) : Prop := ∀ r s, s.memoryWf → (op.run r s).state.memoryWf

/-- The commit of a command under presence keeps the memories in canonical form. -/
def PresenceOp.KeepsMemory (p : PresenceOp) : Prop := ∀ c s, s.memoryWf → (p.commit c s).state.memoryWf

/-! ## Combs and memories -/

theorem map_combs_wf {f : Comb → Comb} {l : List Comb} (hf : ∀ c : Comb, c.memoryWf → (f c).memoryWf)
    (h : ∀ c ∈ l, c.memoryWf) : ∀ c ∈ l.map f, c.memoryWf := by
  intro c hc
  obtain ⟨b, hb, rfl⟩ := List.mem_map.mp hc
  exact hf b (h b hb)

theorem zipIdx_map_combs_wf {f : Comb × Nat → Comb} {l : List Comb}
    (hf : ∀ x : Comb × Nat, x.1.memoryWf → (f x).memoryWf) (h : ∀ c ∈ l, c.memoryWf) : ∀ c ∈ l.zipIdx.map f, c.memoryWf := by
  intro c hc
  obtain ⟨x, hx, rfl⟩ := List.mem_map.mp hc
  exact hf x (h x.1 (List.fst_mem_of_mem_zipIdx hx))

theorem map_stacks_wf {f : Stack → Stack} {l : List Stack} (hf : ∀ k, (f k).mem = k.mem)
    (h : ∀ k ∈ l, Memory.wf k.mem = true) : ∀ k ∈ l.map f, Memory.wf k.mem = true := by
  intro k hk
  obtain ⟨b, hb, rfl⟩ := List.mem_map.mp hk
  rw [hf b]
  exact h b hb

theorem spoiled_wf {m : Memory} (h : Memory.wf m = true) (bad : List (BitVec 22 × Nat)) : Memory.wf (spoiled m bad) = true :=
  foldl_inv (fun m => Memory.wf m = true) _ (fun _ _ hm => writeSlots_wf hm _ _) _ _ h

theorem filledScratchpad_wf (i : Image) (place : List Nat) (v : Nat) (stack : Memory) :
    Memory.wf (filledScratchpad i place v stack) = true := by
  refine foldl_inv (fun m => Memory.wf m = true) _ (fun m n hm => ?_) _ _ Memory.wf_nil
  dsimp only
  split
  · exact writeSlots_wf hm _ _
  · exact hm

/-! ## The shared operations -/

theorem send_memoryWf {x} (h : s.memoryWf) : (send x s).memoryWf :=
  ite_memoryWf h (ite_memoryWf (groups_memoryWf h) (ite_memoryWf (groups_memoryWf h) (groups_memoryWf h)))

theorem received_memoryWf (h : s.memoryWf) : (received s).memoryWf := groups_memoryWf h

theorem countMailbox_memoryWf {mb f} (h : s.memoryWf) : (countMailbox mb f s).memoryWf := groups_memoryWf h

theorem draw_memoryWf {w} (h : s.memoryWf) : (draw w s).2.memoryWf := groups_memoryWf h

theorem sendWaitingNotices_memoryWf (h : s.memoryWf) : (sendWaitingNotices s).memoryWf :=
  foldl_memoryWf (fun _ _ h => ite_memoryWf (send_memoryWf h) h) (groups_memoryWf h)

theorem countSlack_memoryWf {cause f} (h : s.memoryWf) : (countSlack cause f s).memoryWf := groups_memoryWf h

theorem passSlack_memoryWf {n} (h : s.memoryWf) : (passSlack n s).memoryWf := by
  unfold passSlack
  split
  · exact h
  · exact groups_memoryWf (countSlack_memoryWf h)

theorem raiseHold_memoryWf {cause source known} (h : s.memoryWf) : (raiseHold cause source known s).memoryWf :=
  groups_memoryWf (countSlack_memoryWf h)

theorem releaseHold_memoryWf {i} (h : s.memoryWf) : (releaseHold i s).memoryWf := by
  unfold releaseHold
  split
  · exact h
  · exact groups_memoryWf (countSlack_memoryWf h)

theorem progress_memoryWf {source} (h : s.memoryWf) : (progress source s).memoryWf := groups_memoryWf h

theorem quarantine_memoryWf {d record} (h : s.memoryWf) : (quarantine d record s).memoryWf := by
  unfold quarantine
  dsimp only
  split
  · exact when_memoryWf (groups_memoryWf h) fun h => raiseNotice_memoryWf h _ _ _ _ _ _
  · exact groups_memoryWf h

theorem recordFault_memoryWf {f rep} (h : s.memoryWf) : (recordFault f rep s).memoryWf := by
  unfold recordFault
  exact raiseNotice_memoryWf (quarantine_memoryWf (groups_memoryWf h)) _ _ _ _ _ _

theorem repeatFault_memoryWf {f} (h : s.memoryWf) : (repeatFault f s).memoryWf :=
  when_memoryWf (recordFault_memoryWf h) fun h => halt_memoryWf h _

theorem reportPoison_memoryWf {r} (h : s.memoryWf) : (reportPoison r s).memoryWf := groups_memoryWf h

theorem countLayer_memoryWf {l f} (h : s.memoryWf) : (countLayer l f s).memoryWf := groups_memoryWf h

theorem writeConfig_memoryWf {pending press content undo} (h : s.memoryWf) :
    (writeConfig pending press content undo s).memoryWf :=
  ite_memoryWf (groups_memoryWf h) (groups_memoryWf h)

theorem commitCopy_memoryWf {press content} (h : s.memoryWf) : (commitCopy press content s).memoryWf :=
  ite_memoryWf (groups_memoryWf h) (groups_memoryWf h)

theorem writeCommitted_memoryWf (h : s.memoryWf) : (writeCommitted s).memoryWf := by
  unfold writeCommitted
  split
  · split <;> exact writeConfig_memoryWf h
  · exact writeConfig_memoryWf h

theorem makeDurable_memoryWf (h : s.memoryWf) : (makeDurable s).memoryWf := groups_memoryWf (writeCommitted_memoryWf h)

theorem eraseSlots_memoryWf (h : s.memoryWf) : (eraseSlots s).memoryWf := groups_memoryWf (writeConfig_memoryWf h)

/-! ## The mailbox engine -/

theorem setStreamById_memoryWf {id f} (h : s.memoryWf) : (setStreamById id f s).memoryWf := groups_memoryWf h

theorem noteChange_memoryWf {k c} (h : s.memoryWf) : (noteChange k c s).memoryWf := by
  unfold noteChange
  split
  · exact groups_memoryWf h
  · exact setStreamById_memoryWf h
  · exact groups_memoryWf h
  · exact groups_memoryWf h
  · exact groups_memoryWf h
  · exact groups_memoryWf h
  · exact groups_memoryWf h

theorem commitChange_memoryWf {k mb} (h : s.memoryWf) : (commitChange k mb s).memoryWf :=
  noteChange_memoryWf (groups_memoryWf h)

theorem countDrop_memoryWf {a mb} (h : s.memoryWf) : (countDrop a mb s).memoryWf := by
  unfold countDrop
  split
  · exact h
  · exact groups_memoryWf h
  · exact countMailbox_memoryWf h

theorem reply_memoryWf {k r flags code status stamp payload} (h : s.memoryWf) :
    (reply k r flags code status stamp payload s).memoryWf :=
  send_memoryWf h

theorem respond_memoryWf {op r a} (h : a.state.memoryWf) : (respond op r a).memoryWf :=
  reply_memoryWf (groups_memoryWf (ite_memoryWf (commitChange_memoryWf h) h))

theorem execute_memoryWf {op r} (hop : op.KeepsMemory) (h : s.memoryWf) : (execute op r s).memoryWf :=
  ite_memoryWf (respond_memoryWf (hop r _ (countMailbox_memoryWf h))) (respond_memoryWf (countMailbox_memoryWf h))

theorem sequenceCheck_memoryWf {op r} (hop : op.KeepsMemory) (h : s.memoryWf) : (sequenceCheck op r s).memoryWf := by
  have hr {mb f k flags code status stamp payload} :
      (reply k r flags code status stamp payload (countMailbox mb f s)).memoryWf := reply_memoryWf (countMailbox_memoryWf h)
  unfold sequenceCheck
  split
  · exact ite_memoryWf hr hr
  · exact ite_memoryWf hr (ite_memoryWf hr (execute_memoryWf hop h))

theorem confirmPort_memoryWf {r} (h : s.memoryWf) : (confirmPort r s).memoryWf := ite_memoryWf (groups_memoryWf h) h

theorem serve_memoryWf {op r} (hop : op.KeepsMemory) (h : s.memoryWf) : (serve op r s).memoryWf := by
  refine ite_memoryWf ?_ h
  split
  · exact sequenceCheck_memoryWf hop (confirmPort_memoryWf (received_memoryWf h))
  · exact countDrop_memoryWf (received_memoryWf h)

/-- The outcome of every request that is served. -/
theorem nextMemoryWf_serve {op r} (hop : op.KeepsMemory) (h : s.memoryWf) : NextMemoryWf (.next (serve op r s)) :=
  nextMemoryWf_next (serve_memoryWf hop h)

theorem finish_memoryWf {k o changes changedNow status key effect body} (h : s.memoryWf) :
    (finish k o changes changedNow status key effect body s).memoryWf :=
  send_memoryWf (groups_memoryWf (ite_memoryWf (commitChange_memoryWf h) h))

theorem complete_memoryWf {codes subject changedNow status key effect body} (h : s.memoryWf) :
    (complete codes subject changedNow status key effect body s).memoryWf := by
  unfold complete
  split
  · exact h
  · exact finish_memoryWf h

/-! ## The cove -/

theorem countCove_memoryWf {j f} (h : s.memoryWf) : (countCove j f s).memoryWf := groups_memoryWf h

theorem moveExtents_memoryWf {back a n} (h : s.memoryWf) : (moveExtents back a n s).memoryWf :=
  foldl_memoryWf (fun _ _ h => countCove_memoryWf h) h

theorem reserveExtents_memoryWf {back a n} (h : s.memoryWf) : (reserveExtents back a n s).memoryWf := groups_memoryWf h

theorem journal_memoryWf (h : s.memoryWf) : (journal s).memoryWf := groups_memoryWf h

theorem setObject_memoryWf {id f} (h : s.memoryWf) : (setObject id f s).memoryWf := groups_memoryWf h

theorem freeObject_memoryWf {id} (h : s.memoryWf) : (freeObject id s).memoryWf := by
  unfold freeObject
  split
  · exact h
  · exact groups_memoryWf (journal_memoryWf (moveExtents_memoryWf h))

theorem startWrite_memoryWf {j} (h : s.memoryWf) : (startWrite j s).memoryWf := by
  refine ite_memoryWf h ?_
  split
  · exact h
  · exact ite_memoryWf (setObject_memoryWf h) (groups_memoryWf (countCove_memoryWf h))

theorem startWrites_memoryWf (h : s.memoryWf) : (startWrites s).memoryWf :=
  foldl_memoryWf (fun _ _ h => startWrite_memoryWf h) h

theorem drawId_memoryWf (h : s.memoryWf) : (drawId s).2.memoryWf := groups_memoryWf h

theorem createObject_memoryWf {data holder bytes digest address o} (h : s.memoryWf)
    (ho : createObject data holder bytes digest address s = some o) : o.2.memoryWf := by
  unfold createObject at ho
  split at ho
  · cases ho
  · rw [← Option.some.inj ho]
    dsimp only
    exact startWrites_memoryWf (groups_memoryWf (journal_memoryWf (moveExtents_memoryWf (drawId_memoryWf h))))

theorem commitObject_memoryWf {id ttl} (h : s.memoryWf) : (commitObject id ttl s).memoryWf :=
  setObject_memoryWf (journal_memoryWf h)

/-! ## Streams -/

theorem sendFrame_memoryWf {dest kind flags reason mb first id aux entries} (h : s.memoryWf) :
    (sendFrame dest kind flags reason mb first id aux entries s).memoryWf := by
  unfold sendFrame
  split
  · exact h
  · exact send_memoryWf h

theorem countFrames_memoryWf {mb n} (h : s.memoryWf) : (countFrames mb n s).memoryWf :=
  ite_memoryWf h (countMailbox_memoryWf h)

theorem repeatLater_memoryWf {x} (h : s.memoryWf) : (repeatLater x s).memoryWf := groups_memoryWf h

theorem stateFrame_memoryWf {t st aux} (h : s.memoryWf) : (stateFrame t st aux s).memoryWf :=
  repeatLater_memoryWf (countFrames_memoryWf (sendFrame_memoryWf h))

theorem mapPage_memoryWf {v j page} (h : s.memoryWf) : (mapPage v j page s).memoryWf := by
  refine ite_memoryWf h ?_
  split
  · exact h
  · exact shelf_memoryWf h

theorem extendMap_memoryWf (h : s.memoryWf) : (extendMap s).memoryWf :=
  foldl_memoryWf (fun _ _ h => foldl_memoryWf (fun _ _ h => mapPage_memoryWf h) h) (shelf_memoryWf h)

theorem setLive_memoryWf {n f} (h : s.memoryWf) : (setLive n f s).memoryWf := groups_memoryWf h

theorem completeAll_memoryWf {codes subject status key body} (h : s.memoryWf) :
    (completeAll codes subject status key body s).memoryWf := by
  refine foldl_memoryWf (fun _ _ h => ?_) h
  split
  · exact groups_memoryWf h
  · exact finish_memoryWf h

theorem closeStream_memoryWf {t reason own resumeStatus} (h : s.memoryWf) :
    (closeStream t reason own resumeStatus s).memoryWf :=
  completeAll_memoryWf (completeAll_memoryWf (unless_memoryWf
    (when_memoryWf (groups_memoryWf h) fun h => groups_memoryWf h) fun h => stateFrame_memoryWf h))

theorem closeParked_memoryWf {t reason own} (h : s.memoryWf) : (closeParked t reason own s).memoryWf := by
  refine closeStream_memoryWf ?_
  split
  · exact freeObject_memoryWf h
  · exact h

theorem beginPark_memoryWf {n own} (h : s.memoryWf) : (beginPark n own s).2.memoryWf := by
  unfold beginPark
  split
  · dsimp only
    split
    · next heq => exact unless_memoryWf (setLive_memoryWf (createObject_memoryWf h heq)) fun h => stateFrame_memoryWf h
    · exact completeAll_memoryWf (setLive_memoryWf h)
  · exact h

theorem setPrefix_memoryWf {index f} (h : s.memoryWf) : (setPrefix index f s).memoryWf := groups_memoryWf h

theorem destroyPrefix_memoryWf {index} (h : s.memoryWf) : (destroyPrefix index s).memoryWf := by
  refine groups_memoryWf ?_
  split
  · exact freeObject_memoryWf h
  · exact h

theorem withdrawPrefix_memoryWf {index} (h : s.memoryWf) : (withdrawPrefix index s).memoryWf :=
  ite_memoryWf (destroyPrefix_memoryWf h) (setPrefix_memoryWf h)

theorem sweepPrefixes_memoryWf (h : s.memoryWf) : (sweepPrefixes s).memoryWf :=
  foldl_memoryWf (fun _ _ h => destroyPrefix_memoryWf h) h

theorem movePrefix_memoryWf {p} (h : s.memoryWf) : (movePrefix p s).memoryWf := by
  unfold movePrefix
  split
  · exact ite_memoryWf (setPrefix_memoryWf h) h
  · split
    · next heq => exact setPrefix_memoryWf (createObject_memoryWf h heq)
    · exact h
  · exact h

theorem movePrefixes_memoryWf {need} (h : s.memoryWf) : (movePrefixes need s).memoryWf :=
  foldl_memoryWf (fun _ _ h => ite_memoryWf h (movePrefix_memoryWf h)) h

theorem pagesFor_memoryWf {want} (h : s.memoryWf) : (pagesFor want s).2.memoryWf := movePrefixes_memoryWf h

theorem resumePages_memoryWf {i n} (h : s.memoryWf) : (resumePages i n s).2.memoryWf := pagesFor_memoryWf h

theorem prefixPages_memoryWf {i p} (h : s.memoryWf) : (prefixPages i p s).2.memoryWf :=
  snd_ite_memoryWf (pagesFor_memoryWf h) h

/-! ## Stream frames -/

theorem receiveFrame_memoryWf {kind f act} (h : s.memoryWf) (hact : ∀ x s, s.memoryWf → (act x s).memoryWf) :
    (receiveFrame kind f act s).memoryWf := by
  refine ite_memoryWf (when_memoryWf (countDrop_memoryWf (received_memoryWf h)) fun h => ?_) h
  split
  · split
    · exact h
    · exact hact _ _ (received_memoryWf h)
  · exact countDrop_memoryWf (received_memoryWf h)

theorem moduleNak_memoryWf {reason f t} (h : s.memoryWf) : (moduleNak reason f t s).memoryWf :=
  ite_memoryWf h (countMailbox_memoryWf (sendFrame_memoryWf (setStreamById_memoryWf h)))

theorem acceptPrompt_memoryWf {f t} (h : s.memoryWf) : (acceptPrompt f t s).memoryWf := by
  unfold acceptPrompt
  split
  · exact moduleNak_memoryWf h
  · exact h
  · exact countMailbox_memoryWf (setStreamById_memoryWf h)

theorem sendTokens_memoryWf {t flags es} (h : s.memoryWf) : (sendTokens t flags es s).memoryWf := by
  unfold sendTokens
  split
  · exact h
  · exact countFrames_memoryWf (sendFrame_memoryWf h)

theorem resend_memoryWf {f t} (h : s.memoryWf) : (resend f t s).memoryWf :=
  ite_memoryWf (moduleNak_memoryWf (countMailbox_memoryWf h))
    (ite_memoryWf (moduleNak_memoryWf (countMailbox_memoryWf h))
    (foldl_memoryWf (fun _ _ h => sendTokens_memoryWf h) (countMailbox_memoryWf h)))

theorem emitEntries_memoryWf {n es} (h : s.memoryWf) : (emitEntries n es s).memoryWf := by
  unfold emitEntries
  split
  · exact h
  · exact setLive_memoryWf (when_memoryWf (sendTokens_memoryWf h) fun h => repeatLater_memoryWf h)

theorem emitFirst_memoryWf {n} (h : s.memoryWf) : (emitFirst n s).memoryWf := by
  unfold emitFirst
  split
  · exact h
  · exact emitEntries_memoryWf (groups_memoryWf h)

theorem emitAll_memoryWf {n} (h : s.memoryWf) : (emitAll n s).memoryWf :=
  foldl_memoryWf (fun _ _ h => emitFirst_memoryWf h) h

theorem execStateFrameRepeat_memoryWf (h : s.memoryWf) : NextMemoryWf (execStateFrameRepeat s) := by
  refine nextMemoryWf_next (ite_memoryWf ?_ h)
  split
  · exact h
  · dsimp only
    split
    · exact groups_memoryWf h
    · exact countFrames_memoryWf (send_memoryWf (groups_memoryWf h))

/-! ## Links -/

theorem setLink_memoryWf {link dir f} (h : s.memoryWf) : (setLink link dir f s).memoryWf := groups_memoryWf h

/-! ## Unloads, loads and the shutdown under way -/

theorem dropResume_memoryWf {n t} (h : s.memoryWf) : (dropResume n t s).memoryWf := by
  refine completeAll_memoryWf (groups_memoryWf ?_)
  split
  · exact setObject_memoryWf h
  · exact h

theorem dropCancel_memoryWf {n t} (h : s.memoryWf) : (dropCancel n t s).memoryWf :=
  ite_memoryWf (completeAll_memoryWf (setLive_memoryWf h)) h

theorem parkOne_memoryWf {onFull n} (h : s.memoryWf) (honFull : ∀ x s, s.memoryWf → (onFull x s).memoryWf) :
    (parkOne onFull n s).memoryWf := by
  unfold parkOne
  split
  · exact h
  · split
    · exact ite_memoryWf (dropCancel_memoryWf h) (closeStream_memoryWf h)
    · exact ite_memoryWf (dropCancel_memoryWf h) (ite_memoryWf (dropResume_memoryWf h)
        (unless_memoryWf (beginPark_memoryWf h) fun h => honFull _ _ (setLive_memoryWf h)))

theorem parkAll_memoryWf {go onFull} (h : s.memoryWf) (honFull : ∀ x s, s.memoryWf → (onFull x s).memoryWf) :
    (parkAll go onFull s).memoryWf :=
  foldl_memoryWf (fun _ _ h => ite_memoryWf (parkOne_memoryWf h honFull) h) h

theorem closeFull_memoryWf {t} (h : s.memoryWf) : (closeFull t s).memoryWf := closeStream_memoryWf h

theorem unloadFull_memoryWf {x} (h : s.memoryWf) : (unloadFull x s).memoryWf := complete_memoryWf (groups_memoryWf h)

theorem combDomainsOff_memoryWf (h : s.memoryWf) : (combDomainsOff s).memoryWf := groups_memoryWf h

theorem advanceUnload_memoryWf (h : s.memoryWf) : (advanceUnload s).memoryWf :=
  ite_memoryWf (complete_memoryWf (dropImage_memoryWf h)) h

theorem endShutdown_memoryWf (h : s.memoryWf) : (endShutdown s).memoryWf :=
  ite_memoryWf (groups_memoryWf (complete_memoryWf (groups_memoryWf
    (combDomainsOff_memoryWf (dropImage_memoryWf (ite_memoryWf (makeDurable_memoryWf h) h)))))) h

theorem endLoad_memoryWf {status} (h : s.memoryWf) : (endLoad status s).memoryWf := by
  unfold endLoad
  split
  · exact h
  · refine complete_memoryWf (groups_memoryWf (when_memoryWf
      (ite_memoryWf (foldl_memoryWf (fun _ _ h => freeObject_memoryWf h) ?_) ?_) fun h => dropImage_memoryWf h))
    · split
      · exact reserveExtents_memoryWf h
      · exact h
    · split
      · refine unless_memoryWf ?_ fun h => setObject_memoryWf h
        split
        · exact reserveExtents_memoryWf h
        · exact h
      · split
        · exact reserveExtents_memoryWf h
        · exact h

theorem orphanLoad_memoryWf (h : s.memoryWf) : (orphanLoad s).memoryWf := by
  unfold orphanLoad
  split
  · exact ite_memoryWf (endLoad_memoryWf h) h
  · exact h

theorem loadFull_memoryWf {x} (h : s.memoryWf) : (loadFull x s).memoryWf := endLoad_memoryWf h

theorem advanceLoad_memoryWf (h : s.memoryWf) : (advanceLoad s).memoryWf :=
  ite_memoryWf (parkAll_memoryWf h (fun _ _ h => loadFull_memoryWf h)) h

theorem advanceService_memoryWf (h : s.memoryWf) : (advanceService s).memoryWf :=
  when_memoryWf (advanceLoad_memoryWf (advanceUnload_memoryWf h)) fun h => endShutdown_memoryWf
    (parkAll_memoryWf h (fun _ _ h => closeFull_memoryWf h))

/-! ## What a comb is filled with -/

theorem fillComb_memoryWf {i place v} (h : s.memoryWf) : (fillComb i place v s).memoryWf :=
  setComb_memoryWf h _ _ fun _ _ => ⟨filledScratchpad_wf .., codeMemory_wf ..⟩

/-! ## Queries -/

theorem answered_memoryWf {k body} (h : s.memoryWf) : (answered s k body).state.memoryWf := h

theorem opModuleInfo_keepsMemory : opModuleInfo.KeepsMemory := fun _ _ h => answered_memoryWf h

theorem opIdentityCert_keepsMemory : opIdentityCert.KeepsMemory := fun _ _ h => answered_memoryWf h

theorem opTenantQuery_keepsMemory : opTenantQuery.KeepsMemory := fun _ _ h => answered_memoryWf h

theorem opImageQuery_keepsMemory : opImageQuery.KeepsMemory := fun _ _ h => answered_memoryWf h

theorem opPolicyQuery_keepsMemory : opPolicyQuery.KeepsMemory := fun _ _ h => answered_memoryWf h

theorem opCounterQuery_keepsMemory : opCounterQuery.KeepsMemory := fun _ _ h => answered_memoryWf h

theorem opFaultQuery_keepsMemory : opFaultQuery.KeepsMemory := fun _ _ h => answered_memoryWf h

theorem opServingQuery_keepsMemory : opServingQuery.KeepsMemory := fun _ _ h => answered_memoryWf h

theorem opAttestQuote_keepsMemory : opAttestQuote.KeepsMemory := fun _ _ h => answered_memoryWf h

theorem opUndefined_keepsMemory {code} : (opUndefined code).KeepsMemory := fun _ _ h => h

/-! ## Policies -/

theorem applyWord_memoryWf {n i mask x} (h : s.memoryWf) : (applyWord n i mask x s).memoryWf := groups_memoryWf h

theorem wordAnswer_memoryWf {p} (h : s.memoryWf) : (wordAnswer p s).state.memoryWf := applyWord_memoryWf h

theorem wordOp_keepsMemory {code words recovery} : (wordOp code words recovery).KeepsMemory :=
  fun _ _ h => wordAnswer_memoryWf h

theorem opThermalPolicySet_keepsMemory : opThermalPolicySet.KeepsMemory := wordOp_keepsMemory

theorem opFaultPolicySet_keepsMemory : opFaultPolicySet.KeepsMemory := wordOp_keepsMemory

theorem opNoticeConfigSet_keepsMemory : opNoticeConfigSet.KeepsMemory := wordOp_keepsMemory

theorem opTelemetrySelect_keepsMemory : opTelemetrySelect.KeepsMemory := wordOp_keepsMemory

theorem opPowerPolicySet_keepsMemory : opPowerPolicySet.KeepsMemory := wordOp_keepsMemory

theorem execNoticeConfigSet_memoryWf {r} (h : s.memoryWf) : NextMemoryWf (execNoticeConfigSet r s) :=
  nextMemoryWf_next (when_memoryWf (serve_memoryWf opNoticeConfigSet_keepsMemory h) fun h =>
    sendWaitingNotices_memoryWf h)

theorem probeAddresses_memoryWf (h : s.memoryWf) : (probeAddresses s).memoryWf :=
  when_memoryWf (when_memoryWf (send_memoryWf (groups_memoryWf h)) fun h => send_memoryWf h) fun h => send_memoryWf h

theorem setPort_memoryWf {w} (h : s.memoryWf) : (setPort w s).memoryWf :=
  probeAddresses_memoryWf (makeDurable_memoryWf (groups_memoryWf h))

theorem opPortConfigSet_keepsMemory : opPortConfigSet.KeepsMemory := fun _ _ h => h

theorem applyPort_memoryWf (h : s.memoryWf) : (applyPort s).memoryWf := by
  unfold applyPort
  split
  · exact h
  · refine ite_memoryWf ?_ (groups_memoryWf h)
    dsimp only
    split
    · exact raiseNotice_memoryWf (groups_memoryWf (setPort_memoryWf (groups_memoryWf h))) _ _ _ _ _ _
    · exact finish_memoryWf (groups_memoryWf (setPort_memoryWf (groups_memoryWf h)))

theorem beginPortConfig_memoryWf {r} (h : s.memoryWf) : (beginPortConfig r s).memoryWf :=
  applyPort_memoryWf (groups_memoryWf h)

theorem execPortConfigSet_memoryWf {r} (h : s.memoryWf) : NextMemoryWf (execPortConfigSet r s) :=
  nextMemoryWf_next (when_memoryWf (serve_memoryWf opPortConfigSet_keepsMemory h) fun h => beginPortConfig_memoryWf h)

/-! ## The loader -/

theorem opImageSourceSet_keepsMemory : opImageSourceSet.KeepsMemory := fun _ _ h => groups_memoryWf h

theorem startPull_memoryWf (h : s.memoryWf) : (startPull s).memoryWf :=
  foldl_memoryWf (fun _ _ h => ite_memoryWf (send_memoryWf (groups_memoryWf h)) h) (groups_memoryWf h)

theorem loadNotice_memoryWf (h : s.memoryWf) : (loadNotice s).memoryWf := raiseNotice_memoryWf h _ _ _ _ _ _

theorem rejectLoad_memoryWf {failures} (h : s.memoryWf) : (rejectLoad failures s).memoryWf := by
  unfold rejectLoad
  split
  · exact h
  · exact endLoad_memoryWf (loadNotice_memoryWf (groups_memoryWf h))

theorem loaderChecks_memoryWf {expected} (h : s.memoryWf) : (loaderChecks expected s).memoryWf := by
  unfold loaderChecks
  split
  · exact h
  · refine ite_memoryWf (rejectLoad_memoryWf h) ?_
    split
    · exact rejectLoad_memoryWf h
    · exact advanceService_memoryWf (groups_memoryWf h)

theorem holdSource_memoryWf {l} (h : s.memoryWf) : (holdSource l s).memoryWf := by
  refine groups_memoryWf (unless_memoryWf ?_ fun h => ?_)
  · split
    · exact reserveExtents_memoryWf h
    · exact h
  · split
    · exact setObject_memoryWf h
    · exact h

theorem beginLoad_memoryWf {x r} (h : s.memoryWf) : (beginLoad x r s).memoryWf := by
  unfold beginLoad
  split
  · exact complete_memoryWf h
  · exact unless_memoryWf (holdSource_memoryWf h) fun h => loaderChecks_memoryWf
      (when_memoryWf h fun h => startPull_memoryWf h)

theorem opImageLoad_keepsMemory {x} : (opImageLoad x).KeepsMemory := fun _ _ h => h

theorem execImageLoad_memoryWf {r x} (h : s.memoryWf) : NextMemoryWf (execImageLoad r x s) :=
  nextMemoryWf_next (when_memoryWf (serve_memoryWf opImageLoad_keepsMemory h) fun h => beginLoad_memoryWf h)

theorem dropShelfPrefixes_memoryWf (h : s.memoryWf) : (dropShelfPrefixes s).memoryWf := groups_memoryWf h

theorem writeThrough_memoryWf {l} (h : s.memoryWf) : (writeThrough l s).memoryWf := by
  unfold writeThrough
  split
  · exact h
  · dsimp only
    split
    · next heq => exact (createObject_memoryWf (reserveExtents_memoryWf h) heq)
    · exact reserveExtents_memoryWf h

theorem mapPayload_memoryWf {keep} (h : s.memoryWf) : (mapPayload keep s).memoryWf := by
  unfold mapPayload
  split
  · exact h
  · split
    · exact rejectLoad_memoryWf h
    · exact ite_memoryWf (rejectLoad_memoryWf h) (groups_memoryWf h)

theorem execLoadPayloadStart_memoryWf (h : s.memoryWf) : NextMemoryWf (execLoadPayloadStart s) := by
  refine nextMemoryWf_next (ite_memoryWf ?_ h)
  split
  · exact h
  · exact ite_memoryWf (rejectLoad_memoryWf h) (startWrites_memoryWf
      (mapPayload_memoryWf (groups_memoryWf (writeThrough_memoryWf
      (groups_memoryWf (dropShelfPrefixes_memoryWf (dropImage_memoryWf h)))))))

theorem remapLoad_memoryWf (h : s.memoryWf) : (remapLoad s).memoryWf := by
  unfold remapLoad
  split
  · exact h
  · exact ite_memoryWf (mapPayload_memoryWf h) h

theorem execShardRangeLanded_memoryWf {n data} (h : s.memoryWf) : NextMemoryWf (execShardRangeLanded n data s) := by
  refine nextMemoryWf_next ?_
  split
  · exact h
  · refine ite_memoryWf (ite_memoryWf (rejectLoad_memoryWf h) (groups_memoryWf ?_)) h
    split
    · exact setStack_memoryWf h _ _ (fun _ hk => writeUnits_wf hk _ _)
    · exact h

theorem writeCode_memoryWf {i place} (h : s.memoryWf) : (writeCode i place s).memoryWf :=
  foldl_memoryWf (fun _ _ h => ite_memoryWf h (setStack_memoryWf h _ _ (fun _ hk => writeUnits_wf hk _ _))) h

theorem startCounters_memoryWf {i} (h : s.memoryWf) : (startCounters i s).memoryWf :=
  ⟨map_combs_wf (fun _ hc => hc) h.1, h.2⟩

theorem loadExperts_memoryWf {i place} (h : s.memoryWf) : (loadExperts i place s).memoryWf :=
  shelf_memoryWf (foldl_memoryWf (fun _ _ h => setStack_memoryWf h _ _ (fun _ h => h)) h)

theorem markLinks_memoryWf {i} (h : s.memoryWf) : (markLinks i s).memoryWf := groups_memoryWf h

theorem installImage_memoryWf {l} (h : s.memoryWf) : (installImage l s).memoryWf :=
  shelf_memoryWf (markLinks_memoryWf (i := l.image) h)

theorem clearSpares_memoryWf {place} (h : s.memoryWf) : (clearSpares place s).memoryWf := by
  refine ⟨zipIdx_map_combs_wf (fun x hx => ?_) h.1, h.2⟩
  split
  · exact hx
  · exact ⟨Memory.wf_nil, hx.2⟩

theorem finishLoad_memoryWf {l} (h : s.memoryWf) : (finishLoad l s).memoryWf := by
  refine advanceService_memoryWf (loadNotice_memoryWf
    (complete_memoryWf (installImage_memoryWf (unless_memoryWf
    (loadExperts_memoryWf (startCounters_memoryWf (foldl_memoryWf (fun _ _ h => fillComb_memoryWf h)
    (clearSpares_memoryWf (writeCode_memoryWf h))))) fun h => ?_))))
  split
  · exact setObject_memoryWf h
  · exact h

theorem execLoadComplete_memoryWf (h : s.memoryWf) : NextMemoryWf (execLoadComplete s) := by
  refine nextMemoryWf_next ?_
  split
  · exact h
  · exact ite_memoryWf (ite_memoryWf (rejectLoad_memoryWf h) (finishLoad_memoryWf h)) h

theorem opImageStop_keepsMemory : opImageStop.KeepsMemory :=
  fun _ _ h => answer_ite_memoryWf (groups_memoryWf h) (groups_memoryWf h)

theorem opImageStart_keepsMemory : opImageStart.KeepsMemory := fun _ _ h => groups_memoryWf h

theorem opImageUnload_keepsMemory : opImageUnload.KeepsMemory := fun _ _ h => groups_memoryWf h

theorem execImageUnload_memoryWf {r} (h : s.memoryWf) : NextMemoryWf (execImageUnload r s) :=
  nextMemoryWf_next (when_memoryWf (serve_memoryWf opImageUnload_keepsMemory h) fun h => advanceService_memoryWf
    (parkAll_memoryWf h (fun _ _ h => unloadFull_memoryWf h)))

theorem opQuarantineClear_keepsMemory : opQuarantineClear.KeepsMemory :=
  fun _ _ h => when_memoryWf (groups_memoryWf h) fun h => groups_memoryWf h

/-! ## Commands under presence -/

theorem PresenceOp.op_keepsMemory {p : PresenceOp} {key} : (p.op key).KeepsMemory := fun _ _ h => groups_memoryWf h

theorem pressed_memoryWf {k effect body} (h : s.memoryWf) : (pressed s k effect body).state.memoryWf := h

theorem closeSilently_memoryWf {keep t} (h : s.memoryWf) : (closeSilently keep t s).memoryWf :=
  ite_memoryWf (closeStream_memoryWf h) (closeParked_memoryWf h)

theorem freeCove_memoryWf (h : s.memoryWf) : (freeCove s).memoryWf :=
  foldl_memoryWf (fun _ _ h => freeObject_memoryWf h)
    (foldl_memoryWf (fun _ _ h => destroyPrefix_memoryWf h) (foldl_memoryWf (fun _ _ h => closeSilently_memoryWf h) h))

theorem drawMasterKey_memoryWf (h : s.memoryWf) : (drawMasterKey s).memoryWf := groups_memoryWf h

theorem ownerClaim_keepsMemory : ownerClaim.KeepsMemory :=
  fun _ _ h => pressed_memoryWf (groups_memoryWf (drawMasterKey_memoryWf (freeCove_memoryWf h)))

theorem ownerTransfer_keepsMemory : ownerTransfer.KeepsMemory := fun _ _ h => pressed_memoryWf (groups_memoryWf h)

theorem releaseOwner_memoryWf (h : s.memoryWf) : (releaseOwner s).memoryWf :=
  groups_memoryWf (foldl_memoryWf (fun _ _ h => countMailbox_memoryWf h)
    (foldl_memoryWf (fun _ _ h => closeSilently_memoryWf h) h))

theorem ownerRelease_keepsMemory : ownerRelease.KeepsMemory := fun _ _ h => pressed_memoryWf (releaseOwner_memoryWf h)

theorem clearMailbox_memoryWf {mb} (h : s.memoryWf) : (clearMailbox mb s).memoryWf :=
  groups_memoryWf (countMailbox_memoryWf h)

theorem tenantEnrol_keepsMemory : tenantEnrol.KeepsMemory :=
  fun _ _ h => pressed_memoryWf (groups_memoryWf (clearMailbox_memoryWf h))

theorem removeTenant_memoryWf {mb} (h : s.memoryWf) : (removeTenant mb s).memoryWf :=
  groups_memoryWf (clearMailbox_memoryWf (foldl_memoryWf (fun _ _ h => withdrawPrefix_memoryWf h)
    (foldl_memoryWf (fun _ _ h => closeParked_memoryWf h) (groups_memoryWf h))))

theorem tenantRemove_keepsMemory : tenantRemove.KeepsMemory := fun _ _ h => pressed_memoryWf (removeTenant_memoryWf h)

theorem eraseCove_memoryWf (h : s.memoryWf) : (eraseCove s).memoryWf :=
  drawMasterKey_memoryWf (foldl_memoryWf (fun _ _ h => freeObject_memoryWf h)
    (foldl_memoryWf (fun _ _ h => destroyPrefix_memoryWf h) (foldl_memoryWf (fun _ _ h => closeParked_memoryWf h) h)))

theorem coveErase_keepsMemory : coveErase.KeepsMemory := fun _ _ h => pressed_memoryWf (eraseCove_memoryWf h)

theorem imageKeyEnrol_keepsMemory : imageKeyEnrol.KeepsMemory := fun _ _ h => pressed_memoryWf (groups_memoryWf h)

theorem imageKeyRemove_keepsMemory : imageKeyRemove.KeepsMemory := fun _ _ h => pressed_memoryWf (groups_memoryWf h)

theorem policySet_keepsMemory : policySet.KeepsMemory := fun _ _ h => wordAnswer_memoryWf h

theorem opFirmwareChunk_keepsMemory : opFirmwareChunk.KeepsMemory :=
  fun _ _ h => ite_memoryWf (groups_memoryWf h) (groups_memoryWf h)

theorem firmwareActivate_keepsMemory : firmwareActivate.KeepsMemory := fun _ _ h => pressed_memoryWf (groups_memoryWf h)

theorem endPresence_memoryWf {c k a} (h : s.memoryWf) : (endPresence c k a s).memoryWf := by
  refine ite_memoryWf (groups_memoryWf ?_) (groups_memoryWf ?_)
  · split
    · exact finish_memoryWf h
    · exact h
  · split
    · exact finish_memoryWf h
    · exact h

theorem dropPending_memoryWf (h : s.memoryWf) : (dropPending s).memoryWf := by
  unfold dropPending
  split
  · exact ite_memoryWf (ite_memoryWf (makeDurable_memoryWf h) (groups_memoryWf h)) h
  · exact h

theorem abandonPresence_memoryWf {status} (h : s.memoryWf) : (abandonPresence status s).memoryWf := by
  unfold abandonPresence
  split
  · exact h
  · exact dropPending_memoryWf (endPresence_memoryWf h)

/-- Every command under presence. -/
theorem presenceOps_keepMemory : ∀ p ∈ presenceOps, p.KeepsMemory := by
  simp only [presenceOps, List.forall_mem_cons, List.not_mem_nil, false_implies, implies_true, and_true]
  exact ⟨ownerClaim_keepsMemory, ownerTransfer_keepsMemory, ownerRelease_keepsMemory, tenantEnrol_keepsMemory,
    tenantRemove_keepsMemory, coveErase_keepsMemory, imageKeyEnrol_keepsMemory, imageKeyRemove_keepsMemory,
    policySet_keepsMemory, firmwareActivate_keepsMemory⟩

theorem commitPress_memoryWf (h : s.memoryWf) : (commitPress s).memoryWf := by
  unfold commitPress
  split
  · exact h
  · split
    · next p _ hp _ =>
      have hc := presenceOps_keepMemory p (List.mem_of_find?_eq_some hp)
      refine ite_memoryWf (ite_memoryWf ?_ (dropPending_memoryWf (endPresence_memoryWf (groups_memoryWf h)))) h
      exact when_memoryWf (endPresence_memoryWf (commitCopy_memoryWf (hc _ _ (groups_memoryWf h)))) fun h => groups_memoryWf h
    · exact h

theorem execPresencePendingWriteDone_memoryWf (h : s.memoryWf) : NextMemoryWf (execPresencePendingWriteDone s) := by
  refine nextMemoryWf_next ?_
  split
  · exact h
  · split
    · exact h
    · exact ite_memoryWf (commitPress_memoryWf (groups_memoryWf (writeConfig_memoryWf h))) h

theorem execPresencePress_memoryWf {closureMs stamp} (h : s.memoryWf) :
    NextMemoryWf (execPresencePress closureMs stamp s) := by
  refine nextMemoryWf_next ?_
  split
  · exact h
  · exact ite_memoryWf (commitPress_memoryWf (groups_memoryWf h)) h

theorem execPresenceWindowExpiry_memoryWf (h : s.memoryWf) : NextMemoryWf (execPresenceWindowExpiry s) := by
  refine nextMemoryWf_next ?_
  split
  · exact h
  · exact ite_memoryWf (abandonPresence_memoryWf h) h

theorem endStaging_memoryWf {status} (h : s.memoryWf) : (endStaging status s).memoryWf := by
  unfold endStaging
  split
  · exact h
  · exact orphanLoad_memoryWf (complete_memoryWf (groups_memoryWf
      (foldl_memoryWf (fun _ _ h => freeObject_memoryWf h) h)))

theorem opModuleShutdown_keepsMemory : opModuleShutdown.KeepsMemory := fun _ _ h => groups_memoryWf h

theorem execModuleShutdown_memoryWf {r} (h : s.memoryWf) : NextMemoryWf (execModuleShutdown r s) :=
  nextMemoryWf_next (when_memoryWf (serve_memoryWf opModuleShutdown_keepsMemory h) fun h => advanceService_memoryWf
    (endStaging_memoryWf (abandonPresence_memoryWf h)))

/-! ## Stream requests -/

theorem streamAnswer_memoryWf {mb id effect status} (h : s.memoryWf) :
    (streamAnswer mb id effect status s).state.memoryWf :=
  h

theorem opStreamOpen_keepsMemory : opStreamOpen.KeepsMemory := by
  intro _ _ h
  dsimp only [opStreamOpen]
  split
  · exact h
  · exact streamAnswer_memoryWf (groups_memoryWf h)

theorem opStreamGenerate_keepsMemory : opStreamGenerate.KeepsMemory := by
  intro _ _ h
  dsimp only [opStreamGenerate]
  split
  · exact h
  · refine streamAnswer_memoryWf (setStreamById_memoryWf ?_)
    split
    · exact groups_memoryWf (setPrefix_memoryWf h)
    · exact h

theorem setEvent_memoryWf {mb id f} (h : s.memoryWf) : (setEvent mb id f s).memoryWf := setStreamById_memoryWf h

theorem stopOp_keepsMemory {owner} : (stopOp owner).KeepsMemory :=
  fun _ _ h => streamAnswer_memoryWf (setEvent_memoryWf h)

theorem closeOp_keepsMemory {owner} : (closeOp owner).KeepsMemory := by
  intro _ _ h
  dsimp only [closeOp]
  split
  · exact h
  · exact answer_ite_memoryWf (streamAnswer_memoryWf (closeParked_memoryWf h))
      (streamAnswer_memoryWf (setEvent_memoryWf h))

theorem parkOp_keepsMemory {owner} : (parkOp owner).KeepsMemory :=
  fun _ _ h => streamAnswer_memoryWf (setEvent_memoryWf h)

theorem opStreamResume_keepsMemory : opStreamResume.KeepsMemory := by
  intro _ _ h
  dsimp only [opStreamResume]
  split
  · exact h
  · refine answer_ite_memoryWf (streamAnswer_memoryWf (setStreamById_memoryWf h)) ?_
    split
    · exact h
    · refine streamAnswer_memoryWf (groups_memoryWf ?_)
      split
      · exact setObject_memoryWf h
      · exact h

theorem setOp_keepsMemory {owner} : (setOp owner).KeepsMemory := by
  intro _ _ h
  dsimp only [setOp]
  split
  · exact h
  · refine answer_ite_memoryWf ?_ (setStreamById_memoryWf h)
    split
    · exact setObject_memoryWf (journal_memoryWf (setStreamById_memoryWf h))
    · exact setStreamById_memoryWf h

theorem queryOp_keepsMemory {owner} : (queryOp owner).KeepsMemory := by
  intro _ _ h
  dsimp only [queryOp]
  split
  · exact h
  · exact answered_memoryWf h

theorem listOp_keepsMemory {owner} : (listOp owner).KeepsMemory := fun _ _ h => answered_memoryWf h

theorem opSlotQuery_keepsMemory : opSlotQuery.KeepsMemory :=
  fun _ _ h => answer_ite_memoryWf (answered_memoryWf h) (answered_memoryWf h)

theorem prefixRoom_memoryWf {o} (h : s.memoryWf) (ho : prefixRoom s = some o) : o.2.memoryWf := by
  unfold prefixRoom at ho
  split at ho
  · obtain ⟨n, -, rfl⟩ := Option.map_eq_some_iff.mp ho
    exact h
  · split at ho
    · cases ho
    · rw [← Option.some.inj ho]
      exact destroyPrefix_memoryWf h

theorem opPrefixPublish_keepsMemory : opPrefixPublish.KeepsMemory := by
  intro _ _ h
  dsimp only [opPrefixPublish]
  split
  · exact h
  · split
    · exact h
    · split
      · exact h
      · next heq => exact extendMap_memoryWf (groups_memoryWf (prefixRoom_memoryWf h heq))

theorem finishPublish_memoryWf (h : s.memoryWf) : (finishPublish s).memoryWf := by
  unfold finishPublish
  split
  · exact h
  · refine ite_memoryWf ?_ h
    split
    · exact ite_memoryWf h (finish_memoryWf h)
    · exact h

theorem execPrefixPublish_memoryWf {r} (h : s.memoryWf) : NextMemoryWf (execPrefixPublish r s) :=
  nextMemoryWf_next (when_memoryWf (serve_memoryWf opPrefixPublish_keepsMemory h) fun h => finishPublish_memoryWf h)

theorem opPrefixDrop_keepsMemory : opPrefixDrop.KeepsMemory := fun _ _ h => withdrawPrefix_memoryWf h

theorem opPrefixQuery_keepsMemory : opPrefixQuery.KeepsMemory := fun _ _ h => answered_memoryWf h

/-! ## Events of the cove -/

theorem opCoveStage_keepsMemory {x} : (opCoveStage x).KeepsMemory := fun _ _ h => h

theorem rejectStage_memoryWf {digest c} (h : s.memoryWf) : (rejectStage digest c s).memoryWf := complete_memoryWf h

theorem beginStage_memoryWf {x r} (h : s.memoryWf) : (beginStage x r s).memoryWf := by
  refine ite_memoryWf (complete_memoryWf h) ?_
  split
  · exact complete_memoryWf h
  · refine ite_memoryWf (rejectStage_memoryWf h) (ite_memoryWf (complete_memoryWf h) ?_)
    dsimp only
    split
    · next heq => exact startPull_memoryWf (createObject_memoryWf (groups_memoryWf h) heq)
    · exact endStaging_memoryWf (groups_memoryWf h)

theorem execCoveStage_memoryWf {r x} (h : s.memoryWf) : NextMemoryWf (execCoveStage r x s) :=
  nextMemoryWf_next (when_memoryWf (serve_memoryWf opCoveStage_keepsMemory h) fun h => beginStage_memoryWf h)

theorem replaceImageObjects_memoryWf {id d} (h : s.memoryWf) : (replaceImageObjects id d s).memoryWf :=
  foldl_memoryWf (fun _ _ h => freeObject_memoryWf h) h

theorem resumeLoad_memoryWf {id} (h : s.memoryWf) : (resumeLoad id s).memoryWf := by
  unfold resumeLoad
  split
  · exact h
  · exact ite_memoryWf (loaderChecks_memoryWf (groups_memoryWf (setObject_memoryWf h))) h

theorem execStageCommit_memoryWf {digestsMatch} (h : s.memoryWf) : NextMemoryWf (execStageCommit digestsMatch s) := by
  refine nextMemoryWf_next ?_
  split
  · exact h
  · split
    · exact h
    · exact ite_memoryWf (ite_memoryWf (resumeLoad_memoryWf
        (complete_memoryWf (replaceImageObjects_memoryWf (commitObject_memoryWf (groups_memoryWf h)))))
        (orphanLoad_memoryWf (rejectStage_memoryWf (freeObject_memoryWf (groups_memoryWf h))))) h

theorem opCoveObjectQuery_keepsMemory : opCoveObjectQuery.KeepsMemory := fun _ _ h => answered_memoryWf h

theorem opCoveObjectSet_keepsMemory : opCoveObjectSet.KeepsMemory := by
  intro _ _ h
  dsimp only [opCoveObjectSet]
  split
  · exact h
  · exact answer_ite_memoryWf (freeObject_memoryWf h) (setObject_memoryWf (journal_memoryWf h))

theorem commitReady_memoryWf (h : s.memoryWf) : (commitReady s).memoryWf := by
  refine foldl_memoryWf (fun _ _ h => ite_memoryWf h (ite_memoryWf ?_ (groups_memoryWf (countCove_memoryWf h)))) h
  split
  · exact setPrefix_memoryWf (commitObject_memoryWf h)
  · exact replaceImageObjects_memoryWf (commitObject_memoryWf h)

theorem freeCancelled_memoryWf (h : s.memoryWf) : (freeCancelled s).memoryWf :=
  foldl_memoryWf (fun _ _ h => freeObject_memoryWf h) h

theorem execExtentDurable_memoryWf {object extent} (h : s.memoryWf) : NextMemoryWf (execExtentDurable object extent s) := by
  refine nextMemoryWf_next ?_
  split
  · exact h
  · split
    · exact h
    · exact ite_memoryWf (when_memoryWf (journal_memoryWf (countCove_memoryWf (setObject_memoryWf h))) fun h =>
        advanceService_memoryWf (startWrites_memoryWf (commitReady_memoryWf (freeCancelled_memoryWf h)))) h

theorem execHoldupRetry_memoryWf (h : s.memoryWf) : NextMemoryWf (execHoldupRetry s) :=
  nextMemoryWf_next (ite_memoryWf (advanceService_memoryWf
    (applyPort_memoryWf (commitPress_memoryWf (startWrites_memoryWf (commitReady_memoryWf (groups_memoryWf h))))))
    (ite_memoryWf (eraseSlots_memoryWf h) h))

theorem enterParked_memoryWf {n t} (h : s.memoryWf) : (enterParked n t s).memoryWf := by
  refine unless_memoryWf (completeAll_memoryWf ?_) fun h => stateFrame_memoryWf h
  split
  · exact setObject_memoryWf (groups_memoryWf h)
  · exact groups_memoryWf h

theorem execParkCommit_memoryWf {n} (h : s.memoryWf) : NextMemoryWf (execParkCommit n s) := by
  refine nextMemoryWf_next ?_
  split
  · exact h
  · split
    · exact h
    · refine ite_memoryWf (ite_memoryWf (advanceService_memoryWf (startWrites_memoryWf (sweepPrefixes_memoryWf ?_)))
        (groups_memoryWf (countCove_memoryWf h))) h
      split
      · exact closeParked_memoryWf (commitObject_memoryWf h)
      · exact enterParked_memoryWf (commitObject_memoryWf h)

theorem execResumeLanded_memoryWf {n} (h : s.memoryWf) : NextMemoryWf (execResumeLanded n s) := by
  refine nextMemoryWf_next ?_
  split
  · refine ite_memoryWf ?_ h
    split
    · next heq => exact storeHistory_memoryWf (restoreRecords_memoryWf
        (extendMap_memoryWf (setLive_memoryWf (of_eq_pair_memoryWf (resumePages_memoryWf h) heq))) _ _ _) _ _
    · next heq => exact (of_eq_pair_memoryWf (resumePages_memoryWf h) heq)
  · exact h

theorem givePages_memoryWf {index ps} (h : s.memoryWf) : (givePages index ps s).memoryWf :=
  extendMap_memoryWf (setPrefix_memoryWf h)

theorem copyPrefix_memoryWf {i p ps} (h : s.memoryWf) : (copyPrefix i p ps s).memoryWf := by
  unfold copyPrefix
  split
  · exact restoreRecords_memoryWf h _ _ _
  · exact h

theorem execPrefixCopyDone_memoryWf {index} (h : s.memoryWf) : NextMemoryWf (execPrefixCopyDone index s) := by
  refine nextMemoryWf_next ?_
  split
  · refine ite_memoryWf ?_ h
    split
    · next heq => exact advanceService_memoryWf (foldl_memoryWf (fun _ _ h => finish_memoryWf h)
        (setPrefix_memoryWf (copyPrefix_memoryWf (givePages_memoryWf
        (of_eq_pair_memoryWf (prefixPages_memoryWf h) heq)))))
    · next heq => exact (of_eq_pair_memoryWf (prefixPages_memoryWf h) heq)
  · exact h

theorem renewPrefix_memoryWf {index} (h : s.memoryWf) : (renewPrefix index s).memoryWf := by
  unfold renewPrefix
  dsimp only
  split
  · exact h
  · exact ite_memoryWf (setObject_memoryWf (journal_memoryWf h)) h

theorem execPrefixReadbackComplete_memoryWf {index} (h : s.memoryWf) :
    NextMemoryWf (execPrefixReadbackComplete index s) := by
  refine nextMemoryWf_next ?_
  split
  · refine ite_memoryWf ?_ h
    split
    · next heq => exact groups_memoryWf (renewPrefix_memoryWf (setPrefix_memoryWf
        (restoreRecords_memoryWf (givePages_memoryWf (of_eq_pair_memoryWf (prefixPages_memoryWf h) heq)) _ _ _)))
    · next heq => exact (of_eq_pair_memoryWf (prefixPages_memoryWf h) heq)
  · exact h

theorem dateObject_memoryWf {t o} (h : s.memoryWf) : (dateObject t o s).memoryWf :=
  ite_memoryWf (setObject_memoryWf (journal_memoryWf h)) h

theorem clampObject_memoryWf {o} (h : s.memoryWf) : (clampObject o s).memoryWf :=
  ite_memoryWf (setObject_memoryWf (journal_memoryWf h)) h

theorem expireObject_memoryWf {t o} (h : s.memoryWf) : (expireObject t o s).memoryWf := by
  refine ite_memoryWf ?_ h
  split
  · exact ite_memoryWf h (freeObject_memoryWf h)
  · split
    · exact closeParked_memoryWf h
    · exact freeObject_memoryWf h
  · dsimp only
    split
    · exact ite_memoryWf h (ite_memoryWf (destroyPrefix_memoryWf h) (freeObject_memoryWf h))
    · exact freeObject_memoryWf h

theorem eachObject_memoryWf {f} (h : s.memoryWf) (hf : ∀ x s, s.memoryWf → (f x s).memoryWf) :
    (eachObject f s).memoryWf := by
  refine foldl_memoryWf (fun _ _ h => ?_) h
  split
  · exact hf _ _ h
  · exact h

theorem execCoveExpiryCheck_memoryWf {now} (h : s.memoryWf) : NextMemoryWf (execCoveExpiryCheck now s) :=
  nextMemoryWf_next (ite_memoryWf (eachObject_memoryWf
    (eachObject_memoryWf (eachObject_memoryWf h (fun _ _ h => dateObject_memoryWf h))
    (fun _ _ h => clampObject_memoryWf h)) (fun _ _ h => expireObject_memoryWf h)) h)

theorem damageNotice_memoryWf {o} (h : s.memoryWf) : (damageNotice o s).memoryWf := raiseNotice_memoryWf h _ _ _ _ _ _

theorem failReadingLoad_memoryWf {d} (h : s.memoryWf) : (failReadingLoad d s).memoryWf := by
  unfold failReadingLoad
  split
  · exact ite_memoryWf (endLoad_memoryWf h) h
  · exact h

theorem failWaitingHold_memoryWf {d} (h : s.memoryWf) : (failWaitingHold d s).memoryWf :=
  ite_memoryWf (halt_memoryWf h _) h

theorem damageImage_memoryWf {o} (h : s.memoryWf) : (damageImage o s).memoryWf :=
  failWaitingHold_memoryWf (failReadingLoad_memoryWf (damageNotice_memoryWf (setObject_memoryWf h)))

theorem damageParked_memoryWf {o u} (h : s.memoryWf) : (damageParked o u s).memoryWf := by
  unfold damageParked
  split
  · exact closeStream_memoryWf (freeObject_memoryWf h)
  · exact setObject_memoryWf h

theorem damagePrefix_memoryWf {n} (h : s.memoryWf) : (damagePrefix n s).memoryWf :=
  groups_memoryWf (destroyPrefix_memoryWf h)

theorem damageObject_memoryWf {o} (h : s.memoryWf) : (damageObject o s).memoryWf := by
  unfold damageObject
  split
  · exact damageImage_memoryWf h
  · exact damageParked_memoryWf h
  · exact damagePrefix_memoryWf h

theorem refetchRange_memoryWf {i lo hi n} (h : s.memoryWf) : (refetchRange i lo hi s n).memoryWf := by
  unfold refetchRange
  dsimp only
  split
  · exact ite_memoryWf (restoreUnits_memoryWf h _ _ _) h
  · exact h

theorem refetchCode_memoryWf {i lo hi} (h : s.memoryWf) : (refetchCode i lo hi s).memoryWf :=
  ite_memoryWf (foldl_memoryWf (fun _ _ h => restoreUnits_memoryWf h _ _ _) h) h

theorem refetchChunk_memoryWf {o extent chunk} (h : s.memoryWf) : (refetchChunk o extent chunk s).memoryWf := by
  unfold refetchChunk
  split
  · exact ite_memoryWf (refetchCode_memoryWf (foldl_memoryWf (fun _ _ h => refetchRange_memoryWf h) h)) h
  · exact h

theorem settleReads_memoryWf {site} (h : s.memoryWf) : (settleReads site s).memoryWf := groups_memoryWf h

theorem execCoveChunkRead_memoryWf {object extent chunk found network} (h : s.memoryWf) :
    NextMemoryWf (execCoveChunkRead object extent chunk found network s) := by
  refine nextMemoryWf_next ?_
  split
  · exact h
  · exact ite_memoryWf (ite_memoryWf (progress_memoryWf
      (settleReads_memoryWf (refetchChunk_memoryWf (countCove_memoryWf h))))
      (ite_memoryWf (groups_memoryWf (countCove_memoryWf (countCove_memoryWf h)))
      (ite_memoryWf (refetchChunk_memoryWf (journal_memoryWf
      (countCove_memoryWf (settleReads_memoryWf (countCove_memoryWf (countCove_memoryWf h))))))
      (advanceService_memoryWf (damageObject_memoryWf
      (settleReads_memoryWf (countCove_memoryWf (countCove_memoryWf h)))))))) h

theorem execCoveScrub_memoryWf {object extent ok} (h : s.memoryWf) : NextMemoryWf (execCoveScrub object extent ok s) := by
  refine nextMemoryWf_next ?_
  split
  · exact h
  · exact ite_memoryWf (countCove_memoryWf h) h

theorem execJournalCompaction_memoryWf {j} (h : s.memoryWf) : NextMemoryWf (execJournalCompaction j s) :=
  nextMemoryWf_next (ite_memoryWf (ite_memoryWf (groups_memoryWf h) (groups_memoryWf (countCove_memoryWf h))) h)

theorem setQp_memoryWf {n f} (h : s.memoryWf) : (setQp n f s).memoryWf := groups_memoryWf h

theorem dropRoce_memoryWf (h : s.memoryWf) : (dropRoce s).memoryWf := groups_memoryWf h

theorem answerCe_memoryWf {n} (h : s.memoryWf) : (answerCe n s).memoryWf :=
  ite_memoryWf (send_memoryWf (groups_memoryWf (setQp_memoryWf h))) h

theorem issueRead_memoryWf {n} (h : s.memoryWf) : (issueRead n s).memoryWf :=
  ite_memoryWf (send_memoryWf (setQp_memoryWf h)) h

theorem execRdmaReadResponse_memoryWf {n reads ce} (h : s.memoryWf) : NextMemoryWf (execRdmaReadResponse n reads ce s) :=
  nextMemoryWf_next (ite_memoryWf h (ite_memoryWf (dropRoce_memoryWf h)
    (ite_memoryWf (foldl_memoryWf (fun _ _ h => issueRead_memoryWf h)
    (when_memoryWf (setQp_memoryWf h) fun h => answerCe_memoryWf h)) h)))

theorem failPull_memoryWf (h : s.memoryWf) : (failPull s).memoryWf := by
  refine advanceService_memoryWf ?_
  split
  · exact ite_memoryWf (endLoad_memoryWf h) (endStaging_memoryWf h)
  · exact endStaging_memoryWf h

theorem execRdmaTimeout_memoryWf {n psn} (h : s.memoryWf) : NextMemoryWf (execRdmaTimeout n psn s) := by
  refine nextMemoryWf_next (ite_memoryWf (ite_memoryWf (send_memoryWf (setQp_memoryWf h)) ?_) h)
  dsimp only
  split
  · exact failPull_memoryWf (setQp_memoryWf h)
  · exact ite_memoryWf (send_memoryWf (setQp_memoryWf (groups_memoryWf (setQp_memoryWf h))))
      (failPull_memoryWf (setQp_memoryWf h))

theorem execCnpReceive_memoryWf {n} (h : s.memoryWf) : NextMemoryWf (execCnpReceive n s) :=
  nextMemoryWf_next (ite_memoryWf h (ite_memoryWf (setQp_memoryWf (groups_memoryWf h)) (dropRoce_memoryWf h)))

/-! ## Units that retire -/

theorem unitNotice_memoryWf {kind number} (h : s.memoryWf) : (unitNotice kind number s).memoryWf :=
  raiseNotice_memoryWf h _ _ _ _ _ _

theorem setDomain_memoryWf {d f} (h : s.memoryWf) : (setDomain d f s).memoryWf := groups_memoryWf h

theorem offDomain_memoryWf {d} (h : s.memoryWf) : (offDomain d s).memoryWf := setDomain_memoryWf h

theorem dropComb_memoryWf {p} (h : s.memoryWf) : (dropComb p s).memoryWf :=
  offDomain_memoryWf (setComb_memoryWf h _ _ (fun _ h => h))

theorem retireComb_memoryWf {p} (h : s.memoryWf) : (retireComb p s).memoryWf :=
  ite_memoryWf (unitNotice_memoryWf (dropComb_memoryWf h)) h

theorem loseStack_memoryWf {n} (h : s.memoryWf) : (loseStack n s).memoryWf :=
  ite_memoryWf h (when_memoryWf (setStack_memoryWf h _ _ (fun _ h => h)) fun h => foldl_memoryWf
    (fun _ _ h => withdrawPrefix_memoryWf h) (groups_memoryWf h))

theorem retireDie_memoryWf {n l} (h : s.memoryWf) : (retireDie n l s).memoryWf :=
  unless_memoryWf (unitNotice_memoryWf (foldl_memoryWf (fun _ _ h => offDomain_memoryWf h)
    (foldl_memoryWf (fun _ _ h => dropComb_memoryWf h) h))) fun h => loseStack_memoryWf h

theorem stopModule_memoryWf (h : s.memoryWf) : (stopModule s).memoryWf := groups_memoryWf (halt_memoryWf h _)

theorem retireChannel_memoryWf {n c} (h : s.memoryWf) : (retireChannel n c s).memoryWf :=
  ite_memoryWf h (raiseNotice_memoryWf (setStack_memoryWf h _ _ (fun _ hk => copyChannel_wf hk _)) _ _ _ _ _ _)

theorem retireLink_memoryWf {l} (h : s.memoryWf) : (retireLink l s).memoryWf :=
  ite_memoryWf h (unitNotice_memoryWf (setLink_memoryWf (setLink_memoryWf h)))

theorem retireRoot_memoryWf (h : s.memoryWf) : (retireRoot s).memoryWf :=
  when_memoryWf (unitNotice_memoryWf (groups_memoryWf h)) fun h => stopModule_memoryWf h

theorem damageCoveStack_memoryWf {j} (h : s.memoryWf) : (damageCoveStack j s).memoryWf :=
  eachObject_memoryWf h (fun _ _ h => ite_memoryWf (damageObject_memoryWf h) h)

theorem retireSource_memoryWf {x} (h : s.memoryWf) : (retireSource x s).memoryWf := by
  unfold retireSource
  split
  · exact h
  · exact retireComb_memoryWf h
  · exact retireDie_memoryWf h
  · exact retireLink_memoryWf h
  · exact foldl_memoryWf (fun _ _ h => ite_memoryWf (retireChannel_memoryWf h) h) h
  · exact retireDie_memoryWf h
  · exact damageCoveStack_memoryWf h
  · exact ite_memoryWf (retireComb_memoryWf h) (ite_memoryWf (retireDie_memoryWf h) (stopModule_memoryWf h))
  · exact retireRoot_memoryWf h

theorem haltForRemap_memoryWf (h : s.memoryWf) : (haltForRemap s).memoryWf := by
  unfold haltForRemap
  split
  · exact halt_memoryWf h _
  · exact halt_memoryWf h _
  · exact ite_memoryWf (groups_memoryWf h) h
  · exact h

theorem declareFailed_memoryWf {x} (h : s.memoryWf) : (declareFailed x s).memoryWf :=
  ite_memoryWf (remapLoad_memoryWf (retireSource_memoryWf h))
    (ite_memoryWf (groups_memoryWf (haltForRemap_memoryWf h)) (retireSource_memoryWf h))

theorem failNow_memoryWf {x} (h : s.memoryWf) : (failNow x s).memoryWf :=
  ite_memoryWf (remapLoad_memoryWf (retireSource_memoryWf h))
    (ite_memoryWf (groups_memoryWf (retireSource_memoryWf (haltForRemap_memoryWf h))) (retireSource_memoryWf h))

/-! ## The tide clock -/

theorem passKnown_memoryWf {cause n} (h : s.memoryWf) : (passKnown cause n s).memoryWf :=
  ite_memoryWf h (releaseHold_memoryWf (passSlack_memoryWf (raiseHold_memoryWf h)))

theorem countTo_memoryWf {c} (h : s.memoryWf) : (countTo c s).memoryWf := groups_memoryWf h

theorem passContract_memoryWf {hs} (h : s.memoryWf) : (passContract hs s).memoryWf :=
  foldl_memoryWf (fun _ _ h => passKnown_memoryWf h) h

theorem advanceTo_memoryWf {c} (h : s.memoryWf) : (advanceTo c s).memoryWf := countTo_memoryWf (passContract_memoryWf h)

theorem reachBefore_memoryWf {c} (h : s.memoryWf) : (reachBefore c s).memoryWf :=
  countTo_memoryWf (passContract_memoryWf h)

theorem raiseContract_memoryWf {before c} (h : s.memoryWf) : (raiseContract before c s).memoryWf :=
  foldl_memoryWf (fun _ _ h => ite_memoryWf h (raiseHold_memoryWf h)) h

theorem latchCorrelation_memoryWf (h : s.memoryWf) : (latchCorrelation s).memoryWf := ite_memoryWf (groups_memoryWf h) h

theorem openTide_memoryWf (h : s.memoryWf) : (openTide s).memoryWf := passContract_memoryWf (latchCorrelation_memoryWf h)

theorem endBoundary_memoryWf (h : s.memoryWf) : (endBoundary s).memoryWf := ite_memoryWf (openTide_memoryWf h) h

theorem freezeAt_memoryWf {cause c source} (h : s.memoryWf) : (freezeAt cause c source s).memoryWf :=
  raiseContract_memoryWf (raiseHold_memoryWf (reachBefore_memoryWf h))

theorem execHoldRelease_memoryWf {index elapsed} (h : s.memoryWf) : NextMemoryWf (execHoldRelease index elapsed s) := by
  refine nextMemoryWf_next ?_
  split
  · exact h
  · exact ite_memoryWf (releaseHold_memoryWf (passSlack_memoryWf h)) h

theorem execKnownHoldEnd_memoryWf {index} (h : s.memoryWf) : NextMemoryWf (execKnownHoldEnd index s) := by
  refine nextMemoryWf_next ?_
  split
  · exact h
  · split
    · exact h
    · have ht {n} : (releaseHold index (passSlack n s)).memoryWf := releaseHold_memoryWf (passSlack_memoryWf h)
      exact ite_memoryWf (ite_memoryWf (ite_memoryWf h (endBoundary_memoryWf ht)) ht) h

theorem timeoutNotice_memoryWf {g} (h : s.memoryWf) : (timeoutNotice g s).memoryWf := by
  unfold timeoutNotice
  exact raiseNotice_memoryWf h _ _ _ _ _ _

theorem timeOut_memoryWf {source} (h : s.memoryWf) : (timeOut source s).memoryWf := by
  unfold timeOut
  split
  · exact when_memoryWf (declareFailed_memoryWf h) fun h => halt_memoryWf h _
  · exact declareFailed_memoryWf (halt_memoryWf h _)

theorem lapse_memoryWf {index} (h : s.memoryWf) : (lapse index s).memoryWf := by
  unfold lapse
  split
  · exact ite_memoryWf (advanceService_memoryWf (declareFailed_memoryWf
      (timeoutNotice_memoryWf (groups_memoryWf (countSlack_memoryWf h))))) h
  · exact h

theorem execSlackTimeout_memoryWf {index} (h : s.memoryWf) : NextMemoryWf (execSlackTimeout index s) := by
  refine nextMemoryWf_next ?_
  split
  · exact lapse_memoryWf h
  · split
    · exact ite_memoryWf (advanceService_memoryWf (timeOut_memoryWf
        (timeoutNotice_memoryWf (releaseHold_memoryWf (countSlack_memoryWf (passSlack_memoryWf h)))))) h
    · exact h

/-! ## Issue -/

theorem afterStop_memoryWf (h : s.memoryWf) : (afterStop s).memoryWf := ite_memoryWf h (advanceService_memoryWf h)

theorem issued_memoryWf {i op} (h : s.memoryWf) : (issued i op s).memoryWf :=
  setComb_memoryWf (advanceTo_memoryWf h) _ _ (fun _ h => h)

theorem issueAt_memoryWf {i op f} (h : s.memoryWf) (hf : ∀ s, s.memoryWf → (f s).memoryWf) :
    (issueAt i op f s).memoryWf :=
  ite_memoryWf (afterStop_memoryWf (stopWith_memoryWf (issued_memoryWf h) (hf _ (issued_memoryWf h)) _)) h

theorem noteAccesses_memoryWf {i bs} (h : s.memoryWf) : (noteAccesses i bs s).memoryWf :=
  setComb_memoryWf h _ _ (fun _ h => h)

theorem noteWrites_memoryWf {i op xs} (h : s.memoryWf) : (noteWrites i op xs s).memoryWf :=
  setComb_memoryWf h _ _ (fun _ h => h)

theorem countWait_memoryWf {p n} (h : s.memoryWf) : (countWait p n s).memoryWf :=
  ite_memoryWf h (setComb_memoryWf h _ _ (fun _ h => h))

theorem queueBad_memoryWf {p rows} (h : s.memoryWf) : (queueBad p rows s).memoryWf :=
  setComb_memoryWf h _ _ (fun _ h => h)

theorem countReads_memoryWf {p reads} (h : s.memoryWf) : (countReads p reads s).memoryWf :=
  when_memoryWf (queueBad_memoryWf (setComb_memoryWf h _ _ (fun _ h => h))) fun h => declareFailed_memoryWf h

theorem countCombTransport_memoryWf {p row k} (h : s.memoryWf) : (countCombTransport p row k s).memoryWf :=
  ite_memoryWf h (when_memoryWf (reportPoison_memoryWf (setComb_memoryWf h _ _ (fun _ h => h))) fun h =>
    declareFailed_memoryWf h)

theorem countParity_memoryWf {i rows} (h : s.memoryWf) : (countParity i rows s).memoryWf := countCombTransport_memoryWf h

theorem reportRows_memoryWf {p operand slot reads} (h : s.memoryWf) : (reportRows p operand slot reads s).memoryWf :=
  foldl_memoryWf (fun _ _ h => reportPoison_memoryWf h) h

theorem chainRow_memoryWf {p ra after} (h : s.memoryWf) : (chainRow p ra after s).memoryWf :=
  setComb_memoryWf h _ _ (fun _ h => h)

/-! ## The shelf -/

theorem setExpert_memoryWf {j v layer expert f} (h : s.memoryWf) : (setExpert j v layer expert f s).memoryWf :=
  setStack_memoryWf h _ _ (fun _ h => h)

theorem startPagein_memoryWf {j v layer expert} (h : s.memoryWf) : (startPagein j v layer expert s).memoryWf := by
  unfold startPagein
  split
  · exact ite_memoryWf h (setStack_memoryWf (setExpert_memoryWf h) _ _ (fun _ h => h))
  · exact h

theorem pendRows_memoryWf {p row us} (h : s.memoryWf) : (pendRows p row us s).memoryWf :=
  foldl_memoryWf (fun _ _ h => pendRow_memoryWf h _ _ _ _) h

theorem fillStream_memoryWf {p o parity next} (h : s.memoryWf) : (fillStream p o parity next s).memoryWf :=
  foldl_memoryWf (fun _ _ h => chainRow_memoryWf h)
    (pendRows_memoryWf (foldl_memoryWf (fun _ _ h => ite_memoryWf (reportPoison_memoryWf h) h)
    (readUnits_memoryWf h _ _ _)))

theorem damageKv_memoryWf {j u} (h : s.memoryWf) : (damageKv j u s).memoryWf :=
  groups_memoryWf (foldl_memoryWf (fun _ _ h => withdrawPrefix_memoryWf h) h)

theorem gatherPart_memoryWf {p v next d base x acc} (hacc : acc.2.memoryWf) :
    (gatherPart p v next d base x acc).2.memoryWf := by
  unfold gatherPart
  dsimp only
  split
  · exact foldl_memoryWf (fun _ _ h => ite_memoryWf (damageKv_memoryWf (reportPoison_memoryWf h)) h) (readUnits_memoryWf
      hacc _ _ _)
  · split
    · refine snd_ite_memoryWf ?_ (startPagein_memoryWf ?_)
      · refine when_memoryWf (foldl_memoryWf (fun _ _ h => ite_memoryWf (reportPoison_memoryWf h) h)
          (readUnits_memoryWf ?_ _ _ _)) fun h => setExpert_memoryWf h
        exact setComb_memoryWf hacc _ _ fun _ hc => hc
      · exact setComb_memoryWf hacc _ _ fun _ hc => hc
    · exact setComb_memoryWf hacc _ _ fun _ hc => hc

theorem fillGather_memoryWf {p o parity next g} (h : s.memoryWf) : (fillGather p o parity next g s).memoryWf :=
  pendRows_memoryWf (snd_ite_memoryWf (setComb_memoryWf h _ _ (fun _ h => h))
    (snd_foldl_memoryWf (fun _ _ h => gatherPart_memoryWf h) (setComb_memoryWf h _ _ (fun _ h => h))))

theorem runShelf_memoryWf {i o} (h : s.memoryWf) : (runShelf i o s).memoryWf := by
  refine ite_memoryWf ?_ ?_
  · dsimp only
    split
    · exact fillGather_memoryWf (when_memoryWf (countParity_memoryWf (noteAccesses_memoryWf (countReads_memoryWf h)))
        fun h => reportRows_memoryWf h)
    · exact raiseFaults_memoryWf h _
  · split
    · exact fillStream_memoryWf h
    · exact raiseFaults_memoryWf h _

theorem execShelf_memoryWf {i o} (h : s.memoryWf) : NextMemoryWf (execShelf i o s) :=
  nextMemoryWf_ite (nextMemoryWf_ite nextMemoryWf_fault
    (nextMemoryWf_next (issueAt_memoryWf h (fun _ h => runShelf_memoryWf h)))) (nextMemoryWf_next h)

theorem spoilRow_memoryWf {p ra parity} (h : s.memoryWf) : (spoilRow p ra parity s).memoryWf :=
  countCombTransport_memoryWf (setComb_memoryWf h _ _ (fun _ hc => ⟨spoiled_wf hc.1 _, hc.2⟩))

theorem rowProgress_memoryWf {p} (h : s.memoryWf) : (rowProgress p s).memoryWf :=
  progress_memoryWf (progress_memoryWf (groups_memoryWf h))

theorem execRowLands_memoryWf {p ra parity} (h : s.memoryWf) : NextMemoryWf (execRowLands p ra parity s) :=
  nextMemoryWf_next (ite_memoryWf (afterStop_memoryWf
    (spoilRow_memoryWf (rowProgress_memoryWf (landRow_memoryWf h _ _)))) h)

theorem landUnit_memoryWf {p pos ws} (h : s.memoryWf) : (landUnit p pos ws s).memoryWf :=
  setComb_memoryWf h _ _ (fun _ h => h)

theorem landExpert_memoryWf {p layer expert us} (h : s.memoryWf) : (landExpert p layer expert us s).memoryWf :=
  foldl_memoryWf (fun _ _ h => foldl_memoryWf (fun _ _ h => landUnit_memoryWf h) h) h

theorem placeSlice_memoryWf {free cold j v layer expert ws} (h : s.memoryWf) :
    (placeSlice free cold j v layer expert ws s).memoryWf := by
  unfold placeSlice
  dsimp only
  split
  · exact setExpert_memoryWf (setStack_memoryWf h _ _ (fun _ hk => writeUnits_wf hk _ _))
  · split
    · exact h
    · exact setExpert_memoryWf (setStack_memoryWf (setExpert_memoryWf h) _ _ (fun _ hk => writeUnits_wf hk _ _))

theorem placePagein_memoryWf {i j v layer expert n ws} (h : s.memoryWf) :
    (placePagein i j v layer expert n ws s).memoryWf :=
  placeSlice_memoryWf h

theorem placeRestaged_memoryWf {i j v layer expert n ws} (h : s.memoryWf) :
    (placeRestaged i j v layer expert n ws s).memoryWf :=
  placeSlice_memoryWf h

theorem execExpertPageinComplete_memoryWf {j v layer expert} (h : s.memoryWf) :
    NextMemoryWf (execExpertPageinComplete j v layer expert s) := by
  refine nextMemoryWf_next ?_
  split
  · exact ite_memoryWf (foldl_memoryWf (fun _ _ h => ite_memoryWf (landExpert_memoryWf h) h)
      (ite_memoryWf (placePagein_memoryWf (setExpert_memoryWf h)) (placeRestaged_memoryWf (setExpert_memoryWf h)))) h
  · exact h

theorem scrubRegion_memoryWf {j u} (h : s.memoryWf) : (scrubRegion j u s).memoryWf := by
  unfold scrubRegion
  split
  · exact h
  · refine ite_memoryWf (declareFailed_memoryWf h) ?_
    split
    · exact setExpert_memoryWf h
    · exact damageKv_memoryWf h

theorem execShelfScrub_memoryWf {j u} (h : s.memoryWf) : NextMemoryWf (execShelfScrub j u s) :=
  nextMemoryWf_ite (nextMemoryWf_ite (nextMemoryWf_next
    (afterStop_memoryWf (when_memoryWf (when_memoryWf (countUnit_memoryWf h _ _ _) fun h => setStack_memoryWf h _ _
    (fun _ hk => writeUnits_wf hk _ _)) fun h => scrubRegion_memoryWf h))) nextMemoryWf_fault) (nextMemoryWf_next h)

theorem refreshAt_memoryWf {j c} (h : s.memoryWf) : (refreshAt j c s).memoryWf :=
  ite_memoryWf (setStack_memoryWf (advanceTo_memoryWf h) _ _ (fun _ h => h)) h

theorem execShelfRefresh_memoryWf {j point} (h : s.memoryWf) : NextMemoryWf (execShelfRefresh j point s) :=
  nextMemoryWf_next (ite_memoryWf (ite_memoryWf (refreshAt_memoryWf h) (setStack_memoryWf h _ _ (fun _ h => h))) h)

/-! ## The fabric -/

theorem sendFlit_memoryWf {link dir kind flow index last payload parity} (h : s.memoryWf) :
    (sendFlit link dir kind flow index last payload parity s).memoryWf :=
  groups_memoryWf (setLink_memoryWf h)

theorem sendIdle_memoryWf {link dir} (h : s.memoryWf) : (sendIdle link dir s).memoryWf := groups_memoryWf h

theorem resendFrames_memoryWf {link dir} (h : s.memoryWf) : (resendFrames link dir s).memoryWf :=
  groups_memoryWf (setLink_memoryWf h)

theorem setDiePort_memoryWf {n f} (h : s.memoryWf) : (setDiePort n f s).memoryWf := groups_memoryWf h

theorem rootTakes_memoryWf {flow es} (h : s.memoryWf) : (rootTakes flow es s).memoryWf := by
  unfold rootTakes
  split
  · exact h
  · exact countLayer_memoryWf (groups_memoryWf h)

theorem dropViolation_memoryWf {k} (h : s.memoryWf) : (dropViolation k s).memoryWf := groups_memoryWf h

theorem raiseViolation_memoryWf {k o cause groups outs} (h : s.memoryWf) :
    (raiseViolation k o cause groups outs s).memoryWf := by
  unfold raiseViolation
  split
  · exact h
  · dsimp only
    split <;> exact groups_memoryWf h

theorem checkRow_memoryWf {o k} (h : s.memoryWf) : (checkRow o k s).memoryWf := by
  unfold checkRow
  split
  · exact h
  · refine ite_memoryWf (dropViolation_memoryWf h) ?_
    split
    · exact h
    · exact raiseViolation_memoryWf h

theorem checkRows_memoryWf {flow first n before} (h : s.memoryWf) : (checkRows flow first n before s).memoryWf := by
  unfold checkRows
  split
  · exact h
  · exact foldl_memoryWf (fun _ _ h => ite_memoryWf (checkRow_memoryWf h) h) h

theorem sendEntries_memoryWf {n flow total k es} (h : s.memoryWf) : (sendEntries n flow total k es s).memoryWf := by
  induction k generalizing es s with
  | zero => exact h
  | succ k ih =>
    unfold sendEntries
    dsimp only
    split
    · exact h
    · exact ih (sendFlit_memoryWf h)

theorem flushPort_memoryWf {n flow} (h : s.memoryWf) : (flushPort n flow s).memoryWf :=
  ite_memoryWf h (ite_memoryWf (checkRows_memoryWf (rootTakes_memoryWf (setDiePort_memoryWf h)))
    (sendEntries_memoryWf (setDiePort_memoryWf h)))

theorem takePart_memoryWf {n input flow first xs} (h : s.memoryWf) : (takePart n input flow first xs s).memoryWf :=
  ite_memoryWf h (ite_memoryWf (scheduleFault_memoryWf h _)
    (when_memoryWf (flushPort_memoryWf (setDiePort_memoryWf h)) fun h => scheduleFault_memoryWf h _))

theorem takeEntries_memoryWf {n input flow first xs} (h : s.memoryWf) : (takeEntries n input flow first xs s).memoryWf :=
  foldl_memoryWf (fun _ _ h => takePart_memoryWf h) h

theorem countPortTransport_memoryWf {n flow k} (h : s.memoryWf) : (countPortTransport n flow k s).memoryWf :=
  ite_memoryWf h (when_memoryWf (reportPoison_memoryWf (setDiePort_memoryWf h)) fun h => declareFailed_memoryWf h)

theorem deliverFlit_memoryWf {p flow y} (h : s.memoryWf) : (deliverFlit p flow y s).memoryWf := by
  unfold deliverFlit
  dsimp only
  split
  · refine ite_memoryWf (setComb_memoryWf (progress_memoryWf ?_) _ _ fun _ hc => hc) h
    exact ite_memoryWf (setComb_memoryWf (pendRow_memoryWf h _ _ _ _) _ _ fun _ hc => hc)
      (when_memoryWf (pendRow_memoryWf h _ _ _ _) fun h => pendRow_memoryWf h _ _ _ _)
  · exact h

theorem pruneStaging_memoryWf {n} (h : s.memoryWf) : (pruneStaging n s).memoryWf := setDiePort_memoryWf h

theorem takeStaged_memoryWf {p flow} (h : s.memoryWf) : (takeStaged p flow s).memoryWf :=
  pruneStaging_memoryWf (foldl_memoryWf (fun _ _ h => deliverFlit_memoryWf h) h)

theorem broadcastFlit_memoryWf {n flow f x} (h : s.memoryWf) : (broadcastFlit n flow f x s).memoryWf :=
  ite_memoryWf (scheduleFault_memoryWf (foldl_memoryWf (fun _ _ h => sendFlit_memoryWf h) h) _)
    (unless_memoryWf (foldl_memoryWf (fun _ _ h => sendFlit_memoryWf h) h) fun h => unless_memoryWf
    (foldl_memoryWf (fun _ _ h => countCombTransport_memoryWf h) h) fun h => when_memoryWf
    (foldl_memoryWf (fun _ _ h => takeStaged_memoryWf h) (setDiePort_memoryWf h)) fun h => scheduleFault_memoryWf h _)

/-! ## The instructions of a comb -/

theorem reportSide_memoryWf {p sl x bs} (h : s.memoryWf) : (reportSide p sl x bs s).memoryWf :=
  ite_memoryWf (foldl_memoryWf (fun _ _ h => reportPoison_memoryWf h) h) (ite_memoryWf h (reportPoison_memoryWf h))

theorem eachCell_memoryWf {p region fresh rs cs slices f} (h : s.memoryWf) :
    (eachCell p region fresh rs cs slices f s).memoryWf :=
  setComb_memoryWf h _ _ (fun _ h => h)

theorem replayEntry_memoryWf {p e} (h : s.memoryWf) : (replayEntry p e s).memoryWf :=
  setComb_memoryWf (eachCell_memoryWf (countReads_memoryWf h)) _ _ (fun _ h => h)

theorem markLayerSlack_memoryWf {l} (h : s.memoryWf) : (markLayerSlack l s).memoryWf := ite_memoryWf h (groups_memoryWf h)

theorem fallbackSlack_memoryWf {p n source layers} (h : s.memoryWf) : (fallbackSlack p n source layers s).memoryWf :=
  ite_memoryWf h (raiseHold_memoryWf (foldl_memoryWf (fun _ _ h => markLayerSlack_memoryWf h)
    (setComb_memoryWf h _ _ (fun _ h => h))))

theorem queueReplay_memoryWf {p e} (h : s.memoryWf) : (queueReplay p e s).memoryWf := by
  refine setComb_memoryWf (ite_memoryWf h ?_) _ _ (fun _ h => h)
  split
  · exact h
  · exact fallbackSlack_memoryWf (replayEntry_memoryWf (setComb_memoryWf h _ _ (fun _ h => h)))

theorem countBeats_memoryWf {p region n} (h : s.memoryWf) : (countBeats p region n s).memoryWf := groups_memoryWf h

theorem runDot_memoryWf {i o out} (h : s.memoryWf) : (runDot i o out s).memoryWf := by
  unfold runDot
  dsimp only
  split
  · exact foldl_memoryWf (fun _ _ h => queueReplay_memoryWf h)
      (countBeats_memoryWf (setComb_memoryWf (eachCell_memoryWf
      (countParity_memoryWf (reportSide_memoryWf (reportSide_memoryWf
      (countReads_memoryWf (noteAccesses_memoryWf h)))))) _ _ (fun _ h => h)))
  · exact raiseFaults_memoryWf h _

theorem clearRegion_memoryWf {p region} (h : s.memoryWf) : (clearRegion p region s).memoryWf :=
  setComb_memoryWf h _ _ (fun _ h => h)

theorem enterFabric_memoryWf {i flow xs} (h : s.memoryWf) : (enterFabric i flow xs s).memoryWf :=
  takeEntries_memoryWf (countPortTransport_memoryWf h)

theorem enterRotated_memoryWf {i o c xs} (h : s.memoryWf) : (enterRotated i o c xs s).memoryWf := by
  unfold enterRotated
  split
  · exact h
  · exact enterFabric_memoryWf h

theorem sendPartials_memoryWf {i flow out c xs} (h : s.memoryWf) : (sendPartials i flow out c xs s).memoryWf := by
  refine ite_memoryWf (enterFabric_memoryWf h) ?_
  split
  · exact enterRotated_memoryWf (setComb_memoryWf h _ _ (fun _ h => h))
  · exact setComb_memoryWf h _ _ (fun _ h => h)

theorem nameFlow_memoryWf {x} (h : s.memoryWf) : (nameFlow x s).memoryWf := ite_memoryWf h (groups_memoryWf h)

theorem drainRows_memoryWf {p first bad xs} (h : s.memoryWf) : (drainRows p first bad xs s).memoryWf :=
  foldl_memoryWf (fun _ _ h => setComb_memoryWf h _ _ (fun _ hc => ⟨writeRow_wf hc.1 _ _, hc.2⟩)) h

theorem runEmit_memoryWf {i o out} (h : s.memoryWf) : (runEmit i o out s).memoryWf := by
  refine ite_memoryWf ?_ (ite_memoryWf (scheduleFault_memoryWf h _)
    (sendPartials_memoryWf (clearRegion_memoryWf (nameFlow_memoryWf h))))
  split
  · exact h
  · dsimp only
    split
    · exact clearRegion_memoryWf (setComb_memoryWf (noteWrites_memoryWf
        (noteAccesses_memoryWf (drainRows_memoryWf (countParity_memoryWf (countReads_memoryWf h))))) _ _ (fun _ h => h))
    · exact raiseFaults_memoryWf h _

theorem runRow_memoryWf {i o} (h : s.memoryWf) : (runRow i o s).memoryWf := by
  unfold runRow
  dsimp only
  split
  · refine noteWrites_memoryWf (setComb_memoryWf (foldl_memoryWf (fun _ _ h => ?_) ?_) _ _ fun _ hc => hc)
    · exact setComb_memoryWf h _ _ fun _ hc => ⟨writeRow_wf hc.1 _ _, hc.2⟩
    · exact noteAccesses_memoryWf (countParity_memoryWf (reportRows_memoryWf (countReads_memoryWf h)))
  · exact raiseFaults_memoryWf h _

theorem runSend_memoryWf {i o} (h : s.memoryWf) : (runSend i o s).memoryWf := by
  unfold runSend
  dsimp only
  split
  · exact sendPartials_memoryWf (nameFlow_memoryWf (countParity_memoryWf
      (noteAccesses_memoryWf (reportRows_memoryWf (countReads_memoryWf h)))))
  · exact raiseFaults_memoryWf h _

theorem runReceive_memoryWf {i o} (h : s.memoryWf) : (runReceive i o s).memoryWf := by
  unfold runReceive
  dsimp only
  split
  · exact takeStaged_memoryWf (setComb_memoryWf (foldl_memoryWf (fun _ _ h => pendRow_memoryWf h _ _ _ _)
      (foldl_memoryWf (fun _ _ h => pendRow_memoryWf h _ _ _ _) h)) _ _ (fun _ h => h))
  · exact raiseFaults_memoryWf h _

theorem runFabric_memoryWf {i o} (h : s.memoryWf) : (runFabric i o s).memoryWf :=
  ite_memoryWf (scheduleFault_memoryWf h _) (ite_memoryWf (runSend_memoryWf h) (runReceive_memoryWf h))

theorem runRotate_memoryWf {i o} (h : s.memoryWf) : (runRotate i o s).memoryWf := by
  unfold runRotate
  split
  · exact enterRotated_memoryWf (setComb_memoryWf h _ _ (fun _ h => h))
  · exact setComb_memoryWf h _ _ (fun _ h => h)

theorem runSlot_memoryWf {i o} (h : s.memoryWf) : (runSlot i o s).memoryWf := by
  unfold runSlot
  split
  · exact scheduleFault_memoryWf h _
  · exact setComb_memoryWf h _ _ (fun _ h => h)

theorem closeWindow_memoryWf {p w} (h : s.memoryWf) : (closeWindow p w s).memoryWf :=
  fallbackSlack_memoryWf (setComb_memoryWf (foldl_memoryWf (fun _ _ h => progress_memoryWf (replayEntry_memoryWf h))
    (countWait_memoryWf h)) _ _ (fun _ h => h))

theorem execFallbackWindowClose_memoryWf {p} (h : s.memoryWf) : NextMemoryWf (execFallbackWindowClose p s) :=
  nextMemoryWf_next (ite_memoryWf (ite_memoryWf (ite_memoryWf h
    (ite_memoryWf (afterStop_memoryWf (closeWindow_memoryWf (advanceTo_memoryWf h)))
    (afterStop_memoryWf (raiseContract_memoryWf (closeWindow_memoryWf (reachBefore_memoryWf h))))))
    (ite_memoryWf (afterStop_memoryWf (closeWindow_memoryWf h)) h)) h)

theorem countMend_memoryWf (h : s.memoryWf) : (countMend s).memoryWf := groups_memoryWf h

theorem mendCode_memoryWf {p slot n ws} (h : s.memoryWf) : (mendCode p slot n ws s).memoryWf :=
  ite_memoryWf h (countMend_memoryWf (setComb_memoryWf h _ _ (fun _ hc => ⟨hc.1, writeSlots_wf hc.2 _ _⟩)))

theorem mendFrom_memoryWf {i p byte slot n} (h : s.memoryWf) : (mendFrom i p byte slot n s).memoryWf :=
  unless_memoryWf (readUnits_memoryWf h _ _ _) fun h => mendCode_memoryWf h

theorem waitForBank_memoryWf {p ra} (h : s.memoryWf) : (waitForBank p ra s).memoryWf := countWait_memoryWf h

theorem execMend_memoryWf {p t} (h : s.memoryWf) : NextMemoryWf (execMend p t s) := by
  refine nextMemoryWf_next ?_
  split
  · exact h
  · refine ite_memoryWf h ?_
    split
    · split
      · exact h
      · exact ite_memoryWf (unless_memoryWf (readUnits_memoryWf h _ _ _) fun h => countMend_memoryWf
          (waitForBank_memoryWf (setComb_memoryWf h _ _ (fun _ hc => ⟨writeRow_wf hc.1 _ _, hc.2⟩)))) h
    · exact ite_memoryWf (mendFrom_memoryWf h) h
    · exact ite_memoryWf (mendFrom_memoryWf h) h

theorem queueMend_memoryWf {p ra} (h : s.memoryWf) : (queueMend p ra s).memoryWf :=
  ite_memoryWf (setComb_memoryWf h _ _ (fun _ h => h)) h

theorem execScrubRow_memoryWf {p ra} (h : s.memoryWf) : NextMemoryWf (execScrubRow p ra s) := by
  refine nextMemoryWf_next (ite_memoryWf (afterStop_memoryWf (when_memoryWf (waitForBank_memoryWf (when_memoryWf
    (setComb_memoryWf h _ _ fun c hc => ⟨?_, hc.2⟩) fun h => queueMend_memoryWf h)) fun h => declareFailed_memoryWf h)) h)
  dsimp only
  split
  · exact writeRow_wf hc.1 _ _
  · exact hc.1

/-! ## The wide datapath -/

theorem runOp_memoryWf {i k a op} (ha : a.2.memoryWf) : (runOp i k a op).2.memoryWf := groups_memoryWf ha

theorem flagEvents_memoryWf {o k n events} (h : s.memoryWf) : (flagEvents o k n events s).memoryWf :=
  ite_memoryWf h (raiseViolation_memoryWf (countLayer_memoryWf h))

theorem runOps_memoryWf {i o ops k} (h : s.memoryWf) : (runOps i o ops k s).memoryWf :=
  flagEvents_memoryWf (snd_foldl_memoryWf (fun _ _ h => runOp_memoryWf h) h)

theorem formActs_memoryWf {i flow o k x} (h : s.memoryWf) : (formActs i flow o k x s).memoryWf := by
  unfold formActs
  split
  · exact h
  · exact flagEvents_memoryWf (countLayer_memoryWf (groups_memoryWf h))

theorem broadcast_memoryWf {flow words} (h : s.memoryWf) : (broadcast flow words s).memoryWf :=
  foldl_memoryWf (fun _ _ h => foldl_memoryWf (fun _ _ h => sendFlit_memoryWf h) h) h

theorem sendActs_memoryWf {i flow} (h : s.memoryWf) : (sendActs i flow s).memoryWf := broadcast_memoryWf h

theorem sendKv_memoryWf {i x} (h : s.memoryWf) : (sendKv i x s).memoryWf := by
  unfold sendKv
  split
  · exact h
  · dsimp only
    split
    · exact setLive_memoryWf h
    · split
      · exact writeKv_memoryWf (writeKv_memoryWf (foldl_memoryWf (fun _ _ h => writeKv_memoryWf h _ _ _ _ _)
          (writeKv_memoryWf (writeKv_memoryWf (setLive_memoryWf h) _ _ _ _ _) _ _ _ _ _)) _ _ _ _ _) _ _ _ _ _
      · exact writeKv_memoryWf (foldl_memoryWf (fun _ _ h => writeKv_memoryWf h _ _ _ _ _)
          (writeKv_memoryWf (writeKv_memoryWf (setLive_memoryWf h) _ _ _ _ _) _ _ _ _ _)) _ _ _ _ _

theorem formKv_memoryWf {i o w k} (h : s.memoryWf) : (formKv i o w k s).memoryWf := by
  unfold formKv
  split
  · exact ite_memoryWf h (flagEvents_memoryWf (countLayer_memoryWf
      (ite_memoryWf (sendKv_memoryWf h) (groups_memoryWf h))))
  · exact h

theorem commitKv_memoryWf {i accepted} (h : s.memoryWf) : (commitKv i accepted s).memoryWf :=
  groups_memoryWf (foldl_memoryWf (fun _ _ h => sendKv_memoryWf h) h)

theorem takeRouter_memoryWf {i rows} (h : s.memoryWf) : (takeRouter i rows s).memoryWf := by
  unfold takeRouter
  split
  · exact h
  · exact ite_memoryWf (shelf_memoryWf h) (groups_memoryWf h)

theorem sendList_memoryWf {flow ws} (h : s.memoryWf) : (sendList flow ws s).memoryWf :=
  broadcast_memoryWf (groups_memoryWf h)

theorem sendIndex_memoryWf {i flows} (h : s.memoryWf) : (sendIndex i flows s).memoryWf := by
  refine snd_foldl_memoryWf (fun _ _ h => ?_) h
  dsimp only
  split <;> exact sendList_memoryWf h

theorem takeWide_memoryWf {flow w} (h : s.memoryWf) : (takeWide flow w s).memoryWf := by
  unfold takeWide
  split
  · exact h
  · refine sendIndex_memoryWf ?_
    split
    · refine foldl_memoryWf (fun _ _ h => formKv_memoryWf h) ?_
      split
      · exact foldl_memoryWf (fun _ _ h => runOps_memoryWf h) h
      · exact sendActs_memoryWf (foldl_memoryWf (fun _ _ h => formActs_memoryWf h)
          (foldl_memoryWf (fun _ _ h => runOps_memoryWf h) h))
    · refine takeRouter_memoryWf (foldl_memoryWf (fun _ _ h => formKv_memoryWf h) ?_)
      split
      · exact foldl_memoryWf (fun _ _ h => runOps_memoryWf h) h
      · exact sendActs_memoryWf (foldl_memoryWf (fun _ _ h => formActs_memoryWf h)
          (foldl_memoryWf (fun _ _ h => runOps_memoryWf h) h))

theorem reductionFlit_memoryWf {n d flow x residue} (h : s.memoryWf) : (reductionFlit n d flow x residue s).memoryWf :=
  takeEntries_memoryWf (countPortTransport_memoryWf h)

theorem takeFlit_memoryWf {link dir x w} (h : s.memoryWf) : (takeFlit link dir x w s).memoryWf :=
  ite_memoryWf h (ite_memoryWf h (ite_memoryWf (scheduleFault_memoryWf h _)
    (ite_memoryWf (ite_memoryWf h (broadcastFlit_memoryWf h)) (reductionFlit_memoryWf h))))

theorem atRoot_memoryWf {link dir x w} (h : s.memoryWf) : (atRoot link dir x w s).memoryWf :=
  ite_memoryWf (takeWide_memoryWf h) h

theorem takeFrame_memoryWf {link dir x w} (h : s.memoryWf) : (takeFrame link dir x w s).memoryWf :=
  atRoot_memoryWf (takeFlit_memoryWf h)

theorem frameFails_memoryWf {link dir group f} (h : s.memoryWf) : (frameFails link dir group f s).memoryWf :=
  when_memoryWf (sendIdle_memoryWf (setLink_memoryWf h)) fun h => declareFailed_memoryWf h

theorem execLinkFrameReceive_memoryWf {link dir group f wide} (h : s.memoryWf) :
    NextMemoryWf (execLinkFrameReceive link dir group f wide s) :=
  nextMemoryWf_next (ite_memoryWf (ite_memoryWf (afterStop_memoryWf (frameFails_memoryWf h))
    (ite_memoryWf (afterStop_memoryWf (atRoot_memoryWf
    (when_memoryWf (setLink_memoryWf h) fun h => resendFrames_memoryWf h)))
    (unless_memoryWf (when_memoryWf (setLink_memoryWf h) fun h => resendFrames_memoryWf h) fun h => afterStop_memoryWf
    (takeFrame_memoryWf (progress_memoryWf (setLink_memoryWf h)))))) h)

/-! ## Slots -/

theorem takeSlots_memoryWf (h : s.memoryWf) : (takeSlots s).memoryWf := by
  unfold takeSlots
  split
  · exact h
  · exact groups_memoryWf h

theorem discardBatch_memoryWf (h : s.memoryWf) : (discardBatch s).memoryWf := groups_memoryWf h

theorem closePoisoned_memoryWf (h : s.memoryWf) : (closePoisoned s).memoryWf :=
  foldl_memoryWf (fun _ _ h => setLive_memoryWf h) h

theorem runSampling_memoryWf {i rows} (h : s.memoryWf) : (runSampling i rows s).memoryWf :=
  ite_memoryWf (commitKv_memoryWf (discardBatch_memoryWf h))
    (groups_memoryWf (commitKv_memoryWf (foldl_memoryWf (fun _ _ h => setLive_memoryWf h) (closePoisoned_memoryWf h))))

theorem runHead_memoryWf {i hs} (h : s.memoryWf) : (runHead i hs s).memoryWf :=
  foldl_memoryWf (fun _ _ h => runOps_memoryWf h) h

theorem execSamplingPhase_memoryWf {rows} (h : s.memoryWf) : NextMemoryWf (execSamplingPhase rows s) := by
  refine nextMemoryWf_next ?_
  split
  · exact h
  · exact ite_memoryWf (runSampling_memoryWf (runHead_memoryWf h)) h

/-! ## The step boundary -/

theorem settleOne_memoryWf {x} (h : s.memoryWf) : (settleOne x s).memoryWf := by
  unfold settleOne
  dsimp only
  split
  · exact setLive_memoryWf (groups_memoryWf h)
  · exact groups_memoryWf h

theorem settleRaised_memoryWf (h : s.memoryWf) : (settleRaised s).memoryWf :=
  groups_memoryWf (foldl_memoryWf (fun _ _ h => settleOne_memoryWf h) h)

theorem settleLayers_memoryWf (h : s.memoryWf) : (settleLayers s).memoryWf := groups_memoryWf h

theorem commitStep_memoryWf {n} (h : s.memoryWf) : (commitStep n s).memoryWf := by
  unfold commitStep
  split
  · exact h
  · split
    · exact h
    · exact when_memoryWf (unless_memoryWf (storeHistory_memoryWf (setLive_memoryWf h) _ _) fun h => groups_memoryWf h)
        fun h => stateFrame_memoryWf h

theorem commitSteps_memoryWf (h : s.memoryWf) : (commitSteps s).memoryWf :=
  foldl_memoryWf (fun _ _ h => commitStep_memoryWf h) (settleLayers_memoryWf (settleRaised_memoryWf h))

theorem cancelPark_memoryWf {n} (h : s.memoryWf) : (cancelPark n s).memoryWf := by
  unfold cancelPark
  split
  · exact h
  · refine ite_memoryWf (completeAll_memoryWf (completeAll_memoryWf ?_)) h
    split
    · exact freeCancelled_memoryWf (setObject_memoryWf (setLive_memoryWf h))
    · exact setLive_memoryWf h

theorem endResume_memoryWf {n} (h : s.memoryWf) : (endResume n s).memoryWf := by
  unfold endResume
  split
  · exact h
  · refine ite_memoryWf (completeAll_memoryWf ?_) h
    split
    · exact freeObject_memoryWf (setLive_memoryWf h)
    · exact setLive_memoryWf h

theorem closeAtBoundary_memoryWf {n} (h : s.memoryWf) : (closeAtBoundary n s).memoryWf := by
  unfold closeAtBoundary
  split
  · exact h
  · split
    · exact h
    · exact ite_memoryWf h (ite_memoryWf (closeParked_memoryWf (emitAll_memoryWf h))
        (closeStream_memoryWf (emitAll_memoryWf h)))

theorem stopAtBoundary_memoryWf {n} (h : s.memoryWf) : (stopAtBoundary n s).memoryWf := setLive_memoryWf h

theorem parkAtBoundary_memoryWf {n} (h : s.memoryWf) : (parkAtBoundary n s).memoryWf := by
  unfold parkAtBoundary
  split
  · exact h
  · refine ite_memoryWf ?_ h
    split
    · exact beginPark_memoryWf (emitAll_memoryWf h)
    · exact beginPark_memoryWf (emitAll_memoryWf h)
    · exact beginPark_memoryWf (emitAll_memoryWf h)
    · exact beginPark_memoryWf (emitAll_memoryWf h)
    · exact setLive_memoryWf h

theorem streamEvents_memoryWf {n} (h : s.memoryWf) : (streamEvents n s).memoryWf :=
  parkAtBoundary_memoryWf (stopAtBoundary_memoryWf (closeAtBoundary_memoryWf
    (endResume_memoryWf (cancelPark_memoryWf h))))

theorem underNewTable_memoryWf (h : s.memoryWf) : (underNewTable s).memoryWf := ite_memoryWf (groups_memoryWf h) h

theorem quiesce_memoryWf (h : s.memoryWf) : (quiesce s).memoryWf := groups_memoryWf h

theorem openStep_memoryWf (h : s.memoryWf) : (openStep s).memoryWf := by
  unfold openStep
  exact advanceService_memoryWf (startWrites_memoryWf
    (ite_memoryWf (quiesce_memoryWf (underNewTable_memoryWf
    (sweepPrefixes_memoryWf (foldl_memoryWf (fun _ _ h => streamEvents_memoryWf h) h))))
    (takeSlots_memoryWf (underNewTable_memoryWf (sweepPrefixes_memoryWf
    (foldl_memoryWf (fun _ _ h => streamEvents_memoryWf h) h))))))

theorem execStepBoundary_memoryWf (h : s.memoryWf) : NextMemoryWf (execStepBoundary s) :=
  nextMemoryWf_next (ite_memoryWf (endBoundary_memoryWf (openStep_memoryWf (commitSteps_memoryWf (groups_memoryWf h)))) h)

/-! ## Telemetry -/

theorem opTelemetryRead_keepsMemory : opTelemetryRead.KeepsMemory := fun _ _ h => answered_memoryWf h

theorem thermalNotice_memoryWf {c index value severity kind subject} (h : s.memoryWf) :
    (thermalNotice c index value severity kind subject s).memoryWf :=
  raiseNotice_memoryWf h _ _ _ _ _ _

theorem warningNotice_memoryWf {severity w} (h : s.memoryWf) : (warningNotice severity w s).memoryWf :=
  raiseNotice_memoryWf h _ _ _ _ _ _

theorem raiseWarning_memoryWf {c index value} (h : s.memoryWf) : (raiseWarning c index value s).memoryWf :=
  ite_memoryWf h (warningNotice_memoryWf (groups_memoryWf h))

/-! ## Cooling -/

theorem takeModes_memoryWf (h : s.memoryWf) : (takeModes s).memoryWf := groups_memoryWf h

theorem stepSpots_memoryWf {w} (h : s.memoryWf) : (stepSpots w s).memoryWf := groups_memoryWf h

theorem judgeSensors_memoryWf {w} (h : s.memoryWf) : (judgeSensors w s).memoryWf := groups_memoryWf h

theorem capCombs_memoryWf {w} (h : s.memoryWf) : (capCombs w s).memoryWf :=
  foldl_memoryWf (fun _ _ h => thermalNotice_memoryWf h) (groups_memoryWf h)

theorem retireSensor_memoryWf {i} (h : s.memoryWf) : (retireSensor i s).memoryWf :=
  thermalNotice_memoryWf (groups_memoryWf h)

theorem retireSuspects_memoryWf (h : s.memoryWf) : (retireSuspects s).memoryWf :=
  foldl_memoryWf (fun _ _ h => ite_memoryWf (retireSensor_memoryWf h) h) h

theorem checkPairs_memoryWf (h : s.memoryWf) : (checkPairs s).memoryWf := by
  unfold checkPairs
  dsimp only
  split
  · exact groups_memoryWf h
  · exact unless_memoryWf (groups_memoryWf h) fun h => thermalNotice_memoryWf (groups_memoryWf h)

theorem markHot_memoryWf (h : s.memoryWf) : (markHot s).memoryWf :=
  foldl_memoryWf (fun _ _ h => setStack_memoryWf h _ _ (fun _ h => h)) h

theorem powerControl_memoryWf {w} (h : s.memoryWf) : (powerControl w s).memoryWf :=
  ite_memoryWf (groups_memoryWf h) (ite_memoryWf (ite_memoryWf (groups_memoryWf h) (groups_memoryWf h))
    (groups_memoryWf h))

theorem inputWarnings_memoryWf (h : s.memoryWf) : (inputWarnings s).memoryWf :=
  when_memoryWf (groups_memoryWf (ite_memoryWf (raiseWarning_memoryWf h) h)) fun h => raiseWarning_memoryWf h

theorem coolDown_memoryWf {powers} (h : s.memoryWf) : (coolDown powers s).memoryWf :=
  ite_memoryWf (ite_memoryWf (groups_memoryWf h) (groups_memoryWf h))
    (ite_memoryWf (groups_memoryWf h) (groups_memoryWf h))

theorem warmUp_memoryWf (h : s.memoryWf) : (warmUp s).memoryWf := by
  unfold warmUp
  dsimp only
  split
  · exact groups_memoryWf h
  · exact ite_memoryWf (ite_memoryWf (groups_memoryWf h) (groups_memoryWf h)) (groups_memoryWf h)

theorem thermalControl_memoryWf {w} (h : s.memoryWf) : (thermalControl w s).memoryWf :=
  ite_memoryWf (coolDown_memoryWf h) (ite_memoryWf (warmUp_memoryWf h) (groups_memoryWf h))

theorem thermalStop_memoryWf {j} (h : s.memoryWf) : (thermalStop j s).memoryWf := by
  unfold thermalStop
  extract_lets epoch n v i u tide cool w
  have hw : w.memoryWf := groups_memoryWf (thermalNotice_memoryWf (halt_memoryWf h _))
  exact ite_memoryWf (parkAll_memoryWf (groups_memoryWf hw) fun _ _ h => h) hw

theorem checkStop_memoryWf (h : s.memoryWf) : (checkStop s).memoryWf := by
  refine ite_memoryWf ?_ h
  split
  · exact advanceService_memoryWf (thermalStop_memoryWf h)
  · exact h

theorem addEpoch_memoryWf (h : s.memoryWf) : (addEpoch s).memoryWf := groups_memoryWf h

theorem takeSamples_memoryWf {w} (h : s.memoryWf) : (takeSamples w s).memoryWf := groups_memoryWf h

theorem execTelemetryWindowEnd_memoryWf {w} (h : s.memoryWf) : NextMemoryWf (execTelemetryWindowEnd w s) :=
  nextMemoryWf_next (ite_memoryWf (checkStop_memoryWf
    (when_memoryWf (addEpoch_memoryWf (inputWarnings_memoryWf
    (powerControl_memoryWf (markHot_memoryWf (checkPairs_memoryWf
    (capCombs_memoryWf (judgeSensors_memoryWf (stepSpots_memoryWf (takeSamples_memoryWf h))))))))) fun h =>
    thermalControl_memoryWf h)) h)

theorem execReportPeriodEnd_memoryWf (h : s.memoryWf) : NextMemoryWf (execReportPeriodEnd s) :=
  nextMemoryWf_next (ite_memoryWf (foldl_memoryWf (fun _ _ h => ite_memoryWf (raiseWarning_memoryWf h) h)
    (groups_memoryWf h)) h)

theorem rotateQuadrants_memoryWf (h : s.memoryWf) : (rotateQuadrants s).memoryWf := by
  refine ⟨zipIdx_map_combs_wf (fun x hx => ?_) h.1, h.2⟩
  dsimp only
  split
  · exact hx
  · split <;> exact hx

theorem rebaseline_memoryWf {rc} (h : s.memoryWf) : (rebaseline rc s).memoryWf := ite_memoryWf (groups_memoryWf h) h

theorem degrade_memoryWf (h : s.memoryWf) : (degrade s).memoryWf :=
  ite_memoryWf (thermalNotice_memoryWf (groups_memoryWf (ite_memoryWf (thermalNotice_memoryWf h) h)))
    (when_memoryWf (ite_memoryWf (thermalNotice_memoryWf h) h) fun h => groups_memoryWf h)

theorem checkCooling_memoryWf (h : s.memoryWf) : (checkCooling s).memoryWf := by
  refine groups_memoryWf (unless_memoryWf ?_ fun h => degrade_memoryWf h)
  split
  · exact rebaseline_memoryWf (groups_memoryWf h)
  · exact h

theorem rollSensors_memoryWf (h : s.memoryWf) : (rollSensors s).memoryWf := groups_memoryWf h

theorem resendWarnings_memoryWf (h : s.memoryWf) : (resendWarnings s).memoryWf :=
  foldl_memoryWf (fun _ _ h => warningNotice_memoryWf h) h

/-! ## The serving decision -/

theorem pagesOk_memoryWf {i n reach} (h : s.memoryWf) : (pagesOk i n reach s).2.memoryWf := by
  unfold pagesOk
  split
  · exact h
  · dsimp only
    split
    · next heq => exact extendMap_memoryWf (setLive_memoryWf (of_eq_pair_memoryWf (pagesFor_memoryWf h) heq))
    · next heq => exact (of_eq_pair_memoryWf (pagesFor_memoryWf h) heq)

theorem takeFree_memoryWf {n k d} (hd : d.state.memoryWf) : (takeFree n k d).state.memoryWf := hd

theorem pauseStream_memoryWf {n reason} (h : s.memoryWf) : (pauseStream n reason s).memoryWf := setLive_memoryWf h

theorem holdStream_memoryWf {n reason} (h : s.memoryWf) : (holdStream n reason s).memoryWf := setLive_memoryWf h

theorem decideDecode_memoryWf {i d p} (hd : d.state.memoryWf) : (decideDecode i d p).state.memoryWf :=
  decision_ite_memoryWf (decision_ite_memoryWf hd (takeFree_memoryWf hd))
    (decision_ite_memoryWf (pauseStream_memoryWf hd)
    (decision_ite_memoryWf (decision_ite_memoryWf (takeFree_memoryWf (setLive_memoryWf (pagesOk_memoryWf hd)))
    (pauseStream_memoryWf (pagesOk_memoryWf hd))) (pauseStream_memoryWf (pagesOk_memoryWf hd))))

theorem decidePrefill_memoryWf {i d p} (hd : d.state.memoryWf) : (decidePrefill i d p).state.memoryWf :=
  decision_ite_memoryWf hd (decision_ite_memoryWf (holdStream_memoryWf hd)
    (decision_ite_memoryWf (decision_ite_memoryWf (holdStream_memoryWf (pagesOk_memoryWf hd))
    (holdStream_memoryWf (pagesOk_memoryWf hd))) (holdStream_memoryWf (pagesOk_memoryWf hd))))

theorem clearPages_memoryWf (h : s.memoryWf) : (clearPages s).memoryWf := by
  refine foldl_memoryWf (fun _ _ h => movePrefix_memoryWf h) (foldl_memoryWf (fun _ _ h => ?_) h)
  split
  · exact setLive_memoryWf h
  · exact setLive_memoryWf h
  · exact setLive_memoryWf h
  · exact setLive_memoryWf h
  · exact h

theorem shrinkArea_memoryWf {i j last} (h : s.memoryWf) : (shrinkArea i j last s).memoryWf :=
  foldl_memoryWf (fun _ _ h => ite_memoryWf (setExpert_memoryWf h) h) h

theorem shrinkAreas_memoryWf {area} (h : s.memoryWf) : (shrinkAreas area s).memoryWf := by
  unfold shrinkAreas
  split
  · exact h
  · exact foldl_memoryWf (fun _ _ h => shrinkArea_memoryWf h) h

theorem demoteEarly_memoryWf (h : s.memoryWf) : (demoteEarly s).memoryWf := ite_memoryWf (shrinkAreas_memoryWf h) h

theorem serveNext_memoryWf {i} (h : s.memoryWf) : (serveNext i s).memoryWf :=
  groups_memoryWf (decision_foldl_memoryWf (fun _ _ h => decidePrefill_memoryWf h)
    (decision_foldl_memoryWf (fun _ _ h => decideDecode_memoryWf h) (clearPages_memoryWf (demoteEarly_memoryWf h))))

theorem execServeNextInterval_memoryWf (h : s.memoryWf) : NextMemoryWf (execServeNextInterval s) := by
  refine nextMemoryWf_next ?_
  split
  · exact ite_memoryWf (serveNext_memoryWf (groups_memoryWf h)) h
  · exact h

theorem parkByDelay_memoryWf {from_ n delay} (h : s.memoryWf) : (parkByDelay from_ n delay s).memoryWf := by
  unfold parkByDelay
  split
  · exact ite_memoryWf (setLive_memoryWf h) h
  · exact h

theorem countClasses_memoryWf (h : s.memoryWf) : (countClasses s).memoryWf :=
  foldl_memoryWf (fun _ _ h => ite_memoryWf (groups_memoryWf h) h) h

theorem rollClasses_memoryWf (h : s.memoryWf) : (rollClasses s).memoryWf :=
  foldl_memoryWf (fun _ _ h => ite_memoryWf (raiseNotice_memoryWf h _ _ _ _ _ _) h) (groups_memoryWf h)

/-! ## The epoch -/

theorem lowerKv_memoryWf (h : s.memoryWf) : (lowerKv s).memoryWf := by
  unfold lowerKv
  extract_lets cut lower shelf t
  have ht : t.memoryWf := ⟨h.1, map_stacks_wf (fun _ => rfl) h.2⟩
  split
  · exact ht
  · exact foldl_memoryWf (fun _ _ h => declareFailed_memoryWf h) (clearPages_memoryWf ht)

theorem setArea_memoryWf {n} (h : s.memoryWf) : (setArea n s).memoryWf := groups_memoryWf h

theorem takeE_memoryWf (h : s.memoryWf) : (takeE s).memoryWf :=
  ite_memoryWf (ite_memoryWf (when_memoryWf (shelf_memoryWf h) fun h => raiseNotice_memoryWf h _ _ _ _ _ _)
    (setArea_memoryWf (shelf_memoryWf h))) (when_memoryWf (shelf_memoryWf h) fun h => shrinkAreas_memoryWf h)

theorem avoidLink_memoryWf {l} (h : s.memoryWf) : (avoidLink l s).memoryWf := by
  unfold avoidLink
  split
  · exact h
  · exact ite_memoryWf (declareFailed_memoryWf h) h

theorem markMargin_memoryWf {l dir} (h : s.memoryWf) : (markMargin l dir s).memoryWf :=
  ite_memoryWf (raiseNotice_memoryWf (setLink_memoryWf h) _ _ _ _ _ _) h

theorem checkWidth_memoryWf {l} (h : s.memoryWf) : (checkWidth l s).memoryWf :=
  ite_memoryWf h (ite_memoryWf (declareFailed_memoryWf h)
    (when_memoryWf (markMargin_memoryWf (markMargin_memoryWf h)) fun h => avoidLink_memoryWf h))

theorem retireLanes_memoryWf (h : s.memoryWf) : (retireLanes s).memoryWf :=
  foldl_memoryWf (fun _ _ h => checkWidth_memoryWf h) (groups_memoryWf h)

theorem flipPromotion_memoryWf {i x} (h : s.memoryWf) : (flipPromotion i x s).memoryWf := by
  refine foldl_memoryWf (fun _ _ h => ?_) (foldl_memoryWf (fun _ _ h => setExpert_memoryWf h) h)
  dsimp only
  split
  · exact setExpert_memoryWf (setStack_memoryWf h _ _ (fun _ hk => writeUnits_wf hk _ _))
  · exact h

theorem rollExperts_memoryWf (h : s.memoryWf) : (rollExperts s).memoryWf := by
  unfold rollExperts
  split
  · exact h
  · exact shelf_memoryWf (foldl_memoryWf (fun _ _ h => flipPromotion_memoryWf h) (shelf_memoryWf h))

theorem retireChannels_memoryWf (h : s.memoryWf) : (retireChannels s).memoryWf :=
  foldl_memoryWf (fun _ _ h => ite_memoryWf h (foldl_memoryWf
    (fun _ _ h => ite_memoryWf (retireChannel_memoryWf h) h) h)) h

theorem rollCounters_memoryWf (h : s.memoryWf) : (rollCounters s).memoryWf :=
  ⟨map_combs_wf (fun _ hc => hc) h.1, map_stacks_wf (fun _ => rfl) h.2⟩

theorem epochActions_memoryWf (h : s.memoryWf) : (epochActions s).memoryWf :=
  rollClasses_memoryWf (resendWarnings_memoryWf (takeModes_memoryWf
    (rollSensors_memoryWf (checkCooling_memoryWf (retireSuspects_memoryWf
    (rollCounters_memoryWf (rollExperts_memoryWf (retireChannels_memoryWf
    (retireLanes_memoryWf (rotateQuadrants_memoryWf (takeE_memoryWf (lowerKv_memoryWf h))))))))))))

/-! ## Boundaries -/

theorem execHoldRaise_memoryWf {cause point source} (h : s.memoryWf) :
    NextMemoryWf (execHoldRaise cause point source s) :=
  nextMemoryWf_next (ite_memoryWf h (ite_memoryWf (ite_memoryWf (freezeAt_memoryWf h) h)
    (ite_memoryWf (ite_memoryWf (raiseHold_memoryWf (passSlack_memoryWf h)) (ite_memoryWf (raiseHold_memoryWf h) h)) h)))

theorem startPrograms_memoryWf {i k} (h : s.memoryWf) : (startPrograms i k s).memoryWf := by
  refine ⟨zipIdx_map_combs_wf (fun x hx => ?_) h.1, h.2⟩
  split <;> exact hx

theorem endPhase_memoryWf {i} (h : s.memoryWf) : (endPhase i s).memoryWf := ⟨map_combs_wf (fun _ hc => hc) h.1, h.2⟩

theorem refetchSlice_memoryWf {p x} (h : s.memoryWf) : (refetchSlice p x s).memoryWf := by
  unfold refetchSlice
  dsimp only
  split
  · exact setComb_memoryWf h _ _ fun _ hc => hc
  · refine foldl_memoryWf (fun _ _ h => pendRow_memoryWf h _ _ _ _) (snd_ite_memoryWf ?_ (startPagein_memoryWf ?_))
    · refine when_memoryWf (foldl_memoryWf (fun _ _ h => ite_memoryWf (reportPoison_memoryWf h) h)
        (readUnits_memoryWf ?_ _ _ _)) fun h => setExpert_memoryWf h
      exact setComb_memoryWf h _ _ fun _ hc => hc
    · exact setComb_memoryWf h _ _ fun _ hc => hc

theorem refetchPosition_memoryWf {layer x} (h : s.memoryWf) : (refetchPosition layer x s).memoryWf :=
  foldl_memoryWf (fun _ _ h => ite_memoryWf h (foldl_memoryWf (fun _ _ h => refetchSlice_memoryWf h)
    (setStack_memoryWf h _ _ (fun _ h => h)))) h

theorem beginPhase_memoryWf {i} (h : s.memoryWf) : (beginPhase i s).memoryWf := by
  unfold beginPhase
  dsimp only
  split
  · exact startPrograms_memoryWf h
  · split
    · exact groups_memoryWf (foldl_memoryWf (fun _ _ h => refetchPosition_memoryWf h) (startPrograms_memoryWf h))
    · exact startPrograms_memoryWf h

theorem takeT_memoryWf (h : s.memoryWf) : (takeT s).memoryWf := groups_memoryWf h

theorem advanceNumber_memoryWf (h : s.memoryWf) : (advanceNumber s).memoryWf := groups_memoryWf h

theorem crossGate_memoryWf {i} (h : s.memoryWf) : (crossGate i s).memoryWf :=
  endBoundary_memoryWf (when_memoryWf (when_memoryWf
    (takeT_memoryWf (advanceNumber_memoryWf (when_memoryWf (advanceTo_memoryWf h) fun h => endPhase_memoryWf h))) fun h =>
    beginPhase_memoryWf h) fun h => raiseHold_memoryWf h)

theorem execTideBoundary_memoryWf (h : s.memoryWf) : NextMemoryWf (execTideBoundary s) := by
  refine nextMemoryWf_next ?_
  split
  · exact ite_memoryWf (crossGate_memoryWf h) h
  · exact h

theorem takeTables_memoryWf (h : s.memoryWf) : (takeTables s).memoryWf := groups_memoryWf h

theorem execServingIntervalBoundary_memoryWf (h : s.memoryWf) : NextMemoryWf (execServingIntervalBoundary s) :=
  nextMemoryWf_next (ite_memoryWf (endBoundary_memoryWf
    (takeTables_memoryWf (countClasses_memoryWf (groups_memoryWf h)))) h)

theorem execEpochBoundary_memoryWf (h : s.memoryWf) : NextMemoryWf (execEpochBoundary s) :=
  nextMemoryWf_next (ite_memoryWf (afterStop_memoryWf
    (endBoundary_memoryWf (epochActions_memoryWf (groups_memoryWf h)))) h)

theorem writeIndex_memoryWf {p ra es} (h : s.memoryWf) : (writeIndex p ra es s).memoryWf :=
  foldl_memoryWf (fun _ _ h => setComb_memoryWf h _ _ (fun _ hc => ⟨writeRow_wf hc.1 _ _, hc.2⟩)) h

theorem prologueGather_memoryWf {p o runs} (h : s.memoryWf) : (prologueGather p o runs s).2.memoryWf :=
  fillGather_memoryWf (writeIndex_memoryWf h)

theorem prologueFills_memoryWf {i ops} (h : s.memoryWf) : (prologueFills i ops s).memoryWf :=
  snd_foldl_memoryWf (fun _ _ h => snd_ite_memoryWf (prologueGather_memoryWf h) (fillStream_memoryWf h)) h

theorem startFirst_memoryWf (h : s.memoryWf) : (startFirst s).memoryWf := by
  unfold startFirst
  split
  · exact startPrograms_memoryWf h
  · exact h

theorem startBoundary_memoryWf (h : s.memoryWf) : (startBoundary s).memoryWf := by
  unfold startBoundary
  exact ite_memoryWf (openStep_memoryWf (startFirst_memoryWf
    (epochActions_memoryWf (takeTables_memoryWf (takeT_memoryWf (groups_memoryWf h))))))
    (advanceService_memoryWf (startFirst_memoryWf (epochActions_memoryWf
    (takeTables_memoryWf (takeT_memoryWf (groups_memoryWf h))))))

theorem execDataPlaneStart_memoryWf (h : s.memoryWf) : NextMemoryWf (execDataPlaneStart s) := by
  unfold execDataPlaneStart
  split
  · exact nextMemoryWf_next h
  · exact nextMemoryWf_ite (nextMemoryWf_ite nextMemoryWf_fault
      (nextMemoryWf_next (prologueFills_memoryWf (startBoundary_memoryWf h)))) (nextMemoryWf_next h)

theorem landRows_memoryWf {p} (h : s.memoryWf) : (landRows p s).memoryWf :=
  foldl_memoryWf (fun _ _ h => landRow_memoryWf h _ _) h

theorem execPrologueLanded_memoryWf (h : s.memoryWf) : NextMemoryWf (execPrologueLanded s) :=
  nextMemoryWf_next (ite_memoryWf (openTide_memoryWf
    (groups_memoryWf (draw_memoryWf (foldl_memoryWf (fun _ _ h => landRows_memoryWf h) h)))) h)

theorem execPrologueTimeout_memoryWf {channels} (h : s.memoryWf) : NextMemoryWf (execPrologueTimeout channels s) :=
  nextMemoryWf_next (ite_memoryWf (advanceService_memoryWf
    (foldl_memoryWf (fun _ _ h => declareFailed_memoryWf h) (halt_memoryWf (groups_memoryWf h) _))) h)

/-! ## Remap and classification -/

theorem retireFailed_memoryWf (h : s.memoryWf) : (retireFailed s).memoryWf :=
  foldl_memoryWf (fun _ _ h => retireSource_memoryWf h) h

theorem settleMapping_memoryWf {i selfTestFails k} (h : s.memoryWf) : (settleMapping i selfTestFails k s).1.memoryWf := by
  induction k generalizing s with
  | zero => exact h
  | succ k ih =>
    unfold settleMapping
    dsimp only
    split
    · exact h
    · split
      · exact h
      · exact ih (foldl_memoryWf (fun _ _ h => retireComb_memoryWf h) h)

theorem relaidStack_wf (h : s.memoryWf) (i : Image) (old new : List Nat) (j : Nat) :
    Memory.wf (relaidStack i old new j s).mem = true := by
  refine foldl_inv (fun m => Memory.wf m = true) _ (fun m x hm => ?_) _ _
    (foldl_inv (fun m => Memory.wf m = true) _ (fun _ _ hm => writeUnits_wf hm _ _) _ _ (stack_wf h j))
  split
  · exact writeUnits_wf hm _ _
  · exact hm

theorem relocate_memoryWf {i old new} (h : s.memoryWf) : (relocate i old new s).memoryWf := by
  unfold relocate
  dsimp only
  rw [List.foldl_map]
  exact writeCode_memoryWf (foldl_memoryWf (fun _ _ ht => setStack_memoryWf ht _ _ fun _ _ => relaidStack_wf h ..) h)

theorem fillMoved_memoryWf {i old new} (h : s.memoryWf) : (fillMoved i old new s).memoryWf :=
  foldl_memoryWf (fun _ _ h => fillComb_memoryWf h) h

theorem moveKv_memoryWf {i before} (h : s.memoryWf) : (moveKv i before s).memoryWf :=
  foldl_memoryWf (fun _ _ h => foldl_memoryWf (fun _ _ h => foldl_memoryWf
    (fun _ _ h => ite_memoryWf h (copyPage_memoryWf h _ _ _ _ _)) h) h) (extendMap_memoryWf h)

theorem completeRemap_memoryWf {i new tree} (h : s.memoryWf) : (completeRemap i new tree s).memoryWf := by
  unfold completeRemap
  exact raiseNotice_memoryWf (moveKv_memoryWf (groups_memoryWf (fillMoved_memoryWf (relocate_memoryWf h)))) _ _ _ _ _ _

theorem failRemap_memoryWf {i v} (h : s.memoryWf) : (failRemap i v s).memoryWf := by
  unfold failRemap
  exact raiseNotice_memoryWf (groups_memoryWf h) _ _ _ _ _ _

theorem runRemap_memoryWf {i selfTestFails} (h : s.memoryWf) : (runRemap i selfTestFails s).memoryWf := by
  refine ite_memoryWf (groups_memoryWf (retireFailed_memoryWf h)) (advanceService_memoryWf ?_)
  split
  · exact completeRemap_memoryWf (settleMapping_memoryWf (retireFailed_memoryWf h))
  · exact failRemap_memoryWf (settleMapping_memoryWf (retireFailed_memoryWf h))

theorem execRemap_memoryWf {selfTestFails} (h : s.memoryWf) : NextMemoryWf (execRemap selfTestFails s) := by
  refine nextMemoryWf_next ?_
  split
  · exact ite_memoryWf (runRemap_memoryWf h) h
  · exact h

theorem endClassification_memoryWf {e v} (h : s.memoryWf) : (endClassification e v s).memoryWf := by
  unfold endClassification
  dsimp only
  split
  · refine afterStop_memoryWf (failNow_memoryWf ?_)
    split
    · exact unless_memoryWf (groups_memoryWf h) fun h => raiseNotice_memoryWf h _ _ _ _ _ _
    · exact groups_memoryWf h
  · split
    · exact unless_memoryWf (groups_memoryWf h) fun h => raiseNotice_memoryWf h _ _ _ _ _ _
    · exact groups_memoryWf h

theorem countRepeat_memoryWf {x} (h : s.memoryWf) : (countRepeat s x).memoryWf :=
  queueBad_memoryWf (setComb_memoryWf (groups_memoryWf h) _ _ (fun _ h => h))

theorem execClassify_memoryWf {index x} (h : s.memoryWf) : NextMemoryWf (execClassify index x s) := by
  refine nextMemoryWf_next ?_
  split
  · refine ite_memoryWf (endClassification_memoryWf ?_) h
    split
    · exact repeatFault_memoryWf (foldl_memoryWf (fun _ _ h => countRepeat_memoryWf h) h)
    · exact foldl_memoryWf (fun _ _ h => countRepeat_memoryWf h) h
  · exact h

theorem execClassifyExpiry_memoryWf {index} (h : s.memoryWf) : NextMemoryWf (execClassifyExpiry index s) := by
  refine nextMemoryWf_next ?_
  split
  · exact ite_memoryWf (endClassification_memoryWf h) h
  · exact h

/-! ## The Ethernet port -/

theorem releaseHeld_memoryWf (h : s.memoryWf) : (releaseHeld s).memoryWf :=
  foldl_memoryWf (fun _ _ h => send_memoryWf h) (groups_memoryWf h)

theorem linkUp_memoryWf (h : s.memoryWf) : (linkUp s).memoryWf :=
  sendWaitingNotices_memoryWf (probeAddresses_memoryWf (groups_memoryWf h))

theorem execPortLinkUp_memoryWf {pmd powerW trained} (h : s.memoryWf) :
    NextMemoryWf (execPortLinkUp pmd powerW trained s) :=
  nextMemoryWf_next (ite_memoryWf (ite_memoryWf (groups_memoryWf h)
    (ite_memoryWf (groups_memoryWf h) (ite_memoryWf (linkUp_memoryWf (groups_memoryWf h)) (groups_memoryWf h)))) h)

theorem execPluggableMonitor_memoryWf {alarm corrected uncorrected} (h : s.memoryWf) :
    NextMemoryWf (execPluggableMonitor alarm corrected uncorrected s) :=
  nextMemoryWf_next (ite_memoryWf (unless_memoryWf (groups_memoryWf h) fun h => raiseNotice_memoryWf h _ _ _ _ _ _) h)

theorem dropFrame_memoryWf {fcsGood error} (h : s.memoryWf) : (dropFrame fcsGood error s).memoryWf :=
  ite_memoryWf (groups_memoryWf (ite_memoryWf (received_memoryWf h) h))
    (groups_memoryWf (ite_memoryWf (received_memoryWf h) h))

theorem execFrameFilterDrop_memoryWf {f} (h : s.memoryWf) : NextMemoryWf (execFrameFilterDrop f s) := by
  refine nextMemoryWf_next (ite_memoryWf ?_ h)
  split
  · exact dropFrame_memoryWf h
  · exact h

theorem pausePriority_memoryWf {p q} (h : s.memoryWf) : (pausePriority p q s).memoryWf := groups_memoryWf h

theorem execPfcFrameReceive_memoryWf {classes quanta} (h : s.memoryWf) :
    NextMemoryWf (execPfcFrameReceive classes quanta s) :=
  nextMemoryWf_next (ite_memoryWf (releaseHeld_memoryWf
    (foldl_memoryWf (fun _ _ h => ite_memoryWf (pausePriority_memoryWf h) h) (groups_memoryWf (received_memoryWf h)))) h)

theorem execPfcBufferThreshold_memoryWf {p level} (h : s.memoryWf) : NextMemoryWf (execPfcBufferThreshold p level s) :=
  nextMemoryWf_next (ite_memoryWf (ite_memoryWf (send_memoryWf (groups_memoryWf h))
    (when_memoryWf (groups_memoryWf h) fun h => send_memoryWf (groups_memoryWf h))) h)

theorem rateReply_memoryWf {kind x} (h : s.memoryWf) : (rateReply kind x s).memoryWf :=
  ite_memoryWf (send_memoryWf (groups_memoryWf h)) h

theorem execArpNdRequest_memoryWf {family target from_} (h : s.memoryWf) :
    NextMemoryWf (execArpNdRequest family target from_ s) :=
  nextMemoryWf_next (ite_memoryWf (when_memoryWf (received_memoryWf h) fun h => rateReply_memoryWf h) h)

theorem execEchoRequest_memoryWf {family target from_ bytes} (h : s.memoryWf) :
    NextMemoryWf (execEchoRequest family target from_ bytes s) :=
  nextMemoryWf_next (ite_memoryWf (when_memoryWf (received_memoryWf h) fun h => rateReply_memoryWf h) h)

theorem cacheNeighbour_memoryWf {family a mac} (h : s.memoryWf) : (cacheNeighbour family a mac s).memoryWf :=
  groups_memoryWf h

theorem execArpNdReply_memoryWf {family a mac} (h : s.memoryWf) : NextMemoryWf (execArpNdReply family a mac s) := by
  refine nextMemoryWf_next (ite_memoryWf ?_ h)
  dsimp only
  split
  · exact unless_memoryWf (received_memoryWf h) fun h => groups_memoryWf h
  · exact cacheNeighbour_memoryWf (received_memoryWf h)

theorem execPortConfigRevert_memoryWf (h : s.memoryWf) : NextMemoryWf (execPortConfigRevert s) := by
  refine nextMemoryWf_next ?_
  split
  · exact ite_memoryWf (applyPort_memoryWf (groups_memoryWf h)) h
  · exact h

theorem setPtp_memoryWf {f} (h : s.memoryWf) : (setPtp f s).memoryWf := groups_memoryWf h

theorem execPtpSyncReceive_memoryWf {master offset time ppb} (h : s.memoryWf) :
    NextMemoryWf (execPtpSyncReceive master offset time ppb s) :=
  nextMemoryWf_next (ite_memoryWf (when_memoryWf (received_memoryWf h) fun h => setPtp_memoryWf h) h)

theorem execPtpDelayRespReceive_memoryWf {master delayNs} (h : s.memoryWf) :
    NextMemoryWf (execPtpDelayRespReceive master delayNs s) :=
  nextMemoryWf_next (ite_memoryWf (when_memoryWf (received_memoryWf h) fun h => setPtp_memoryWf h) h)

theorem execPtpAnnounceReceive_memoryWf {master priority1 cls accuracy variance priority2 steps} (h : s.memoryWf) :
    NextMemoryWf (execPtpAnnounceReceive master priority1 cls accuracy variance priority2 steps s) :=
  nextMemoryWf_next (ite_memoryWf (ite_memoryWf (setPtp_memoryWf (received_memoryWf h))
    (when_memoryWf (received_memoryWf h) fun h => setPtp_memoryWf h)) h)

/-! ## Power -/

theorem loseVolatile_memoryWf : (loseVolatile s).memoryWf := groups_memoryWf reset_memoryWf

theorem darken_memoryWf : (darken s).memoryWf := loseVolatile_memoryWf

theorem notePins_memoryWf {c} (h : s.memoryWf) : (notePins c s).memoryWf := groups_memoryWf h

theorem beginHoldup_memoryWf (h : s.memoryWf) : (beginHoldup s).memoryWf :=
  groups_memoryWf (combDomainsOff_memoryWf (ite_memoryWf (halt_memoryWf h _) h))

theorem execPowerFailureDecision_memoryWf {cause} (h : s.memoryWf) : NextMemoryWf (execPowerFailureDecision cause s) :=
  nextMemoryWf_next (ite_memoryWf (ite_memoryWf darken_memoryWf (beginHoldup_memoryWf (notePins_memoryWf h))) h)

theorem recordLatch_memoryWf {d} (h : s.memoryWf) : (recordLatch d s).memoryWf :=
  when_memoryWf (groups_memoryWf (setDomain_memoryWf h)) fun h => makeDurable_memoryWf h

theorem hiveLatch_memoryWf {d} (h : s.memoryWf) : (hiveLatch d s).memoryWf :=
  ite_memoryWf darken_memoryWf (stopModule_memoryWf (setDomain_memoryWf h))

theorem execOvercurrentLatch_memoryWf {domain} (h : s.memoryWf) : NextMemoryWf (execOvercurrentLatch domain s) :=
  nextMemoryWf_next (ite_memoryWf (ite_memoryWf (hiveLatch_memoryWf h)
    (advanceService_memoryWf (failNow_memoryWf (recordLatch_memoryWf h)))) h)

theorem loseConverter_memoryWf {n} (h : s.memoryWf) : (loseConverter s n).memoryWf :=
  ite_memoryWf (raiseWarning_memoryWf (groups_memoryWf h)) h

theorem parkForPower_memoryWf (h : s.memoryWf) : (parkForPower s).memoryWf :=
  ite_memoryWf (groups_memoryWf h) (parkAll_memoryWf h (fun _ _ h => h))

theorem lowPower_memoryWf {last} (h : s.memoryWf) : (lowPower last s).memoryWf :=
  parkForPower_memoryWf (warningNotice_memoryWf h)

theorem execBusConverterCheck_memoryWf {failed} (h : s.memoryWf) : NextMemoryWf (execBusConverterCheck failed s) :=
  nextMemoryWf_next (ite_memoryWf (when_memoryWf (foldl_memoryWf (fun _ _ h => loseConverter_memoryWf h) h) fun h =>
    advanceService_memoryWf (lowPower_memoryWf h)) h)

theorem eraseKeys_memoryWf (h : s.memoryWf) : (eraseKeys s).memoryWf := groups_memoryWf h

theorem closeModule_memoryWf (h : s.memoryWf) : (closeModule s).memoryWf :=
  when_memoryWf (groups_memoryWf (dropImage_memoryWf h)) fun h => eraseSlots_memoryWf h

theorem execLidSealOpen_memoryWf (h : s.memoryWf) : NextMemoryWf (execLidSealOpen s) :=
  nextMemoryWf_next (ite_memoryWf h (ite_memoryWf (groups_memoryWf (eraseKeys_memoryWf h))
    (ite_memoryWf (closeModule_memoryWf (eraseKeys_memoryWf h)) h)))

theorem selectConfig_memoryWf (h : s.memoryWf) : (selectConfig s).memoryWf := groups_memoryWf h

theorem rewriteSelected_memoryWf (h : s.memoryWf) : (rewriteSelected s).memoryWf := by
  unfold rewriteSelected
  dsimp only
  split <;> exact writeConfig_memoryWf (groups_memoryWf h)

theorem bootConfig_memoryWf {x} (h : s.memoryWf) : (bootConfig x s).memoryWf :=
  rewriteSelected_memoryWf (groups_memoryWf (when_memoryWf (selectConfig_memoryWf h) fun h => eraseSlots_memoryWf
    (groups_memoryWf h)))

theorem bootWords_memoryWf (h : s.memoryWf) : (bootWords s).memoryWf := groups_memoryWf h

theorem rampDomains_memoryWf {x} (h : s.memoryWf) : (rampDomains x s).memoryWf := groups_memoryWf h

theorem failTest_memoryWf {d} (h : s.memoryWf) : (failTest s d).memoryWf :=
  ite_memoryWf (setComb_memoryWf (setDomain_memoryWf h) _ _ (fun _ h => h))
    (when_memoryWf (setDomain_memoryWf h) fun h => retireSource_memoryWf h)

theorem testLatched_memoryWf {x} (h : s.memoryWf) : (testLatched x s).memoryWf :=
  ite_memoryWf h (foldl_memoryWf (fun _ _ h => failTest_memoryWf h) (groups_memoryWf h))

theorem trainLinks_memoryWf {x} (h : s.memoryWf) : (trainLinks x s).memoryWf :=
  foldl_memoryWf (fun _ _ h => ite_memoryWf (retireLink_memoryWf h) h) (groups_memoryWf h)

theorem trainChannels_memoryWf {x} (h : s.memoryWf) : (trainChannels x s).memoryWf :=
  foldl_memoryWf (fun _ _ h => retireSource_memoryWf h) h

theorem bootCombs_memoryWf {x} (h : s.memoryWf) : (bootCombs x s).memoryWf := by
  refine ⟨fun c hc => ?_, h.2⟩
  obtain ⟨p, -, rfl⟩ := List.mem_map.mp hc
  exact ⟨Memory.wf_nil, Memory.wf_nil⟩

theorem bootUnits_memoryWf {x} (h : s.memoryWf) : (bootUnits x s).memoryWf :=
  foldl_memoryWf (fun _ _ h => loseConverter_memoryWf h)
    (trainChannels_memoryWf (trainLinks_memoryWf (testLatched_memoryWf
    (takeModes_memoryWf (rampDomains_memoryWf (bootCombs_memoryWf h))))))

theorem bootNothing_memoryWf (h : s.memoryWf) : (bootNothing s).memoryWf := groups_memoryWf h

theorem hiveFails_memoryWf {k} (h : s.memoryWf) : (hiveFails k s).memoryWf := bootNothing_memoryWf (setDomain_memoryWf h)

theorem bootRecords_memoryWf (h : s.memoryWf) : (bootRecords s).memoryWf := groups_memoryWf h

theorem bootFirmware_memoryWf {x f} (h : s.memoryWf) : (bootFirmware x f s).memoryWf :=
  groups_memoryWf (bootUnits_memoryWf (bootRecords_memoryWf (bootWords_memoryWf (groups_memoryWf h))))

theorem powerUp_memoryWf {x} : (powerUp x s).memoryWf := by
  unfold powerUp
  dsimp only
  split
  · exact hiveFails_memoryWf (groups_memoryWf loseVolatile_memoryWf)
  · refine ite_memoryWf (bootNothing_memoryWf (groups_memoryWf loseVolatile_memoryWf)) ?_
    split
    · exact bootNothing_memoryWf (bootConfig_memoryWf (groups_memoryWf loseVolatile_memoryWf))
    · exact bootFirmware_memoryWf (bootConfig_memoryWf (groups_memoryWf loseVolatile_memoryWf))

theorem execCapacitanceTest_memoryWf {dischargeMs} (h : s.memoryWf) : NextMemoryWf (execCapacitanceTest dischargeMs s) :=
  nextMemoryWf_next (ite_memoryWf (when_memoryWf (groups_memoryWf h) fun h => raiseWarning_memoryWf h) h)

theorem trimSensors_memoryWf {x} (h : s.memoryWf) : (trimSensors x s).memoryWf := groups_memoryWf h

theorem fitSpots_memoryWf {x} (h : s.memoryWf) : (fitSpots x s).memoryWf := by
  refine foldl_memoryWf (fun _ _ h => ?_) (groups_memoryWf h)
  split
  · exact thermalNotice_memoryWf h
  · exact h

theorem rampCombs_memoryWf (h : s.memoryWf) : (rampCombs s).memoryWf := groups_memoryWf h

theorem testComb_memoryWf {x p} (h : s.memoryWf) : (testComb x s p).memoryWf :=
  ite_memoryWf (setComb_memoryWf (ite_memoryWf (groups_memoryWf h) h) _ _ (fun _ hc => ⟨Memory.wf_nil, hc.2⟩))
    (setComb_memoryWf h _ _ (fun _ h => h))

theorem testCombs_memoryWf {x} (h : s.memoryWf) : (testCombs x s).memoryWf :=
  groups_memoryWf (foldl_memoryWf (fun _ _ h => testComb_memoryWf h) h)

theorem checkCoolant_memoryWf {x} (h : s.memoryWf) : (checkCoolant x s).memoryWf :=
  ite_memoryWf (thermalNotice_memoryWf (groups_memoryWf (combDomainsOff_memoryWf h))) h

theorem execCalibration_memoryWf {x} (h : s.memoryWf) : NextMemoryWf (execCalibration x s) :=
  nextMemoryWf_next (ite_memoryWf (checkCoolant_memoryWf
    (groups_memoryWf (testCombs_memoryWf (rampCombs_memoryWf
    (fitSpots_memoryWf (trimSensors_memoryWf (groups_memoryWf h))))))) h)

theorem checkConverters_memoryWf (h : s.memoryWf) : (checkConverters s).memoryWf :=
  ite_memoryWf (warningNotice_memoryWf (groups_memoryWf h)) h

theorem execReadyPoint_memoryWf (h : s.memoryWf) : NextMemoryWf (execReadyPoint s) :=
  nextMemoryWf_next (ite_memoryWf (raiseNotice_memoryWf
    (groups_memoryWf (checkConverters_memoryWf (groups_memoryWf
    (ite_memoryWf (makeDurable_memoryWf h) h)))) _ _ _ _ _ _) h)

end

/-! ## The step -/

theorem exec_memoryWf {s : State} (h : s.memoryWf) (c : Instr) : NextMemoryWf (exec c s) := by
  cases c with
  | moduleInfo _ => exact nextMemoryWf_serve opModuleInfo_keepsMemory h
  | identityCert _ => exact nextMemoryWf_serve opIdentityCert_keepsMemory h
  | ownerClaim _ _ => exact nextMemoryWf_serve PresenceOp.op_keepsMemory h
  | ownerTransfer _ _ => exact nextMemoryWf_serve PresenceOp.op_keepsMemory h
  | ownerRelease _ => exact nextMemoryWf_serve PresenceOp.op_keepsMemory h
  | moduleShutdown _ => exact execModuleShutdown_memoryWf h
  | tenantEnrol _ _ => exact nextMemoryWf_serve PresenceOp.op_keepsMemory h
  | tenantRemove _ => exact nextMemoryWf_serve PresenceOp.op_keepsMemory h
  | tenantQuery _ => exact nextMemoryWf_serve opTenantQuery_keepsMemory h
  | imageSourceSet _ => exact nextMemoryWf_serve opImageSourceSet_keepsMemory h
  | imageLoad _ _ => exact execImageLoad_memoryWf h
  | coveStage _ _ => exact execCoveStage_memoryWf h
  | imageStop _ => exact nextMemoryWf_serve opImageStop_keepsMemory h
  | imageStart _ => exact nextMemoryWf_serve opImageStart_keepsMemory h
  | imageUnload _ => exact execImageUnload_memoryWf h
  | imageQuery _ => exact nextMemoryWf_serve opImageQuery_keepsMemory h
  | quarantineClear _ => exact nextMemoryWf_serve opQuarantineClear_keepsMemory h
  | coveObjectQuery _ => exact nextMemoryWf_serve opCoveObjectQuery_keepsMemory h
  | coveObjectSet _ => exact nextMemoryWf_serve opCoveObjectSet_keepsMemory h
  | coveErase _ => exact nextMemoryWf_serve PresenceOp.op_keepsMemory h
  | imageKeyEnrol _ => exact nextMemoryWf_serve PresenceOp.op_keepsMemory h
  | imageKeyRemove _ => exact nextMemoryWf_serve PresenceOp.op_keepsMemory h
  | streamOpen _ => exact nextMemoryWf_serve opStreamOpen_keepsMemory h
  | streamGenerate _ => exact nextMemoryWf_serve opStreamGenerate_keepsMemory h
  | streamStop _ => exact nextMemoryWf_serve stopOp_keepsMemory h
  | streamClose _ => exact nextMemoryWf_serve closeOp_keepsMemory h
  | streamPark _ => exact nextMemoryWf_serve parkOp_keepsMemory h
  | streamResume _ => exact nextMemoryWf_serve opStreamResume_keepsMemory h
  | streamSet _ => exact nextMemoryWf_serve setOp_keepsMemory h
  | streamQuery _ => exact nextMemoryWf_serve queryOp_keepsMemory h
  | streamList _ => exact nextMemoryWf_serve listOp_keepsMemory h
  | ownerStreamStop _ => exact nextMemoryWf_serve stopOp_keepsMemory h
  | ownerClose _ => exact nextMemoryWf_serve closeOp_keepsMemory h
  | ownerPark _ => exact nextMemoryWf_serve parkOp_keepsMemory h
  | ownerStreamSet _ => exact nextMemoryWf_serve setOp_keepsMemory h
  | ownerStreamQuery _ => exact nextMemoryWf_serve queryOp_keepsMemory h
  | ownerStreamList _ => exact nextMemoryWf_serve listOp_keepsMemory h
  | prefixPublish _ => exact execPrefixPublish_memoryWf h
  | prefixDrop _ => exact nextMemoryWf_serve opPrefixDrop_keepsMemory h
  | prefixQuery _ => exact nextMemoryWf_serve opPrefixQuery_keepsMemory h
  | policySet _ => exact nextMemoryWf_serve PresenceOp.op_keepsMemory h
  | policyQuery _ => exact nextMemoryWf_serve opPolicyQuery_keepsMemory h
  | thermalPolicySet _ => exact nextMemoryWf_serve opThermalPolicySet_keepsMemory h
  | faultPolicySet _ => exact nextMemoryWf_serve opFaultPolicySet_keepsMemory h
  | portConfigSet _ => exact execPortConfigSet_memoryWf h
  | noticeConfigSet _ => exact execNoticeConfigSet_memoryWf h
  | telemetrySelect _ => exact nextMemoryWf_serve opTelemetrySelect_keepsMemory h
  | powerPolicySet _ => exact nextMemoryWf_serve opPowerPolicySet_keepsMemory h
  | telemetryRead _ => exact nextMemoryWf_serve opTelemetryRead_keepsMemory h
  | counterQuery _ => exact nextMemoryWf_serve opCounterQuery_keepsMemory h
  | faultQuery _ => exact nextMemoryWf_serve opFaultQuery_keepsMemory h
  | slotQuery _ => exact nextMemoryWf_serve opSlotQuery_keepsMemory h
  | servingQuery _ => exact nextMemoryWf_serve opServingQuery_keepsMemory h
  | attestQuote _ => exact nextMemoryWf_serve opAttestQuote_keepsMemory h
  | firmwareChunk _ => exact nextMemoryWf_serve opFirmwareChunk_keepsMemory h
  | firmwareActivate _ => exact nextMemoryWf_serve PresenceOp.op_keepsMemory h
  | presencePendingWriteDone => exact execPresencePendingWriteDone_memoryWf h
  | presencePress _ _ => exact execPresencePress_memoryWf h
  | presenceRefusal => exact nextMemoryWf_next (ite_memoryWf (abandonPresence_memoryWf h) h)
  | presenceWindowExpiry => exact execPresenceWindowExpiry_memoryWf h
  | prompt _ => exact nextMemoryWf_next (receiveFrame_memoryWf h (fun _ _ h => acceptPrompt_memoryWf h))
  | hostNak _ => exact nextMemoryWf_next (receiveFrame_memoryWf h (fun _ _ h => resend_memoryWf h))
  | tokenEmission _ => exact nextMemoryWf_next (ite_memoryWf (emitFirst_memoryWf h) h)
  | stateFrameRepeat => exact execStateFrameRepeat_memoryWf h
  | tideBoundary => exact execTideBoundary_memoryWf h
  | servingIntervalBoundary => exact execServingIntervalBoundary_memoryWf h
  | epochBoundary => exact execEpochBoundary_memoryWf h
  | stepBoundary => exact execStepBoundary_memoryWf h
  | dataPlaneStart => exact execDataPlaneStart_memoryWf h
  | prologueLanded => exact execPrologueLanded_memoryWf h
  | prologueTimeout _ => exact execPrologueTimeout_memoryWf h
  | wait _ => exact nextMemoryWf_next (issueAt_memoryWf h (fun _ h => h))
  | dot _ _ _ => exact nextMemoryWf_next (ite_memoryWf (issueAt_memoryWf h (fun _ h => runDot_memoryWf h)) h)
  | emit _ _ _ => exact nextMemoryWf_next (ite_memoryWf (issueAt_memoryWf h (fun _ h => runEmit_memoryWf h)) h)
  | row _ _ => exact nextMemoryWf_next (ite_memoryWf (issueAt_memoryWf h (fun _ h => runRow_memoryWf h)) h)
  | shelf _ _ => exact execShelf_memoryWf h
  | fabric _ _ => exact nextMemoryWf_next (ite_memoryWf (issueAt_memoryWf h (fun _ h => runFabric_memoryWf h)) h)
  | rotate _ _ => exact nextMemoryWf_next (issueAt_memoryWf h (fun _ h => runRotate_memoryWf h))
  | fbwin _ => exact nextMemoryWf_next (issueAt_memoryWf h (fun _ h => setComb_memoryWf h _ _ (fun _ h => h)))
  | slot _ _ => exact nextMemoryWf_next (issueAt_memoryWf h (fun _ h => runSlot_memoryWf h))
  | done _ => exact nextMemoryWf_next (issueAt_memoryWf h (fun _ h => setComb_memoryWf h _ _ (fun _ h => h)))
  | fallbackWindowClose _ => exact execFallbackWindowClose_memoryWf h
  | rowLands _ _ _ => exact execRowLands_memoryWf h
  | linkFrameReceive _ _ _ _ _ => exact execLinkFrameReceive_memoryWf h
  | expertPageinComplete _ _ _ _ => exact execExpertPageinComplete_memoryWf h
  | expertPromotionComplete _ _ => exact nextMemoryWf_next (ite_memoryWf (shelf_memoryWf h) h)
  | samplingPhase _ => exact execSamplingPhase_memoryWf h
  | holdRaise _ _ _ => exact execHoldRaise_memoryWf h
  | holdRelease _ _ => exact execHoldRelease_memoryWf h
  | knownHoldEnd _ => exact execKnownHoldEnd_memoryWf h
  | slackTimeout _ => exact execSlackTimeout_memoryWf h
  | mend _ _ => exact execMend_memoryWf h
  | scrubRow _ _ => exact execScrubRow_memoryWf h
  | shelfScrub _ _ => exact execShelfScrub_memoryWf h
  | shelfRefresh _ _ => exact execShelfRefresh_memoryWf h
  | channelRetirement _ _ => exact nextMemoryWf_next (ite_memoryWf (retireChannel_memoryWf h) h)
  | remap _ => exact execRemap_memoryWf h
  | classify _ _ => exact execClassify_memoryWf h
  | classifyExpiry _ => exact execClassifyExpiry_memoryWf h
  | serveNextInterval => exact execServeNextInterval_memoryWf h
  | parkDelayExpiry _ => exact nextMemoryWf_next (parkByDelay_memoryWf h)
  | readyParkDelayExpiry _ => exact nextMemoryWf_next (parkByDelay_memoryWf h)
  | parkCommit _ => exact execParkCommit_memoryWf h
  | resumeLanded _ => exact execResumeLanded_memoryWf h
  | prefixReadbackComplete _ => exact execPrefixReadbackComplete_memoryWf h
  | prefixCopyDone _ => exact execPrefixCopyDone_memoryWf h
  | closedRecordExpiry _ _ => exact nextMemoryWf_next (groups_memoryWf h)
  | loadPayloadStart => exact execLoadPayloadStart_memoryWf h
  | shardRangeLanded _ _ => exact execShardRangeLanded_memoryWf h
  | loadComplete => exact execLoadComplete_memoryWf h
  | rdmaReadResponse _ _ _ => exact execRdmaReadResponse_memoryWf h
  | rdmaTimeout _ _ => exact execRdmaTimeout_memoryWf h
  | cnpReceive _ => exact execCnpReceive_memoryWf h
  | cnpRecoveryTick _ => exact nextMemoryWf_next (ite_memoryWf (setQp_memoryWf h) h)
  | stageCommit _ => exact execStageCommit_memoryWf h
  | extentDurable _ _ => exact execExtentDurable_memoryWf h
  | holdupRetry => exact execHoldupRetry_memoryWf h
  | coveExpiryCheck _ => exact execCoveExpiryCheck_memoryWf h
  | coveChunkRead _ _ _ _ _ => exact execCoveChunkRead_memoryWf h
  | coveScrub _ _ _ => exact execCoveScrub_memoryWf h
  | journalCompaction _ => exact execJournalCompaction_memoryWf h
  | configDurabilityWrite => exact nextMemoryWf_next (ite_memoryWf (advanceService_memoryWf (makeDurable_memoryWf h)) h)
  | telemetryWindowEnd _ => exact execTelemetryWindowEnd_memoryWf h
  | thermalResume => exact nextMemoryWf_next (ite_memoryWf (groups_memoryWf h) h)
  | sensorCheckIdle => exact nextMemoryWf_next (ite_memoryWf (retireSuspects_memoryWf h) h)
  | reportPeriodEnd => exact execReportPeriodEnd_memoryWf h
  | busConverterCheck _ => exact execBusConverterCheck_memoryWf h
  | warningClear _ _ => exact nextMemoryWf_next (ite_memoryWf (groups_memoryWf h) h)
  | overcurrentLatch _ => exact execOvercurrentLatch_memoryWf h
  | powerFailureDecision _ => exact execPowerFailureDecision_memoryWf h
  | goDark => exact nextMemoryWf_next (ite_memoryWf darken_memoryWf h)
  | lidSealOpen => exact execLidSealOpen_memoryWf h
  | powerUp _ => exact nextMemoryWf_next (ite_memoryWf powerUp_memoryWf h)
  | capacitanceTest _ => exact execCapacitanceTest_memoryWf h
  | coveMount => exact nextMemoryWf_next (ite_memoryWf (groups_memoryWf h) h)
  | calibration _ => exact execCalibration_memoryWf h
  | readyPoint => exact execReadyPoint_memoryWf h
  | portLinkUp _ _ _ => exact execPortLinkUp_memoryWf h
  | portLinkDown => exact nextMemoryWf_next (ite_memoryWf (groups_memoryWf h) h)
  | pluggableMonitor _ _ _ => exact execPluggableMonitor_memoryWf h
  | pfcFrameReceive _ _ => exact execPfcFrameReceive_memoryWf h
  | arpNdRequest _ _ _ => exact execArpNdRequest_memoryWf h
  | echoRequest _ _ _ _ => exact execEchoRequest_memoryWf h
  | portConfigRevert => exact execPortConfigRevert_memoryWf h
  | ptpSyncReceive _ _ _ _ => exact execPtpSyncReceive_memoryWf h
  | ptpDelayReq => exact nextMemoryWf_next (ite_memoryWf (send_memoryWf (setPtp_memoryWf h)) h)
  | ptpHoldover => exact nextMemoryWf_next (ite_memoryWf (setPtp_memoryWf h) h)
  | keeperCoreFailure _ => exact nextMemoryWf_next (ite_memoryWf (unitNotice_memoryWf (groups_memoryWf h)) h)
  | ptpAnnounceReceive _ _ _ _ _ _ _ => exact execPtpAnnounceReceive_memoryWf h
  | ptpDelayRespReceive _ _ => exact execPtpDelayRespReceive_memoryWf h
  | frameFilterDrop _ => exact execFrameFilterDrop_memoryWf h
  | pfcPauseExpiry _ => exact nextMemoryWf_next (releaseHeld_memoryWf (pausePriority_memoryWf h))
  | pfcBufferThreshold _ _ => exact execPfcBufferThreshold_memoryWf h
  | arpNdReply _ _ _ => exact execArpNdReply_memoryWf h
  | undefinedOpcodeRequest _ _ => exact nextMemoryWf_serve opUndefined_keepsMemory h

/-- The command at the front of the queue acts on the state without it; an empty queue idles. -/
theorem step_memoryWf {s : State} (h : s.memoryWf) : NextMemoryWf (step s) := by
  unfold step
  split
  · exact nextMemoryWf_next h
  · exact exec_memoryWf (groups_memoryWf h) _

/-- Settles O4: one lemma for each operation of the model, through the commands to the step. -/
theorem everyStepKeepsMemoryCanonical : Obligations.EveryStepKeepsMemoryCanonical := fun _ t h => step_memoryWf h t

end Sys2Proof.Machine

namespace Sys2Proof.Machine

/-! ## Receipt of link frames (R137 to R139) -/

section LinkDirections
variable {link : Nat} {dir : Bool} {s : State}

theorem linkIndex_lt (hlink : link < 40) (dir : Bool) : linkIndex link dir < 80 := by
  unfold linkIndex flag
  split <;> omega

theorem linkIndex_opposite_ne (link : Nat) (dir : Bool) : linkIndex link (!dir) ≠ linkIndex link dir := by
  cases dir <;> simp [linkIndex, flag]

theorem setLink_self (h : linkIndex link dir < s.fabric.links.length) (f : LinkDir → LinkDir) :
    (setLink link dir f s).link link dir = f (s.link link dir) := by
  rw [setLink_link, if_pos ⟨rfl, h⟩]

/-- The two directions of a link are apart. -/
theorem setLink_opposite (link : Nat) (dir : Bool) (f : LinkDir → LinkDir) (s : State) :
    (setLink link (!dir) f s).link link dir = s.link link dir := by
  rw [setLink_link, if_neg fun h => linkIndex_opposite_ne link dir h.1]

theorem resendFrames_opposite (link : Nat) (dir : Bool) (s : State) :
    (resendFrames link (!dir) s).link link dir = s.link link dir := setLink_opposite ..

/-- A resent frame carries what it carried, under its own number; acknowledgement, nak and CRC are new (R139). -/
theorem resendFrames_replay (h : linkIndex link dir < s.fabric.links.length) :
    ((resendFrames link dir s).link link dir).replay.map (fun g => (g.seq, g.flow, g.flitIndex, g.payload)) =
      (s.link link dir).replay.map fun g => (g.seq, g.flow, g.flitIndex, g.payload) := by
  refine (congrArg (List.map _) (congrArg LinkDir.replay (setLink_self h _))).trans ?_
  rw [List.map_map]
  rfl

/-- What is sent again is what the replay buffer then holds. -/
theorem resendFrames_outbox (h : linkIndex link dir < s.fabric.links.length) :
    (resendFrames link dir s).outbox =
      s.outbox ++ ((resendFrames link dir s).link link dir).replay.map fun g => .linkFrame link dir g := by
  refine Eq.trans ?_ (congrArg (fun d : LinkDir => s.outbox ++ d.replay.map _) (setLink_self h _).symm)
  rfl

end LinkDirections

/-! ### A frame whose CRC fails -/

theorem failureRun_le (f : LinkFrame) (d : LinkDir) : failureRun f d ≤ d.failures + 1 := by
  unfold failureRun
  split
  · omega
  split
  · omega
  split <;> omega

/-- A failure noted at the direction that a frame came by. -/
def noteFailure (group : Nat) (f : LinkFrame) (d : LinkDir) : LinkDir :=
  { d with
    crcFailTotal := satInc d.crcFailTotal
    crcFailEpoch := satInc d.crcFailEpoch
    groupFails := upd d.groupFails group (· + 1)
    failures := failureRun f d
    retryRunMax := BitVec.ofNat 8 (max d.retryRunMax.toNat (min (failureRun f d) 255))
    nak := true }

/-- Before the link fails, a failure is noted and answered with an idle frame. -/
theorem frameFails_below {link : Nat} {dir : Bool} {s : State} (h : linkIndex link dir < s.fabric.links.length) (group : Nat)
    {f : LinkFrame} (hrun : (s.link link dir).failures + 1 < 16) :
    frameFails link dir group f s = sendIdle link (!dir) (setLink link dir (noteFailure group f) s) := by
  refine if_neg (Nat.not_le.mpr ?_)
  have hfew : (noteFailure group f (s.link link dir)).failures < 16 := (failureRun_le f _).trans_lt hrun
  rw [← setLink_self h (noteFailure group f)] at hfew
  exact hfew

/-- The idle frame on the opposite direction carries the nak and the acknowledgement of the direction it answers for. -/
theorem sendIdle_answers (link : Nat) (dir : Bool) (s : State) :
    ∃ g : LinkFrame, (sendIdle link (!dir) s).outbox = s.outbox ++ [.linkFrame link (!dir) g] ∧ g.kind = 0 ∧
      g.nak = (s.link link dir).nak ∧ g.ackSeq = (s.link link dir).expectSeq - 1 := by
  refine ⟨_, rfl, rfl, ?_, ?_⟩
  · exact congrArg (fun e => (s.link link e).nak) (Bool.not_not dir)
  · exact congrArg (fun e => (s.link link e).expectSeq - 1) (Bool.not_not dir)

/-! ### A frame whose CRC fits -/

/-- s with a frame's acknowledgement and nak obeyed. -/
def acknowledged (link : Nat) (dir : Bool) (f : LinkFrame) (s : State) : State :=
  let u := setLink link (!dir) (fun d => { d with replay := pruneReplay f.ackSeq d.replay }) s
  if f.nak then resendFrames link (!dir) u else u

theorem acknowledged_link (link : Nat) (dir : Bool) (f : LinkFrame) (s : State) :
    (acknowledged link dir f s).link link dir = s.link link dir := by
  unfold acknowledged
  split
  · rw [resendFrames_opposite, setLink_opposite]
  · rw [setLink_opposite]

theorem acknowledged_length (link : Nat) (dir : Bool) (f : LinkFrame) (s : State) :
    (acknowledged link dir f s).fabric.links.length = s.fabric.links.length := by
  unfold acknowledged
  split
  · exact (setLink_length ..).trans (setLink_length ..)
  · exact setLink_length ..

theorem acknowledged_tide (link : Nat) (dir : Bool) (f : LinkFrame) (s : State) : (acknowledged link dir f s).tide = s.tide := by
  unfold acknowledged
  split <;> simp

/-! ### The command -/

/-- A link direction takes frames on a lane group: the module is awake, the link has not failed, the group is in service. -/
def TakesFrames (link : Nat) (dir : Bool) (group : Nat) (s : State) : Prop :=
  s.awake = true ∧ link < 40 ∧ group < 16 ∧ (s.link link dir).state ≠ 2 ∧ bit (s.link link dir).groupsActive group = true

section Receipt
variable {link group : Nat} {dir : Bool} {f : LinkFrame} {wide : WideData} {s : State}
variable (hport : TakesFrames link dir group s)
include hport

theorem exec_linkFrame_failed (hcrc : f.crc ≠ crc32 (linkBytes f)) :
    exec (.linkFrameReceive link dir group f wide) s = .next (afterStop (frameFails link dir group f s)) :=
  congrArg Host.Outcome.next ((if_pos hport).trans (if_pos hcrc))

theorem exec_linkFrame_checked (hcrc : f.crc = crc32 (linkBytes f)) :
    exec (.linkFrameReceive link dir group f wide) s = .next
      (let v := acknowledged link dir f s
       if f.kind = 0 then afterStop (atRoot link dir f wide v)
       else if f.seq ≠ (v.link link dir).expectSeq then v
       else afterStop (takeFrame link dir f wide (progress (.link link)
         (setLink link dir (fun d => { d with expectSeq := d.expectSeq + 1, nak := false, failures := 0 }) v)))) :=
  congrArg Host.Outcome.next ((if_pos hport).trans (if_neg (not_not_intro hcrc)))

theorem exec_linkFrame_idle (hcrc : f.crc = crc32 (linkBytes f)) (hkind : f.kind = 0) :
    exec (.linkFrameReceive link dir group f wide) s = .next (afterStop (atRoot link dir f wide (acknowledged link dir f s))) :=
  (exec_linkFrame_checked hport hcrc).trans (congrArg Host.Outcome.next (if_pos hkind))

theorem exec_linkFrame_outOfSequence (hcrc : f.crc = crc32 (linkBytes f)) (hkind : f.kind ≠ 0)
    (hseq : f.seq ≠ (s.link link dir).expectSeq) :
    exec (.linkFrameReceive link dir group f wide) s = .next (acknowledged link dir f s) := by
  rw [← acknowledged_link link dir f s] at hseq
  exact (exec_linkFrame_checked hport hcrc).trans (congrArg Host.Outcome.next ((if_neg hkind).trans (if_pos hseq)))

theorem exec_linkFrame_inSequence (hcrc : f.crc = crc32 (linkBytes f)) (hkind : f.kind ≠ 0)
    (hseq : f.seq = (s.link link dir).expectSeq) :
    exec (.linkFrameReceive link dir group f wide) s = .next (afterStop (takeFrame link dir f wide (progress (.link link)
      (setLink link dir (fun d => { d with expectSeq := d.expectSeq + 1, nak := false, failures := 0 })
        (acknowledged link dir f s))))) := by
  rw [← acknowledged_link link dir f s] at hseq
  exact (exec_linkFrame_checked hport hcrc).trans
    (congrArg Host.Outcome.next ((if_neg hkind).trans (if_neg (not_not_intro hseq))))

end Receipt

/-- Settles O45: a failed frame is noted and answered; a frame that checks is obeyed first, on the opposite direction, and then
met by its kind and number. -/
theorem linkFramesAreTakenInOrder : Obligations.LinkFramesAreTakenInOrder := by
  unfold Obligations.LinkFramesAreTakenInOrder
  intro link dir group f wide s hawake hlink hgroup hstate hactive hlen c
  have hport : TakesFrames link dir group s := ⟨hawake, hlink, hgroup, hstate, hactive⟩
  have hindex (d : Bool) : linkIndex link d < s.fabric.links.length := hlen ▸ linkIndex_lt hlink d
  refine ⟨fun hcrc => ⟨exec_linkFrame_failed hport hcrc, fun hrun => ?failed⟩, fun hcrc => ?checked⟩
  case failed =>
    have hnoted := setLink_self (hindex dir) (noteFailure group f)
    obtain ⟨g, hsent, hidle, hnak, hack⟩ := sendIdle_answers link dir (setLink link dir (noteFailure group f) s)
    rw [hnoted] at hnak hack
    rw [frameFails_below (hindex dir) group hrun]
    exact ⟨(congrArg LinkDir.nak hnoted :), (congrArg LinkDir.expectSeq hnoted :), (congrArg LinkDir.crcFailTotal hnoted :),
      ⟨g, hsent, hidle, hnak, hack⟩, rfl⟩
  case checked =>
    intro u v
    have hopposite : linkIndex link (!dir) < u.fabric.links.length := (setLink_length ..).symm ▸ hindex !dir
    have hown : v.link link dir = s.link link dir := acknowledged_link link dir f s
    refine ⟨hown, fun hnak => ?resent, fun hkind => ?idle, fun hkind => exec_linkFrame_outOfSequence hport hcrc hkind,
      fun hkind hseq => ⟨exec_linkFrame_inSequence hport hcrc hkind hseq, ?taken⟩⟩
    case resent =>
      have hv : v = resendFrames link (!dir) u := if_pos hnak
      rw [hv]
      exact ⟨resendFrames_replay hopposite, resendFrames_outbox hopposite⟩
    case idle =>
      refine ⟨exec_linkFrame_idle hport hcrc hkind, fun hend hrun => ?_⟩
      have hroot : atRoot link dir f wide v = v := if_neg fun h => hend h.1
      have hdp : v.tide.dp = .running := (congrArg Tide.dp (acknowledged_tide link dir f s)).trans hrun
      exact (exec_linkFrame_idle hport hcrc hkind).trans
        (congrArg Host.Outcome.next ((congrArg afterStop hroot).trans (afterStop_running hdp)))
    case taken =>
      have hlength : linkIndex link dir < v.fabric.links.length := (acknowledged_length link dir f s).symm ▸ hindex dir
      rw [setLink_self hlength, hown, hseq]

end Sys2Proof.Machine

namespace Sys2Proof.Machine

/-! ## Slack of the contract holds on the way (R162, R180, R186)

What a plan knows to be late passes under cause 8. It leaves the record of every other cause, and ends with the holds that
stood before it. -/

theorem nth_upd_other {α : Type} (l : List α) {i j : Nat} (h : i ≠ j) (f : α → α) (d : α) : nth (upd l i f) j d = nth l j d := by
  rw [nth_upd, if_neg fun hij => h hij.1]

theorem nth_upd_self {α : Type} {l : List α} {i : Nat} (h : i < l.length) (f : α → α) (d : α) : nth (upd l i f) i d = f (nth l i d) := by
  rw [nth_upd, if_pos ⟨rfl, h⟩]

/-- The slack records of all causes but that of contract holds are as before. -/
structure ContractSlack (l m : List SlackRecord) : Prop where
  length : m.length = l.length
  records : ∀ k, k ≠ 8 → nth m k {} = nth l k {}

namespace ContractSlack
variable {l m r : List SlackRecord}

theorem refl (l : List SlackRecord) : ContractSlack l l := ⟨rfl, fun _ _ => rfl⟩

theorem trans (h : ContractSlack l m) (k : ContractSlack m r) : ContractSlack l r :=
  ⟨k.length.trans h.length, fun c hc => (k.records c hc).trans (h.records c hc)⟩

theorem upd (f : SlackRecord → SlackRecord) (l : List SlackRecord) : ContractSlack l (upd l 8 f) :=
  ⟨List.length_modify .., fun _ hk => nth_upd_other _ (Ne.symm hk) f {}⟩

end ContractSlack

theorem raiseHold_contractSlack (source : Source) (known : Option Nat) (s : State) :
    ContractSlack s.tide.slack (raiseHold 8 source known s).tide.slack := .upd _ s.tide.slack

/-- A hold that stands alone ages by the slack that passes, and is the one counted. -/
theorem passSlack_alone {s : State} {h : Hold} (hs : s.tide.holds = [h]) (n : Nat) :
    passSlack n s =
      let w := countSlack h.cause.toNat (fun r => { r with cyclesTotal := r.cyclesTotal + BitVec.ofNat 64 n
                                                           cyclesEpoch := satAdd r.cyclesEpoch n }) s
      { w with tide := { w.tide with runCycles := s.tide.runCycles + BitVec.ofNat 64 n
                                     slackCycles := s.tide.slackCycles + BitVec.ofNat 64 n
                                     holds := [{ h with age := h.age + n, quiet := h.quiet + n }] } } := by
  simp [passSlack, countedHold, hs, countSlack]

/-- The release of a hold that stands alone leaves none. -/
theorem releaseHold_alone {s : State} {h : Hold} (hs : s.tide.holds = [h]) :
    releaseHold 0 s =
      let w := countSlack h.cause.toNat (fun r => { r with maxCycles := BitVec.ofNat 32 (max r.maxCycles.toNat (min h.age (2 ^ 32 - 1))) }) s
      { w with tide := { w.tide with holds := [] } } := by
  simp [releaseHold, hs, countSlack]

/-- A contract hold that the counters reach passes by itself. -/
theorem passKnown_contract {s : State} (hs : s.tide.holds = []) (n : Nat) :
    (passKnown 8 n s).tide.holds = [] ∧ ContractSlack s.tide.slack (passKnown 8 n s).tide.slack := by
  unfold passKnown
  split
  · exact ⟨hs, .refl _⟩
  · have hraised : (raiseHold 8 .none (some n) s).tide.holds = [⟨8, .none, some n, 0, 0⟩] := congrArg (· ++ _) hs
    rw [passSlack_alone hraised, releaseHold_alone rfl]
    exact ⟨rfl, ((raiseHold_contractSlack .none (some n) s).trans (.upd _ _)).trans (.upd _ _)⟩

theorem passContract_slack (hs : List (Nat × Nat × Nat)) {s : State} (h : s.tide.holds = []) :
    (passContract hs s).tide.holds = [] ∧ ContractSlack s.tide.slack (passContract hs s).tide.slack :=
  foldl_inv (fun t => t.tide.holds = [] ∧ ContractSlack s.tide.slack t.tide.slack) _ (fun _ x ht =>
    have hx := passKnown_contract ht.1 x.2.2
    ⟨hx.1, ht.2.trans hx.2⟩) hs s ⟨h, .refl _⟩

/-- A state beside whose holds those of contracts have been raised. -/
structure ContractRaised (s t : State) : Prop where
  holds : ∃ hs : List Hold, t.tide.holds = s.tide.holds ++ hs ∧ ∀ h ∈ hs, h.cause = 8 ∧ h.known.isSome = true
  slack : ContractSlack s.tide.slack t.tide.slack
  cycle : t.tide.tideCycle = s.tide.tideCycle

theorem ContractRaised.refl (s : State) : ContractRaised s s := ⟨⟨[], by simp⟩, .refl _, rfl⟩

theorem ContractRaised.trans {s t u : State} (h : ContractRaised s t) (k : ContractRaised t u) : ContractRaised s u where
  holds := by
    obtain ⟨xs, hx, hxs⟩ := h.holds
    obtain ⟨ys, hy, hys⟩ := k.holds
    exact ⟨xs ++ ys, by rw [hy, hx, List.append_assoc], fun z hz => (List.mem_append.mp hz).elim (hxs z) (hys z)⟩
  slack := h.slack.trans k.slack
  cycle := k.cycle.trans h.cycle

theorem raiseHold_contractRaised (n : Nat) (s : State) : ContractRaised s (raiseHold 8 .none (some n) s) :=
  ⟨⟨_, rfl, by simp⟩, raiseHold_contractSlack .none (some n) s, rfl⟩

theorem raiseContract_raised (before c : Nat) (s : State) : ContractRaised s (raiseContract before c s) :=
  foldl_inv (ContractRaised s) _ (fun t h ht => by
    split
    · exact ht
    · exact ht.trans (raiseHold_contractRaised ..)) _ s (.refl s)

theorem contractAt_none {s : State} (h : s.tide.contractHolds = []) (lo hi : Nat) : contractAt lo hi s = [] := by simp [contractAt, h]

theorem raiseContract_none {s : State} (h : s.tide.contractHolds = []) (before c : Nat) : raiseContract before c s = s := by
  simp [raiseContract, contractAt_none h]

theorem reachBefore_none {s : State} (h : s.tide.contractHolds = []) (c : Nat) : reachBefore c s = countTo c s := by
  simp [reachBefore, contractAt_none h, passContract]

/-! ## A late item freezes the counters (R175, R176, R180) -/

theorem holds_of_counting {s : State} (h : counting s = true) : s.tide.holds = [] := by
  simp only [counting, Bool.and_eq_true, List.isEmpty_iff] at h
  obtain ⟨⟨⟨⟨-, hholds⟩, -⟩, -⟩, -⟩ := h
  exact hholds

theorem exec_holdRaise {cause : BitVec 8} {point : BitVec 13} {x : Source} {s : State} (ha : s.awake = true)
    (hlate : lateItem cause x s = true) (hpoint : pointOk cause point.toNat = true) (hcount : counting s = true)
    (hahead : ahead point.toNat s = true) : exec (.holdRaise cause point x) s = .next (freezeAt cause point.toNat x s) := by
  have hok : ¬(s.awake = false ∨ lateItem cause x s = false ∨ pointOk cause point.toNat = false) := by simp [ha, hlate, hpoint]
  exact congrArg Host.Outcome.next ((if_neg hok).trans ((if_pos hcount).trans (if_pos hahead)))

/-- The causes of late items are those that a source is named for (R179). -/
theorem lateItem_cause {cause : BitVec 8} {x : Source} {s : State} (h : lateItem cause x s = true) : cause.toNat < 8 := by
  unfold lateItem at h
  split at h
  case h_8 => exact absurd h Bool.false_ne_true
  all_goals omega

theorem reachBefore_tideCycle (c : Nat) (s : State) : (reachBefore c s).tide.tideCycle = BitVec.ofNat 13 (c - tideBase s) := by
  unfold reachBefore
  generalize contractAt (phaseCycle s + 1) (c - 1) s = hs
  rw [← tideBase_congr (passContract_number hs s) (by simp)]
  rfl

theorem reachBefore_slack (c : Nat) {s : State} (h : s.tide.holds = []) :
    (reachBefore c s).tide.holds = [] ∧ ContractSlack s.tide.slack (reachBefore c s).tide.slack :=
  passContract_slack (contractAt (phaseCycle s + 1) (c - 1) s) h

section Freeze
variable {cause : BitVec 8} {c : Nat} {x : Source} {s : State}

/-- The late item's hold stands first, those of contracts after it. -/
theorem freezeAt_holds (h : s.tide.holds = []) : ∃ hs, (freezeAt cause c x s).tide.holds = ⟨cause, x, none, 0, 0⟩ :: hs ∧
    ∀ y ∈ hs, y.cause = 8 ∧ y.known.isSome = true := by
  obtain ⟨hs, hholds, hcontract⟩ := (raiseContract_raised (phaseCycle s) c (raiseHold cause x none (reachBefore c s))).holds
  have hraised : (raiseHold cause x none (reachBefore c s)).tide.holds = [⟨cause, x, none, 0, 0⟩] :=
    congrArg (· ++ _) (reachBefore_slack c h).1
  exact ⟨hs, by rw [freezeAt, hholds, hraised, List.singleton_append], hcontract⟩

theorem freezeAt_tideCycle : (freezeAt cause c x s).tide.tideCycle = BitVec.ofNat 13 (c - tideBase s) :=
  (raiseContract_raised ..).cycle.trans (reachBefore_tideCycle c s)

/-- The hold is counted under its cause. -/
theorem freezeAt_counted (h : s.tide.holds = []) (hcause : cause.toNat < 8) (hl : s.tide.slack.length = 10) :
    (nth (freezeAt cause c x s).tide.slack cause.toNat {}).holdsTotal = satInc (nth s.tide.slack cause.toNat {}).holdsTotal := by
  have hbefore := (reachBefore_slack c h).2
  have hlt : cause.toNat < (reachBefore c s).tide.slack.length := by rw [hbefore.length, hl]; omega
  have hne : cause.toNat ≠ 8 := by omega
  calc (nth (freezeAt cause c x s).tide.slack cause.toNat {}).holdsTotal
    _ = (nth (raiseHold cause x none (reachBefore c s)).tide.slack cause.toNat {}).holdsTotal := by
      rw [freezeAt, (raiseContract_raised ..).slack.records _ hne]
    _ = satInc (nth (reachBefore c s).tide.slack cause.toNat {}).holdsTotal := congrArg SlackRecord.holdsTotal (nth_upd_self hlt _ {})
    _ = satInc (nth s.tide.slack cause.toNat {}).holdsTotal := by rw [hbefore.records _ hne]

theorem freezeAt_rest : { freezeAt cause c x s with tide := s.tide } = s := by simp

theorem freezeAt_noContract (h : s.tide.contractHolds = []) : freezeAt cause c x s = raiseHold cause x none (countTo c s) := by
  rw [freezeAt, reachBefore_none h, raiseContract_none (s := raiseHold cause x none (countTo c s)) h]

end Freeze

/-! ## A hold releases, ends or times out (R175, R177, R179 to R181) -/

section Hold
variable {i n : Nat} {s : State} {h : Hold}

theorem exec_holdRelease (ha : s.awake = true) (hrun : s.tide.dp = .running) (hi : s.tide.holds[i]? = some h) (hk : h.known = none)
    (hn : h.age ≤ n) (hfits : slackFits i (n - h.age) s = true) (hleft : ∀ m ∈ holdLeft h, n - h.age < m) :
    exec (.holdRelease i n) s = .next (releaseHold i (passSlack (n - h.age) s)) := by
  refine congrArg Host.Outcome.next ?_
  rw [hi]
  exact if_pos ⟨ha, hrun, hk, hn, hfits, hleft⟩

theorem slackFits_alone (hs : s.tide.holds = [h]) (n : Nat) : slackFits 0 n s = true := by simp [slackFits, hs]

/-- What the release of a hold that stands alone leaves: the slack since the freeze counted once, under its cause. -/
theorem releaseHold_passSlack_alone (hs : s.tide.holds = [h]) (n : Nat) :
    let t := releaseHold 0 (passSlack n s)
    t.tide.holds = [] ∧ t.tide.slackCycles = s.tide.slackCycles + BitVec.ofNat 64 n ∧
      t.tide.runCycles = s.tide.runCycles + BitVec.ofNat 64 n ∧ t.tide.tideCycle = s.tide.tideCycle ∧
      (h.cause.toNat < s.tide.slack.length → (nth t.tide.slack h.cause.toNat {}).cyclesTotal =
        (nth s.tide.slack h.cause.toNat {}).cyclesTotal + BitVec.ofNat 64 n) ∧
      { t with tide := s.tide } = s := by
  rw [passSlack_alone hs, releaseHold_alone rfl]
  refine ⟨rfl, rfl, rfl, rfl, fun hc => ?_, rfl⟩
  have hc' : h.cause.toNat < (upd s.tide.slack h.cause.toNat fun r : SlackRecord =>
      { r with cyclesTotal := r.cyclesTotal + BitVec.ofNat 64 n, cyclesEpoch := satAdd r.cyclesEpoch n }).length :=
    (List.length_modify ..).symm ▸ hc
  simp only [countSlack]
  rw [nth_upd_self hc', nth_upd_self hc]

theorem exec_knownHoldEnd {d : Nat} (ha : s.awake = true) (hrun : s.tide.dp = .running) (hi : s.tide.holds[i]? = some h)
    (hk : h.known = some d) (hfits : slackFits i (d - h.age) s = true) :
    exec (.knownHoldEnd i) s = .next (if h.cause = 9 then
      (if s.tide.servingDue ∨ s.tide.epochDue ∨ s.tide.stepDue then s else endBoundary (releaseHold i (passSlack (d - h.age) s)))
    else releaseHold i (passSlack (d - h.age) s)) := by
  refine congrArg Host.Outcome.next ?_
  simp only [hi, hk]
  exact if_pos ⟨ha, hrun, hfits⟩

/-- s with a time-out counted under a cause. -/
def countTimeout (cause : BitVec 8) (s : State) : State :=
  countSlack cause.toNat (fun r => { r with timeoutsTotal := satInc r.timeoutsTotal }) s

theorem exec_slackTimeout (ha : s.awake = true) (hrun : s.tide.dp = .running) (hi : s.tide.holds[i]? = some h) (hk : h.known = none)
    (ht : holdTimeout h.cause.toNat = some n) (hfits : slackFits i (n - h.quiet) s = true) :
    exec (.slackTimeout i) s = .next (advanceService (timeOut h.source (timeoutNotice h (releaseHold i
      (countTimeout h.cause (passSlack (n - h.quiet) s)))))) := by
  refine congrArg Host.Outcome.next ?_
  simp only [hi, hk, ht]
  exact if_pos ⟨ha, hrun, hfits⟩

/-- A hold that stood when a schedule fault Halted the data plane in the same cycle (R214). -/
theorem exec_slackTimeout_lapsed (ha : s.awake = true) (hi : s.tide.holds[i]? = none) (hl : s.tide.lapsed[i]? = some h)
    (hdp : s.tide.dp = .halted) (hfault : s.tide.halt = .fault) (hk : h.known = none) (ht : (holdTimeout h.cause.toNat).isSome = true) :
    exec (.slackTimeout i) s = .next (advanceService (declareFailed h.source (timeoutNotice h (countTimeout h.cause
      { s with tide := { s.tide with lapsed := s.tide.lapsed.eraseIdx i } })))) := by
  refine congrArg Host.Outcome.next ?_
  rw [hi]
  unfold lapse
  rw [hl]
  exact if_pos ⟨ha, hdp, hfault, hk, ht⟩

theorem timeOut_failed {x : Source} (hx : ∀ j, x ≠ .coveStack j) (s : State) : timeOut x s = declareFailed x (halt .timeout s) := by
  cases x
  case coveStack j => exact absurd rfl (hx j)
  all_goals rfl

end Hold

/-- Settles O36: the counters freeze beside slack of contracts alone, and each way in which a hold goes is one equation of its
command. -/
theorem holdsFreezeAndRelease : Obligations.HoldsFreezeAndRelease := by
  unfold Obligations.HoldsFreezeAndRelease
  refine ⟨fun cause point x s ha hlate hpoint hcount hahead => ?freeze, fun i n s h => exec_holdRelease,
    fun n s h ha hrun hs hk hn hleft hlen hcause => ?alone, fun i d s h ha hrun hi hk hfits => ?known,
    fun i n s h ha hrun hi hk ht hfits => ⟨exec_slackTimeout ha hrun hi hk ht hfits, fun x w hx => timeOut_failed hx w⟩,
    fun i s h => exec_slackTimeout_lapsed⟩
  case freeze =>
    have hholds := holds_of_counting hcount
    obtain ⟨hs, hfrozen, hcontract⟩ := freezeAt_holds (cause := cause) (c := point.toNat) (x := x) hholds
    refine ⟨_, exec_holdRaise ha hlate hpoint hcount hahead, rfl, by rw [hfrozen]; rfl, by rw [hfrozen]; exact hcontract,
      freezeAt_tideCycle, freezeAt_rest, freezeAt_counted hholds (lateItem_cause hlate), fun hnone => ?_⟩
    rw [freezeAt_noContract hnone]
    exact ⟨congrArg (· ++ _) hholds, rfl⟩
  case alone =>
    obtain ⟨hnone, hslack, hcycles, hcycle, hcounted, hrest⟩ := releaseHold_passSlack_alone hs (n - h.age)
    exact ⟨_, exec_holdRelease ha hrun (by rw [hs]; rfl) hk hn (slackFits_alone hs _) hleft, hnone, hslack, hcycles, hcycle,
      hcounted (hlen ▸ hcause), hrest⟩
  case known =>
    have hexec := exec_knownHoldEnd ha hrun hi hk hfits
    refine ⟨fun hcause => ?_, fun hcause hserving hepoch hstep => ?_, fun hcause hdue => ?_⟩
    · rw [hexec, if_neg hcause]
    · rw [hexec, if_pos hcause, if_neg (by simp [hserving, hepoch, hstep])]
    · rw [hexec, if_pos hcause, if_pos hdue]

end Sys2Proof.Machine

namespace Sys2Proof.Machine

/-! ## Work on one stack -/

theorem satAdd_zero {w : Nat} (x : BitVec w) : satAdd x 0 = x := by
  simp [satAdd, x.isLt]

theorem setStack_self {n : Nat} {s : State} (hn : n < s.shelf.stk.length) (f : Stack → Stack) : (setStack n f s).stack n = f (s.stack n) := by
  rw [setStack_stack, if_pos ⟨rfl, hn⟩]

theorem stack_congr {s t : State} (h : t.shelf = s.shelf) (k : Nat) : t.stack k = s.stack k := by rw [State.stack, h, State.stack]

/-- Of the shelf one stack may have changed, and nothing but the shelf. -/
structure StackOnly (j : Nat) (s t : State) : Prop where
  length : t.shelf.stk.length = s.shelf.stk.length
  others : ∀ k, k ≠ j → t.stack k = s.stack k
  rest : { t with shelf := s.shelf } = s

namespace StackOnly
variable {j : Nat} {s t u : State}

theorem refl (j : Nat) (s : State) : StackOnly j s s := ⟨rfl, fun _ _ => rfl, rfl⟩

theorem trans (h : StackOnly j s t) (k : StackOnly j t u) : StackOnly j s u where
  length := k.length.trans h.length
  others n hn := (k.others n hn).trans (h.others n hn)
  rest := by
    calc { u with shelf := s.shelf }
      _ = { ({ u with shelf := t.shelf } : State) with shelf := s.shelf } := rfl
      _ = { t with shelf := s.shelf } := by rw [k.rest]
      _ = s := h.rest

theorem tide (h : StackOnly j s t) : t.tide = s.tide := (congrArg State.tide h.rest :)
theorem combs (h : StackOnly j s t) : t.combs = s.combs := (congrArg State.combs h.rest :)
theorem str (h : StackOnly j s t) : t.str = s.str := (congrArg State.str h.rest :)

theorem sameConfig (h : StackOnly j s t) : SameConfig s t :=
  ⟨(congrArg State.ident h.rest :), (congrArg State.cfg h.rest :), (congrArg State.live h.rest :), (congrArg State.flash h.rest :)⟩

end StackOnly

theorem setStack_only (j : Nat) (f : Stack → Stack) (s : State) : StackOnly j s (setStack j f s) :=
  ⟨setStack_length j f s, fun k hk => by rw [setStack_stack, if_neg fun h => hk h.1.symm], rfl⟩

theorem setExpert_only (j v layer expert : Nat) (f : ExpertEntry → ExpertEntry) (s : State) :
    StackOnly j s (setExpert j v layer expert f s) := setStack_only ..

/-! ## Scrub (R219) -/

theorem countUnit_only (j u : Nat) (rs : List WordRead) (s : State) : StackOnly j s (countUnit j u rs s) := by
  unfold countUnit
  dsimp only
  split
  · exact .refl j s
  · exact setStack_only ..

/-- A read of a unit counts the words that it corrects and those that it cannot. -/
theorem countUnit_ecc {j : Nat} {s : State} (hj : j < s.shelf.stk.length) (u : Nat) (rs : List WordRead) :
    ((countUnit j u rs s).stack j).eccCorrected = satAdd (s.stack j).eccCorrected (rs.countP (·.corrected)) ∧
    ((countUnit j u rs s).stack j).eccUncorrectable = satAdd (s.stack j).eccUncorrectable (rs.countP (·.uncorrectable)) := by
  unfold countUnit
  dsimp only
  split
  next h => rw [h.1, h.2, satAdd_zero, satAdd_zero]; exact ⟨rfl, rfl⟩
  next => rw [setStack_self hj]; exact ⟨rfl, rfl⟩

/-- Unit u of stack j scrubbed: what its words read as is counted, and they are written back where one was corrected or is
poison. -/
def scrubUnit (j u : Nat) (s : State) : State :=
  let rs := readUnit (s.stack j).mem u
  let w := countUnit j u rs s
  if rs.any (fun w => w.corrected || w.poison) then setStack j (fun k => { k with mem := writeUnits k.mem u (carried rs) }) w else w

theorem scrubUnit_only (j u : Nat) (s : State) : StackOnly j s (scrubUnit j u s) := by
  unfold scrubUnit
  dsimp only
  split
  · exact (countUnit_only ..).trans (setStack_only ..)
  · exact countUnit_only ..

theorem scrubUnit_stack {j : Nat} {s : State} (hj : j < s.shelf.stk.length) (u : Nat) :
    let rs := readUnit (s.stack j).mem u
    ((scrubUnit j u s).stack j).mem =
        (if rs.any (fun w => w.corrected || w.poison) then writeUnits (s.stack j).mem u (carried rs) else (s.stack j).mem) ∧
      ((scrubUnit j u s).stack j).eccCorrected = satAdd (s.stack j).eccCorrected (rs.countP (·.corrected)) ∧
      ((scrubUnit j u s).stack j).eccUncorrectable = satAdd (s.stack j).eccUncorrectable (rs.countP (·.uncorrectable)) := by
  intro rs
  have hmem := (countUnit_counted j u rs s).mem j
  have hecc := countUnit_ecc hj u rs
  by_cases hbad : (rs.any fun w => w.corrected || w.poison) = true
  · have hscrub : scrubUnit j u s = setStack j (fun k => { k with mem := writeUnits k.mem u (carried rs) }) (countUnit j u rs s) :=
      if_pos hbad
    rw [hscrub, setStack_self ((countUnit_only ..).length.symm ▸ hj), if_pos hbad]
    exact ⟨congrArg (writeUnits · u (carried rs)) hmem, hecc⟩
  · have hscrub : scrubUnit j u s = countUnit j u rs s := if_neg hbad
    rw [hscrub, if_neg hbad]
    exact ⟨hmem, hecc⟩

section Scrub
variable {j u : Nat} {s : State}

theorem exec_shelfScrub (ha : s.awake = true) (hj : j < 24) (hl : (s.stack j).lost = false) (hu : u < unitCount) :
    exec (.shelfScrub j u) s = .next (afterStop
      (if (readUnit (s.stack j).mem u).any (·.uncorrectable) then scrubRegion j u (scrubUnit j u s) else scrubUnit j u s)) :=
  (if_pos ⟨ha, hj, hl⟩).trans (if_pos hu)

theorem exec_shelfScrub_outside (ha : s.awake = true) (hj : j < 24) (hl : (s.stack j).lost = false) (hu : unitCount ≤ u) :
    exec (.shelfScrub j u) s = .fault .shelfAddressOutside :=
  (if_pos ⟨ha, hj, hl⟩).trans (if_neg (Nat.not_lt.mpr hu))

end Scrub

/-! ## Refresh (R166) -/

section Refresh
variable {j : Nat} {point : BitVec 13} {s : State}

theorem exec_shelfRefresh_idle (ha : s.awake = true) (hj : j < 24) (hl : (s.stack j).lost = false) (hc : counting s = false) :
    exec (.shelfRefresh j point) s = .next (setStack j (fun k => { k with refreshes := k.refreshes + 1 }) s) :=
  congrArg Host.Outcome.next ((if_pos ⟨ha, hj, hl⟩).trans (if_neg (Bool.not_eq_true _ ▸ hc)))

theorem exec_shelfRefresh_counting (ha : s.awake = true) (hj : j < 24) (hl : (s.stack j).lost = false) (hc : counting s = true) :
    exec (.shelfRefresh j point) s = .next (refreshAt j point.toNat s) :=
  congrArg Host.Outcome.next ((if_pos ⟨ha, hj, hl⟩).trans (if_pos hc))

/-- Neither in its window nor due to a hot stack, or past its cycle, no refresh takes place. -/
theorem refreshAt_refused {c : Nat} (h : ahead c s = false ∨ (refreshWindow c s = false ∧ (s.stack j).hot = false)) :
    refreshAt j c s = s := by
  refine if_neg ?_
  rcases h with h | ⟨hw, hh⟩
  · simp [h]
  · simp [hw, hh]

/-- A phase cycle of the tide in force is the counters' once they have counted to it. -/
theorem phaseCycle_advanceTo {c : Nat} (hc : c < 2 ^ 13) (h : ahead c s = true) : phaseCycle (advanceTo c s) = c := by
  have hbase : tideBase (advanceTo c s) = tideBase s :=
    tideBase_congr (passContract_number (contractAt (phaseCycle s + 1) c s) s) (by simp)
  have hle : tideBase s + s.tide.tideCycle.toNat ≤ c := by
    simp only [ahead, Bool.and_eq_true, decide_eq_true_eq] at h
    exact h.1
  rw [phaseCycle, hbase, advanceTo_tideCycle, BitVec.toNat_ofNat, Nat.mod_eq_of_lt (by omega)]
  omega

theorem refreshAt_takes {c : Nat} (hj : j < s.shelf.stk.length) (hc : c < 2 ^ 13) (h : ahead c s = true)
    (hdue : refreshWindow c s = true ∨ (s.stack j).hot = true) :
    let t := refreshAt j c s
    (t.stack j).refreshes = (s.stack j).refreshes + 1 ∧
      (t.stack j).refreshedAt = (if refreshWindow c s then (s.stack j).refreshedAt else some s.tide.number) ∧
      phaseCycle t = c ∧ t.combs = s.combs := by
  have hshelf : (advanceTo c s).shelf = s.shelf := by simp
  have hat : refreshAt j c s = setStack j (fun k => { k with
      refreshes := k.refreshes + 1
      refreshedAt := if refreshWindow c s then k.refreshedAt else some s.tide.number }) (advanceTo c s) := if_pos ⟨h, hdue⟩
  dsimp only
  rw [hat, setStack_self (hshelf ▸ hj), stack_congr hshelf]
  refine ⟨rfl, rfl, phaseCycle_advanceTo hc h, ?_⟩
  simp

end Refresh

theorem raiseNotice_stack (code : Nat) (severity : Option Nat) (kind subject related detail : Nat) (s : State) (k : Nat) :
    (raiseNotice code severity kind subject related detail s).stack k = s.stack k := stack_congr (by simp) k

/-! ## A channel is retired (R234, R311) -/

theorem exec_channelRetirement {j c : Nat} {s : State} (ha : s.awake = true) (hj : j < 24) (hc : c < 32)
    (hl : (s.stack j).lost = false) (hb : bit (s.stack j).channelsRetired c = false)
    (hn : 8 ≤ nth (s.stack j).uncorrectableEpoch c 0) : exec (.channelRetirement j c) s = .next (retireChannel j c s) :=
  congrArg Host.Outcome.next (if_pos ⟨ha, hj, hc, hl, hb, hn⟩)

/-- A clear bit is set by adding its weight. -/
theorem bit_add_two_pow {x : BitVec 32} {c : Nat} (hc : c < 32) (h : bit x c = false) (d : Nat) :
    bit (BitVec.ofNat 32 (x.toNat + 2 ^ c)) d = (bit x d || decide (d = c)) := by
  have hdisjoint : x &&& BitVec.twoPow 32 c = 0#32 := by
    refine BitVec.eq_of_getLsbD_eq fun i _ => ?_
    rw [BitVec.getLsbD_and, BitVec.getLsbD_twoPow, BitVec.getLsbD_zero]
    by_cases hi : c = i
    · have hx : x.getLsbD i = false := hi ▸ h
      rw [hx, Bool.false_and]
    · simp [hi]
  have hsum : BitVec.ofNat 32 (x.toNat + 2 ^ c) = x ||| BitVec.twoPow 32 c := by
    rw [← BitVec.add_eq_or_of_and_eq_zero _ _ hdisjoint]
    exact BitVec.eq_of_toNat_eq (by simp)
  rw [hsum]
  show (x ||| BitVec.twoPow 32 c).getLsbD d = (x.getLsbD d || decide (d = c))
  rw [BitVec.getLsbD_or, BitVec.getLsbD_twoPow]
  simp [hc, eq_comm]

/-- What a stack becomes when its channel c is retired. -/
def withoutChannel (c : Nat) (k : Stack) : Stack :=
  { k with
    channelsRetired := BitVec.ofNat 32 (k.channelsRetired.toNat + 2 ^ c)
    mem := copyChannel k.mem c
    experts := k.experts.map fun e => if reserveStart ≤ e.offset.toNat then { e with inShelf := false } else e
    reserveUsed := if k.channelsRetired = 0 then BitVec.ofInt 16 (inUnits 20 (45725 / 16)) else k.reserveUsed }

theorem retireChannel_retires {j c : Nat} {s : State} (hj : j < s.shelf.stk.length) (hb : bit (s.stack j).channelsRetired c = false) :
    let t := retireChannel j c s
    t.stack j = withoutChannel c (s.stack j) ∧ (∀ k, k ≠ j → t.stack k = s.stack k) ∧ t.combs = s.combs ∧ SameConfig s t ∧
      t.tide = s.tide := by
  dsimp only
  rw [retireChannel, if_neg (by simp [hb])]
  refine ⟨?_, fun k hk => ?_, by simp, ⟨by simp, by simp, by simp, by simp⟩, by simp⟩
  · rw [raiseNotice_stack, setStack_self hj]
    rfl
  · rw [raiseNotice_stack, (setStack_only ..).others k hk]

/-! ## Experts (R232, R233, R316) -/

/-- The name of a map entry is left as it is. -/
def KeepsName (f : ExpertEntry → ExpertEntry) : Prop := ∀ e, (f e).vcomb = e.vcomb ∧ (f e).layer = e.layer ∧ (f e).expert = e.expert

/-- Stack j's entry after a change of the entries of that name or of another in the same stack. -/
theorem expertEntry_setExpert {f : ExpertEntry → ExpertEntry} (hf : KeepsName f) (j v l e v' l' e' : Nat) (s : State) :
    expertEntry j v l e (setExpert j v' l' e' f s) =
      (expertEntry j v l e s).map fun y => if y.vcomb = v' ∧ y.layer = l' ∧ y.expert = e' then f y else y := by
  by_cases hj : j < s.shelf.stk.length
  · unfold expertEntry setExpert
    rw [setStack_self hj, List.find?_map]
    congr 2
    funext y
    simp only [Function.comp]
    split
    · simp [hf y]
    · rfl
  · have hnone : expertEntry j v l e s = none := by
      unfold expertEntry State.stack nth
      rw [List.getD_eq_default _ _ (Nat.le_of_not_lt hj)]
      rfl
    unfold expertEntry setExpert at *
    rw [setStack_stack, if_neg fun h => hj h.2, hnone]
    rfl

theorem expertEntry_named {j v l e : Nat} {s : State} {x : ExpertEntry} (h : expertEntry j v l e s = some x) :
    x.vcomb = v ∧ x.layer = l ∧ x.expert = e := by
  have hx := List.find?_some h
  simpa [and_assoc] using hx

theorem expertEntry_setExpert_same {f : ExpertEntry → ExpertEntry} (hf : KeepsName f) {j v l e : Nat} {s : State} {x : ExpertEntry}
    (h : expertEntry j v l e s = some x) : expertEntry j v l e (setExpert j v l e f s) = some (f x) := by
  rw [expertEntry_setExpert hf, h, Option.map_some, if_pos (expertEntry_named h)]

/-- A stack with an entry in its map is one of the module's. -/
theorem stack_lt_of_expertEntry {j v l e : Nat} {s : State} {x : ExpertEntry} (h : expertEntry j v l e s = some x) :
    j < s.shelf.stk.length := by
  by_contra hj
  unfold expertEntry State.stack nth at h
  rw [List.getD_eq_default _ _ (Nat.le_of_not_lt hj)] at h
  cases h

theorem expertEntry_setStack {f : Stack → Stack} (hf : ∀ k, (f k).experts = k.experts) (j v l e : Nat) (s : State) :
    expertEntry j v l e (setStack j f s) = expertEntry j v l e s := by
  unfold expertEntry
  rw [setStack_stack]
  split
  · rw [hf]
  · rfl

/-- A change of map entries leaves the memories. -/
theorem setExpert_mem (j v l e : Nat) (f : ExpertEntry → ExpertEntry) (s : State) (k : Nat) :
    ((setExpert j v l e f s).stack k).mem = (s.stack k).mem := by
  unfold setExpert
  rw [setStack_stack]
  split <;> rfl

/-- A map entry that names a place in the shelf. -/
def ExpertEntry.placedAt (u : Nat) (y : ExpertEntry) : ExpertEntry :=
  { y with inShelf := true, restage := false, offset := BitVec.ofNat 38 u }

/-- A map entry whose slice lies in the cove. -/
def ExpertEntry.outOfShelf (y : ExpertEntry) : ExpertEntry := { y with inShelf := false }

/-- A map entry whose slice is not awaited. -/
def ExpertEntry.landed (y : ExpertEntry) : ExpertEntry := { y with pending := false }

theorem placedAt_keepsName (u : Nat) : KeepsName (ExpertEntry.placedAt u) := fun _ => ⟨rfl, rfl, rfl⟩
theorem outOfShelf_keepsName : KeepsName ExpertEntry.outOfShelf := fun _ => ⟨rfl, rfl, rfl⟩
theorem landed_keepsName : KeepsName ExpertEntry.landed := fun _ => ⟨rfl, rfl, rfl⟩

/-- The words of a slice stand at unit u of stack j, and its map entry names the place. -/
def putSlice (j v l e : Nat) (ws : List Word64) (u : Nat) (s : State) : State :=
  setExpert j v l e (ExpertEntry.placedAt u) (setStack j (fun k => { k with mem := writeUnits k.mem u ws }) s)

theorem putSlice_only (j v l e : Nat) (ws : List Word64) (u : Nat) (s : State) : StackOnly j s (putSlice j v l e ws u s) :=
  (setStack_only ..).trans (setExpert_only ..)

theorem putSlice_entry {j v l e : Nat} {s : State} {x : ExpertEntry} (h : expertEntry j v l e s = some x) (ws : List Word64) (u : Nat) :
    expertEntry j v l e (putSlice j v l e ws u s) = some (x.placedAt u) := by
  refine expertEntry_setExpert_same (placedAt_keepsName u) ((expertEntry_setStack ?_ j v l e s).trans h)
  exact fun _ => rfl

theorem putSlice_mem {j : Nat} {s : State} (hj : j < s.shelf.stk.length) (v l e : Nat) (ws : List Word64) (u : Nat) :
    ((putSlice j v l e ws u s).stack j).mem = writeUnits (s.stack j).mem u ws := by
  rw [putSlice, setExpert_mem, setStack_self hj]

/-- A slice takes the free place, or that of the coldest given, or none. -/
theorem placeSlice_cases (free : Option Nat) (cold : List (Nat × Nat × ExpertEntry)) (j v l e : Nat) (ws : List Word64) (s : State) :
    (∃ u, free = some u ∧ placeSlice free cold j v l e ws s = putSlice j v l e ws u s) ∨
    (free = none ∧ placeSlice free cold j v l e ws s = s) ∨
    (free = none ∧ ∃ x : Nat × Nat × ExpertEntry, placeSlice free cold j v l e ws s = putSlice j v l e ws x.1
      (setExpert j x.2.2.vcomb x.2.2.layer x.2.2.expert ExpertEntry.outOfShelf s)) := by
  cases free with
  | some u => exact .inl ⟨u, rfl, rfl⟩
  | none =>
    cases cold with
    | nil => exact .inr (.inl ⟨rfl, rfl⟩)
    | cons x xs => exact .inr (.inr ⟨rfl, x, rfl⟩)

theorem placeSlice_only (free : Option Nat) (cold : List (Nat × Nat × ExpertEntry)) (j v l e : Nat) (ws : List Word64) (s : State) :
    StackOnly j s (placeSlice free cold j v l e ws s) := by
  rcases placeSlice_cases free cold j v l e ws s with ⟨u, -, h⟩ | ⟨-, h⟩ | ⟨-, x, h⟩ <;> rw [h]
  · exact putSlice_only ..
  · exact .refl j s
  · exact (setExpert_only ..).trans (putSlice_only ..)

/-- A slice that is not awaited is not awaited once it is placed. -/
theorem placeSlice_pending {j v l e : Nat} {s : State} {x : ExpertEntry} (h : expertEntry j v l e s = some x) (hx : x.pending = false)
    (free : Option Nat) (cold : List (Nat × Nat × ExpertEntry)) (ws : List Word64) :
    ∃ y, expertEntry j v l e (placeSlice free cold j v l e ws s) = some y ∧ y.pending = false := by
  rcases placeSlice_cases free cold j v l e ws s with ⟨u, -, heq⟩ | ⟨-, heq⟩ | ⟨-, z, heq⟩ <;> rw [heq]
  · exact ⟨_, putSlice_entry h ws u, hx⟩
  · exact ⟨x, h, hx⟩
  · have hz := expertEntry_setExpert outOfShelf_keepsName j v l e z.2.2.vcomb z.2.2.layer z.2.2.expert s
    rw [h, Option.map_some] at hz
    refine ⟨_, putSlice_entry hz ws z.1, ?_⟩
    split
    · exact hx
    · exact hx

/-- What lands in pending rows touches neither scratchpads nor anything but combs. -/
structure RowsFilled (s t : State) : Prop where
  mem : ∀ p, (t.comb p).mem = (s.comb p).mem
  rest : { t with combs := s.combs } = s

namespace RowsFilled
variable {s t u : State}

theorem refl (s : State) : RowsFilled s s := ⟨fun _ => rfl, rfl⟩

theorem trans (h : RowsFilled s t) (k : RowsFilled t u) : RowsFilled s u where
  mem p := (k.mem p).trans (h.mem p)
  rest := by
    calc { u with combs := s.combs }
      _ = { ({ u with combs := t.combs } : State) with combs := s.combs } := rfl
      _ = { t with combs := s.combs } := by rw [k.rest]
      _ = s := h.rest

theorem foldl {β : Type} {f : State → β → State} (h : ∀ s b, RowsFilled s (f s b)) (l : List β) (s : State) : RowsFilled s (l.foldl f s) :=
  foldl_inv (RowsFilled s) f (fun t b ht => ht.trans (h t b)) l s (.refl s)

theorem shelf (h : RowsFilled s t) : t.shelf = s.shelf := (congrArg State.shelf h.rest :)
theorem tide (h : RowsFilled s t) : t.tide = s.tide := (congrArg State.tide h.rest :)
theorem str (h : RowsFilled s t) : t.str = s.str := (congrArg State.str h.rest :)

theorem sameConfig (h : RowsFilled s t) : SameConfig s t :=
  ⟨(congrArg State.ident h.rest :), (congrArg State.cfg h.rest :), (congrArg State.live h.rest :), (congrArg State.flash h.rest :)⟩

end RowsFilled

theorem landUnit_rowsFilled (p pos : Nat) (ws : List Word64) (s : State) : RowsFilled s (landUnit p pos ws s) :=
  ⟨fun q => setComb_kept Comb.mem p _ s q fun _ => rfl, rfl⟩

theorem landExpert_rowsFilled (p layer expert : Nat) (us : List (List Word64)) (s : State) :
    RowsFilled s (landExpert p layer expert us s) :=
  .foldl (fun s _ => .foldl (fun s _ => landUnit_rowsFilled _ _ _ s) _ s) _ s

/-- The rows of stack j's die that wait for a slice of virtual comb v are filled. -/
def fillWaiting (j v layer expert : Nat) (us : List (List Word64)) (s : State) : State :=
  (combsOf j).foldl (fun s p => if vcombOn p s = v then landExpert p layer expert us s else s) s

theorem fillWaiting_rowsFilled (j v layer expert : Nat) (us : List (List Word64)) (s : State) :
    RowsFilled s (fillWaiting j v layer expert us s) :=
  .foldl (fun s p => by
    split
    · exact landExpert_rowsFilled ..
    · exact .refl s) _ s

/-- The free place for a slice that lands: in the expert area for a page-in, in the reserve for re-staging (R232, R316). -/
def freeFor (i : Image) (j n : Nat) (x : ExpertEntry) (s : State) : Option Nat :=
  if x.pending = true then freePlace i j n s else freeReserve i j n s

/-- The slices that may give way to it, coldest first. -/
def coldFor (i : Image) (j n : Nat) (x : ExpertEntry) (s : State) : List (Nat × Nat × ExpertEntry) :=
  if x.pending = true then coldest i j n s else (coldest i j n s).filter fun y => decide (y.1 < reserveStart)

/-- Slice (v, l, e) of stack j has landed, and before its rows are filled. -/
def slicePlaced (free : Option Nat) (cold : List (Nat × Nat × ExpertEntry)) (i : Image) (j v l e : Nat) (s : State) : State :=
  placeSlice free cold j v l e (sliceWords i v l e s) (setExpert j v l e ExpertEntry.landed s)

theorem exec_expertPageinComplete {j v l e : Nat} {s : State} {i : Image} {x : ExpertEntry} (ha : s.awake = true)
    (hdp : s.tide.dp ≠ .loading) (hi : s.img.image = some i) (hx : expertEntry j v l e s = some x)
    (hlands : x.pending = true ∨ restageNext j x s = true) :
    let w := setExpert j v l e ExpertEntry.landed s
    let n := sliceUnits i v l e
    exec (.expertPageinComplete j v l e) s = .next (fillWaiting j v l e (unitsOf n (sliceWords i v l e s))
      (slicePlaced (freeFor i j n x w) (coldFor i j n x w) i j v l e s)) := by
  intro w n
  have hplaced : (if x.pending = true then placePagein i j v l e n (sliceWords i v l e s) w
      else placeRestaged i j v l e n (sliceWords i v l e s) w) = slicePlaced (freeFor i j n x w) (coldFor i j n x w) i j v l e s := by
    unfold slicePlaced freeFor coldFor
    split
    · rfl
    · rfl
  rw [← hplaced]
  refine congrArg Host.Outcome.next ?_
  simp only [hi, hx]
  exact if_pos ⟨ha, hdp, hlands⟩

section Lands
variable {j v l e : Nat} {s : State} {i : Image} {x : ExpertEntry} (free : Option Nat) (cold : List (Nat × Nat × ExpertEntry))

theorem slicePlaced_only : StackOnly j s (slicePlaced free cold i j v l e s) := (setExpert_only ..).trans (placeSlice_only ..)

theorem slicePlaced_pending (hx : expertEntry j v l e s = some x) :
    ∃ y, expertEntry j v l e (slicePlaced free cold i j v l e s) = some y ∧ y.pending = false :=
  placeSlice_pending (expertEntry_setExpert_same landed_keepsName hx) rfl free cold _

/-- Where there is free room, the slice's words stand there and its entry names the place. -/
theorem slicePlaced_free (hx : expertEntry j v l e s = some x) (u : Nat) :
    expertEntry j v l e (slicePlaced (some u) cold i j v l e s) = some (x.landed.placedAt u) ∧
      ((slicePlaced (some u) cold i j v l e s).stack j).mem = writeUnits (s.stack j).mem u (sliceWords i v l e s) := by
  have hw := expertEntry_setExpert_same landed_keepsName hx
  have hput : slicePlaced (some u) cold i j v l e s =
    putSlice j v l e (sliceWords i v l e s) u (setExpert j v l e ExpertEntry.landed s) := rfl
  rw [hput, putSlice_mem (stack_lt_of_expertEntry hw), setExpert_mem]
  exact ⟨putSlice_entry hw _ u, rfl⟩

end Lands

theorem expertEntry_congr {s t : State} (h : t.shelf = s.shelf) (j v l e : Nat) : expertEntry j v l e t = expertEntry j v l e s := by
  rw [expertEntry, stack_congr h, expertEntry]

theorem exec_expertPromotionComplete {l e : Nat} {s : State} (ha : s.awake = true) :
    exec (.expertPromotionComplete l e) s = .next { s with shelf := { s.shelf with promotions := s.shelf.promotions.map fun p =>
      if p.layer = l ∧ p.expert = e then { p with complete := true } else p } } :=
  congrArg Host.Outcome.next (if_pos ha)

/-- Settles O47: scrub, refresh, retirement and the landing of a slice work on one stack; rows that wait are filled beside it. -/
theorem shelfServiceAndExperts : Obligations.ShelfServiceAndExperts := by
  unfold Obligations.ShelfServiceAndExperts
  refine ⟨⟨fun j u s ha hj hl hu hlen => ?scrub, fun j u s => exec_shelfScrub_outside, fun j point s ha hj hl => ?refresh,
    fun j c s ha hj hlen hc hl hb hn => ?retire⟩, fun j v l e s i x ha hdp hi hx hlands => ?lands,
    fun l e s => exec_expertPromotionComplete⟩
  case scrub =>
    obtain ⟨hmem, hcorrected, huncorrectable⟩ := scrubUnit_stack hlen u
    have honly := scrubUnit_only j u s
    refine ⟨scrubUnit j u s, hmem, hcorrected, huncorrectable, honly.others, honly.rest, exec_shelfScrub ha hj hl hu, fun hgood hrun => ?_⟩
    rw [exec_shelfScrub ha hj hl hu, if_neg (by simp [hgood]), afterStop_running (honly.tide ▸ hrun)]
  case refresh =>
    refine ⟨exec_shelfRefresh_idle ha hj hl, fun hcount hpast => ?_, fun hcount hahead hlen => ?_⟩
    · rw [exec_shelfRefresh_counting ha hj hl hcount, refreshAt_refused (.inl hpast)]
    · have hexec := exec_shelfRefresh_counting (point := point) ha hj hl hcount
      refine ⟨fun hw => ?_, fun hw hhot => ?_, fun hw hcool => ?_⟩
      · obtain ⟨hrefreshes, hat, hcycle, hcombs⟩ := refreshAt_takes hlen point.isLt hahead (.inl hw)
        exact ⟨_, hexec, hrefreshes, hat.trans (if_pos hw), hcycle, hcombs⟩
      · obtain ⟨hrefreshes, hat, hcycle, hcombs⟩ := refreshAt_takes hlen point.isLt hahead (.inr hhot)
        exact ⟨_, hexec, hrefreshes, hat.trans (if_neg (by simp [hw])), hcycle, hcombs⟩
      · rw [hexec, refreshAt_refused (.inr ⟨hw, hcool⟩)]
  case retire =>
    obtain ⟨hstack, hothers, hcombs, hconfig, htide⟩ := retireChannel_retires hlen hb
    refine ⟨_, exec_channelRetirement ha hj hc hl hb hn, ?_, fun d _ hd => ?_, hothers, hcombs, hconfig, htide⟩
    · rw [hstack]
      exact (bit_add_two_pow hc hb c).trans (by simp)
    · rw [hstack]
      exact (bit_add_two_pow hc hb d).trans (by simp [hd])
  case lands =>
    intro w free
    obtain ⟨cold, hexec⟩ : ∃ cold, exec (.expertPageinComplete j v l e) s = .next (fillWaiting j v l e
        (unitsOf (sliceUnits i v l e) (sliceWords i v l e s)) (slicePlaced free cold i j v l e s)) :=
      ⟨_, exec_expertPageinComplete ha hdp hi hx hlands⟩
    have honly : StackOnly j s (slicePlaced free cold i j v l e s) := slicePlaced_only free cold
    have hfilled := fillWaiting_rowsFilled j v l e (unitsOf (sliceUnits i v l e) (sliceWords i v l e s))
      (slicePlaced free cold i j v l e s)
    refine ⟨_, hexec, fun y hy => ?_, fun u hu => ?_, fun k hk => (stack_congr hfilled.shelf k).trans (honly.others k hk),
      fun p => (hfilled.mem p).trans (congrArg Comb.mem (comb_congr honly.combs p)), honly.sameConfig.trans hfilled.sameConfig,
      hfilled.tide.trans honly.tide, hfilled.str.trans honly.str⟩
    · obtain ⟨z, hz, hpending⟩ := slicePlaced_pending (i := i) free cold hx
      have hyz := hy.symm.trans ((expertEntry_congr hfilled.shelf j v l e).trans hz)
      rwa [Option.some.inj hyz]
    · obtain ⟨hentry, hmem⟩ := slicePlaced_free (i := i) cold hx u
      rw [← hu] at hentry hmem
      exact ⟨(expertEntry_congr hfilled.shelf j v l e).trans hentry, (congrArg Stack.mem (stack_congr hfilled.shelf j)).trans hmem⟩

end Sys2Proof.Machine

namespace Sys2Proof.Machine

/-! ## What the work on streams leaves (R252, R256, R287)

Frames that are sent, messages that end and objects that come and go with a stream stand beside the data plane: none of it
touches the tide, the image, the configuration or the course of a shutdown. -/

/-- Tide, image, configuration and the course of a shutdown are as before. -/
structure StreamWork (s t : State) : Prop where
  tide : t.tide = s.tide
  img : t.img = s.img
  config : SameConfig s t
  shutdown : t.mbox.shutdown = s.mbox.shutdown

namespace StreamWork
variable {s t u : State}

theorem refl (s : State) : StreamWork s s := ⟨rfl, rfl, ⟨rfl, rfl, rfl, rfl⟩, rfl⟩

theorem trans (h : StreamWork s t) (k : StreamWork t u) : StreamWork s u :=
  ⟨k.tide.trans h.tide, k.img.trans h.img, h.config.trans k.config, k.shutdown.trans h.shutdown⟩

theorem foldl {β : Type} {f : State → β → State} (h : ∀ s b, StreamWork s (f s b)) (l : List β) (s : State) : StreamWork s (l.foldl f s) :=
  foldl_inv (StreamWork s) f (fun t b ht => ht.trans (h t b)) l s (.refl s)

theorem ite {c : Prop} [Decidable c] (h : StreamWork s t) (k : StreamWork s u) : StreamWork s (if c then t else u) := by
  split
  · exact h
  · exact k

/-- An operation after stream work, in the order in which compositions are written. -/
theorem before (k : StreamWork t u) (h : StreamWork s t) : StreamWork s u := h.trans k

end StreamWork

/-- Streams and error records may change. -/
theorem streams_work {s : State} (x : Streams) (e : Errs) : StreamWork s { s with str := x, err := e } :=
  ⟨rfl, rfl, ⟨rfl, rfl, rfl, rfl⟩, rfl⟩

/-! ### Frames and messages -/

theorem sendFrame_work (dest : Endpoint) (kind flags reason : Nat) (mb : BitVec 16) (first : BitVec 32) (id : BitVec 64)
    (aux : Nat) (entries : List (BitVec 128)) (s : State) : StreamWork s (sendFrame dest kind flags reason mb first id aux entries s) :=
  ⟨by simp, by simp, ⟨by simp, by simp, by simp, by simp⟩, by simp⟩

theorem countFrames_work (mb n : Nat) (s : State) : StreamWork s (countFrames mb n s) :=
  .ite (.refl s) ⟨rfl, rfl, ⟨rfl, rfl, rfl, rfl⟩, rfl⟩

theorem repeatLater_work (x : Option Sent) (s : State) : StreamWork s (repeatLater x s) := streams_work _ s.err

theorem stateFrame_work (t : Stream) (st : StreamState) (aux : Nat) (s : State) : StreamWork s (stateFrame t st aux s) :=
  (repeatLater_work ..).before ((countFrames_work ..).before (sendFrame_work ..))

theorem sendTokens_work (t : Stream) (flags : Nat) (es : List TokenEntry) (s : State) : StreamWork s (sendTokens t flags es s) := by
  unfold sendTokens
  split
  · exact .refl s
  · exact (countFrames_work ..).before (sendFrame_work ..)

/-- A message that ends without a change of its object leaves the streams and the course of a shutdown. -/
theorem finish_unchanged (k : Option Key) (o : Outstanding) (changes : Bool) (status : Status) (key : ObjKey) (effect : Nat × Nat)
    (body : Bytes) (s : State) : (finish k o changes false status key effect body s).str = s.str ∧
      (finish k o changes false status key effect body s).mbox.shutdown = s.mbox.shutdown := by
  simp [finish]

theorem completeAll_str (codes : List Nat) (subject : Nat) (status : Status) (key : ObjKey) (body : Bytes) (s : State) :
    (completeAll codes subject status key body s).str = s.str :=
  foldl_keeps State.str _ (fun s o => by
    split
    · rfl
    · exact (finish_unchanged ..).1) _ s

theorem completeAll_work (codes : List Nat) (subject : Nat) (status : Status) (key : ObjKey) (body : Bytes) (s : State) :
    StreamWork s (completeAll codes subject status key body s) :=
  ⟨by simp, by simp, ⟨by simp, by simp, by simp, by simp⟩, foldl_keeps (fun s : State => s.mbox.shutdown) _ (fun s o => by
    split
    · rfl
    · exact (finish_unchanged ..).2) _ s⟩

/-! ### Records and objects -/

theorem setLive_work (n : Nat) (f : Stream → Stream) (s : State) : StreamWork s (setLive n f s) := streams_work _ s.err

theorem setObject_work (id : Nat) (f : CoveObject → CoveObject) (s : State) : StreamWork s (setObject id f s) :=
  ⟨rfl, rfl, ⟨rfl, rfl, rfl, rfl⟩, rfl⟩

theorem freeObject_work (id : Nat) (s : State) : StreamWork s (freeObject id s) :=
  ⟨by simp, by simp, ⟨by simp, by simp, by simp, by simp⟩, by simp⟩

theorem freeCancelled_work (s : State) : StreamWork s (freeCancelled s) := .foldl (fun s _ => freeObject_work _ s) _ s

theorem startWrites_work (s : State) : StreamWork s (startWrites s) :=
  ⟨by simp, by simp, ⟨by simp, by simp, by simp, by simp⟩, by simp⟩

theorem sweepPrefixes_work (s : State) : StreamWork s (sweepPrefixes s) :=
  ⟨by simp, by simp, ⟨by simp, by simp, by simp, by simp⟩, by simp⟩

theorem createObject_work {data : CoveData} {holder : BitVec 16} {bytes : Nat} {digest address : Digest} {s : State}
    {o : BitVec 128 × State} (h : createObject data holder bytes digest address s = some o) : StreamWork s o.2 := by
  unfold createObject at h
  split at h
  · contradiction
  · obtain rfl := Option.some.inj h
    constructor <;> simp [SameConfig, drawId]

theorem closeStream_work (t : Stream) (reason : BitVec 5) (own : Bool) (resumeStatus : Status) (s : State) :
    StreamWork s (closeStream t reason own resumeStatus s) := by
  refine (completeAll_work ..).before ((completeAll_work ..).before ?_)
  refine .before (.ite (.refl _) (stateFrame_work ..)) ?_
  exact .before (.ite (streams_work _ _) (.refl _)) (streams_work _ s.err)

theorem closeParked_work (t : Stream) (reason : BitVec 5) (own : Bool) (s : State) : StreamWork s (closeParked t reason own s) := by
  refine (closeStream_work ..).before ?_
  split
  · exact freeObject_work ..
  · exact .refl s

theorem beginPark_work (n : Nat) (own : Bool) (s : State) : StreamWork s (beginPark n own s).2 := by
  unfold beginPark
  split
  · dsimp only
    split
    next h => exact ((StreamWork.refl _).ite (stateFrame_work ..)).before ((setLive_work ..).before (createObject_work h))
    next => exact (completeAll_work ..).before (setLive_work ..)
  · exact .refl s

/-! ### Emission -/

theorem emitEntries_work (n : Nat) (es : List TokenEntry) (s : State) : StreamWork s (emitEntries n es s) := by
  unfold emitEntries
  split
  · exact .refl s
  · exact (setLive_work ..).before (((repeatLater_work ..).ite (.refl _)).before (sendTokens_work ..))

theorem emitFirst_work (n : Nat) (s : State) : StreamWork s (emitFirst n s) := by
  unfold emitFirst
  split
  · exact .refl s
  · exact (emitEntries_work ..).before (streams_work _ s.err)

theorem emitAll_work (n : Nat) (s : State) : StreamWork s (emitAll n s) := .foldl (fun s _ => emitFirst_work n s) _ s

/-! ### Events of a stream -/

theorem cancelPark_work (n : Nat) (s : State) : StreamWork s (cancelPark n s) := by
  unfold cancelPark
  split
  · exact .refl s
  · refine .ite ?_ (.refl s)
    refine (completeAll_work ..).before ((completeAll_work ..).before ?_)
    split
    · exact (freeCancelled_work _).before ((setObject_work ..).before (setLive_work ..))
    · exact setLive_work ..

theorem endResume_work (n : Nat) (s : State) : StreamWork s (endResume n s) := by
  unfold endResume
  split
  · exact .refl s
  · refine .ite ?_ (.refl s)
    refine (completeAll_work ..).before ?_
    split
    · exact (freeObject_work ..).before (setLive_work ..)
    · exact setLive_work ..

theorem closeAtBoundary_work (n : Nat) (s : State) : StreamWork s (closeAtBoundary n s) := by
  unfold closeAtBoundary
  split
  · exact .refl s
  · split
    · exact .refl s
    · exact .ite (.refl s) (((closeParked_work ..).ite (closeStream_work ..)).before (emitAll_work n s))

theorem parkAtBoundary_work (n : Nat) (s : State) : StreamWork s (parkAtBoundary n s) := by
  unfold parkAtBoundary
  split
  · exact .refl s
  · refine .ite ?_ (.refl s)
    split
    case h_5 => exact setLive_work ..
    all_goals exact (beginPark_work ..).before (emitAll_work n s)

theorem streamEvents_work (n : Nat) (s : State) : StreamWork s (streamEvents n s) :=
  (parkAtBoundary_work ..).before ((setLive_work ..).before ((closeAtBoundary_work ..).before ((endResume_work ..).before (cancelPark_work n s))))

theorem underNewTable_work (s : State) : StreamWork s (underNewTable s) := .ite (streams_work _ s.err) (.refl s)

/-- What a step boundary does to the streams before the next step gets its slots (R252). -/
def eventsTaken (s : State) : State := underNewTable (sweepPrefixes ((liveRecords s).foldl (fun s n => streamEvents n s) s))

theorem eventsTaken_work (s : State) : StreamWork s (eventsTaken s) :=
  (underNewTable_work _).before ((sweepPrefixes_work _).before (.foldl (fun s n => streamEvents_work n s) _ s))

theorem openStep_eq (s : State) : openStep s = advanceService (startWrites
    (if (eventsTaken s).tide.stopPending then quiesce (eventsTaken s) else takeSlots (eventsTaken s))) := rfl

/-! ### The step that ended commits (R256, R287, R306) -/

theorem settleOne_work (x : Suspect × Repeat) (s : State) : StreamWork s (settleOne x s) := by
  unfold settleOne
  dsimp only
  split
  · exact (setLive_work ..).before (streams_work s.str _)
  · exact streams_work s.str _

theorem settleRaised_work (s : State) : StreamWork s (settleRaised s) :=
  .before (streams_work _ _) (.foldl (fun s x => settleOne_work x s) s.err.raised s)

theorem settleLayers_work (s : State) : StreamWork s (settleLayers s) := streams_work s.str _

theorem storeHistory_work (t : Stream) (first : Nat) (s : State) : StreamWork s (storeHistory t first s) :=
  ⟨by simp, by simp, ⟨by simp, by simp, by simp, by simp⟩, by simp⟩

theorem commitStep_work (n : Nat) (s : State) : StreamWork s (commitStep n s) := by
  unfold commitStep
  split
  · exact .refl s
  · split
    · exact .refl s
    · dsimp only
      refine .before (.ite (stateFrame_work ..) (.refl _)) ?_
      refine .before (.ite (.refl _) (streams_work _ _)) ?_
      exact (storeHistory_work ..).before (setLive_work ..)

theorem commitSteps_work (s : State) : StreamWork s (commitSteps s) :=
  .before (.foldl (fun s n => commitStep_work n s) _ _) ((settleLayers_work _).before (settleRaised_work s))

/-! ## The next step, or the stop (R171, R173, R252, R264) -/

/-- No load, unload or shutdown is under way. -/
structure ServiceIdle (s : State) : Prop where
  load : s.img.load = none
  unloading : s.img.unloading = false
  shutdown : s.mbox.shutdown = .no

theorem StreamWork.serviceIdle {s t : State} (h : StreamWork s t) (hs : ServiceIdle s) : ServiceIdle t :=
  ⟨h.img ▸ hs.load, h.img ▸ hs.unloading, h.shutdown.trans hs.shutdown⟩

/-- Where no load, unload or shutdown is under way, none goes on. -/
theorem advanceService_idle {s : State} (h : ServiceIdle s) : advanceService s = s := by
  have hunload : advanceUnload s = s := if_neg (by simp [h.unloading])
  have hload : advanceLoad s = s := if_neg (by simp [loadParks, h.load])
  have hshutdown : ¬(s.mbox.shutdown = .accepted ∧ s.tide.dp ≠ .running) := by simp [h.shutdown]
  simp only [advanceService, hunload, hload, if_neg hshutdown]

section OpenStep
variable {s : State}

/-- A committed stop stops the data plane at its step boundary. -/
theorem openStep_stops (h : ServiceIdle s) (hstop : s.tide.stopPending = true) :
    openStep s = startWrites (quiesce (eventsTaken s)) := by
  have hwork := eventsTaken_work s
  have hidle : ServiceIdle (quiesce (eventsTaken s)) := { hwork.serviceIdle h with }
  rw [openStep_eq, if_pos (by rw [hwork.tide, hstop]), advanceService_idle ((startWrites_work _).serviceIdle hidle)]

theorem takeSlots_work (s : State) : StreamWork s (takeSlots s) := by
  unfold takeSlots
  split
  · exact .refl s
  · exact ⟨rfl, rfl, ⟨rfl, rfl, rfl, rfl⟩, rfl⟩

theorem openStep_goesOn (h : ServiceIdle s) (hstop : s.tide.stopPending = false) :
    openStep s = startWrites (takeSlots (eventsTaken s)) := by
  have hwork := eventsTaken_work s
  have hidle : ServiceIdle (startWrites (takeSlots (eventsTaken s))) :=
    ((startWrites_work _).before ((takeSlots_work _).before hwork)).serviceIdle h
  rw [openStep_eq, if_neg (by simp [hwork.tide, hstop]), advanceService_idle hidle]

theorem openStep_stopped (h : ServiceIdle s) (hstop : s.tide.stopPending = true) :
    (openStep s).tide.dp = .stopped ∧ (openStep s).tide.number = s.tide.number ∧ (openStep s).tide.stopPending = false ∧
      (openStep s).str.slots = List.replicate 256 none ∧ ∀ p ∈ (openStep s).str.live, p.2.rows = 0 := by
  have htide : (openStep s).tide = (quiesce (eventsTaken s)).tide := by rw [openStep_stops h hstop, (startWrites_work _).tide]
  have hstr : (openStep s).str = (quiesce (eventsTaken s)).str := by simp [openStep_stops h hstop]
  rw [htide, hstr]
  refine ⟨rfl, (congrArg Tide.number (eventsTaken_work s).tide :), rfl, rfl, fun p hp => ?_⟩
  obtain ⟨_, -, rfl⟩ := List.mem_map.mp hp
  rfl

/-- Every live stream has the slots of the new step, and nothing of the old one. -/
theorem takeSlots_live {i : Image} (hi : s.img.image = some i) :
    ∀ p ∈ (takeSlots s).str.live, p.2.stepOut = none ∧ p.2.rows = p.2.slotCount := by
  intro p hp
  unfold takeSlots at hp
  rw [hi] at hp
  obtain ⟨_, -, rfl⟩ := List.mem_map.mp hp
  exact ⟨rfl, rfl⟩

theorem openStep_next {i : Image} (h : ServiceIdle s) (hstop : s.tide.stopPending = false) (hi : s.img.image = some i) :
    (openStep s).tide = s.tide ∧ ∀ p ∈ (openStep s).str.live, p.2.stepOut = none ∧ p.2.rows = p.2.slotCount := by
  have hwork := eventsTaken_work s
  have hstr : (openStep s).str = (takeSlots (eventsTaken s)).str := by simp [openStep_goesOn h hstop]
  refine ⟨?_, ?_⟩
  · rw [openStep_goesOn h hstop]
    exact ((startWrites_work _).before ((takeSlots_work _).before hwork)).tide
  · rw [hstr]
    exact takeSlots_live (hwork.img ▸ hi)

end OpenStep

/-! ## What a committed event does to its stream (R252, R377) -/

section Events
variable {n : Nat} {s : State} {t : Stream}

theorem setLive_same (h : liveAt n s = some t) (f : Stream → Stream) : liveAt n (setLive n f s) = some (f t) := by
  rw [setLive_liveAt, if_pos rfl, h, Option.map_some]

theorem liveAt_congr {s t : State} (h : t.str = s.str) (n : Nat) : liveAt n t = liveAt n s := by rw [liveAt, h, liveAt]

/-- A stream whose committed stop has taken effect. -/
def Stream.stopped (t : Stream) : Stream :=
  { t with state := if t.state = .decode ∨ t.state = .paused then .ready else t.state
           pauseReason := if t.state = .decode ∨ t.state = .paused then 0 else t.pauseReason
           event := { t.event with stop := false } }

theorem stopAtBoundary_liveAt (h : liveAt n s = some t) :
    liveAt n (stopAtBoundary n s) = some (if t.event.stop then t.stopped else t) := setLive_same h _

/-- A stream whose park is cancelled. -/
def Stream.unparked (t : Stream) : Stream :=
  { t with state := t.resumeTo.getD .ready, resumeTo := none, parkObject := none, event := { t.event with cancelPark := false, own := false } }

theorem freeObject_str (id : Nat) (s : State) : (freeObject id s).str = s.str := by simp

theorem freeCancelled_str (s : State) : (freeCancelled s).str = s.str :=
  foldl_keeps State.str _ (fun _ _ => freeObject_str ..) _ s

theorem cancelPark_liveAt (h : liveAt n s = some t) (hcancel : t.event.cancelPark = true) (hstate : t.state = .parking) :
    liveAt n (cancelPark n s) = some t.unparked := by
  have hstr : (cancelPark n s).str = (setLive n (fun _ => t.unparked) s).str := by
    unfold cancelPark
    simp only [h]
    rw [if_pos ⟨hcancel, hstate⟩, completeAll_str, completeAll_str]
    split
    · exact freeCancelled_str _
    · rfl
  rw [liveAt_congr hstr, setLive_same h]

/-- A stream that has been resumed. -/
def Stream.resumed (t : Stream) : Stream :=
  { t with state := t.resumeTo.getD .ready, resumeTo := none, parkObject := none, event := { t.event with resumeDone := false } }

theorem endResume_liveAt (h : liveAt n s = some t) (hdone : t.event.resumeDone = true) (hstate : t.state = .resuming) :
    liveAt n (endResume n s) = some t.resumed := by
  have hstr : (endResume n s).str = (setLive n (fun _ => t.resumed) s).str := by
    unfold endResume
    simp only [h]
    rw [if_pos ⟨hdone, hstate⟩, completeAll_str]
    split
    · exact freeObject_str ..
    · rfl
  rw [liveAt_congr hstr, setLive_same h]

theorem closeAtBoundary_waits (h : liveAt n s = some t) (hwait : t.event.close = none ∨ t.state = .parking) : closeAtBoundary n s = s := by
  unfold closeAtBoundary
  simp only [h]
  split
  next => rfl
  next hclose =>
    refine if_pos (hwait.resolve_left ?_)
    simp [hclose]

theorem stateFrame_live (t : Stream) (st : StreamState) (aux : Nat) (s : State) : (stateFrame t st aux s).str.live = s.str.live := by
  simp [stateFrame, repeatLater]

/-- No live record is left to a stream that is closed. -/
theorem closeStream_gone (t : Stream) (reason : BitVec 5) (own : Bool) (resumeStatus : Status) (s : State) :
    ∀ y ∈ (closeStream t reason own resumeStatus s).str.live, ¬(y.2.id = t.id ∧ y.2.mailbox = t.mailbox) := by
  have hlive : (closeStream t reason own resumeStatus s).str.live =
      s.str.live.filter fun p => !(p.2.id = t.id && p.2.mailbox = t.mailbox) := by
    unfold closeStream
    rw [completeAll_str, completeAll_str]
    dsimp only
    split_ifs <;> simp [stateFrame_live]
  intro y hy
  rw [hlive] at hy
  simpa [imp_iff_not_or] using (List.mem_filter.mp hy).2

theorem closeAtBoundary_gone {r : BitVec 5} (h : liveAt n s = some t) (hclose : t.event.close = some r) (hstate : t.state ≠ .parking) :
    ∀ y ∈ (closeAtBoundary n s).str.live, ¬(y.2.id = t.id ∧ y.2.mailbox = t.mailbox) := by
  unfold closeAtBoundary
  simp only [h, hclose]
  rw [if_neg hstate]
  split
  · exact closeStream_gone _ _ _ _ _
  · exact closeStream_gone _ _ _ _ _

/-- A stream under a new table: with slots it decodes, without it pauses. -/
def Stream.moved (held : Bool) (t : Stream) : Stream :=
  let calm := { t with event := { t.event with pause := none } }
  let reason : BitVec 4 := match t.event.pause with
    | some r => r.setWidth 4
    | none => 1
  match t.state with
  | .decode => if held then calm else { calm with state := .paused, pauseReason := reason }
  | .paused => if held then { calm with state := .decode, pauseReason := 0 } else { calm with pauseReason := reason }
  | _ => calm

theorem Stream.moved_keeps (held : Bool) (t : Stream) : history (t.moved held) = history t ∧
    (t.moved held).state = (if t.state = .decode ∧ held = false then .paused
      else if t.state = .paused ∧ held = true then .decode else t.state) := by
  cases hstate : t.state <;> cases held <;> simp [Stream.moved, hstate, history]

theorem lookup_map_self {α : Type} (l : List (Nat × α)) (f : Nat → α → α) (n : Nat) :
    lookup (l.map fun p => (p.1, f p.1 p.2)) n = (lookup l n).map (f n) := by
  unfold lookup
  rw [List.find?_map, Option.map_map]
  have hkey : ((fun p : Nat × α => decide (p.1 = n)) ∘ fun p : Nat × α => (p.1, f p.1 p.2)) = fun p => decide (p.1 = n) := rfl
  rw [hkey]
  cases hfind : l.find? fun p => decide (p.1 = n) with
  | none => rfl
  | some p =>
    have hp : p.1 = n := by simpa using List.find?_some hfind
    simp [hp]

theorem underNewTable_liveAt (h : liveAt n s = some t) (hfresh : s.str.fresh = true) :
    liveAt n (underNewTable s) = some (t.moved (inTable n s)) := by
  have hmap : (underNewTable s).str.live = s.str.live.map fun p => (p.1, p.2.moved (inTable p.1 s)) := by
    rw [underNewTable, if_pos hfresh]
    rfl
  have hn : lookup s.str.live n = some t := h
  rw [liveAt, hmap, lookup_map_self s.str.live fun m => Stream.moved (inTable m s), hn, Option.map_some]

end Events

/-! ## STEP_BOUNDARY -/

theorem exec_stepBoundary {s : State} (ha : s.awake = true) (hrun : s.tide.dp = .running) (hp : s.tide.prologue = false)
    (hstep : s.tide.stepDue = true) (hserving : s.tide.servingDue = false) (hepoch : s.tide.epochDue = false) :
    exec .stepBoundary s = .next (endBoundary (openStep (commitSteps { s with tide := { s.tide with stepDue := false } }))) :=
  congrArg Host.Outcome.next (if_pos ⟨ha, hrun, hp, hstep, hserving, hepoch⟩)

/-- Actions of the slower classes come first (R169). -/
theorem exec_stepBoundary_early {s : State} (h : s.tide.servingDue = true ∨ s.tide.epochDue = true) : exec .stepBoundary s = .next s := by
  refine congrArg Host.Outcome.next (if_neg ?_)
  rintro ⟨-, -, -, -, hserving, hepoch⟩
  simp [hserving, hepoch] at h

/-- Settles O51: nothing of the work on streams touches the tide, so that a committed stop, or the next step's slots, follow
from it; each event's effect is what its record reads afterwards. -/
theorem stepBoundaryOpensTheNextStep : Obligations.StepBoundaryOpensTheNextStep := by
  unfold Obligations.StepBoundaryOpensTheNextStep
  refine ⟨fun s ha hrun hp hstep => ⟨exec_stepBoundary_early, fun hserving hepoch => ?boundary⟩, fun n s t ht => ?events⟩
  case boundary =>
    intro u
    have hwork := commitSteps_work { s with tide := { s.tide with stepDue := false } }
    refine ⟨exec_stepBoundary ha hrun hp hstep hserving hepoch, hwork.tide, hwork.img, hwork.config,
      fun hload hunloading hshutdown => ?_⟩
    have hidle : ServiceIdle u := hwork.serviceIdle ⟨hload, hunloading, hshutdown⟩
    refine ⟨fun hstop => ?_, fun i hstop hi => openStep_next hidle ((congrArg Tide.stopPending hwork.tide).trans hstop) (hwork.img ▸ hi)⟩
    obtain ⟨hdp, hnumber, hpending, hslots, hrows⟩ := openStep_stopped hidle ((congrArg Tide.stopPending hwork.tide).trans hstop)
    exact ⟨hdp, hnumber.trans (congrArg Tide.number hwork.tide :), hpending, hslots, hrows⟩
  case events =>
    refine ⟨fun hstop => ⟨t.stopped, ?_, rfl, rfl, rfl⟩, fun hstop => ?_, fun hcancel hstate => ⟨_, cancelPark_liveAt ht hcancel hstate, rfl, rfl, rfl, rfl⟩,
      fun hdone hstate => ⟨_, endResume_liveAt ht hdone hstate, rfl, rfl, rfl⟩, closeAtBoundary_waits ht,
      fun r => closeAtBoundary_gone ht, fun hfresh => ⟨_, underNewTable_liveAt ht hfresh, Stream.moved_keeps ..⟩⟩
    · rw [stopAtBoundary_liveAt ht, if_pos hstop]
    · rw [stopAtBoundary_liveAt ht, if_neg (by simp [hstop])]

end Sys2Proof.Machine

namespace Sys2Proof.Machine

/-! ## A data plane that starts, or does not run (R172, R174)

What the start's boundary does either leaves the data plane in its prologue, without a hold, or takes it out of Running. -/

/-- The data plane is out of Loading; where it runs it fills its prologue, with no hold and no start that waits. -/
structure Starting (s : State) : Prop where
  loaded : s.tide.dp ≠ .loading
  fills : s.tide.dp = .running → s.tide.prologue = true ∧ s.tide.startPending = false ∧ s.tide.holds = []

namespace Starting
variable {s t : State}

/-- A data plane at rest. -/
theorem atRest (h : s.tide.dp = .idle ∨ s.tide.dp = .stopped ∨ s.tide.dp = .halted) : Starting s := by
  constructor <;> rcases h with h | h | h <;> simp [h]

theorem ite {c : Prop} [Decidable c] (h : Starting s) (k : Starting t) : Starting (if c then s else t) := by
  split
  · exact h
  · exact k

theorem foldl {β : Type} {f : State → β → State} (h : ∀ s b, Starting s → Starting (f s b)) (l : List β) (hs : Starting s) :
    Starting (l.foldl f s) := foldl_inv Starting f h l s hs

theorem of_tide (h : Starting s) (ht : t.tide = s.tide) : Starting t := ⟨ht ▸ h.loaded, ht ▸ h.fills⟩

/-- Every other group may change. -/
theorem groups {i c l f m o p g q b h v r e n w k d u} (hs : Starting s) : Starting (.mk i c l f m o p s.tide g q b h v r e n w k d u) :=
  hs.of_tide rfl

end Starting

theorem StreamWork.starting {s t : State} (h : StreamWork s t) (hs : Starting s) : Starting t := hs.of_tide h.tide

theorem dropImage_starting (s : State) : Starting (dropImage s) := .atRest (.inl rfl)

theorem quiesce_starting (s : State) : Starting (quiesce s) := .atRest (.inr (.inl rfl))

/-! ### What leaves the tide -/

theorem loseStack_tide (n : Nat) (s : State) : (loseStack n s).tide = s.tide := by
  unfold loseStack
  dsimp only
  split
  · rfl
  · split
    · exact foldl_keeps State.tide _ (fun s p => by simp) _ _
    · simp

theorem retireDie_tide (n : Nat) (l : DieLoss) (s : State) : (retireDie n l s).tide = s.tide := by
  have hcombs : ∀ ps s, (List.foldl (fun s p => dropComb p s) s ps).tide = s.tide := foldl_keeps State.tide _ fun s p => by simp [dropComb]
  have hdomains : ∀ ds s, (List.foldl (fun s d => offDomain d s) s ds).tide = s.tide := foldl_keeps State.tide _ fun s d => by simp
  unfold retireDie
  dsimp only
  split
  · simp [hcombs, hdomains]
  · simp [loseStack_tide, hcombs, hdomains]

theorem retireLink_tide (l : Nat) (s : State) : (retireLink l s).tide = s.tide := by
  unfold retireLink
  split <;> simp

theorem retireChannel_tide (j c : Nat) (s : State) : (retireChannel j c s).tide = s.tide := by
  unfold retireChannel
  split <;> simp

theorem retireChannels_tide (s : State) : (retireChannels s).tide = s.tide :=
  foldl_keeps State.tide _ (fun s j => by
    split
    · rfl
    · refine foldl_keeps State.tide _ (fun s c => ?_) _ s
      split
      · exact retireChannel_tide j c s
      · rfl) _ s

theorem shrinkAreas_tide (n : Nat) (s : State) : (shrinkAreas n s).tide = s.tide := by
  unfold shrinkAreas
  split
  · rfl
  · exact foldl_keeps State.tide _ (fun s j => (shrinkArea_kept ..).tide) _ s

theorem takeE_tide (s : State) : (takeE s).tide = s.tide := by
  simp [takeE, setArea, apply_ite State.tide, shrinkAreas_tide]

theorem markMargin_tide (l : Nat) (dir : Bool) (s : State) : (markMargin l dir s).tide = s.tide := by
  unfold markMargin
  split <;> simp

theorem retireSuspects_tide (s : State) : (retireSuspects s).tide = s.tide :=
  foldl_keeps State.tide _ (fun s i => by
    split
    · simp [retireSensor]
    · rfl) _ s

/-! ### Failures that an epoch's actions declare (R158, R159, R234) -/

/-- A failure halts the data plane for a remap, or leaves the tide where its unit's retirement does. -/
theorem declareFailed_starting {x : Source} {s : State} (hs : Starting s) (hx : (retireSource x s).tide = s.tide) :
    Starting (declareFailed x s) := by
  by_cases h : remapApplies s = true ∧ needsRemap x s = true
  · rw [declareFailed_displacing hs.loaded h.1 h.2]
    exact .atRest (.inr (.inr (haltForRemap_keeps h.1).1))
  · rw [declareFailed_undisplacing hs.loaded (by simpa [imp_iff_not_or] using h)]
    exact hs.of_tide hx

theorem lowerKv_starting {s : State} (hs : Starting s) : Starting (lowerKv s) := by
  unfold lowerKv
  dsimp only
  split
  · exact hs.of_tide rfl
  · exact .foldl (fun s j h => declareFailed_starting (x := .stack j) h (retireDie_tide j .memory s)) _ (hs.of_tide (clearPages_kept _).tide)

theorem avoidLink_starting {l : Nat} {s : State} (hs : Starting s) : Starting (avoidLink l s) := by
  unfold avoidLink
  split
  · exact hs
  · exact .ite (declareFailed_starting hs rfl) hs

theorem checkWidth_starting {l : Nat} {s : State} (hs : Starting s) : Starting (checkWidth l s) := by
  have hmarked : (markMargin l true (markMargin l false s)).tide = s.tide := by simp only [markMargin_tide]
  exact .ite hs (.ite (declareFailed_starting hs (retireLink_tide l s)) (.ite (avoidLink_starting (hs.of_tide hmarked)) (hs.of_tide hmarked)))

theorem retireLanes_starting {s : State} (hs : Starting s) : Starting (retireLanes s) :=
  .foldl (fun _ _ h => checkWidth_starting h) _ (hs.of_tide rfl)

theorem flipPromotion_starting {i : Image} {x : Promotion} {s : State} (hs : Starting s) : Starting (flipPromotion i x s) := by
  refine .foldl (fun _ _ h => ?_) _ (.foldl (fun _ _ h => Starting.of_tide h (setExpert_kept ..).tide) _ hs)
  dsimp only
  split
  · exact h.of_tide (setExpert_kept ..).tide
  · exact h

theorem rollExperts_starting {s : State} (hs : Starting s) : Starting (rollExperts s) := by
  unfold rollExperts
  split
  · exact hs
  · exact .groups (.foldl (fun _ _ h => flipPromotion_starting h) _ (.groups hs))

theorem rollCounters_starting {s : State} (hs : Starting s) : Starting (rollCounters s) := ⟨hs.loaded, hs.fills⟩

theorem epochActions_starting {s : State} (hs : Starting s) : Starting (epochActions s) := by
  refine .of_tide (s := beforeCooling s) ?_ (epochActions_tide s)
  have hlanes : Starting (retireLanes (rotateQuadrants (takeE (lowerKv s)))) :=
    retireLanes_starting ((lowerKv_starting hs).of_tide (takeE_tide _))
  have hchannels : Starting (retireChannels (retireLanes (rotateQuadrants (takeE (lowerKv s))))) := hlanes.of_tide (retireChannels_tide _)
  exact (rollCounters_starting (rollExperts_starting hchannels)).of_tide (retireSuspects_tide _)

/-! ### An unload, a load or a shutdown that goes on (R203, R248, R375, R438) -/

theorem dropCancel_work (n : Nat) (t : Stream) (s : State) : StreamWork s (dropCancel n t s) :=
  .ite ((completeAll_work ..).before (setLive_work ..)) (.refl s)

theorem dropResume_work (n : Nat) (t : Stream) (s : State) : StreamWork s (dropResume n t s) := by
  refine (completeAll_work ..).before (.before (streams_work _ _) ?_)
  split
  · exact setObject_work ..
  · exact .refl s

theorem parkOne_starting {onFull : Stream → State → State} {n : Nat} {s : State}
    (hfull : ∀ t s, Starting s → Starting (onFull t s)) (hs : Starting s) : Starting (parkOne onFull n s) := by
  unfold parkOne
  split
  · exact hs
  · split
    · exact .ite ((dropCancel_work ..).starting hs) ((closeStream_work ..).starting hs)
    · refine .ite ((dropCancel_work ..).starting hs) (.ite ((dropResume_work ..).starting hs) ?_)
      have hpark := beginPark_work n false s
      exact .ite (hpark.starting hs) (hfull _ _ (((setLive_work ..).before hpark).starting hs))

theorem parkAll_starting {go : State → Bool} {onFull : Stream → State → State} {s : State}
    (hfull : ∀ t s, Starting s → Starting (onFull t s)) (hs : Starting s) : Starting (parkAll go onFull s) :=
  .foldl (fun _ _ h => .ite (parkOne_starting hfull h) h) _ hs

theorem complete_starting {codes : List Nat} {subject : Nat} {changes : Bool} {status : Status} {key : ObjKey} {effect : Nat × Nat}
    {body : Bytes} {s : State} (hs : Starting s) : Starting (complete codes subject changes status key effect body s) :=
  hs.of_tide (by simp)

theorem endLoad_starting {status : Status} {s : State} (hs : Starting s) : Starting (endLoad status s) := by
  unfold endLoad
  split
  · exact hs
  next l _ =>
    extract_lets reserved freed emptied
    have hreserved : reserved.tide = s.tide := by
      unfold reserved
      split <;> rfl
    have hfreed : freed.tide = s.tide := by
      unfold freed
      split
      · exact (foldl_keeps State.tide _ (fun s o => by simp) _ _).trans hreserved
      · split
        · split
          · exact hreserved
          · exact hreserved
        · exact hreserved
    have hemptied : Starting emptied := .ite (dropImage_starting _) (hs.of_tide hfreed)
    exact complete_starting (hemptied.of_tide rfl)

theorem advanceUnload_starting {s : State} (hs : Starting s) : Starting (advanceUnload s) :=
  .ite (complete_starting (dropImage_starting s)) hs

theorem advanceLoad_starting {s : State} (hs : Starting s) : Starting (advanceLoad s) :=
  .ite (parkAll_starting (fun _ _ h => endLoad_starting h) hs) hs

theorem endShutdown_starting {s : State} (hs : Starting s) : Starting (endShutdown s) := by
  unfold endShutdown
  exact .ite (.groups (complete_starting (.groups (.groups (dropImage_starting _))))) hs

theorem advanceService_starting {s : State} (hs : Starting s) : Starting (advanceService s) := by
  have hload : Starting (advanceLoad (advanceUnload s)) := advanceLoad_starting (advanceUnload_starting hs)
  exact .ite (endShutdown_starting (parkAll_starting (fun _ _ h => (closeStream_work ..).starting h) hload)) hload

/-! ### The start's boundary -/

theorem openStep_starting {s : State} (hs : Starting s) : Starting (openStep s) := by
  have hevents : Starting (eventsTaken s) := (eventsTaken_work s).starting hs
  rw [openStep_eq]
  exact advanceService_starting ((startWrites_work _).starting (.ite (quiesce_starting _) ((takeSlots_work _).starting hevents)))

theorem startFirst_tide (s : State) : (startFirst s).tide = s.tide := by
  unfold startFirst
  split <;> simp

theorem startBoundary_starting (s : State) : Starting (startBoundary s) := by
  unfold startBoundary
  extract_lets tide running first
  have hrunning : Starting (takeTables (takeT running)) := ⟨nofun, fun _ => ⟨rfl, rfl, rfl⟩⟩
  have hfirst : Starting first := (epochActions_starting hrunning).of_tide (startFirst_tide _)
  exact .ite (openStep_starting hfirst) (advanceService_starting hfirst)

/-! ## The prologue's transfers have landed (R174) -/

/-- The combs may differ, in nothing but their contents. -/
structure CombsOnly (s t : State) : Prop where
  length : t.combs.length = s.combs.length
  rest : { s with combs := t.combs } = t

theorem CombsOnly.refl (s : State) : CombsOnly s s := ⟨rfl, rfl⟩

theorem CombsOnly.trans {s t u : State} (h : CombsOnly s t) (k : CombsOnly t u) : CombsOnly s u :=
  ⟨k.length.trans h.length, by rw [← k.rest, ← h.rest]⟩

theorem CombsOnly.sameConfig {s t : State} (h : CombsOnly s t) : SameConfig s t :=
  ⟨(congrArg State.ident h.rest.symm :), (congrArg State.cfg h.rest.symm :), (congrArg State.live h.rest.symm :),
    (congrArg State.flash h.rest.symm :)⟩

theorem CombsOnly.tide {s t : State} (h : CombsOnly s t) : t.tide = s.tide := (congrArg State.tide h.rest.symm :)
theorem CombsOnly.shelf {s t : State} (h : CombsOnly s t) : t.shelf = s.shelf := (congrArg State.shelf h.rest.symm :)

theorem landRow_combsOnly (p ra : Nat) (s : State) : CombsOnly s (landRow p ra s) := ⟨setComb_length .., rfl⟩

theorem landRows_combsOnly (p : Nat) (s : State) : CombsOnly s (landRows p s) :=
  foldl_inv (CombsOnly s) _ (fun t x h => h.trans (landRow_combsOnly p x.ra.toNat t)) _ s (.refl s)

/-- A row that has landed is no longer awaited. -/
theorem landRow_pending {p ra : Nat} {s : State} (hp : p < s.combs.length) :
    ((landRow p ra s).comb p).pending = (s.comb p).pending.filter fun y => y.ra.toNat ≠ ra := by
  rw [landRow, setComb_self hp]
  split
  next => rfl
  next hnone =>
    refine (List.filter_eq_self.mpr fun y hy => ?_).symm
    simpa using List.find?_eq_none.mp hnone y hy

theorem foldl_landRow_pending {p : Nat} (l : List Pending) {s : State} (hp : p < s.combs.length) :
    ((l.foldl (fun s x => landRow p x.ra.toNat s) s).comb p).pending =
      (s.comb p).pending.filter fun y => l.all fun x => y.ra.toNat ≠ x.ra.toNat := by
  induction l generalizing s with
  | nil => simp
  | cons x l ih =>
    rw [List.foldl_cons, ih (by rwa [(landRow_combsOnly ..).length]), landRow_pending hp, List.filter_filter]
    congr 1
    funext y
    rw [List.all_cons, Bool.and_comm]

theorem landRows_pending {p : Nat} {s : State} (hp : p < s.combs.length) : ((landRows p s).comb p).pending = [] := by
  rw [landRows, foldl_landRow_pending _ hp]
  refine List.filter_eq_nil_iff.mpr fun y hy hall => ?_
  simpa using List.all_eq_true.mp hall y hy

theorem landRows_others {p q : Nat} (h : q ≠ p) (s : State) : (landRows p s).comb q = s.comb q :=
  (CombOnly.foldl (fun _ _ => setComb_combOnly ..) (s.comb p).pending s).others q h

/-- Every row that the prologue has fetched lands. -/
def landAll (s : State) : State := (List.range 96).foldl (fun s p => landRows p s) s

theorem foldl_landRows_combsOnly (ps : List Nat) (s : State) : CombsOnly s (ps.foldl (fun s p => landRows p s) s) :=
  foldl_inv (CombsOnly s) _ (fun t p h => h.trans (landRows_combsOnly p t)) _ s (.refl s)

theorem foldl_landRows_pending {p : Nat} (ps : List Nat) {s : State} (hp : p < s.combs.length) (h : p ∈ ps ∨ (s.comb p).pending = []) :
    ((ps.foldl (fun s p => landRows p s) s).comb p).pending = [] := by
  induction ps generalizing s with
  | nil => exact h.resolve_left (List.not_mem_nil)
  | cons q ps ih =>
    refine ih (by rwa [(landRows_combsOnly q s).length]) ?_
    by_cases hpq : p = q
    · subst hpq
      exact .inr (landRows_pending hp)
    · rw [landRows_others hpq]
      exact h.imp_left fun hmem => (List.mem_cons.mp hmem).resolve_left hpq

theorem landAll_combsOnly (s : State) : CombsOnly s (landAll s) := foldl_landRows_combsOnly _ s

theorem landAll_pending {s : State} (h : s.combs.length = 96) : ∀ c ∈ (landAll s).combs, c.pending = [] := by
  intro c hc
  obtain ⟨p, hp, rfl⟩ := List.getElem_of_mem hc
  rw [(landAll_combsOnly s).length] at hp
  have hcomb := foldl_landRows_pending (List.range 96) hp (.inl (List.mem_range.mpr (h ▸ hp)))
  rwa [State.comb, nth, List.getD_eq_getElem] at hcomb

/-! ### The first tide starts -/

/-- The state after the transfers, at the first tide's gate. -/
def prologueEnded (s : State) : State :=
  let d := draw 16 s
  { d.2 with tide := { d.2.tide with prologue := false, runCycles := d.2.tide.runCycles + 64 + d.1.setWidth 64 } }

@[simp] theorem passKnown_prologue (cause : BitVec 8) (n : Nat) (s : State) : (passKnown cause n s).tide.prologue = s.tide.prologue := by
  unfold passKnown passSlack releaseHold
  (repeat' split) <;> rfl

theorem passContract_prologue (hs : List (Nat × Nat × Nat)) (s : State) : (passContract hs s).tide.prologue = s.tide.prologue :=
  foldl_keeps (·.tide.prologue) _ (fun s h => passKnown_prologue 8 h.2.2 s) hs s

theorem openTide_prologue (s : State) : (openTide s).tide.prologue = s.tide.prologue :=
  (passContract_prologue ..).trans (by simp)

theorem openTide_number (s : State) : (openTide s).tide.number = s.tide.number := (passContract_number ..).trans (by simp)

/-- Without contract holds the counters stand at tide-cycle 0. -/
theorem openTide_none {s : State} (h : s.tide.contractHolds = []) : (openTide s).tide = s.tide := by
  have hnone : (latchCorrelation s).tide.contractHolds = [] := by simpa using h
  simp [openTide, contractAt_none hnone, passContract]

/-- The first tide starts with what has landed. -/
theorem firstTide_keeps (s : State) :
    let t := openTide (prologueEnded s)
    t.tide.prologue = false ∧ t.tide.number = s.tide.number ∧ t.combs = s.combs ∧ t.shelf = s.shelf ∧ SameConfig s t :=
  ⟨openTide_prologue _, openTide_number _, by simp [prologueEnded, draw], by simp [prologueEnded, draw],
    by simp [SameConfig, prologueEnded, draw]⟩

theorem firstTide_runCycles {s : State} (h : s.tide.contractHolds = []) :
    (openTide (prologueEnded s)).tide.runCycles = s.tide.runCycles + 64 + (draw 16 s).1.setWidth 64 := by
  have hnone : (prologueEnded s).tide.contractHolds = [] := h
  rw [openTide_none hnone]
  rfl

theorem exec_prologueLanded {s : State} (ha : s.awake = true) (hrun : s.tide.dp = .running) (hp : s.tide.prologue = true)
    (hc : prologueComplete s = true) : exec .prologueLanded s = .next (openTide (prologueEnded (landAll s))) := by
  show execPrologueLanded s = _
  unfold execPrologueLanded prologueEnded landAll
  rw [if_pos ⟨ha, hrun, hp, hc⟩]

/-- A free value of 16 bits in a counter's width. -/
theorem setWidth_lt {w : Nat} (x : BitVec w) : (x.setWidth 64).toNat < 2 ^ w := by
  rw [BitVec.toNat_setWidth]
  exact (Nat.mod_le ..).trans_lt x.isLt

/-! ## DATA_PLANE_START, PROLOGUE_LANDED and PROLOGUE_TIMEOUT -/

theorem exec_dataPlaneStart {i : Image} {s : State} (hi : s.img.image = some i) (hstart : canStart s = true)
    (hinside : ∀ x ∈ if (startBoundary s).tide.dp = .running then prologueOps i (startBoundary s) else [],
      x.2.gather = true ∨ shelfOutside x.1 x.2 (startBoundary s) = false) :
    exec .dataPlaneStart s = .next (prologueFills i (if (startBoundary s).tide.dp = .running then prologueOps i (startBoundary s) else [])
      (startBoundary s)) := by
  show execDataPlaneStart s = _
  unfold execDataPlaneStart
  rw [hi]
  dsimp only
  rw [if_pos hstart, if_neg]
  simpa [or_iff_not_imp_left] using hinside

theorem exec_prologueTimeout {chs : List (BitVec 32)} {s : State} (ha : s.awake = true) (hrun : s.tide.dp = .running)
    (hp : s.tide.prologue = true) (hlate : undelivered chs ≠ []) (hdies : ∀ n < 24, nth chs n 0 ≠ 0 ↔ dieAwaits n s = true) :
    exec (.prologueTimeout chs) s = .next (advanceService ((undelivered chs).foldl
      (fun w x => declareFailed (.channels x.1 x.2) w) (halt .timeout
        { s with tide := { s.tide with runCycles := s.tide.runCycles + 65536 } }))) := by
  have hall : (List.range 24).all (fun n => decide (nth chs n 0 ≠ 0) = dieAwaits n s) = true := by
    refine List.all_eq_true.mpr fun n hn => decide_eq_true (Bool.eq_iff_iff.mpr ?_)
    rw [decide_eq_true_iff]
    exact hdies n (List.mem_range.mp hn)
  exact congrArg Host.Outcome.next (if_pos ⟨ha, hrun, hp, hlate, hall⟩)

/-- Settles O38: whatever the start's boundary does leaves a data plane that fills its prologue or does not run; the rows of
the prologue land comb by comb, and the rest stands as written. -/
theorem dataPlaneStarts : Obligations.DataPlaneStarts := by
  unfold Obligations.DataPlaneStarts
  refine ⟨fun s i hi hstart => ?start, fun s ha hrun hp hc hlen => ?landed,
    fun chs s ha hrun hp hlate hdies => exec_prologueTimeout ha hrun hp hlate hdies⟩
  case start =>
    refine fun hinside => ⟨?_, (startBoundary_starting s).fills⟩
    exact exec_dataPlaneStart hi hstart hinside
  case landed =>
    have hland := landAll_combsOnly s
    obtain ⟨hprologue, hnumber, hcombs, hshelf, hconfig⟩ := firstTide_keeps (landAll s)
    refine ⟨_, (draw 16 (landAll s)).1.setWidth 64, exec_prologueLanded ha hrun hp hc, hprologue, ?number, ?rows,
      hland.sameConfig.trans hconfig, hshelf.trans hland.shelf, setWidth_lt _, fun hnone => ?cycles⟩
    case number => rw [hnumber, hland.tide]
    case rows =>
      rw [hcombs]
      exact landAll_pending hlen
    case cycles => rw [firstTide_runCycles (by rw [hland.tide, hnone]), hland.tide]

end Sys2Proof.Machine

namespace Sys2Proof.Machine

/-! ## Fields of packed words
Records of the block are sequences of fields of fixed widths, the first in the most significant bits. -/

/-- The number that a sequence of fields spells. -/
def packed (fs : List (Nat × Nat)) : Nat := fs.foldl (fun a f => a * 2 ^ f.1 + f.2 % 2 ^ f.1) 0

/-- Bits of a sequence of fields. -/
def widths (fs : List (Nat × Nat)) : Nat := (fs.map (·.1)).sum

theorem natBE_bytesBE (k n : Nat) : natBE (bytesBE k n) = n % 2 ^ (8 * k) := natLE_bytesLE k n

theorem pack_eq (fs : List (Nat × Nat)) : pack fs = bytesBE (widths fs / 8) (packed fs) := by
  have fold (a b : Nat) : fs.foldl (fun (a : Nat × Nat) f => (a.1 + f.1, a.2 * 2 ^ f.1 + f.2 % 2 ^ f.1)) (a, b)
      = (a + widths fs, fs.foldl (fun a f => a * 2 ^ f.1 + f.2 % 2 ^ f.1) b) := by
    induction fs generalizing a b with
    | nil => rfl
    | cons f fs ih => simp [List.foldl_cons, ih, widths, Nat.add_assoc]
  rw [pack, fold 0 0, Nat.zero_add]
  rfl

theorem foldl_packed (fs : List (Nat × Nat)) (a : Nat) :
    fs.foldl (fun a f => a * 2 ^ f.1 + f.2 % 2 ^ f.1) a = a * 2 ^ widths fs + packed fs := by
  induction fs generalizing a with
  | nil => simp [packed, widths]
  | cons f fs ih =>
    have hw : widths (f :: fs) = f.1 + widths fs := by simp [widths]
    have hp : packed (f :: fs) = f.2 % 2 ^ f.1 * 2 ^ widths fs + packed fs := by
      rw [packed, List.foldl_cons, ih, Nat.zero_mul, Nat.zero_add]
    rw [List.foldl_cons, ih, hp, hw, pow_add]
    ring

theorem packed_append (fs gs : List (Nat × Nat)) : packed (fs ++ gs) = packed fs * 2 ^ widths gs + packed gs := by
  rw [packed, List.foldl_append, foldl_packed]
  rfl

theorem packed_cons (f : Nat × Nat) (fs : List (Nat × Nat)) : packed (f :: fs) = f.2 % 2 ^ f.1 * 2 ^ widths fs + packed fs := by
  rw [packed, List.foldl_cons, foldl_packed, Nat.zero_mul, Nat.zero_add]

theorem packed_lt (fs : List (Nat × Nat)) : packed fs < 2 ^ widths fs := by
  induction fs with
  | nil => simp [packed, widths]
  | cons f fs ih =>
    have hw : widths (f :: fs) = f.1 + widths fs := by simp [widths]
    have hmod : f.2 % 2 ^ f.1 < 2 ^ f.1 := Nat.mod_lt _ (Nat.two_pow_pos _)
    rw [packed_cons, hw, pow_add]
    calc f.2 % 2 ^ f.1 * 2 ^ widths fs + packed fs < (f.2 % 2 ^ f.1 + 1) * 2 ^ widths fs := by linarith
      _ ≤ 2 ^ f.1 * 2 ^ widths fs := Nat.mul_le_mul_right _ hmod

/-- A field of a record stands at the bits after those of the fields behind it. -/
theorem bits_pack {n k hi lo w v : Nat} {fs : List (Nat × Nat)} (hk : fs[k]? = some (w, v)) (hn : widths fs = n) (h8 : 8 ∣ n)
    (hlo : widths (fs.drop (k + 1)) = lo) (hhi : hi + 1 = lo + w) :
    bits (BitVec.ofNat n (natBE (pack fs))) hi lo = v % 2 ^ w := by
  obtain ⟨hlen, hget⟩ := List.getElem?_eq_some_iff.mp hk
  have hsplit : fs = fs.take k ++ (w, v) :: fs.drop (k + 1) := by rw [← hget, List.getElem_cons_drop, List.take_append_drop]
  have hvalue : natBE (pack fs) = packed fs := by
    rw [pack_eq, natBE_bytesBE, hn, Nat.mul_div_cancel' h8, ← hn, Nat.mod_eq_of_lt (packed_lt fs)]
  have hpacked : packed fs = (packed (fs.take k) * 2 ^ w + v % 2 ^ w) * 2 ^ lo + packed (fs.drop (k + 1)) := by
    have hw : widths ((w, v) :: fs.drop (k + 1)) = w + lo := by simp [widths, ← hlo]
    conv_lhs => rw [hsplit, packed_append, packed_cons, hw, hlo, pow_add]
    ring
  have hrest : packed (fs.drop (k + 1)) < 2 ^ lo := hlo ▸ packed_lt _
  have hw : hi + 1 - lo = w := by omega
  have hlt : packed fs < 2 ^ n := hn ▸ packed_lt fs
  rw [bits, hvalue, BitVec.toNat_ofNat, Nat.mod_eq_of_lt hlt, hw, Nat.shiftRight_eq_div_pow, hpacked,
    Nat.mul_comm _ (2 ^ lo), Nat.mul_add_div (Nat.two_pow_pos lo), Nat.div_eq_of_lt hrest, Nat.add_zero, Nat.mul_comm _ (2 ^ w),
    Nat.mul_add_mod, Nat.mod_mod]

theorem testBit_setBits {w : Nat} (x : BitVec w) (hi lo v b : Nat) :
    (setBits x hi lo v).toNat.testBit b = (decide (b < w) && if lo ≤ b ∧ b ≤ hi then v.testBit (b - lo) else x.toNat.testBit b) := by
  have h : setBits x hi lo v = BitVec.ofNat w (nset x.toNat hi lo v) := rfl
  rw [h, BitVec.toNat_ofNat, Nat.testBit_mod_two_pow, testBit_nset]

theorem bits_setBits_same {w hi lo : Nat} (hw : hi < w) (x : BitVec w) (v : Nat) :
    bits (setBits x hi lo v) hi lo = v % 2 ^ (hi + 1 - lo) := by
  refine Nat.eq_of_testBit_eq fun k => ?_
  have h := testBit_nbits (setBits x hi lo v).toNat hi lo k
  rw [nbits] at h
  rw [bits, h, testBit_setBits, Nat.testBit_mod_two_pow]
  by_cases hk : k < hi + 1 - lo
  · have hin : lo ≤ lo + k ∧ lo + k ≤ hi := by omega
    have hb : lo + k < w := by omega
    simp [hk, hin, hb]
  · simp [hk]

theorem bits_setBits_other {w hi lo a b : Nat} (h : a < lo ∨ hi < b) (x : BitVec w) (v : Nat) :
    bits (setBits x hi lo v) a b = bits x a b := by
  refine nbits_congr fun k hb ha => ?_
  have hout : ¬(lo ≤ k ∧ k ≤ hi) := by omega
  rw [testBit_setBits, if_neg hout]
  by_cases hk : k < w
  · simp [hk]
  · simp [hk, Nat.testBit_lt_two_pow (lt_of_lt_of_le x.isLt (Nat.pow_le_pow_right two_pos (Nat.le_of_not_lt hk)))]

/-! ## The fault record (R214) -/

/-- Fields of the fault record. -/
def faultFields (f : FaultSite) (rep : Bool) (serial : Nat) (s : State) : List (Nat × Nat) :=
  [(512, s.img.digest.toNat), (64, s.tide.number.toNat), (64, s.tide.runCycles.toNat),
    (12, match s.img.image with | some i => (i.place s.tide.number.toNat).1 | none => 0), (13, f.cycle), (8, f.rule), (7, 0),
    (8, match f.comb with | some p => vcombOn p s | none => 0xFF), (8, f.comb.getD 0xFF), (8, f.die), (16, f.pc),
    (16, f.flow), (22, f.rowAddress), (8, f.slot), (8, f.unit), (1, flag rep), (9, 0), (16, 0), (32, serial),
    (32, f.detail), (160, 0)]

theorem faultRecord_eq (f : FaultSite) (rep : Bool) (serial : Nat) (s : State) :
    faultRecord f rep serial s = BitVec.ofNat 1024 (natBE (pack (faultFields f rep serial s))) := rfl

section Record
variable (f : FaultSite) (rep : Bool) (serial : Nat) (s : State)

theorem faultFields_widths : widths (faultFields f rep serial s) = 1024 := by simp [widths, faultFields]

variable {f rep serial s} in
theorem faultRecord_field {k hi lo w v : Nat} (hk : (faultFields f rep serial s)[k]? = some (w, v))
    (hlo : widths ((faultFields f rep serial s).drop (k + 1)) = lo) (hhi : hi + 1 = lo + w) :
    bits (faultRecord f rep serial s) hi lo = v % 2 ^ w := bits_pack hk (faultFields_widths ..) (by norm_num) hlo hhi

theorem faultRecord_rule : bits (faultRecord f rep serial s) 358 351 = f.rule % 2 ^ 8 :=
  faultRecord_field (k := 5) (w := 8) (v := f.rule) (lo := 351) rfl (by simp [widths, faultFields]) rfl

theorem faultRecord_comb : bits (faultRecord f rep serial s) 335 328 = f.comb.getD 0xFF % 2 ^ 8 :=
  faultRecord_field (k := 8) (w := 8) (v := f.comb.getD 0xFF) (lo := 328) rfl (by simp [widths, faultFields]) rfl

theorem faultRecord_die : bits (faultRecord f rep serial s) 327 320 = f.die % 2 ^ 8 :=
  faultRecord_field (k := 9) (w := 8) (v := f.die) (lo := 320) rfl (by simp [widths, faultFields]) rfl

theorem faultRecord_others : bits (faultRecord f rep serial s) 239 224 = 0 :=
  faultRecord_field (k := 17) (w := 16) (v := 0) (lo := 224) rfl (by simp [widths, faultFields]) rfl

end Record

/-! ## A schedule fault is recorded (R214, R215) -/

theorem quarantine_writes (d : Digest) (record : BitVec 1024) (s : State) :
    (quarantine d record s).cfg =
      { s.cfg with quarantine := lastN 64 ((s.cfg.quarantine.filter fun e => e.1 ≠ d) ++ [(d, record)]) } ∧
    (quarantine d record s).flash = { s.flash with dirty := true } := by
  unfold quarantine
  dsimp only
  split
  · split
    · exact ⟨by simp, by simp⟩
    · exact ⟨rfl, rfl⟩
  · exact ⟨rfl, rfl⟩

/-- The record that a schedule fault leaves, under the next serial. -/
def nextFaultRecord (f : FaultSite) (rep : Bool) (s : State) : BitVec 1024 :=
  faultRecord f rep (satInc s.cfg.faultSerial).toNat s

theorem recordFault_writes (f : FaultSite) (rep : Bool) (s : State) :
    (recordFault f rep s).err = { s.err with fault := nextFaultRecord f rep s } ∧
    (recordFault f rep s).cfg =
      { s.cfg with faultSerial := satInc s.cfg.faultSerial
                   quarantine := lastN 64 ((s.cfg.quarantine.filter fun e => e.1 ≠ s.img.digest) ++
                     [(s.img.digest, nextFaultRecord f rep s)]) } ∧
    (recordFault f rep s).flash.dirty = true := by
  refine ⟨?_, ?_, ?_⟩
  · simp [recordFault, nextFaultRecord]
  · simp [recordFault, quarantine_writes, nextFaultRecord]
  · simp [recordFault, quarantine_writes]

theorem scheduleFault_eq {s : State} (h : s.tide.dp = .running) (f : FaultSite) :
    scheduleFault f s = halt .fault (recordFault f false s) := if_pos h

/-- Where the data plane rests after a fault is no matter of which fault it was. -/
theorem scheduleFault_tide {s : State} (h : s.tide.dp = .running) (f : FaultSite) :
    (scheduleFault f s).tide = (halt .fault s).tide := by
  have hnumber : resumeNumber (recordFault f false s) = resumeNumber s := by
    simp [resumeNumber, tideAwaited, State.period]
  rw [scheduleFault_eq h, halt_tide, halt_tide, hnumber, (recordFault_frame ..).2.2.2.1]

theorem getLast?_lastN {α : Type} {n : Nat} (hn : 0 < n) (l : List α) (x : α) : (lastN n (l ++ [x])).getLast? = some x := by
  rw [lastN, List.getLast?_drop]
  simp
  omega

theorem lastN_length_le {α : Type} (n : Nat) (l : List α) : (lastN n l).length ≤ n := by
  rw [lastN, List.length_drop]
  omega

/-! ## Faults that are only counted (R213, R214) -/

theorem countOthers_succ (n : Nat) (s : State) : countOthers (n + 1) s = countOther (countOthers n s) := by
  simp [countOthers, List.range_succ]

theorem countOther_count (s : State) : bits (countOther s).err.fault 239 224 = min (bits s.err.fault 239 224 + 1) 0xFFFF := by
  rw [countOther, bits_setBits_same (by norm_num)]
  omega

theorem countOther_bits {hi lo : Nat} (h : hi < 224 ∨ 239 < lo) (s : State) :
    bits (countOther s).err.fault hi lo = bits s.err.fault hi lo := bits_setBits_other h _ _

theorem countOthers_count (n : Nat) {s : State} (h : bits s.err.fault 239 224 = 0) :
    bits (countOthers n s).err.fault 239 224 = min n 0xFFFF := by
  induction n with
  | zero => exact h.trans (by simp)
  | succ n ih =>
    rw [countOthers_succ, countOther_count, ih]
    omega

theorem countOthers_bits (n : Nat) {hi lo : Nat} (h : hi < 224 ∨ 239 < lo) (s : State) :
    bits (countOthers n s).err.fault hi lo = bits s.err.fault hi lo :=
  foldl_keeps (fun s : State => bits s.err.fault hi lo) (fun s (_ : Nat) => countOther s) (fun s _ => countOther_bits h s) _ s

theorem countOthers_serial (n : Nat) (s : State) : (countOthers n s).cfg.faultSerial = s.cfg.faultSerial :=
  foldl_keeps (fun s : State => s.cfg.faultSerial) (fun s (_ : Nat) => countOther s) (fun _ _ => rfl) _ s

/-! ## Faults of other combs in one cycle (R213) -/

/-- The fault of an instruction's cycle that is recorded. -/
def firstFault (i : Issue) (f : FaultSite) : FaultSite :=
  match firstOther i with
  | some g => if siteRank g < siteRank f then g else f
  | none => f

/-- What a fault names fits the fields of its record. -/
structure FaultSite.Fits (f : FaultSite) : Prop where
  rule : f.rule < 2 ^ 8
  die : f.die < 2 ^ 8
  comb : f.comb.getD 0xFF < 2 ^ 8

theorem recordRank_faultRecord {f : FaultSite} (h : f.Fits) (rep : Bool) (serial : Nat) (s : State) :
    recordRank (faultRecord f rep serial s) = siteRank f := by
  rw [recordRank, faultRecord_rule, faultRecord_die, faultRecord_comb, siteRank, Nat.mod_eq_of_lt h.rule, Nat.mod_eq_of_lt h.die,
    Nat.mod_eq_of_lt h.comb]

theorem scheduleFault_fault {s : State} (h : s.tide.dp = .running) (f : FaultSite) :
    (scheduleFault f s).err.fault = nextFaultRecord f false s := by
  rw [scheduleFault_eq h]
  exact congrArg Errs.fault (recordFault_writes f false s).1

/-- Of the faults of one cycle the first is recorded, and every other one is counted. -/
theorem stopWith_scheduleFault {i : Issue} {f : FaultSite} {u : State} (hrun : u.tide.dp = .running) (hf : f.Fits) :
    stopWith i u (scheduleFault f u) = countOthers (otherFaults i).length (scheduleFault (firstFault i f) u) := by
  have hstop : u.tide.dp = .running ∧ (scheduleFault f u).tide.dp = .halted ∧ (scheduleFault f u).tide.halt = .fault :=
    ⟨hrun, scheduleFault_running hrun f⟩
  have hrank : recordRank (scheduleFault f u).err.fault = siteRank f := by
    rw [scheduleFault_fault hrun, nextFaultRecord, recordRank_faultRecord hf]
  have hcount : bits (scheduleFault f u).err.fault 239 224 = 0 := by
    rw [scheduleFault_fault hrun, nextFaultRecord, faultRecord_others]
  simp only [stopWith, if_pos hstop, hrank, hcount, Nat.add_zero, firstFault]
  cases firstOther i with
  | none => rfl
  | some g => exact (apply_ite (fun g => countOthers (otherFaults i).length (scheduleFault g u)) _ g f).symm

theorem stopWith_alone {i : Issue} (h : i.others = []) (u x : State) : stopWith i u x = x := by
  have hnone : otherFaults i = [] := by simp [otherFaults, h]
  have hfirst : firstOther i = none := by simp [firstOther, hnone, sortBy]
  simp [stopWith, hfirst, hnone, countOthers]

/-- Faults that other combs detect in the cycle of the instruction. -/
def cycleFaults (i : Issue) : List FaultSite := (otherFaults i).filter fun x => x.cycle = i.cycle.toNat

/-- The rule code leads in the rank of a fault. -/
def FaultSite.Ranked (f : FaultSite) : Prop := ∃ k < 65536, siteRank f = f.rule * 65536 + k

theorem FaultSite.Fits.ranked {f : FaultSite} (h : f.Fits) : f.Ranked := by
  obtain ⟨-, hdie, hcomb⟩ := h
  exact ⟨f.die * 256 + f.comb.getD 0xFF, by omega, by rw [siteRank]; omega⟩

theorem cycleFaults_ranked {i : Issue} {g : FaultSite} (h : g ∈ cycleFaults i) : g.Ranked := by
  obtain ⟨x, hx, rfl⟩ := List.mem_map.mp (List.mem_of_mem_filter h)
  have hcomb : x.comb < 96 := by
    have h := (List.mem_filter.mp hx).2
    simp only [Bool.and_eq_true, decide_eq_true_eq] at h
    exact h.1.1
  refine ⟨x.comb / 4 * 256 + x.comb, by omega, ?_⟩
  simp only [siteRank, unitSite, dieOf, Option.getD_some]
  omega

theorem firstOther_least {i : Issue} {g : FaultSite} (h : firstOther i = some g) :
    g ∈ cycleFaults i ∧ ∀ x ∈ cycleFaults i, siteRank g ≤ siteRank x := by
  have hperm := sortBy_perm (fun a b => decide (siteRank a ≤ siteRank b)) (cycleFaults i)
  have horder := sortBy_pairwise (le := fun a b => decide (siteRank a ≤ siteRank b))
    (fun a b => by simpa using Nat.le_total _ _) (fun a b c hab hbc => by simp at hab hbc ⊢; omega) (cycleFaults i)
  obtain ⟨l, hl⟩ := List.head?_eq_some_iff.mp h
  change sortBy _ (cycleFaults i) = g :: l at hl
  rw [hl] at hperm horder
  refine ⟨hperm.mem_iff.mp (List.mem_cons_self ..), fun x hx => ?_⟩
  rcases List.mem_cons.mp (hperm.mem_iff.mpr hx) with rfl | hx
  · exact le_rfl
  · simpa using List.rel_of_pairwise_cons horder hx

theorem firstOther_none {i : Issue} (h : firstOther i = none) : cycleFaults i = [] := by
  have hperm := sortBy_perm (fun a b => decide (siteRank a ≤ siteRank b)) (cycleFaults i)
  have hnil : sortBy (fun a b => decide (siteRank a ≤ siteRank b)) (cycleFaults i) = [] := List.head?_eq_none_iff.mp h
  exact (hnil ▸ hperm).nil_eq.symm

theorem le_foldl_min {α : Type} (r : α → Nat) (l : List α) (k b : Nat) :
    k ≤ l.foldl (fun a x => min a (r x)) b ↔ k ≤ b ∧ ∀ x ∈ l, k ≤ r x := by
  induction l generalizing b with
  | nil => simp
  | cons x l ih => simp [ih, and_assoc]

/-- The recorded fault of a cycle has the lowest rule code. -/
theorem firstFault_rule {i : Issue} {f : FaultSite} (hf : f.Ranked) :
    (firstFault i f).rule = (cycleFaults i).foldl (fun a x => min a x.rule) f.rule := by
  obtain ⟨k, hk, hrank⟩ := hf
  cases hfirst : firstOther i with
  | none => rw [firstFault, hfirst, firstOther_none hfirst]; rfl
  | some g =>
    obtain ⟨hg, hleast⟩ := firstOther_least hfirst
    obtain ⟨kg, hkg, hrankg⟩ := cycleFaults_ranked hg
    have hrule : ∀ x ∈ cycleFaults i, g.rule ≤ x.rule := fun x hx => by
      obtain ⟨kx, hkx, hrankx⟩ := cycleFaults_ranked hx
      have := hleast x hx
      omega
    have hmin : (cycleFaults i).foldl (fun a x => min a x.rule) f.rule = min f.rule g.rule := by
      refine eq_of_forall_le_iff fun c => ?_
      rw [le_foldl_min (fun x : FaultSite => x.rule), le_min_iff]
      exact and_congr_right fun _ => ⟨fun h => h g hg, fun h x hx => h.trans (hrule x hx)⟩
    rw [hmin, firstFault, hfirst]
    dsimp only
    split <;> omega

/-! ## The statement -/

theorem scheduleFault_halts {s : State} (h : s.tide.dp = .running) (f : FaultSite) :
    (scheduleFault f s).str.slots = List.replicate 256 none ∧ (scheduleFault f s).err.reports = [] ∧
      (scheduleFault f s).cfg = (recordFault f false s).cfg ∧ (scheduleFault f s).flash = (recordFault f false s).flash ∧
      (scheduleFault f s).tide.holds = [] := by
  rw [scheduleFault_eq h]
  exact ⟨rfl, rfl, rfl, rfl, rfl⟩

theorem scheduleFault_comb {s : State} (h : s.tide.dp = .running) (f : FaultSite) (p : Nat) :
    (scheduleFault f s).comb p = (s.comb p).clearPhase := by
  have hcomb : (recordFault f false s).comb p = s.comb p := by simp [State.comb]
  rw [scheduleFault_eq h, ← hcomb]
  exact discardStep_comb p _

theorem scheduleFault_counts {s : State} (hdp : s.tide.dp = .halted) (hhalt : s.tide.halt = .fault) (f : FaultSite) :
    scheduleFault f s = countOther s := by
  rw [scheduleFault, if_neg (by rw [hdp]; decide), if_pos ⟨hdp, hhalt⟩]

/-- Further faults while Halted change the count in the record and in the list's copy of it, and nothing else. -/
theorem countOther_copies (s : State) :
    (countOther s).cfg.quarantine.map (·.1) = s.cfg.quarantine.map (·.1) ∧
      (∀ e ∈ (countOther s).cfg.quarantine, e.1 = s.img.digest → e.2 = (countOther s).err.fault) := by
  refine ⟨?_, fun e he hd => ?_⟩
  · rw [countOther, List.map_map]
    refine List.map_congr_left fun e _ => ?_
    simp only [Function.comp]
    split <;> rfl
  · obtain ⟨x, -, rfl⟩ := List.mem_map.mp he
    split at hd
    · rw [if_pos ‹_›]; rfl
    · exact absurd hd ‹_›

/-- Settles O39: the record is read field by field from its packed form; of the faults of one cycle the one of least rank is
recorded, and the rule code leads in the rank. -/
theorem scheduleFaultsHalt : Obligations.ScheduleFaultsHalt := by
  refine ⟨fun f s hrun => ?_, fun f s hdp hhalt => ?_, fun i f u hrun hrule hdie hcomb => ?_⟩
  · obtain ⟨hdp, hhalt⟩ := scheduleFault_running hrun f
    obtain ⟨hslots, hreports, hcfg, hflash, hholds⟩ := scheduleFault_halts hrun f
    obtain ⟨-, hwritten, hdirty⟩ := recordFault_writes f false s
    refine ⟨hdp, hhalt, hholds, by rw [hcfg, hwritten], scheduleFault_fault hrun f, ?_, ?_, by rw [hflash, hdirty], hslots, hreports,
      by simp, by simp, by simp, fun p => by rw [scheduleFault_comb hrun]; exact ⟨rfl, rfl⟩⟩
    · rw [hcfg, hwritten, scheduleFault_fault hrun]
      exact getLast?_lastN (by norm_num) _ _
    · rw [hcfg, hwritten]
      exact lastN_length_le ..
  · rw [scheduleFault_counts hdp hhalt]
    exact ⟨countOther_count s, (countOther_copies s).1, (countOther_copies s).2, rfl⟩
  · have hfits : f.Fits := ⟨hrule, hdie, by cases hc : f.comb with | none => decide | some p => exact hcomb p hc⟩
    have hlow : (firstFault i f).rule ≤ f.rule := by
      rw [firstFault_rule hfits.ranked]
      exact ((le_foldl_min (fun x : FaultSite => x.rule) _ _ _).mp le_rfl).1
    refine ⟨fun x hx => ?_, ?_⟩
    · rcases hx with hx | hx
      · exact stopWith_running i u hx
      · exact stopWith_alone hx u x
    · simp only [stopWith_scheduleFault hrun hfits]
      refine ⟨?_, ?_, ?_, ?_⟩
      · rw [countOthers_tide, scheduleFault_tide hrun, scheduleFault_tide hrun]
      · exact countOthers_count _ (by rw [scheduleFault_fault hrun, nextFaultRecord, faultRecord_others])
      · rw [countOthers_serial, (scheduleFault_halts hrun _).2.2.1, (recordFault_writes ..).2.1]
      · have hlt : (firstFault i f).rule < 2 ^ 8 := lt_of_le_of_lt hlow hrule
        rw [countOthers_bits _ (.inr (by norm_num)), scheduleFault_fault hrun, nextFaultRecord, faultRecord_rule, Nat.mod_eq_of_lt hlt,
          firstFault_rule hfits.ranked]
        exact (min_eq_right (firstFault_rule hfits.ranked ▸ hlow)).symm

end Sys2Proof.Machine

namespace Sys2Proof.Machine

/-! ## The mailbox engine answers (R343, R344, R350, R365)
What a request that is served leaves: the effect of its opcode, its response, and the message that stays outstanding. -/

@[simp] theorem taken_frame (r : Request) (s : State) :
    (taken r s).ident = s.ident ∧ (taken r s).cfg = s.cfg ∧ (taken r s).live = s.live ∧ (taken r s).flash = s.flash ∧
    (taken r s).outbox = s.outbox ∧ (taken r s).pres = s.pres ∧ (taken r s).tide = s.tide ∧ (taken r s).img = s.img ∧
    (taken r s).combs = s.combs ∧ (taken r s).fabric = s.fabric ∧ (taken r s).shelf = s.shelf ∧ (taken r s).cove = s.cove ∧
    (taken r s).str = s.str ∧ (taken r s).err = s.err ∧ (taken r s).pow = s.pow ∧ (taken r s).cool = s.cool ∧
    (taken r s).draws = s.draws ∧ (taken r s).pending = s.pending := by
  simp [taken]

theorem taken_tide (r : Request) (s : State) : (taken r s).tide = s.tide := by simp
theorem taken_cfg (r : Request) (s : State) : (taken r s).cfg = s.cfg := by simp
theorem taken_img (r : Request) (s : State) : (taken r s).img = s.img := by simp
theorem taken_cove (r : Request) (s : State) : (taken r s).cove = s.cove := by simp

/-- A request that is taken is counted in its mailbox's record. -/
@[simp] theorem taken_mbox (r : Request) (s : State) :
    (taken r s).mbox.cache = s.mbox.cache ∧ (taken r s).mbox.outstanding = s.mbox.outstanding ∧
    (taken r s).mbox.shutdown = s.mbox.shutdown ∧ (taken r s).mbox.changes = s.mbox.changes := by
  simp [taken, countMailbox]

/-! ### Records of last changes (R350) -/

/-- Objects whose last change stands in a record of the mailbox engine. -/
def ObjKey.ofModule : ObjKey → Bool
  | .module | .tenant _ | .image | .word _ => true
  | _ => false

@[simp] theorem commitChange_mbox (k : ObjKey) (mb : BitVec 16) (s : State) :
    (commitChange k mb s).mbox.cache = s.mbox.cache ∧ (commitChange k mb s).mbox.outstanding = s.mbox.outstanding ∧
    (commitChange k mb s).mbox.shutdown = s.mbox.shutdown := by
  cases k <;> exact ⟨rfl, rfl, rfl⟩

theorem commitChange_ofModule {k : ObjKey} (h : k.ofModule = true) (mb : BitVec 16) (s : State) :
    (commitChange k mb s).str = s.str ∧ (commitChange k mb s).cove = s.cove := by
  cases k with
  | module | tenant _ | image | word _ => exact ⟨rfl, rfl⟩
  | stream _ _ | prefix_ _ | cove _ => simp [ObjKey.ofModule] at h

theorem unanswered_noteChange (k : ObjKey) (c : Change) (s : State) : unanswered (noteChange k c s) = unanswered s := by
  cases k with
  | module | image | word _ | tenant _ => rfl
  | stream mb id =>
    simp only [unanswered, noteChange, setStreamById, List.map_map]
    congr 2 <;> refine congrArg₂ _ (funext fun x => ?_) rfl <;> simp only [Function.comp] <;> (repeat' split) <;> rfl
  | prefix_ n =>
    simp only [unanswered, noteChange, List.map_map]
    congr 2; refine congrArg₂ _ (funext fun x => ?_) rfl; simp only [Function.comp]; split <;> rfl
  | cove id =>
    simp only [unanswered, noteChange, List.map_map]
    congr 2; refine congrArg₂ _ (funext fun x => ?_) rfl; simp only [Function.comp]; split <;> rfl

theorem unanswered_commitChange (k : ObjKey) (mb : BitVec 16) (s : State) : unanswered (commitChange k mb s) = unanswered s :=
  unanswered_noteChange k _ _

theorem unanswered_send (x : Sent) (s : State) : unanswered (send x s) = unanswered s := by
  unfold send
  (repeat' split) <;> rfl

/-! ### The response -/

/-- The state in which an answer is formed: its change, if it makes one, is committed. -/
def committed (r : Request) (a : Answer) : State := if a.changed then commitChange a.key r.mailbox a.state else a.state

/-- The change serial of an answer. -/
def answerSerial (r : Request) (a : Answer) : BitVec 64 := if a.changed then changeSerial (committed r a) else 0

/-- The response to a request. -/
def responseOf (op : Op) (r : Request) (a : Answer) : CacheEntry :=
  ⟨r.mailbox, r.sequence, requestDigest op.code r, op.code, a.status,
    payloadOf op.changes (answerSerial r a) a.status a.key a.effect a.body (committed r a), r.stamp.time⟩

/-- The message that an answer leaves outstanding where it is not final. -/
def messageOf (op : Op) (r : Request) (a : Answer) : Outstanding :=
  ⟨r.mailbox, r.sequence, op.code, r.src, r.dst, r.stamp.time, a.key.subject, a.key.holder, answerSerial r a,
    BitVec.ofNat 64 a.effect.2⟩

/-- The state with an answer's response in the cache and its message outstanding, before the response is sent. -/
def answeredState (op : Op) (r : Request) (a : Answer) : State :=
  let s := committed r a
  { s with mbox := { s.mbox with
      cache := cachePut (responseOf op r a) s.mbox.cache
      outstanding := if leavesOpen a.status then s.mbox.outstanding ++ [messageOf op r a] else s.mbox.outstanding } }

theorem respond_eq (op : Op) (r : Request) (a : Answer) : ∃ x, respond op r a = send x (answeredState op r a) := by
  unfold respond reply
  exact ⟨_, rfl⟩

theorem committed_frame (r : Request) (a : Answer) :
    (committed r a).mbox.cache = a.state.mbox.cache ∧ (committed r a).mbox.outstanding = a.state.mbox.outstanding := by
  unfold committed
  split <;> simp

theorem getLast?_cachePut (e : CacheEntry) (l : List CacheEntry) : (cachePut e l).getLast? = some e := by
  simp [cachePut]

theorem unanswered_respond (op : Op) (r : Request) (a : Answer) : unanswered (respond op r a) = unanswered a.state := by
  obtain ⟨x, hx⟩ := respond_eq op r a
  have hcommit : unanswered (committed r a) = unanswered a.state := by
    unfold committed
    split
    · exact unanswered_commitChange ..
    · rfl
  rw [hx, unanswered_send]
  exact hcommit

theorem respond_mbox (op : Op) (r : Request) (a : Answer) :
    (respond op r a).mbox.cache = cachePut (responseOf op r a) a.state.mbox.cache ∧
    (respond op r a).mbox.outstanding =
      if leavesOpen a.status then a.state.mbox.outstanding ++ [messageOf op r a] else a.state.mbox.outstanding := by
  obtain ⟨x, hx⟩ := respond_eq op r a
  obtain ⟨hcache, hout⟩ := committed_frame r a
  have hsent : (send x (answeredState op r a)).mbox = (answeredState op r a).mbox := by simp
  rw [hx, hsent, answeredState, hcache, hout]
  exact ⟨rfl, rfl⟩

/-- An object's part of the outcome block rests on streams, objects, the tide and the records of last changes. -/
theorem objectOf_respond (op : Op) (r : Request) (a : Answer) (k : ObjKey) :
    objectOf k (respond op r a) = objectOf k (committed r a) := by
  obtain ⟨x, hx⟩ := respond_eq op r a
  have h : objectOf k (send x (answeredState op r a)) = objectOf k (answeredState op r a) := by
    simp [objectOf, findStream, findObject]
  rw [hx, h]
  rfl

theorem payloadOf_congr {s t : State} {k : ObjKey} (h : objectOf k t = objectOf k s) (changes : Bool) (serial : BitVec 64)
    (status : Status) (effect : Nat × Nat) (body : Bytes) :
    payloadOf changes serial status k effect body t = payloadOf changes serial status k effect body s := by
  simp only [payloadOf, outcomeBlock, h]

theorem answers_respond (op : Op) (r : Request) (a : Answer) : Answers op r a.status a.effect (respond op r a) := by
  obtain ⟨hcache, hout⟩ := respond_mbox op r a
  refine ⟨⟨responseOf op r a, answerSerial r a, a.key, a.body, ?_, rfl, rfl, rfl, rfl, rfl, ?_⟩, fun hopen => ?_⟩
  · rw [hcache, getLast?_cachePut]
  · exact (payloadOf_congr (objectOf_respond ..) ..).symm
  · refine ⟨messageOf op r a, ?_, rfl, rfl, rfl, rfl⟩
    rw [hout, if_pos hopen]
    exact List.mem_append_right _ (List.mem_singleton_self _)

/-- A request that is served completes with what its opcode does. -/
theorem completesWith_of_run {c : Instr} {op : Op} {r : Request} {s : State} (h : Served op r s) {a : Answer}
    (ha : op.run r (taken r s) = a) (hexec : exec c s = .next (serve op r s)) : CompletesWith c op r s a.status a.effect a.state := by
  have hserve : serve op r s = respond op r a := by rw [serve_served h, ha]
  exact ⟨respond op r a, by rw [hexec, hserve], unanswered_respond .., answers_respond ..⟩

/-! ## The image, cove and firmware commands (R216, R240, R245, R375) -/

theorem nextStep_congr {s t : State} (htide : t.tide = s.tide) (himg : t.img = s.img) : nextStep t = nextStep s := by
  simp [nextStep, State.period, htide, himg]

theorem imageStop_running {r : Request} {s : State} (h : s.tide.dp = .running) :
    opImageStop.run r (taken r s) =
      ⟨{ taken r s with tide := { s.tide with stopPending := true } }, Status.ok, .image, true, (3, nextStep s), tideStatus (taken r s)⟩ := by
  have hnext : nextStep (taken r s) = nextStep s := nextStep_congr (by simp) (by simp)
  simp [opImageStop, h, hnext]

theorem imageStop_stopped {r : Request} {s : State} (h : s.tide.dp = .stopped) :
    opImageStop.run r (taken r s) =
      ⟨{ taken r s with tide := { s.tide with startPending := false } }, Status.ok, .image, false, (0, 0), tideStatus (taken r s)⟩ := by
  simp [opImageStop, h]

/-- The quarantine list without a digest. -/
def unquarantined (d : Digest) (u : State) : State :=
  { u with cfg := { u.cfg with quarantine := u.cfg.quarantine.filter fun e => e.1 ≠ d }, flash := { u.flash with dirty := true } }

/-- The image of a digest is loaded and Halted by its fault. -/
def haltedBy (d : Digest) (s : State) : Prop := s.tide.dp = .halted ∧ s.tide.halt = .fault ∧ s.img.digest = d

/-- The digest that a QUARANTINE_CLEAR names. -/
def clearedDigest (r : Request) : Digest := BitVec.ofNat 512 (field r.payload 0 64)

theorem quarantineClear_resumes {r : Request} {u : State} (h : haltedBy (clearedDigest r) u) :
    opQuarantineClear.run r u =
      ⟨{ unquarantined (clearedDigest r) u with tide := { u.tide with halt := .none, startPending := true } }, Status.ok, .image, true,
        (0, 0), []⟩ := by
  have h' : haltedBy (clearedDigest r) (unquarantined (clearedDigest r) u) := h
  unfold opQuarantineClear
  exact congrArg (Answer.mk · Status.ok .image true (0, 0) []) (if_pos h')

theorem quarantineClear_clears {r : Request} {u : State} (h : ¬haltedBy (clearedDigest r) u) :
    opQuarantineClear.run r u = ⟨unquarantined (clearedDigest r) u, Status.ok, .image, true, (0, 0), []⟩ := by
  have h' : ¬haltedBy (clearedDigest r) (unquarantined (clearedDigest r) u) := h
  unfold opQuarantineClear
  exact congrArg (Answer.mk · Status.ok .image true (0, 0) []) (if_neg h')

theorem haltedBy_taken (d : Digest) (r : Request) (s : State) : haltedBy d (taken r s) ↔ haltedBy d s := by
  simp [haltedBy]

theorem coveObjectSet_destroys {r : Request} {s : State} {o : CoveObject} (hnamed : namedObject r s = some o)
    (h : field r.payload 16 1 = 1) :
    opCoveObjectSet.run r s = ⟨freeObject o.id.toNat s, Status.ok, .cove o.id.toNat, true, (0, 0), objectSummary o⟩ := by
  simp only [opCoveObjectSet, hnamed, if_pos h]

/-- An object with a new time to live, counted from the state it is set in. -/
def redated (ttl : Nat) (o : CoveObject) (s : State) : CoveObject :=
  { o with expiresAt := expiresAt ttl s, serial := s.cove.journalSerial + 1, dated := seconds s.now }

theorem coveObjectSet_redates {r : Request} {s : State} {o : CoveObject} (hnamed : namedObject r s = some o)
    (h : field r.payload 16 1 = 0) :
    opCoveObjectSet.run r s =
      ⟨setObject o.id.toNat (fun _ => redated (field r.payload 20 4) o s) (journal s), Status.ok, .cove o.id.toNat, true, (0, 0),
        objectSummary (redated (field r.payload 20 4) o s)⟩ := by
  have hkeep : ¬ field r.payload 16 1 = 1 := by omega
  simp only [opCoveObjectSet, hnamed, if_neg hkeep]
  rfl

theorem namedObject_taken (r : Request) (s : State) : namedObject r (taken r s) = namedObject r s := by
  simp [namedObject, findObject]

/-- Settles O10: a served request completes with what its opcode's run gives on the taken state. -/
theorem imageAndCoveCommandsComplete : Obligations.ImageAndCoveCommandsComplete := by
  refine ⟨⟨fun r s h hdp => ?_, fun r s h hdp => ?_, fun r s h => ?_⟩, fun r s h => ⟨fun hby => ?_, fun hby => ?_⟩, fun r s h => ?_,
    fun r s o h hnamed => ⟨fun hset => ?_, fun hset => ?_⟩, fun r s h => ?_⟩
  · exact completesWith_of_run h (imageStop_running hdp) rfl
  · exact completesWith_of_run h (imageStop_stopped hdp) rfl
  · rw [← taken_tide r s]
    exact completesWith_of_run h rfl rfl
  · exact completesWith_of_run h (quarantineClear_resumes ((haltedBy_taken ..).mpr hby)) rfl
  · exact completesWith_of_run h (quarantineClear_clears (mt (haltedBy_taken ..).mp hby)) rfl
  · rw [← taken_cove r s]
    exact completesWith_of_run h rfl rfl
  · exact completesWith_of_run h (coveObjectSet_destroys ((namedObject_taken ..).trans hnamed) hset) rfl
  · rw [← taken_cove r s]
    exact completesWith_of_run h (coveObjectSet_redates ((namedObject_taken ..).trans hnamed) hset) rfl
  · rw [← taken_cfg r s]
    exact completesWith_of_run h rfl rfl

end Sys2Proof.Machine

namespace Sys2Proof.Machine

/-! ## Classification (R308 to R310, R318) -/

/-- The classification of an entry is entered in buffer, records and counts. -/
def outcomeEntered (e : Repeat) (v : Verdict) (s : State) : State :=
  { s with err := { s.err with repeats := s.err.repeats.filter (·.serial ≠ e.serial)
                               suspects := s.err.suspects.map (fillOutcome e.serial v)
                               record := countVerdict v s.err.record } }

/-- The record of the violation whose outcome is noticed, if any is. -/
def noticedSuspect (e : Repeat) (v : Verdict) (s : State) : Option Suspect :=
  if v = .genuine then none else (outcomeEntered e v s).err.suspects.find? fun r => r.serial = e.serial

/-- Where no comb is found faulty, a classification ends with its outcome entered, and perhaps a notice. -/
theorem endClassification_eq {v : Verdict} (hv : ∀ p, v ≠ .permanent p) (e : Repeat) (s : State) :
    endClassification e v s = match noticedSuspect e v s with
      | some r => raiseNotice 0x0105 none 6 r.streamId.toNat r.mailbox.toNat (detail256 (suspectRecord r)) (outcomeEntered e v s)
      | none => outcomeEntered e v s := by
  cases v with
  | permanent p => exact absurd rfl (hv p)
  | genuine =>
    unfold endClassification noticedSuspect
    dsimp only
    split <;> rfl
  | transient | unresolved =>
    unfold endClassification noticedSuspect
    rfl

theorem endClassification_keeps {v : Verdict} (hv : ∀ p, v ≠ .permanent p) (e : Repeat) (s : State) :
    (endClassification e v s).err = (outcomeEntered e v s).err ∧ SameConfig s (endClassification e v s) ∧
      SameDataPlane s (endClassification e v s) := by
  rw [endClassification_eq hv]
  split
  · simp [SameConfig, SameDataPlane, outcomeEntered]
  · exact ⟨rfl, ⟨rfl, rfl, rfl, rfl⟩, rfl, rfl, rfl, rfl, rfl⟩

/-- The reads of a repeat count, and leave the buffer and the records of violations. -/
theorem countRepeats_keep (xs : List RepeatReads) (s : State) :
    (xs.foldl countRepeat s).err.repeats = s.err.repeats ∧ (xs.foldl countRepeat s).err.suspects = s.err.suspects ∧
      SameConfig s (xs.foldl countRepeat s) :=
  ⟨foldl_keeps (fun s : State => s.err.repeats) _ (fun s x => by simp [countRepeat]) _ _,
    foldl_keeps (fun s : State => s.err.suspects) _ (fun s x => by simp [countRepeat]) _ _,
    foldl_keeps State.ident _ (fun s x => by simp) _ _, foldl_keeps State.cfg _ (fun s x => by simp) _ _,
    foldl_keeps State.live _ (fun s x => by simp) _ _, foldl_keeps State.flash _ (fun s x => by simp) _ _⟩

/-! ### The verdict -/

/-- What makes a repeat tell nothing of the first run of its tide. -/
def Unusable (e : Repeat) (x : ClassifyInput) (s : State) : Prop :=
  s.img.image = none ∨ s.img.digest ≠ e.digest ∨ x.disturbed = true ∨ x.fault.isSome = true ∨
    ∃ y ∈ x.reads, RepeatReads.poisoned y = true

theorem verdictOf_unusable {e : Repeat} {x : ClassifyInput} {s : State} (h : Unusable e x s) : verdictOf e x s = .unresolved := by
  unfold verdictOf
  cases himg : s.img.image with
  | none => rfl
  | some i =>
    refine if_pos ?_
    obtain h | h | h | h | ⟨y, hy, hpoison⟩ := h
    · exact absurd h (by simp [himg])
    · exact .inl h
    · exact .inr (.inr (.inl h))
    · exact .inr (.inr (.inr (.inr h)))
    · exact .inr (.inr (.inr (.inl (List.any_eq_true.mpr ⟨y, hy, hpoison⟩))))

theorem verdictOf_fault {e : Repeat} {x : ClassifyInput} {s : State} (h : x.fault ≠ none) : verdictOf e x s = .unresolved :=
  verdictOf_unusable (.inr (.inr (.inr (.inl (Option.isSome_iff_ne_none.mpr h)))))

theorem verdictOf_otherOutputs {e : Repeat} {x : ClassifyInput} {s : State} (h : ¬Unusable e x s)
    (hplace : ∀ c ∈ e.contributors, nth e.place c 0 = nth s.img.place c 0) (hout : x.sameOutputs = false) :
    verdictOf e x s = .transient := by
  simp only [Unusable, not_or, not_exists, not_and] at h
  obtain ⟨himg, hdigest, hdisturbed, hfault, hpoison⟩ := h
  obtain ⟨i, hi⟩ := Option.ne_none_iff_exists'.mp himg
  have hmoved : ¬(e.contributors.any fun v => nth e.place v 0 ≠ nth s.img.place v 0) = true := by
    simpa using hplace
  have hreads : ¬x.reads.any RepeatReads.poisoned = true := by
    simpa using hpoison
  unfold verdictOf
  rw [hi]
  dsimp only
  rw [if_neg (by simp only [not_or]; exact ⟨hdigest, hmoved, hdisturbed, hreads, hfault⟩), hout]
  rfl

theorem exec_classify {n : Nat} {x : ClassifyInput} {s : State} {e : Repeat} (ha : s.awake = true) (he : s.err.repeats[n]? = some e)
    (hfirst : ∀ y ∈ s.err.repeats, e.tide.toNat ≤ y.tide.toNat) :
    exec (.classify n x) s = .next (endClassification e (verdictOf e x s) (match x.fault with
      | some f => repeatFault (unitSite f) (x.reads.foldl countRepeat s)
      | none => x.reads.foldl countRepeat s)) := by
  have hnext : nextEntry n s = some e := by
    rw [nextEntry, he, Option.filter_some, if_pos (by simpa using hfirst)]
  change execClassify n x s = _
  rw [execClassify, hnext]
  exact congrArg Host.Outcome.next (if_pos ha)

theorem exec_classifyExpiry {n : Nat} {s : State} {e : Repeat} (ha : s.awake = true) (he : s.err.repeats[n]? = some e)
    (hlate : e.tide.toNat + 4 * 2 ^ 20 ≤ s.tide.number.toNat) :
    exec (.classifyExpiry n) s = .next (endClassification e .unresolved s) := by
  change execClassifyExpiry n s = _
  rw [execClassifyExpiry, he]
  dsimp only
  rw [if_pos ⟨ha, hlate⟩]

/-- Settles O35: the verdict by what the repeat met, and what each end of a classification leaves. -/
theorem violationsAreClassified : Obligations.ViolationsAreClassified := by
  refine ⟨fun n x s e ha he hfirst => ⟨verdictOf e x s, _, rfl, exec_classify ha he hfirst, verdictOf_unusable, ?_, ?_, ?_, ?_⟩,
    fun n s e ha he hlate => ?_⟩
  · intro himg hdigest hplace hdisturbed hfault hpoison hout
    refine verdictOf_otherOutputs ?_ hplace hout
    rintro (h | h | h | h | ⟨y, hy, h⟩)
    · simp [h] at himg
    · exact h hdigest
    · simp [hdisturbed] at h
    · simp [hfault] at h
    · simp [hpoison y hy] at h
  · intro hfault hv
    obtain ⟨hrepeats, hsuspects, hconfig⟩ := countRepeats_keep x.reads s
    obtain ⟨herr, hkept, hplane⟩ := endClassification_keeps hv e (x.reads.foldl countRepeat s)
    obtain ⟨hident, hcfg, hlive, hflash⟩ := hconfig
    obtain ⟨kident, kcfg, klive, kflash⟩ := hkept
    simp only [hfault, herr]
    refine ⟨?_, ?_, rfl, ⟨kident.trans hident, kcfg.trans hcfg, klive.trans hlive, kflash.trans hflash⟩, fun hnone => ?_⟩
    · rw [← hrepeats]; rfl
    · rw [← hsuspects]; rfl
    · rw [hnone] at hplane ⊢
      exact hplane
  · intro f hfault
    rw [verdictOf_fault (by simp [hfault])]
    simp only [hfault]
  · intro p hp
    have hfault : x.fault = none := by
      by_contra h
      rw [verdictOf_fault h] at hp
      cases hp
    simp only [hfault]
  · obtain ⟨herr, hkept, hplane⟩ := endClassification_keeps (v := .unresolved) (by simp) e s
    exact ⟨_, exec_classifyExpiry ha he hlate, by rw [herr]; rfl, by rw [herr]; rfl, by rw [herr]; rfl, hkept, hplane⟩

end Sys2Proof.Machine

namespace Sys2Proof.Machine

/-! ## Messages and notices beside a shutdown -/

theorem finish_shutdown (k : Option Key) (o : Outstanding) (changes changedNow : Bool) (status : Status) (key : ObjKey)
    (effect : Nat × Nat) (body : Bytes) (s : State) :
    (finish k o changes changedNow status key effect body s).mbox.shutdown = s.mbox.shutdown := by
  unfold finish
  cases changedNow <;> simp

theorem complete_shutdown (codes : List Nat) (subject : Nat) (changedNow : Bool) (status : Status) (key : ObjKey) (effect : Nat × Nat)
    (body : Bytes) (s : State) : (complete codes subject changedNow status key effect body s).mbox.shutdown = s.mbox.shutdown := by
  unfold complete
  split
  · rfl
  · exact finish_shutdown ..

theorem raiseNotice_shutdown (code : Nat) (severity : Option Nat) (kind subject related detail : Nat) (s : State) :
    (raiseNotice code severity kind subject related detail s).mbox.shutdown = s.mbox.shutdown := by
  cases severity <;> simp [raiseNotice, draw, apply_ite State.mbox]

/-! ## Step 6 begins (R202, R203, R216, R220) -/

/-- Creating an object changes the cove and takes free values. -/
theorem createObject_frame {data : CoveData} {holder : BitVec 16} {bytes : Nat} {digest address : Digest} {s : State}
    {o : BitVec 128 × State} (h : createObject data holder bytes digest address s = some o) :
    o.2.ident = s.ident ∧ o.2.cfg = s.cfg ∧ o.2.live = s.live ∧ o.2.flash = s.flash ∧ o.2.mbox = s.mbox ∧ o.2.outbox = s.outbox ∧
    o.2.pres = s.pres ∧ o.2.tide = s.tide ∧ o.2.img = s.img ∧ o.2.combs = s.combs ∧ o.2.fabric = s.fabric ∧ o.2.shelf = s.shelf ∧
    o.2.str = s.str ∧ o.2.err = s.err ∧ o.2.eth = s.eth ∧ o.2.pow = s.pow ∧ o.2.cool = s.cool ∧ o.2.pending = s.pending := by
  unfold createObject at h
  split at h
  · contradiction
  · obtain rfl := Option.some.inj h
    simp [drawId]

@[simp] theorem writeThrough_frame (l : Load) (s : State) :
    (writeThrough l s).cfg = s.cfg ∧ (writeThrough l s).tide = s.tide ∧ (writeThrough l s).img = s.img ∧
    (writeThrough l s).combs = s.combs ∧ (writeThrough l s).shelf = s.shelf ∧ (writeThrough l s).str = s.str := by
  unfold writeThrough
  split
  · simp
  · dsimp only
    split
    next h => simp [createObject_frame h]
    next => simp

/-- The module as step 6 of a load finds it: no image, no prefixes in the shelf, Loading, and the write-through object in the
extents reserved for it. -/
def payloadState (l : Load) (s : State) : State :=
  let drop := dropShelfPrefixes (dropImage s)
  let w := writeThrough l { drop with img := { drop.img with load := some { l with payload := true } }
                                      tide := { drop.tide with dp := .loading } }
  { w with img := { w.img with load := some { l with payload := true, reserve := none } } }

theorem dropImage_clears (s : State) :
    (dropImage s).tide.dp = .idle ∧ (dropImage s).img.image = none ∧ (dropImage s).img.unloading = false ∧
    (dropImage s).combs = s.combs.map Comb.clearPhase := ⟨rfl, rfl, rfl, rfl⟩

theorem payloadState_keeps (l : Load) (s : State) :
    (payloadState l s).tide.dp = .loading ∧ (payloadState l s).img.image = none ∧
    (payloadState l s).combs = s.combs.map Comb.clearPhase ∧ (payloadState l s).shelf = s.shelf ∧ (payloadState l s).cfg = s.cfg ∧
    ∀ p ∈ (payloadState l s).str.prefixes, p.place = 1 := by
  refine ⟨by simp [payloadState], by simp [payloadState, dropImage_clears], by simp [payloadState, dropImage_clears], by simp [payloadState],
    by simp [payloadState], fun p hp => ?_⟩
  have hp : p ∈ (dropImage s).str.prefixes.filter fun p => p.place = 1 := by simpa [payloadState, dropShelfPrefixes] using hp
  simpa using (List.mem_filter.mp hp).2

theorem exec_loadPayloadStart {s : State} {l : Load} (hready : payloadReady s = true) (hl : s.img.load = some l)
    (hq : quarantined l.digest s = false) :
    exec .loadPayloadStart s = .next (startWrites (mapPayload (fun _ _ landed => landed) (payloadState l s))) := by
  change execLoadPayloadStart s = _
  simp only [execLoadPayloadStart, if_pos hready, hl, hq]
  rfl

theorem exec_loadPayloadStart_quarantined {s : State} {l : Load} (hready : payloadReady s = true) (hl : s.img.load = some l)
    (hq : quarantined l.digest s = true) : exec .loadPayloadStart s = .next (rejectLoad [quarantineFailure] s) := by
  change execLoadPayloadStart s = _
  simp only [execLoadPayloadStart, if_pos hready, hl, hq, if_true]

section MapPayload
variable {keep : List Nat → List Nat → List Nat → List Nat} {s : State} {l : Load} (hl : s.img.load = some l)
include hl

theorem mapPayload_unplaced {fs : List Failure} (h : placeImage l.image s = .inr fs) : mapPayload keep s = rejectLoad fs s := by
  simp only [mapPayload, hl, h]

variable {p : List Nat × List (BitVec 8)} (hp : placeImage l.image s = .inl p)
include hp

theorem mapPayload_unfit (h : shelfFit l.image p.1 (bits s.cfg.words.w2 63 47) s ≠ []) :
    mapPayload keep s = rejectLoad (shelfFit l.image p.1 (bits s.cfg.words.w2 63 47) s) s := by
  simp only [mapPayload, hl, hp, if_pos h]

theorem mapPayload_maps (h : shelfFit l.image p.1 (bits s.cfg.words.w2 63 47) s = []) :
    mapPayload keep s =
      { s with img := { s.img with load := some { l with place := p.1, parents := p.2, landed := keep l.place p.1 l.landed } } } := by
  simp only [mapPayload, hl, hp, h, ne_eq, not_true, if_false]

end MapPayload

/-! ## Ranges land (R198, R199, R205) -/

section Range
variable {n : Nat} {data : Bytes} {s : State} {l : Load}

/-- A range in its place in its stack, if it has one. -/
def rangeStored (l : Load) (n : Nat) (data : Bytes) (s : State) : State :=
  match shardUnit l.image l.place n with
  | some u => setStack (dieOf (nth l.place (Shard.vcomb (nth l.image.shards n 0)) 0))
      (fun k => { k with mem := writeUnits k.mem u (wordsOf data) }) s
  | none => s

theorem rangeStored_keeps (l : Load) (n : Nat) (data : Bytes) (s : State) :
    (rangeStored l n data s).combs = s.combs ∧ (rangeStored l n data s).tide = s.tide ∧ SameConfig s (rangeStored l n data s) := by
  unfold rangeStored SameConfig
  split <;> simp

theorem rangeStored_none (h : shardUnit l.image l.place n = none) (data : Bytes) (s : State) : rangeStored l n data s = s := by
  rw [rangeStored, h]

/-- Only the range's own stack is written, and only where the module has it. -/
theorem rangeStored_stack {u : Nat} (h : shardUnit l.image l.place n = some u) (data : Bytes) (s : State) (k : Nat) :
    ((rangeStored l n data s).stack k).mem =
      if k = dieOf (nth l.place (Shard.vcomb (nth l.image.shards n 0)) 0) ∧ k < s.shelf.stk.length
      then writeUnits (s.stack k).mem u (wordsOf data) else (s.stack k).mem := by
  rw [rangeStored, h]
  dsimp only
  rw [setStack_stack]
  simp only [eq_comm (a := k)]
  split <;> rfl

/-- The memory of the range's stack once the range is stored. -/
def rangeMemory (l : Load) (n : Nat) (data : Bytes) (s : State) : Memory :=
  let j := dieOf (nth l.place (Shard.vcomb (nth l.image.shards n 0)) 0)
  match shardUnit l.image l.place n with
  | some u => if j < s.shelf.stk.length then writeUnits (s.stack j).mem u (wordsOf data) else (s.stack j).mem
  | none => (s.stack j).mem

theorem rangeStored_memory (l : Load) (n : Nat) (data : Bytes) (s : State) :
    ((rangeStored l n data s).stack (dieOf (nth l.place (Shard.vcomb (nth l.image.shards n 0)) 0))).mem = rangeMemory l n data s := by
  unfold rangeMemory
  cases h : shardUnit l.image l.place n with
  | none => rw [rangeStored_none h]
  | some u => simp only [rangeStored_stack h, true_and]

/-- What the loader finds in a range. -/
def foundInRange (l : Load) (n : Nat) (data : Bytes) (s : State) : List Failure :=
  let e := nth l.image.shards n 0
  let slice : Bool := Shard.kind e = 1 || Shard.kind e = 2
  let landed := landedOf l (Shard.vcomb e)
  rangeFailures l.image n data landed (scratchpadOf l.image l.place (if slice then [] else n :: landed) (rangeMemory l n data s))

theorem exec_shardRangeLanded (ha : s.awake = true) (hl : s.img.load = some l) (hp : l.payload = true)
    (hn : n < l.image.shards.length) (hnew : n ∉ l.landed) (hlen : data.length = Shard.length (nth l.image.shards n 0)) :
    exec (.shardRangeLanded n data) s = .next (if foundInRange l n data s ≠ [] then rejectLoad (foundInRange l n data s) s
      else { rangeStored l n data s with
        img := { (rangeStored l n data s).img with
          load := some { l with landed := l.landed ++ [n], ranges := assign l.ranges n data } } }) := by
  change execShardRangeLanded n data s = _
  simp only [execShardRangeLanded, hl]
  rw [if_pos ⟨ha, hp, hn, hnew, hlen⟩]
  simp only [foundInRange, ← rangeStored_memory, Bool.or_eq_true, decide_eq_true_eq]
  rfl

end Range

/-! ## The load completes (R202, R216) -/

/-- The combs filled from the stacks, those without a virtual comb cleared. -/
def combsFilled (l : Load) (s : State) : State :=
  (List.range l.place.length).foldl (fun s v => fillComb l.image l.place v s) (clearSpares l.place (writeCode l.image l.place s))

/-- The combs filled, the counters and the expert maps started: the module just before the image is in place. -/
def loadFilled (l : Load) (s : State) : State :=
  let s := loadExperts l.image l.place (startCounters l.image (combsFilled l s))
  if l.network then s
  else match imageObject l.digest s with
    | some o => setObject o.id.toNat (fun x => { x with readers := x.readers - 1 }) s
    | none => s

theorem finishLoad_eq (l : Load) (s : State) : finishLoad l s = advanceService (loadNotice
    (complete [0x0302] 0 true Status.ok .image (0, 0) (loadReport (installImage l (loadFilled l s))) (installImage l (loadFilled l s)))) := rfl

/-- What a load leaves as it is while it fills the module. -/
structure FillKeeps (s t : State) : Prop where
  ident : t.ident = s.ident
  cfg : t.cfg = s.cfg
  live : t.live = s.live
  img : t.img = s.img
  mbox : t.mbox = s.mbox
  tide : t.tide = s.tide

namespace FillKeeps
variable {s t u : State}

theorem refl (s : State) : FillKeeps s s := ⟨rfl, rfl, rfl, rfl, rfl, rfl⟩

theorem trans (h : FillKeeps s t) (k : FillKeeps t u) : FillKeeps s u :=
  ⟨k.ident.trans h.ident, k.cfg.trans h.cfg, k.live.trans h.live, k.img.trans h.img, k.mbox.trans h.mbox, k.tide.trans h.tide⟩

theorem foldl {β : Type} {f : State → β → State} (h : ∀ s b, FillKeeps s (f s b)) (l : List β) (s : State) : FillKeeps s (l.foldl f s) :=
  foldl_inv (FillKeeps s) f (fun t b ht => ht.trans (h t b)) l s (.refl s)

end FillKeeps

theorem setStack_fillKeeps (n : Nat) (f : Stack → Stack) (s : State) : FillKeeps s (setStack n f s) := by
  constructor <;> simp

theorem writeCode_fillKeeps (i : Image) (place : List Nat) (s : State) : FillKeeps s (writeCode i place s) := by
  refine .foldl (fun s j => ?_) _ s
  dsimp only
  split
  · exact .refl s
  · exact setStack_fillKeeps ..

theorem fillComb_fillKeeps (i : Image) (place : List Nat) (v : Nat) (s : State) : FillKeeps s (fillComb i place v s) := by
  constructor <;> simp

theorem loadExperts_fillKeeps (i : Image) (place : List Nat) (s : State) : FillKeeps s (loadExperts i place s) := by
  have h := FillKeeps.foldl (fun s j => setStack_fillKeeps j (fun k => { k with experts := (vcombsOn place j).flatMap (expertEntries i place) }) s)
    (List.range 24) s
  exact ⟨h.ident, h.cfg, h.live, h.img, h.mbox, h.tide⟩

theorem combsFilled_fillKeeps (l : Load) (s : State) : FillKeeps s (combsFilled l s) := by
  have hcode := writeCode_fillKeeps l.image l.place s
  have hclear : FillKeeps s (clearSpares l.place (writeCode l.image l.place s)) :=
    ⟨hcode.ident, hcode.cfg, hcode.live, hcode.img, hcode.mbox, hcode.tide⟩
  exact hclear.trans (.foldl (fun s v => fillComb_fillKeeps l.image l.place v s) _ _)

/-- Filling starts the image's counters and leaves the rest of the tide, the mailboxes and the image in force. -/
theorem loadFilled_keeps (l : Load) (s : State) : FillKeeps (startCounters l.image (combsFilled l s)) (loadFilled l s) := by
  have h := loadExperts_fillKeeps l.image l.place (startCounters l.image (combsFilled l s))
  unfold loadFilled
  dsimp only
  split
  · exact h
  · split
    · exact h.trans ⟨by simp, by simp, by simp, by simp, by simp, by simp⟩
    · exact h

theorem startCounters_keeps (i : Image) (s : State) :
    (startCounters i s).ident = s.ident ∧ (startCounters i s).cfg = s.cfg ∧ (startCounters i s).live = s.live ∧
    (startCounters i s).img = s.img ∧ (startCounters i s).mbox = s.mbox ∧ (startCounters i s).tide.dp = s.tide.dp ∧
    (startCounters i s).tide.number = 0 ∧ (startCounters i s).tide.runCycles = 0 := ⟨rfl, rfl, rfl, rfl, rfl, rfl, rfl, rfl⟩

theorem installImage_keeps (l : Load) (s : State) :
    (installImage l s).cfg = s.cfg ∧ (installImage l s).live = s.live ∧ (installImage l s).mbox = s.mbox ∧
    (installImage l s).img.unloading = s.img.unloading ∧ (installImage l s).tide.dp = s.tide.dp ∧
    (installImage l s).tide.number = s.tide.number ∧ (installImage l s).tide.runCycles = s.tide.runCycles :=
  ⟨rfl, rfl, rfl, rfl, rfl, rfl, rfl⟩

theorem installImage_image (l : Load) (s : State) :
    (installImage l s).img.image = some l.image ∧ (installImage l s).img.digest = l.digest ∧ (installImage l s).img.place = l.place ∧
    (installImage l s).img.parents = l.parents ∧ (installImage l s).img.load = none ∧
    (installImage l s).img.kvStacks = kvStackSet l.place ∧ (installImage l s).tide.startPending = true ∧
    (installImage l s).tide.contractHolds = contractTable l.image s.ident.stepping := ⟨rfl, rfl, rfl, rfl, rfl, rfl, rfl, rfl⟩

theorem exec_loadComplete {s : State} {l : Load} (ha : s.awake = true) (hl : s.img.load = some l) (hp : l.payload = true)
    (hall : ∀ n < l.image.shards.length, n ∈ l.landed) :
    exec .loadComplete s = .next (if quarantined l.digest s then rejectLoad [quarantineFailure] s else finishLoad l s) := by
  have hlanded : (List.range l.image.shards.length).all (fun n => l.landed.contains n) = true := by simpa using hall
  change execLoadComplete s = _
  simp only [execLoadComplete, hl]
  rw [if_pos ⟨ha, hp, hlanded⟩]

/-- What the filled module keeps of the one that it was. -/
theorem loadFilled_eq (l : Load) (s : State) :
    (loadFilled l s).ident = s.ident ∧ (loadFilled l s).cfg = s.cfg ∧ (loadFilled l s).live = s.live ∧ (loadFilled l s).img = s.img ∧
    (loadFilled l s).mbox = s.mbox ∧ (loadFilled l s).tide.dp = s.tide.dp ∧ (loadFilled l s).tide.number = 0 ∧
    (loadFilled l s).tide.runCycles = 0 := by
  have hcombs := combsFilled_fillKeeps l s
  have hfilled := loadFilled_keeps l s
  simp only [hfilled.ident, hfilled.cfg, hfilled.live, hfilled.img, hfilled.mbox, hfilled.tide, startCounters_keeps, hcombs.ident,
    hcombs.cfg, hcombs.live, hcombs.img, hcombs.mbox, hcombs.tide, and_self]

/-- An image in place answers the load and is noticed; nothing else is under way then. -/
theorem finishLoad_keeps {s : State} (l : Load) (hunload : s.img.unloading = false) (hshutdown : s.mbox.shutdown = .no) :
    (finishLoad l s).img = (installImage l (loadFilled l s)).img ∧ (finishLoad l s).tide = (installImage l (loadFilled l s)).tide ∧
      (finishLoad l s).cfg = s.cfg ∧ (finishLoad l s).live = s.live := by
  obtain ⟨-, hcfg, hlive, himg, hmbox, -⟩ := loadFilled_eq l s
  have hidle : ServiceIdle (loadNotice (complete [0x0302] 0 true Status.ok .image (0, 0) (loadReport (installImage l (loadFilled l s)))
      (installImage l (loadFilled l s)))) := by
    refine ⟨by simp [loadNotice, installImage_image], by simp [loadNotice, installImage_keeps, himg, hunload], ?_⟩
    rw [loadNotice, raiseNotice_shutdown, complete_shutdown, (installImage_keeps ..).2.2.1, hmbox, hshutdown]
  rw [finishLoad_eq, advanceService_idle hidle]
  simp [loadNotice, installImage_keeps, hcfg, hlive]

/-- Settles O25: step 6 under the mapping of the state that it begins in, a range's place in its stack, and the image in place
once all have landed. -/
theorem payloadLandsAndTheLoadCompletes : Obligations.PayloadLandsAndTheLoadCompletes := by
  refine ⟨fun s l hready hl hq => ?_, fun s l hready hl hq => exec_loadPayloadStart_quarantined hready hl hq,
    fun n data s l ha hl hp hn hnew hlen => ?_, fun s l ha hl hp hall hq hunload hshutdown => ?_, fun s l ha hl hp hall hq => ?_⟩
  · obtain ⟨hdp, himage, hcombs, hshelf, hcfg, hplace⟩ := payloadState_keeps l s
    have hload : (payloadState l s).img.load = some { l with payload := true, reserve := none } := rfl
    refine ⟨exec_loadPayloadStart hready hl hq, hdp, himage, hcombs, hshelf, hcfg, hplace, fun fs hfs => ?_,
      fun p hplaced => ⟨fun hunfit => ?_, fun hfit => ⟨_, exec_loadPayloadStart hready hl hq, ?_⟩⟩⟩
    · rw [exec_loadPayloadStart hready hl hq, mapPayload_unplaced hload hfs]
      rfl
    · rw [exec_loadPayloadStart hready hl hq, mapPayload_unfit hload hplaced (hcfg ▸ hunfit), hcfg]
      rfl
    · rw [mapPayload_maps hload hplaced (hcfg ▸ hfit)]
      simp [hdp, himage, hshelf]
  · have hexec := exec_shardRangeLanded ha hl hp hn hnew hlen
    obtain ⟨hcombs, htide, hconfig⟩ := rangeStored_keeps l n data s
    refine ⟨fun hfound => ?_,
      fun hnone => ⟨_, hexec.trans (congrArg Host.Outcome.next (if_neg ?_)), rfl, hcombs, htide, hconfig, ?_⟩⟩
    · exact hexec.trans (congrArg Host.Outcome.next (if_pos hfound))
    · exact not_not.mpr hnone
    · cases hunit : shardUnit l.image l.place n with
      | none => rw [rangeStored_none hunit]
      | some u => exact rangeStored_stack hunit data s
  · obtain ⟨himg, htide, hcfg, hlive⟩ := finishLoad_keeps l hunload hshutdown
    refine ⟨finishLoad l s, by rw [exec_loadComplete ha hl hp hall, hq]; rfl, ?_⟩
    simp [himg, htide, hcfg, hlive, installImage_image, installImage_keeps, loadFilled_eq]
  · rw [exec_loadComplete ha hl hp hall, if_pos hq]

end Sys2Proof.Machine

namespace Sys2Proof.Machine

/-! ## Long operations (R344, R362, R364)
A request that begins one is served, its message stays outstanding, and it ends with the final response to that message. -/

/-! ### What the checks passed -/

theorem ok_of_firstBad {l : List Status} (h : firstBad l = Status.ok) : ∀ x ∈ l, x = Status.ok := by
  induction l with
  | nil => simp
  | cons x l ih =>
    rw [firstBad] at h
    split at h
    next hx => simpa using ⟨hx, ih h⟩
    next hx => exact absurd h hx

theorem of_need {c : Bool} {x : Status} (hx : x ≠ Status.ok) (h : need c x = Status.ok) : c = true := by
  unfold need at h
  split at h
  · assumption
  · exact absurd h hx

section Served
variable {op : Op} {r : Request} {s : State} (h : Served op r s)
include h

theorem Served.passed : op.check r (taken r s) = Status.ok := ok_of_firstBad h.2.2.2 _ (by simp)

/-- A module that shuts down serves queries only. -/
theorem Served.notShut (hq : op.query = false) : s.mbox.shutdown = .no := by
  have hmodule : moduleOk op r (taken r s) = true := of_need (x := Status.badState) (by decide) (ok_of_firstBad h.2.2.2 _ (by simp))
  simp only [moduleOk, Bool.and_eq_true, Bool.or_eq_true, decide_eq_true_eq, hq, Bool.false_eq_true, or_false,
    (taken_mbox r s).2.2.1] at hmodule
  exact hmodule.1.2

end Served

/-! ### What an answer leaves -/

@[simp] theorem respond_frame (op : Op) (r : Request) (a : Answer) :
    (respond op r a).ident = a.state.ident ∧ (respond op r a).cfg = a.state.cfg ∧ (respond op r a).live = a.state.live ∧
    (respond op r a).flash = a.state.flash ∧ (respond op r a).pres = a.state.pres ∧ (respond op r a).tide = a.state.tide ∧
    (respond op r a).img = a.state.img ∧ (respond op r a).combs = a.state.combs ∧ (respond op r a).fabric = a.state.fabric ∧
    (respond op r a).shelf = a.state.shelf ∧ (respond op r a).pow = a.state.pow ∧
    (respond op r a).mbox.shutdown = a.state.mbox.shutdown := by
  obtain ⟨x, hx⟩ := respond_eq op r a
  rw [hx]
  cases hc : a.changed <;> simp [answeredState, committed, hc]

/-- An answer that changes none of the streams, prefixes and objects leaves streams and cove as they are. -/
theorem respond_records {op : Op} {r : Request} {a : Answer} (h : a.key.ofModule = true) :
    (respond op r a).str = a.state.str ∧ (respond op r a).cove = a.state.cove := by
  obtain ⟨x, hx⟩ := respond_eq op r a
  rw [hx]
  cases hc : a.changed <;> simp [answeredState, committed, hc, commitChange_ofModule h]

/-- A message stands last among the outstanding ones, after others, and its response is in the cache. -/
structure OpenMessage (o : Outstanding) (others : List Outstanding) (w : State) : Prop where
  outstanding : w.mbox.outstanding = others ++ [o]
  cached : ∃ e ∈ w.mbox.cache, e.mailbox = o.mailbox ∧ e.sequence = o.sequence

theorem respond_opens {op : Op} {r : Request} {a : Answer} (h : leavesOpen a.status = true) :
    OpenMessage (messageOf op r a) a.state.mbox.outstanding (respond op r a) := by
  obtain ⟨hcache, hout⟩ := respond_mbox op r a
  refine ⟨by rw [hout, if_pos h], responseOf op r a, ?_, rfl, rfl⟩
  rw [hcache]
  exact List.mem_of_mem_getLast? (getLast?_cachePut ..)

theorem finish_mbox (k : Option Key) (o : Outstanding) (changes changedNow : Bool) (status : Status) (key : ObjKey)
    (effect : Nat × Nat) (body : Bytes) (s : State) :
    (finish k o changes changedNow status key effect body s).mbox.outstanding = s.mbox.outstanding.erase o ∧
    ∃ payload, (finish k o changes changedNow status key effect body s).mbox.cache = s.mbox.cache.map fun e =>
      if e.mailbox = o.mailbox ∧ e.sequence = o.sequence then { e with status := status, payload := payload } else e := by
  unfold finish
  cases changedNow with
  | false => exact ⟨by simp, _, by simp only [send_frame]; rfl⟩
  | true => exact ⟨by simp, _, by simp only [send_frame, if_true, commitChange_mbox]; rfl⟩

theorem finish_ofModule {key : ObjKey} (h : key.ofModule = true) (k : Option Key) (o : Outstanding) (changes changedNow : Bool)
    (status : Status) (effect : Nat × Nat) (body : Bytes) (s : State) :
    (finish k o changes changedNow status key effect body s).str = s.str ∧
    (finish k o changes changedNow status key effect body s).cove = s.cove := by
  unfold finish
  cases changedNow <;> simp [commitChange_ofModule h]

theorem complete_ofModule {key : ObjKey} (h : key.ofModule = true) (codes : List Nat) (subject : Nat) (changedNow : Bool)
    (status : Status) (effect : Nat × Nat) (body : Bytes) (s : State) :
    (complete codes subject changedNow status key effect body s).str = s.str ∧
    (complete codes subject changedNow status key effect body s).cove = s.cove := by
  unfold complete
  split
  · exact ⟨rfl, rfl⟩
  · exact finish_ofModule h ..

namespace OpenMessage
variable {o : Outstanding} {others : List Outstanding} {w : State}

theorem congr {v : State} (h : OpenMessage o others w) (hv : v.mbox.outstanding = w.mbox.outstanding ∧ v.mbox.cache = w.mbox.cache) :
    OpenMessage o others v := ⟨hv.1.trans h.outstanding, hv.2 ▸ h.cached⟩

/-- The end of an open message takes it away and makes its response final. -/
theorem finish_ends (h : OpenMessage o others w) (hnew : o ∉ others) (k : Option Key) (changes changedNow : Bool) (status : Status)
    (key : ObjKey) (effect : Nat × Nat) (body : Bytes) :
    (finish k o changes changedNow status key effect body w).mbox.outstanding = others ∧
    ∃ e ∈ (finish k o changes changedNow status key effect body w).mbox.cache,
      e.mailbox = o.mailbox ∧ e.sequence = o.sequence ∧ e.status = status := by
  obtain ⟨hout, payload, hcache⟩ := finish_mbox k o changes changedNow status key effect body w
  obtain ⟨e, he, hmailbox, hsequence⟩ := h.cached
  refine ⟨?_, { e with status := status, payload := payload }, ?_, hmailbox, hsequence, rfl⟩
  · rw [hout, h.outstanding, List.erase_append_right _ hnew]
    simp
  · rw [hcache]
    exact List.mem_map.mpr ⟨e, he, if_pos ⟨hmailbox, hsequence⟩⟩

/-- The message of an opcode that no other outstanding message has is the one that the operation's end is about. -/
theorem complete_ends (h : OpenMessage o others w) {codes : List Nat} {subject : Nat} {key : ObjKey}
    (hothers : ∀ x ∈ others, x.opcode.toNat ∉ codes) (ho : o.opcode.toNat ∈ codes ∧ o.subject.toNat = subject ∧ o.holder = key.holder)
    (changedNow : Bool) (status : Status) (effect : Nat × Nat) (body : Bytes) :
    (complete codes subject changedNow status key effect body w).mbox.outstanding = others ∧
    ∃ e ∈ (complete codes subject changedNow status key effect body w).mbox.cache,
      e.mailbox = o.mailbox ∧ e.sequence = o.sequence ∧ e.status = status := by
  obtain ⟨hcode, hsubject, hholder⟩ := ho
  have hnew : o ∉ others := fun hmem => hothers o hmem hcode
  have hfind : w.mbox.outstanding.find? (fun o => o.opcode.toNat ∈ codes && o.subject.toNat = subject && o.holder = key.holder) = some o := by
    have hnone : others.find? (fun o => o.opcode.toNat ∈ codes && o.subject.toNat = subject && o.holder = key.holder) = none := by
      refine List.find?_eq_none.mpr fun x hx => ?_
      simp [hothers x hx]
    rw [h.outstanding, List.find?_append, hnone]
    simp [hcode, hsubject, hholder]
  simp only [complete, hfind]
  exact h.finish_ends hnew ..

end OpenMessage

/-! ### Where nothing goes on -/

theorem parkAll_nil {s : State} (h : s.str.live = []) (go : State → Bool) (onFull : Stream → State → State) : parkAll go onFull s = s := by
  simp [parkAll, h]

theorem advanceUnload_waits {s : State} (h : s.img.unloading = false ∨ s.str.live ≠ []) : advanceUnload s = s := by
  refine if_neg ?_
  rintro ⟨hunload, hlive⟩
  rcases h with h | h
  · simp [h] at hunload
  · exact h hlive

/-- A load that has no stream to park, or none that waits for one, parks nothing. -/
theorem advanceLoad_waits {s : State} (h : s.img.load = none ∨ s.str.live = [] ∨ s.tide.dp = .idle) : advanceLoad s = s := by
  unfold advanceLoad
  split
  next hparks =>
    rcases h with h | h | h
    · simp [loadParks, h] at hparks
    · exact parkAll_nil h ..
    · simp [loadParks, h] at hparks
  next => rfl

theorem advanceService_waits {s : State} (hunload : s.img.unloading = false ∨ s.str.live ≠ [])
    (hload : s.img.load = none ∨ s.str.live = [] ∨ s.tide.dp = .idle) (hshut : s.mbox.shutdown = .no ∨ s.tide.dp = .running) :
    advanceService s = s := by
  have hend : ¬(s.mbox.shutdown = .accepted ∧ s.tide.dp ≠ .running) := by
    rcases hshut with h | h <;> simp [h]
  simp only [advanceService, advanceUnload_waits hunload, advanceLoad_waits hload, if_neg hend]

end Sys2Proof.Machine

namespace Sys2Proof.Machine

/-! ## IMAGE_UNLOAD (R375) -/

section Unload
variable {r : Request} {s : State}

/-- What IMAGE_UNLOAD does to the state that it is taken in. -/
def unloadAnswer (r : Request) (s : State) : Answer :=
  ⟨{ taken r s with img := { s.img with unloading := true }, tide := { s.tide with startPending := false } }, Status.accepted, .image,
    true, (0, 0), []⟩

theorem imageUnload_run (r : Request) (s : State) : opImageUnload.run r (taken r s) = unloadAnswer r s := by
  simp [opImageUnload, unloadAnswer]

theorem serve_imageUnload (h : Served opImageUnload r s) : serve opImageUnload r s = respond opImageUnload r (unloadAnswer r s) := by
  rw [serve_served h, imageUnload_run]

theorem notUnloading (h : Served opImageUnload r s) : s.img.unloading = false := by
  have hbusy := of_need (x := Status.busy) (by decide) (ok_of_firstBad h.passed (need (!(taken r s).img.unloading) Status.busy) (by simp))
  simpa using hbusy

/-- The module with the unload accepted. -/
theorem unload_keeps (h : Served opImageUnload r s) :
    (serve opImageUnload r s).img = { s.img with unloading := true } ∧
    (serve opImageUnload r s).tide = { s.tide with startPending := false } ∧ (serve opImageUnload r s).mbox.shutdown = .no ∧
    (serve opImageUnload r s).str = s.str ∧ (serve opImageUnload r s).cove = s.cove ∧ SameConfig s (serve opImageUnload r s) := by
  have hrecords := respond_records (op := opImageUnload) (r := r) (a := unloadAnswer r s) rfl
  rw [serve_imageUnload h]
  refine ⟨by simp [unloadAnswer], by simp [unloadAnswer], by simp [unloadAnswer, h.notShut rfl], ?_, ?_, ?_⟩
  · rw [hrecords.1]; simp [unloadAnswer]
  · rw [hrecords.2]; simp [unloadAnswer]
  · simp [SameConfig, unloadAnswer]

theorem exec_imageUnload (h : Served opImageUnload r s) : exec (.imageUnload r) s =
    .next (advanceService (parkAll (·.img.unloading) unloadFull (serve opImageUnload r s))) := by
  have hgoes : (!s.img.unloading && (serve opImageUnload r s).img.unloading) = true := by simp [notUnloading h, (unload_keeps h).1]
  exact congrArg Host.Outcome.next (if_pos hgoes)

theorem advanceUnload_done {w : State} (hunload : w.img.unloading = true) (hlive : w.str.live = []) :
    advanceUnload w = complete [0x0306] 0 true Status.ok .image (0, 0) (tideStatus (dropImage w)) (dropImage w) := if_pos ⟨hunload, hlive⟩

theorem dropImage_streams {s : State} (h : s.str.live = []) :
    (dropImage s).str.live = [] ∧ (dropImage s).str.parked = s.str.parked :=
  ⟨List.map_eq_nil_iff.mpr h, rfl⟩

theorem dropImage_cove (s : State) : (dropImage s).cove = s.cove := rfl

/-- With no live stream the unload completes at once. -/
theorem imageUnload_completes (h : Served opImageUnload r s) (hlive : s.str.live = []) (hfirst : ∀ o ∈ s.mbox.outstanding, o.opcode ≠ 0x0306) :
    ∃ t, exec (.imageUnload r) s = .next t ∧ t.tide.dp = .idle ∧ t.img.image = none ∧ t.img.unloading = false ∧
      t.str.live = [] ∧ t.str.parked = s.str.parked ∧ t.cove = s.cove ∧ SameConfig s t ∧ Ended r Status.ok s t := by
  obtain ⟨himg, -, hshut, hstr, hcove, hconfig⟩ := unload_keeps h
  have hopen : OpenMessage (messageOf opImageUnload r (unloadAnswer r s)) s.mbox.outstanding (dropImage (serve opImageUnload r s)) := by
    have hserved := respond_opens (op := opImageUnload) (r := r) (a := unloadAnswer r s) rfl
    rw [← serve_imageUnload h] at hserved
    have hbefore : (unloadAnswer r s).state.mbox.outstanding = s.mbox.outstanding := by simp [unloadAnswer]
    exact (hbefore ▸ hserved).congr ⟨rfl, rfl⟩
  generalize hw : serve opImageUnload r s = w at *
  have hnone : w.str.live = [] := by rw [hstr, hlive]
  have hdone := advanceUnload_done (w := w) (by rw [himg]) hnone
  have hrecords := complete_ofModule (key := .image) rfl [0x0306] 0 true Status.ok (0, 0) (tideStatus (dropImage w)) (dropImage w)
  have hends := hopen.complete_ends (codes := [0x0306]) (subject := 0) (key := .image)
    (fun x hx hcode => hfirst x hx (BitVec.eq_of_toNat_eq (by simpa using hcode)))
    ⟨List.mem_singleton.mpr rfl, rfl, rfl⟩ true Status.ok (0, 0) (tideStatus (dropImage w))
  refine ⟨advanceUnload w, ?_, ?_⟩
  · have hidle : (advanceUnload w).tide.dp = .idle := by rw [hdone]; simp [dropImage_clears]
    have hnot : (advanceUnload w).mbox.shutdown = .no := by rw [hdone, complete_shutdown]; simpa using hshut
    rw [exec_imageUnload h, hw, parkAll_nil hnone, advanceService, advanceLoad_waits (.inr (.inr hidle))]
    exact congrArg Host.Outcome.next (if_neg (by simp [hnot]))
  · rw [hdone]
    refine ⟨by simp [dropImage_clears], by simp [dropImage_clears], by simp [dropImage_clears], ?_, ?_, ?_, ?_, hends⟩
    · rw [hrecords.1, (dropImage_streams hnone).1]
    · rw [hrecords.1, (dropImage_streams hnone).2, hstr]
    · rw [hrecords.2, dropImage_cove, hcove]
    · simpa [SameConfig] using hconfig

theorem createObject_str {data : CoveData} {holder : BitVec 16} {bytes : Nat} {digest address : Digest} {s : State}
    {o : BitVec 128 × State} (h : createObject data holder bytes digest address s = some o) : o.2.str = s.str := by
  simp [createObject_frame h]

/-- A stream as its park begins. -/
def parkingStream (i : Image) (own : Bool) (t : Stream) (s : State) : Stream :=
  { t with state := .parking, resumeTo := some (if t.state = .paused then .decode else t.state), pauseReason := 0
           event := { t.event with park := false, own := own }
           copies := copyRecords i t ((t.committed.length + 63) / 64) s
           slotCount := 0, rows := 0, tree := [] }

theorem beginPark_begun {n : Nat} {own : Bool} {w : State} {t : Stream} (hat : liveAt n w = some t) (hbegun : (beginPark n own w).1 = true) :
    ∃ i o v, v.str = w.str ∧ (beginPark n own w).2 =
      if own then setLive n (fun _ => { parkingStream i own t w with parkObject := some o }) v
      else stateFrame (parkingStream i own t w) .parking 0 (setLive n (fun _ => { parkingStream i own t w with parkObject := some o }) v) := by
  cases hi : w.img.image with
  | none => simp [beginPark, hat, hi] at hbegun
  | some i =>
    simp only [beginPark, hat, hi] at hbegun ⊢
    split at hbegun
    next o v heq => exact ⟨i, o, v, createObject_str heq, rfl⟩
    next => cases hbegun

/-- A park that begins leaves its stream PARKING, with its history. -/
theorem beginPark_parks {n : Nat} {own : Bool} {w : State} {t : Stream} (hat : liveAt n w = some t) (hbegun : (beginPark n own w).1 = true) :
    ∃ y, liveAt n (beginPark n own w).2 = some y ∧ y.state = .parking ∧ history y = history t := by
  obtain ⟨i, o, v, hstr, heq⟩ := beginPark_begun hat hbegun
  have hv : liveAt n v = some t := (liveAt_congr hstr n).trans hat
  refine ⟨{ parkingStream i own t w with parkObject := some o }, ?_, rfl, rfl⟩
  rw [heq]
  split
  · exact setLive_same hv _
  · rw [liveAt, stateFrame_live]
    exact setLive_same hv _

/-- A single live stream that can be parked begins to park, and the unload waits for it. -/
theorem imageUnload_parks (h : Served opImageUnload r s) {n : Nat} {t : Stream} (hone : s.str.live = [(n, t)]) (hclose : t.event.close = none)
    (hparking : t.state ≠ .parking) (hresuming : t.state ≠ .resuming) (hload : s.img.load = none)
    (hbegun : (beginPark n false (serve opImageUnload r s)).1 = true) :
    exec (.imageUnload r) s = .next (beginPark n false (serve opImageUnload r s)).2 ∧
      ∃ y, liveAt n (beginPark n false (serve opImageUnload r s)).2 = some y ∧ y.state = .parking ∧ history y = history t := by
  obtain ⟨himg, -, hshut, hstr, -, -⟩ := unload_keeps h
  rw [exec_imageUnload h]
  generalize serve opImageUnload r s = w at *
  have hat : liveAt n w = some t := by simp [liveAt, lookup, hstr, hone]
  have hpark : parkAll (·.img.unloading) unloadFull w = (beginPark n false w).2 := by
    have hgo : w.img.unloading = true := by rw [himg]
    simp [parkAll, hstr, hone, hgo, parkOne, hat, hclose, hparking, hresuming, hbegun]
  obtain ⟨y, hy, hstate, hhistory⟩ := beginPark_parks hat hbegun
  have hwork := beginPark_work n false w
  have hlive : (beginPark n false w).2.str.live ≠ [] := fun hnil => by simp [liveAt, lookup, hnil] at hy
  rw [hpark, advanceService_waits (.inr hlive) (.inl (by rw [hwork.img, himg]; exact hload)) (.inl (hwork.shutdown.trans hshut))]
  exact ⟨rfl, y, hy, hstate, hhistory⟩

end Unload

end Sys2Proof.Machine

namespace Sys2Proof.Machine

/-! ## MODULE_SHUTDOWN (R438) -/

/-! ### What waits for presence, and the staging, end -/

/-- What the end of a pending command or of a staging leaves as it is. -/
structure EndKeeps (s t : State) : Prop where
  tide : t.tide = s.tide
  str : t.str = s.str
  load : t.img.load = s.img.load
  unloading : t.img.unloading = s.img.unloading
  shutdown : t.mbox.shutdown = s.mbox.shutdown

theorem EndKeeps.trans {s t u : State} (h : EndKeeps s t) (k : EndKeeps t u) : EndKeeps s u :=
  ⟨k.tide.trans h.tide, k.str.trans h.str, k.load.trans h.load, k.unloading.trans h.unloading, k.shutdown.trans h.shutdown⟩

theorem finish_endKeeps (k : Option Key) (o : Outstanding) (changes : Bool) (status : Status) (key : ObjKey) (effect : Nat × Nat)
    (body : Bytes) (s : State) : EndKeeps s (finish k o changes false status key effect body s) := by
  obtain ⟨hstr, hshut⟩ := finish_unchanged k o changes status key effect body s
  exact ⟨by simp, hstr, by simp, by simp, hshut⟩

theorem dropPending_keeps (s : State) : EndKeeps s (dropPending s) ∧ (dropPending s).pres = s.pres := by
  unfold dropPending
  (repeat' split) <;> exact ⟨⟨by simp, by simp, by simp, by simp, by simp⟩, by simp⟩

theorem endPresence_keeps (c : PresenceCmd) (k : Option Key) {a : Answer} (h : a.changed = false) (s : State) :
    EndKeeps s (endPresence c k a s) ∧ (endPresence c k a s).pres.cmd = none := by
  have hmessage : EndKeeps s (match presenceMessage c s with
      | some o => finish k o true a.changed a.status a.key a.effect a.body s
      | none => s) := by
    split
    · rw [h]
      exact finish_endKeeps ..
    · exact ⟨rfl, rfl, rfl, rfl, rfl⟩
  unfold endPresence
  dsimp only
  split
  · exact ⟨⟨hmessage.tide, hmessage.str, hmessage.load, hmessage.unloading, hmessage.shutdown⟩, rfl⟩
  · exact ⟨⟨hmessage.tide, hmessage.str, hmessage.load, hmessage.unloading, hmessage.shutdown⟩, rfl⟩

theorem abandonPresence_keeps (status : Status) (s : State) :
    EndKeeps s (abandonPresence status s) ∧ (abandonPresence status s).pres.cmd = none := by
  unfold abandonPresence
  split
  next hnone => exact ⟨⟨rfl, rfl, rfl, rfl, rfl⟩, hnone⟩
  next c _ =>
    obtain ⟨hended, hcmd⟩ := endPresence_keeps c (keyOf c.request.mailbox.toNat s) (a := ⟨s, status, _, false, (0, 0), []⟩) rfl s
    obtain ⟨hdropped, hpres⟩ := dropPending_keeps (endPresence c (keyOf c.request.mailbox.toNat s) ⟨s, status, _, false, (0, 0), []⟩ s)
    exact ⟨hended.trans hdropped, (congrArg Presence.cmd hpres).trans hcmd⟩

theorem complete_endKeeps (codes : List Nat) (subject : Nat) (status : Status) (key : ObjKey) (effect : Nat × Nat) (body : Bytes)
    (s : State) : EndKeeps s (complete codes subject false status key effect body s) := by
  unfold complete
  split
  · exact ⟨rfl, rfl, rfl, rfl, rfl⟩
  · exact finish_endKeeps ..

theorem orphanLoad_none {s : State} (h : s.img.load = none) : orphanLoad s = s := by simp [orphanLoad, h]

/-- A staging that ends while no load is in progress. -/
theorem endStaging_keeps {s : State} (status : Status) (hload : s.img.load = none) :
    EndKeeps s (endStaging status s) ∧ (endStaging status s).pres = s.pres ∧ (endStaging status s).img.staging = none := by
  unfold endStaging
  split
  next hnone => exact ⟨⟨rfl, rfl, rfl, rfl, rfl⟩, rfl, hnone⟩
  next g _ =>
    extract_lets freed emptied ended
    have hfreed : EndKeeps s freed ∧ freed.pres = s.pres :=
      foldl_inv (fun u => EndKeeps s u ∧ u.pres = s.pres) _
        (fun u x hu => ⟨hu.1.trans ⟨by simp, by simp, by simp, by simp, by simp⟩, by simpa using hu.2⟩) _ _ ⟨⟨rfl, rfl, rfl, rfl, rfl⟩, rfl⟩
    have hended : EndKeeps s ended :=
      ⟨hfreed.1.tide, hfreed.1.str, hfreed.1.load, hfreed.1.unloading, hfreed.1.shutdown⟩
    have hcomplete := hended.trans (complete_endKeeps [0x0303] 0 status .image (0, 0) (bytesBE 64 g.digest.toNat) ended)
    rw [orphanLoad_none (hcomplete.load.trans hload)]
    exact ⟨hcomplete, by simpa using hfreed.2, by simp [ended, emptied]⟩

/-! ### The request -/

section Shutdown
variable {r : Request} {s : State}

/-- What MODULE_SHUTDOWN does to the state that it is taken in. -/
def shutdownAnswer (r : Request) (s : State) : Answer :=
  ⟨{ taken r s with mbox := { (taken r s).mbox with shutdown := .accepted }
                    tide := { s.tide with stopPending := s.tide.stopPending || s.tide.dp = .running } },
    Status.accepted, .module, true, (3, nextStep s), []⟩

theorem moduleShutdown_run (r : Request) (s : State) : opModuleShutdown.run r (taken r s) = shutdownAnswer r s := by
  have hnext : nextStep (taken r s) = nextStep s := nextStep_congr (taken_tide r s) (taken_img r s)
  simp [opModuleShutdown, shutdownAnswer, hnext]

theorem serve_moduleShutdown (h : Served opModuleShutdown r s) : serve opModuleShutdown r s = respond opModuleShutdown r (shutdownAnswer r s) := by
  rw [serve_served h, moduleShutdown_run]

/-- The module with the shutdown accepted. -/
theorem shutdown_keeps (h : Served opModuleShutdown r s) :
    (serve opModuleShutdown r s).tide = { s.tide with stopPending := s.tide.stopPending || s.tide.dp = .running } ∧
    (serve opModuleShutdown r s).img = s.img ∧ (serve opModuleShutdown r s).mbox.shutdown = .accepted ∧
    (serve opModuleShutdown r s).str = s.str ∧ (serve opModuleShutdown r s).cove = s.cove ∧
    (serve opModuleShutdown r s).pres = s.pres ∧ (serve opModuleShutdown r s).pow = s.pow ∧ SameConfig s (serve opModuleShutdown r s) := by
  have hrecords := respond_records (op := opModuleShutdown) (r := r) (a := shutdownAnswer r s) rfl
  rw [serve_moduleShutdown h]
  refine ⟨by simp [shutdownAnswer], by simp [shutdownAnswer], by simp [shutdownAnswer], ?_, ?_, by simp [shutdownAnswer],
    by simp [shutdownAnswer], by simp [SameConfig, shutdownAnswer]⟩
  · rw [hrecords.1]; simp [shutdownAnswer]
  · rw [hrecords.2]; simp [shutdownAnswer]

theorem exec_moduleShutdown (h : Served opModuleShutdown r s) : exec (.moduleShutdown r) s =
    .next (advanceService (endStaging Status.badState (abandonPresence Status.presenceTimeout (serve opModuleShutdown r s)))) := by
  have hgoes : s.mbox.shutdown = .no ∧ (serve opModuleShutdown r s).mbox.shutdown = .accepted := ⟨h.notShut rfl, (shutdown_keeps h).2.2.1⟩
  exact congrArg Host.Outcome.next (if_pos hgoes)

/-- While Running, the data plane is to stop at its step boundary. -/
theorem moduleShutdown_running (h : Served opModuleShutdown r s) (hload : s.img.load = none) (hunload : s.img.unloading = false)
    (hrun : s.tide.dp = .running) :
    ∃ t, exec (.moduleShutdown r) s = .next t ∧ t.mbox.shutdown = .accepted ∧ t.tide = { s.tide with stopPending := true } ∧
      t.pres.cmd = none ∧ t.img.staging = none ∧ t.str.live.length = s.str.live.length := by
  obtain ⟨htide, himg, hshut, hstr, -⟩ := shutdown_keeps h
  rw [exec_moduleShutdown h]
  generalize serve opModuleShutdown r s = w at *
  obtain ⟨hpresence, hcmd⟩ := abandonPresence_keeps Status.presenceTimeout w
  obtain ⟨hstaging, hpres, hnone⟩ := endStaging_keeps Status.badState (hpresence.load.trans (himg ▸ hload))
  have hends := hpresence.trans hstaging
  have hstop : (endStaging Status.badState (abandonPresence Status.presenceTimeout w)).tide = { s.tide with stopPending := true } := by
    rw [hends.tide, htide, hrun]
    simp
  have hwaits : advanceService (endStaging Status.badState (abandonPresence Status.presenceTimeout w)) =
      endStaging Status.badState (abandonPresence Status.presenceTimeout w) :=
    advanceService_waits (.inl (hends.unloading.trans (himg ▸ hunload))) (.inl (hends.load.trans (himg ▸ hload)))
      (.inr (by rw [hstop]; exact hrun))
  refine ⟨_, congrArg Host.Outcome.next hwaits, hends.shutdown.trans hshut, hstop, (congrArg Presence.cmd hpres).trans hcmd, hnone, ?_⟩
  rw [hends.str, hstr]

/-! ### The shutdown ends -/

/-- The module with steps 4 and 5 done: what is committed is durable, the image is gone, the comb-die domains are off. -/
def shutDown (s : State) : State :=
  let s := if s.flash.dirty then makeDurable s else s
  let s := combDomainsOff (dropImage s)
  { s with mbox := { s.mbox with shutdown := .complete } }

theorem shutDown_keeps (s : State) :
    (shutDown s).cfg = s.cfg ∧ (shutDown s).cove = s.cove ∧ (shutDown s).mbox.outstanding = s.mbox.outstanding ∧
    (shutDown s).mbox.cache = s.mbox.cache ∧ (shutDown s).mbox.shutdown = .complete ∧ (shutDown s).tide.dp = .idle ∧
    (shutDown s).img.image = none ∧ (shutDown s).flash.dirty = false := by
  unfold shutDown combDomainsOff
  cases hdirty : s.flash.dirty <;> simp [dropImage_clears, hdirty, makeDurable]

theorem shutDown_domain {s : State} {d : Nat} (hd : d < 192) (hlen : d < s.pow.domains.length)
    (hstate : (s.domain d).state = 0 ∨ (s.domain d).state = 4) : ((shutDown s).domain d).state = 3 := by
  have hpow : (shutDown s).pow = (combDomainsOff s).pow := by
    unfold shutDown combDomainsOff
    split <;> simp
  have hget : nth s.pow.domains d Domain.reset = s.pow.domains[d] := List.getD_eq_getElem _ _ hlen
  simp only [State.domain, hpow]
  simp only [State.domain, hget] at hstate
  have hoff : nth (combDomainsOff s).pow.domains d Domain.reset = { s.pow.domains[d] with state := 3 } := by
    rcases hstate with h | h <;> simp [combDomainsOff, nth, List.getD_eq_getElem?_getD, hlen, hd, h]
  rw [hoff]

theorem endShutdown_ends {w : State} (hlive : w.str.live = []) (hout : w.mbox.outstanding.all (·.opcode = 0x0106))
    (hdurable : w.flash.dirty = false ∨ configWriteAllowed w = true) :
    endShutdown w =
      let t := complete [0x0106] 0 true Status.ok .module (shutdownEffect (shutDown w)) (tideStatus (shutDown w)) (shutDown w)
      { t with pres := { t.pres with led := baseLed t } } := if_pos ⟨hlive, hout, hdurable⟩

/-- At rest, with nothing live or outstanding, the shutdown completes at once. -/
theorem moduleShutdown_completes (h : Served opModuleShutdown r s) (hload : s.img.load = none) (hunload : s.img.unloading = false)
    (hrest : s.tide.dp ≠ .running) (hlive : s.str.live = []) (hnone : s.mbox.outstanding = []) (hcmd : s.pres.cmd = none)
    (hstaging : s.img.staging = none) (hdurable : s.flash.dirty = false ∨ configWriteAllowed s = true) :
    ∃ t, exec (.moduleShutdown r) s = .next t ∧ t.mbox.shutdown = .complete ∧ t.tide.dp = .idle ∧ t.img.image = none ∧
      t.flash.dirty = false ∧ t.cfg = s.cfg ∧ t.cove.objects = s.cove.objects ∧ Ended r Status.ok s t ∧
      ∀ d, d < 192 → d < s.pow.domains.length → (s.domain d).state = 0 ∨ (s.domain d).state = 4 → (t.domain d).state = 3 := by
  obtain ⟨htide, himg, hshut, hstr, hcove, hpres, hpow, -, hcfg, -, hflash⟩ := shutdown_keeps h
  have hopen : OpenMessage (messageOf opModuleShutdown r (shutdownAnswer r s)) [] (serve opModuleShutdown r s) := by
    have hserved := respond_opens (op := opModuleShutdown) (r := r) (a := shutdownAnswer r s) rfl
    have hbefore : (shutdownAnswer r s).state.mbox.outstanding = [] := by simp [shutdownAnswer, hnone]
    rw [serve_moduleShutdown h]
    exact hbefore ▸ hserved
  rw [exec_moduleShutdown h]
  generalize serve opModuleShutdown r s = w at *
  have hlive' : w.str.live = [] := hstr ▸ hlive
  have habandon : abandonPresence Status.presenceTimeout w = w := by simp [abandonPresence, hpres, hcmd]
  have hended : endStaging Status.badState w = w := by simp [endStaging, himg, hstaging]
  have hservice : advanceService w = endShutdown w := by
    have hgoes : w.mbox.shutdown = .accepted ∧ w.tide.dp ≠ .running := ⟨hshut, by rw [htide]; exact hrest⟩
    rw [advanceService, advanceUnload_waits (.inl (himg ▸ hunload)), advanceLoad_waits (.inl (himg ▸ hload))]
    exact (if_pos hgoes).trans (congrArg endShutdown (parkAll_nil hlive' ..))
  have hallowed : w.flash.dirty = false ∨ configWriteAllowed w = true := by
    have hwrite : configWriteAllowed w = configWriteAllowed s := by simp only [configWriteAllowed, holdupAllows, hpow]
    rwa [hflash, hwrite]
  obtain ⟨kcfg, kcove, kout, kcache, kshut, kidle, kimage, kdirty⟩ := shutDown_keeps w
  have hends := (hopen.congr (v := shutDown w) ⟨kout, kcache⟩).complete_ends (codes := [0x0106]) (subject := 0) (key := .module) (by simp)
    ⟨List.mem_singleton.mpr rfl, rfl, rfl⟩ true Status.ok (shutdownEffect (shutDown w)) (tideStatus (shutDown w))
  have hrecords := complete_ofModule (key := .module) rfl [0x0106] 0 true Status.ok (shutdownEffect (shutDown w)) (tideStatus (shutDown w))
    (shutDown w)
  rw [habandon, hended, hservice, endShutdown_ends hlive' (by rw [hopen.outstanding]; rfl) hallowed]
  refine ⟨_, rfl, (complete_shutdown ..).trans kshut, by simp [kidle], by simp [kimage], by simp [kdirty], by simp [kcfg, hcfg],
    by rw [hrecords.2, kcove, hcove], ⟨hnone ▸ hends.1, hends.2⟩, fun d hd hlen hstate => ?_⟩
  have hdomain : w.domain d = s.domain d := by rw [State.domain, hpow]; rfl
  have hoff := shutDown_domain (s := w) hd (hpow ▸ hlen) (hdomain ▸ hstate)
  simpa [State.domain] using hoff

end Shutdown

end Sys2Proof.Machine

namespace Sys2Proof.Machine

/-! ## Requests that are accepted and change nothing themselves -/

/-- The answer of an opcode that only accepts. -/
def acceptance (r : Request) (s : State) (key : ObjKey) (changed : Bool) : Answer :=
  ⟨taken r s, Status.accepted, key, changed, (0, 0), []⟩

section Accepted
variable {op : Op} {r : Request} {s : State} {key : ObjKey} {changed : Bool}

/-- The module with the request accepted. -/
structure AcceptKeeps (s w : State) : Prop where
  img : w.img = s.img
  tide : w.tide = s.tide
  str : w.str = s.str
  cove : w.cove = s.cove
  pres : w.pres = s.pres
  pow : w.pow = s.pow
  plane : SameDataPlane s w
  config : SameConfig s w
  shutdown : w.mbox.shutdown = s.mbox.shutdown

theorem serve_accepted (h : Served op r s) (ha : op.run r (taken r s) = acceptance r s key changed) (hk : key.ofModule = true) :
    AcceptKeeps s (serve op r s) ∧ Answers op r Status.accepted (0, 0) (serve op r s) ∧
      unanswered (serve op r s) = unanswered (taken r s) ∧ leftOpen s (serve op r s) = true ∧
      OpenMessage (messageOf op r (acceptance r s key changed)) s.mbox.outstanding (serve op r s) := by
  have hrecords := respond_records (op := op) (r := r) (a := acceptance r s key changed) hk
  have hopen : OpenMessage (messageOf op r (acceptance r s key changed)) s.mbox.outstanding (respond op r (acceptance r s key changed)) := by
    have hbefore : (acceptance r s key changed).state.mbox.outstanding = s.mbox.outstanding := by simp [acceptance]
    exact hbefore ▸ respond_opens rfl
  rw [serve_served h, ha]
  refine ⟨⟨by simp [acceptance], by simp [acceptance], ?_, ?_, by simp [acceptance], by simp [acceptance], by simp [SameDataPlane, acceptance],
    by simp [SameConfig, acceptance], by simp [acceptance]⟩, answers_respond .., unanswered_respond .., ?_, hopen⟩
  · rw [hrecords.1]; simp [acceptance]
  · rw [hrecords.2]; simp [acceptance]
  · simp [leftOpen, hopen.outstanding]

end Accepted

/-! ## IMAGE_LOAD (R202, R203, R245 to R247) -/

theorem imageObject_congr {s w : State} (hcove : w.cove = s.cove) (d : Digest) : imageObject d w = imageObject d s := by
  rw [imageObject, hcove, imageObject]

theorem writesThrough_congr {s w : State} (hcove : w.cove = s.cove) (i : Image) : writesThrough i w = writesThrough i s := by
  rw [writesThrough, imageObject_congr hcove, writesThrough]

theorem startStack_congr {s w : State} (hcove : w.cove = s.cove) (n : Nat) : startStack n w = startStack n s := by
  have hfree (j : Nat) : freeExtents j w = freeExtents j s := by rw [freeExtents, hcove, freeExtents]
  simp only [startStack, hfree]

theorem newLoad_congr {s w : State} (hcove : w.cove = s.cove) (himg : w.img = s.img) (x : Option Image) (r : Request) :
    newLoad x r w = newLoad x r s := by
  simp only [newLoad, imageObject_congr hcove, writesThrough_congr hcove, startStack_congr hcove, himg]

theorem holdSource_keeps (l : Load) (s : State) :
    (holdSource l s).img.load = some l ∧ (holdSource l s).img.unloading = s.img.unloading ∧ (holdSource l s).str = s.str ∧
    (holdSource l s).mbox = s.mbox := by
  unfold holdSource
  extract_lets reserved held staging
  have hreserved : reserved.img = s.img ∧ reserved.str = s.str ∧ reserved.mbox = s.mbox := by
    unfold reserved
    split <;> simp
  have hheld : held.img = s.img ∧ held.str = s.str ∧ held.mbox = s.mbox := by
    unfold held
    split
    · exact hreserved
    · split
      · simpa using hreserved
      · exact hreserved
  exact ⟨rfl, (congrArg Img.unloading hheld.1 : held.img.unloading = _), hheld.2.1, hheld.2.2⟩

/-- A load as its source is held and, for a network load, pulled. -/
def loadBegun (l : Load) (w : State) : State := if l.network then startPull (holdSource l w) else holdSource l w

theorem loadBegun_keeps (l : Load) (s : State) :
    (loadBegun l s).img.load = some l ∧ (loadBegun l s).img.unloading = s.img.unloading ∧ (loadBegun l s).str = s.str ∧
    (loadBegun l s).mbox = s.mbox := by
  unfold loadBegun
  split
  · simpa using holdSource_keeps l s
  · exact holdSource_keeps l s

theorem beginLoad_none {x : Option Image} {r : Request} {w : State} (h : newLoad x r w = none) :
    beginLoad x r w = complete [0x0302] 0 false Status.storageError .image (0, 0) (loadReport w) w := by
  simp only [beginLoad, h]

/-- The digest that a load names. -/
def namedDigest (r : Request) : Option Digest := if loadDigest r = 0 then none else some (loadDigest r)

theorem beginLoad_some {x : Option Image} {r : Request} {w : State} {l : Load} (h : newLoad x r w = some l) :
    beginLoad x r w = if l.waiting then holdSource l w else loaderChecks (namedDigest r) (loadBegun l w) := by
  simp only [beginLoad, h]
  rfl

section Loader
variable {d : Option Digest} {s : State} {l : Load} (hl : s.img.load = some l)
include hl

theorem loaderChecks_fails (h : checkImage l.image d s ≠ []) : loaderChecks d s = rejectLoad (checkImage l.image d s) s := by
  simp only [loaderChecks, hl, if_pos h]

variable (hchecked : checkImage l.image d s = [])
include hchecked

theorem loaderChecks_unplaced {fs : List Failure} (h : placeImage l.image s = .inr fs) : loaderChecks d s = rejectLoad fs s := by
  simp only [loaderChecks, hl, hchecked, ne_eq, not_true, if_false, h]

theorem loaderChecks_maps {p : List Nat × List (BitVec 8)} (h : placeImage l.image s = .inl p) :
    loaderChecks d s = advanceService { s with img := { s.img with load := some { l with place := p.1, parents := p.2 } } } := by
  simp only [loaderChecks, hl, hchecked, ne_eq, not_true, if_false, h]

end Loader

theorem exec_imageLoad {r : Request} {x : Option Image} {s : State} (h : leftOpen s (serve (opImageLoad x) r s) = true) :
    exec (.imageLoad r x) s = .next (beginLoad x r (serve (opImageLoad x) r s)) := congrArg Host.Outcome.next (if_pos h)

/-! ## COVE_STAGE (R246, R247) -/

theorem createObject_isSome {data : CoveData} {holder : BitVec 16} {bytes : Nat} {digest address : Digest} {s : State}
    (h : roomFor bytes s = true) : ∃ o, createObject data holder bytes digest address s = some o := by
  obtain ⟨a, ha⟩ := Option.isSome_iff_exists.mp h
  simp [createObject, ha]

/-- A write that starts changes no object but in its writes. -/
theorem startWrite_objects (j : Nat) (s : State) :
    ∀ x ∈ s.cove.objects, ∃ y ∈ (startWrite j s).cove.objects, ∃ ws, y = { x with writes := ws } := by
  intro x hx
  unfold startWrite
  split
  · exact ⟨x, hx, x.writes, rfl⟩
  · split
    · exact ⟨x, hx, x.writes, rfl⟩
    · split
      · refine ⟨_, List.mem_map_of_mem hx, ?_⟩
        dsimp only
        split
        · exact ⟨_, rfl⟩
        · exact ⟨x.writes, rfl⟩
      · exact ⟨x, hx, x.writes, rfl⟩

theorem startWrites_objects (s : State) : ∀ x ∈ s.cove.objects, ∃ y ∈ (startWrites s).cove.objects, ∃ ws, y = { x with writes := ws } := by
  unfold startWrites
  generalize List.range 8 = js
  induction js generalizing s with
  | nil => exact fun x hx => ⟨x, hx, x.writes, rfl⟩
  | cons j js ih =>
    intro x hx
    obtain ⟨y, hy, ws, rfl⟩ := startWrite_objects j s x hx
    obtain ⟨z, hz, vs, rfl⟩ := ih (startWrite j s) _ hy
    exact ⟨_, hz, vs, rfl⟩

/-- An object as its creation puts it into the cove. -/
def newObject (data : CoveData) (holder : BitVec 16) (bytes : Nat) (digest address : Digest) (a : Nat) (s : State) : CoveObject :=
  { id := (drawId s).1, data := data, holder := holder, startStack := a, extents := extentsOf bytes, bytes := bytes, expiresAt := 0,
    digest := digest, contentAddress := address, keyAlive := true, committed := false, cancelled := false,
    damaged := false, readers := 0, serial := 0,
    writes := (List.range (extentsOf bytes)).map fun k => ⟨k, (a + k) % 8, false, false⟩, lastChange := Change.zero, dated := 0 }

/-- The cove with a new object in its extents, before any of its writes starts. -/
def objectAdded (data : CoveData) (holder : BitVec 16) (bytes : Nat) (digest address : Digest) (a : Nat) (s : State) : State :=
  let t := journal (moveExtents false a (extentsOf bytes) (drawId s).2)
  { t with cove := { t.cove with objects := t.cove.objects ++ [newObject data holder bytes digest address a s] } }

theorem createObject_eq {data : CoveData} {holder : BitVec 16} {bytes : Nat} {digest address : Digest} {s : State} {a : Nat}
    (h : startStack (extentsOf bytes) s = some a) : createObject data holder bytes digest address s =
      some ((drawId s).1, startWrites (objectAdded data holder bytes digest address a s)) := by
  rw [createObject, h]
  rfl

/-- The object that a creation puts into the cove. -/
theorem createObject_object {data : CoveData} {holder : BitVec 16} {bytes : Nat} {digest address : Digest} {s : State}
    {o : BitVec 128 × State} (h : createObject data holder bytes digest address s = some o) :
    ∃ y ∈ o.2.cove.objects, y.id = o.1 ∧ y.data = data ∧ y.digest = digest ∧ y.committed = false := by
  cases ha : startStack (extentsOf bytes) s with
  | none => simp [createObject, ha] at h
  | some a =>
    have hnew : newObject data holder bytes digest address a s ∈ (objectAdded data holder bytes digest address a s).cove.objects :=
      List.mem_append_right _ (List.mem_singleton_self _)
    obtain ⟨y, hy, ws, hyx⟩ := startWrites_objects _ _ hnew
    rw [createObject_eq ha] at h
    obtain rfl := Option.some.inj h
    dsimp only
    exact ⟨y, hy, by rw [hyx]; rfl, by rw [hyx]; rfl, by rw [hyx]; rfl, by rw [hyx]; rfl⟩

theorem startPull_objects (s : State) : (startPull s).cove.objects = s.cove.objects := by
  unfold startPull
  refine (foldl_keeps (fun s : State => s.cove.objects) _ (fun s n => ?_) _ _).trans rfl
  dsimp only
  split
  · simp
  · rfl

/-- A stage whose image the network returns, and that writes it, has room for it. -/
theorem stage_room {x : Option Image} {r : Request} {s : State} {i : Image} (h : Served (opCoveStage x) r s)
    (hnone : imageObject (stageDigest r) s = none) (hx : pulled x = some i) (hwrites : writesThrough i s = true) :
    roomFor (imageBytes i) s = true := by
  have hpassed := of_need (x := Status.coveFull) (by decide)
    (ok_of_firstBad h.passed _ (List.mem_cons_of_mem _ (List.mem_cons_of_mem _ (List.mem_singleton_self _))))
  have hcove := taken_cove r s
  simpa [imageObject_congr hcove, hnone, hx, writesThrough_congr hcove, hwrites, roomFor, startStack_congr hcove] using hpassed

theorem exec_coveStage {r : Request} {x : Option Image} {s : State} (h : leftOpen s (serve (opCoveStage x) r s) = true) :
    exec (.coveStage r x) s = .next (beginStage x r (serve (opCoveStage x) r s)) := congrArg Host.Outcome.next (if_pos h)

section Stage
variable {x : Option Image} {r : Request} {w : State}

/-- A staging that ends as soon as it has begun. -/
def stageDone (status : Status) (d : Digest) (w : State) : State :=
  complete [0x0303] 0 false status .image (0, 0) (bytesBE 64 d.toNat) w

theorem beginStage_held (h : (imageObject (stageDigest r) w).isSome = true) : beginStage x r w = stageDone Status.ok (stageDigest r) w := by
  simp only [beginStage, if_pos h]
  rfl

variable (hnone : imageObject (stageDigest r) w = none)
include hnone

theorem beginStage_unreturned (h : pulled x = none) : beginStage x r w = stageDone Status.storageError (stageDigest r) w := by
  simp only [beginStage, hnone, h]
  rfl

variable {i : Image} (hx : pulled x = some i)
include hx

theorem beginStage_other (hd : stageDigest r ≠ 0) (hi : stageDigest r ≠ i.digestField) :
    beginStage x r w = rejectStage i.digestField 0x0104 w := by
  simp only [beginStage, hnone, hx, if_pos (And.intro hd hi)]
  rfl

variable (hd : stageDigest r = 0 ∨ stageDigest r = i.digestField)
include hd

theorem beginStage_present (h : writesThrough i w = false) : beginStage x r w = stageDone Status.ok i.digestField w := by
  have hmatch : ¬(stageDigest r ≠ 0 ∧ stageDigest r ≠ i.digestField) := by tauto
  simp only [beginStage, hnone, hx, if_neg hmatch, if_pos h]
  rfl

theorem beginStage_writes (h : writesThrough i w = true) {o : BitVec 128 × State}
    (ho : createObject (.image i) 0 (imageBytes i) i.digestField 0
      { w with img := { w.img with staging := some ⟨i, i.digestField, stageTtl r, false⟩ } } = some o) :
    beginStage x r w = startPull o.2 := by
  have hmatch : ¬(stageDigest r ≠ 0 ∧ stageDigest r ≠ i.digestField) := by tauto
  have hwrites : ¬writesThrough i w = false := by simp [h]
  simp only [beginStage, hnone, hx, if_neg hmatch, if_neg hwrites, ho]
  rfl

end Stage

end Sys2Proof.Machine

namespace Sys2Proof.Machine

/-! ## The port configuration (R330) -/

/-- What is sent leaves the port's addresses and its pending configuration. -/
theorem send_port (x : Sent) (s : State) :
    (send x s).eth.addressFlags = s.eth.addressFlags ∧ (send x s).eth.portWrite = s.eth.portWrite ∧
    (send x s).eth.revert = s.eth.revert := by
  unfold send
  (repeat' split) <;> exact ⟨rfl, rfl, rfl⟩

theorem raiseNotice_port (code : Nat) (severity : Option Nat) (kind subject related detail : Nat) (s : State) :
    (raiseNotice code severity kind subject related detail s).eth.portWrite = s.eth.portWrite ∧
    (raiseNotice code severity kind subject related detail s).eth.revert = s.eth.revert := by
  cases severity with
  | none =>
    unfold raiseNotice draw
    dsimp only
    split
    · exact (send_port ..).2
    · exact ⟨rfl, rfl⟩
  | some v =>
    unfold raiseNotice
    dsimp only
    split
    · exact (send_port ..).2
    · exact ⟨rfl, rfl⟩

theorem finish_port (k : Option Key) (o : Outstanding) (changes changedNow : Bool) (status : Status) (key : ObjKey)
    (effect : Nat × Nat) (body : Bytes) (s : State) :
    (finish k o changes changedNow status key effect body s).eth.addressFlags = s.eth.addressFlags ∧
    (finish k o changes changedNow status key effect body s).eth.portWrite = s.eth.portWrite ∧
    (finish k o changes changedNow status key effect body s).eth.revert = s.eth.revert := by
  unfold finish
  cases changedNow <;> simp [send_port]

/-- What an operation on the port leaves besides the port, the mailboxes and its output. -/
structure PortOnly (s t : State) : Prop where
  ident : t.ident = s.ident
  cfg : t.cfg = s.cfg
  live : t.live = s.live
  flash : t.flash = s.flash
  mbox : t.mbox = s.mbox
  pres : t.pres = s.pres
  plane : SameDataPlane s t

theorem PortOnly.trans {s t u : State} (h : PortOnly s t) (k : PortOnly t u) : PortOnly s u := by
  obtain ⟨h1, h2, h3, h4, h5⟩ := h.plane
  obtain ⟨k1, k2, k3, k4, k5⟩ := k.plane
  exact ⟨k.ident.trans h.ident, k.cfg.trans h.cfg, k.live.trans h.live, k.flash.trans h.flash, k.mbox.trans h.mbox, k.pres.trans h.pres,
    k1.trans h1, k2.trans h2, k3.trans h3, k4.trans h4, k5.trans h5⟩

/-- Frames sent one after another. -/
structure Probes (s t : State) : Prop where
  only : PortOnly s t
  addressFlags : t.eth.addressFlags = s.eth.addressFlags
  portWrite : t.eth.portWrite = s.eth.portWrite
  revert : t.eth.revert = s.eth.revert

theorem Probes.refl (s : State) : Probes s s := ⟨⟨rfl, rfl, rfl, rfl, rfl, rfl, rfl, rfl, rfl, rfl, rfl⟩, rfl, rfl, rfl⟩

theorem Probes.sends {s t : State} (h : Probes s t) (x : Sent) : Probes s (send x t) := by
  obtain ⟨hflags, hwrite, hrevert⟩ := send_port x t
  exact ⟨h.only.trans ⟨by simp, by simp, by simp, by simp, by simp, by simp, by simp [SameDataPlane]⟩, hflags.trans h.addressFlags,
    hwrite.trans h.portWrite, hrevert.trans h.revert⟩

theorem Probes.ite {s t u : State} {c : Prop} [Decidable c] (h : Probes s t) (k : Probes s u) : Probes s (if c then t else u) := by
  split
  · exact h
  · exact k

theorem probeAddresses_probes (s : State) : Probes { s with eth := { s.eth with addressFlags := 0 } } (probeAddresses s) := by
  have h := (Probes.refl { s with eth := { s.eth with addressFlags := 0 } }).sends (.neighbourProbe 6 (linkLocalAddress s.ident.macAddress))
  have h' := (h.sends (.neighbourProbe 6 (BitVec.ofNat 128 (bits s.live.w11 511 384)))).ite (c := bits s.live.w11 383 376 ≠ 0) h
  exact (h'.sends (.neighbourProbe 4 (BitVec.ofNat 128 (bits s.live.w11 247 216)))).ite (c := bits s.live.w11 215 210 ≠ 0) h'

/-- Where nothing waits for presence, what is committed is what the selected copy then holds. -/
theorem makeDurable_selected {s : State} (h : s.pres.cmd = none) :
    ∃ c, selectedCopy (makeDurable s) = some c ∧ c.content = s.cfg ∧ c.pending = false := by
  have hwrite : writeCommitted s = writeConfig false 0 s.cfg none s := by simp [writeCommitted, h]
  unfold makeDurable
  rw [hwrite]
  unfold writeConfig selectedCopy
  dsimp only
  split
  · exact ⟨_, rfl, rfl, rfl⟩
  · exact ⟨_, rfl, rfl, rfl⟩

/-- The module with word 11 written, before it is durable. -/
def wordWritten (x : BitVec 512) (s : State) : State :=
  { s with cfg := { s.cfg with words := { s.cfg.words with w11 := x } }, live := { s.live with w11 := x } }

/-- A port configuration in force and durable. -/
structure PortInForce (x : BitVec 512) (s t : State) : Prop where
  cfg : t.cfg = { s.cfg with words := { s.cfg.words with w11 := x } }
  live : t.live = { s.live with w11 := x }
  durable : t.flash.dirty = false
  copy : s.pres.cmd = none → ∃ c, selectedCopy t = some c ∧ c.content = t.cfg ∧ c.pending = false
  plane : SameDataPlane s t

theorem PortInForce.congr {x : BitVec 512} {s t u : State} (h : PortInForce x s t) (hcfg : u.cfg = t.cfg) (hlive : u.live = t.live)
    (hflash : u.flash = t.flash) (hplane : SameDataPlane t u) : PortInForce x s u := by
  obtain ⟨h1, h2, h3, h4, h5⟩ := h.plane
  obtain ⟨k1, k2, k3, k4, k5⟩ := hplane
  refine ⟨hcfg.trans h.cfg, hlive.trans h.live, hflash ▸ h.durable, fun hcmd => ?_, k1.trans h1, k2.trans h2, k3.trans h3, k4.trans h4,
    k5.trans h5⟩
  rw [selectedCopy, hflash, hcfg]
  exact h.copy hcmd

theorem setPort_inForce (x : BitVec 512) (s : State) :
    PortInForce x s (setPort x s) ∧ (setPort x s).mbox = s.mbox ∧ (setPort x s).eth.addressFlags = 0 ∧
      (setPort x s).eth.portWrite = s.eth.portWrite := by
  have h : Probes { makeDurable (wordWritten x s) with eth := { (makeDurable (wordWritten x s)).eth with addressFlags := 0 } } (setPort x s) :=
    probeAddresses_probes (makeDurable (wordWritten x s))
  have hdurable : PortInForce x s (makeDurable (wordWritten x s)) :=
    ⟨by simp [wordWritten], by simp [wordWritten], rfl, fun hcmd => by
      obtain ⟨c, hc, hcontent, hpending⟩ := makeDurable_selected (s := wordWritten x s) hcmd
      exact ⟨c, hc, by simpa using hcontent, hpending⟩, by simp [SameDataPlane, wordWritten]⟩
  refine ⟨hdurable.congr h.only.cfg h.only.live h.only.flash h.only.plane, h.only.mbox.trans ?_, h.addressFlags, h.portWrite.trans ?_⟩
  · change (makeDurable (wordWritten x s)).mbox = s.mbox
    simp [wordWritten]
  · change (makeDurable (wordWritten x s)).eth.portWrite = s.eth.portWrite
    simp [wordWritten]

/-- A configuration that is in force in place of another's is so in place of one that agrees with it. -/
theorem PortInForce.before {x : BitVec 512} {r s t : State} (h : PortInForce x s t) (hconfig : SameConfig r s) (hpres : s.pres = r.pres)
    (hplane : SameDataPlane r s) : PortInForce x r t := by
  obtain ⟨h1, h2, h3, h4, h5⟩ := h.plane
  obtain ⟨k1, k2, k3, k4, k5⟩ := hplane
  obtain ⟨-, hcfg, hlive, -⟩ := hconfig
  exact ⟨hcfg ▸ h.cfg, hlive ▸ h.live, h.durable, hpres ▸ h.copy, h1.trans k1, h2.trans k2, h3.trans k3, h4.trans k4, h5.trans k5⟩

theorem applyPort_defers {s : State} {x : BitVec 512} (hx : s.eth.portWrite = some x) (h : configWriteAllowed s = false) :
    applyPort s = { s with cove := { s.cove with deferred := true } } := by
  simp [applyPort, hx, h]

/-- The waiting port configuration put in force. -/
def portSet (x : BitVec 512) (s : State) : State := setPort x { s with eth := { s.eth with portWrite := none } }

theorem portSet_inForce (x : BitVec 512) (s : State) :
    PortInForce x s (portSet x s) ∧ (portSet x s).mbox = s.mbox ∧ (portSet x s).eth.addressFlags = 0 ∧ (portSet x s).eth.portWrite = none := by
  obtain ⟨hforce, hmbox, hflags, hwrite⟩ := setPort_inForce x { s with eth := { s.eth with portWrite := none } }
  exact ⟨⟨hforce.cfg, hforce.live, hforce.durable, hforce.copy, hforce.plane⟩, hmbox, hflags, hwrite⟩

/-- Without a message to complete, the write takes a configuration back. -/
theorem applyPort_reverts {s : State} {x : BitVec 512} (hx : s.eth.portWrite = some x) (h : configWriteAllowed s = true)
    (hnone : ∀ o ∈ s.mbox.outstanding, o.opcode ≠ 0x0605) :
    applyPort s = raiseNotice 0x0003 none 9 0 0 0 { portSet x s with eth := { (portSet x s).eth with revert := none } } := by
  have hfind : (portSet x s).mbox.outstanding.find? (fun o => o.opcode = 0x0605) = none := by
    rw [(portSet_inForce x s).2.1]
    simpa using hnone
  simp only [applyPort, hx, if_pos h]
  rw [portSet] at hfind
  rw [hfind]
  rfl

/-- A message whose response goes to the new address. -/
def readdressed (old new : BitVec 512) (o : Outstanding) : Outstanding := { o with dst := newAddress old new o.dst }

/-- The port configuration in force, its reversion armed, and the message that set it moved to the new address. -/
def portArmed (old new : BitVec 512) (o : Outstanding) (s : State) : State :=
  { s with eth := { s.eth with revert := some old }
           mbox := { s.mbox with outstanding := s.mbox.outstanding.map fun x => if x = o then readdressed old new x else x } }

theorem applyPort_completes {s : State} {x : BitVec 512} {o : Outstanding} {others : List Outstanding} (hx : s.eth.portWrite = some x)
    (h : configWriteAllowed s = true) (hopen : OpenMessage o others s) (ho : o.opcode = 0x0605) (hnone : ∀ o ∈ others, o.opcode ≠ 0x0605) :
    let t := portArmed s.live.w11 x o (portSet x s)
    applyPort s = finish (keyOf 0 t) (readdressed s.live.w11 x o) true true Status.ok (.word 11) (0, 0) (wordBytes 11 0 t.cfg.words) t := by
  have hfind : (portSet x s).mbox.outstanding.find? (fun o => o.opcode = 0x0605) = some o := by
    have hothers : others.find? (fun o => decide (o.opcode = 0x0605)) = none := by simpa using hnone
    rw [(portSet_inForce x s).2.1, hopen.outstanding, List.find?_append, hothers]
    simp [ho]
  simp only [applyPort, hx, if_pos h]
  rw [portSet] at hfind
  rw [hfind]
  simp only [if_true]
  rfl

theorem portArmed_opens {s : State} {old x : BitVec 512} {o : Outstanding} {others : List Outstanding}
    (hopen : OpenMessage o others s) (hnew : o ∉ others) : OpenMessage (readdressed old x o) others (portArmed old x o (portSet x s)) := by
  obtain ⟨-, hmbox, -⟩ := portSet_inForce x s
  refine ⟨?_, ?_⟩
  · have hkeep : others.map (fun x' => if x' = o then readdressed old x x' else x') = others := by
      have hother : ∀ y ∈ others, (if y = o then readdressed old x y else y) = id y :=
        fun y hy => if_neg (ne_of_mem_of_not_mem hy hnew)
      exact (List.map_congr_left hother).trans (List.map_id _)
    rw [portArmed, hmbox]
    dsimp only
    rw [hopen.outstanding, List.map_append, hkeep]
    simp
  · rw [portArmed, hmbox]
    exact hopen.cached

/-- A port configuration that may be written is in force at once, its reversion is armed, and its message ends. -/
theorem applyPort_sets {s : State} {x : BitVec 512} {o : Outstanding} {others : List Outstanding} (hx : s.eth.portWrite = some x)
    (h : configWriteAllowed s = true) (hopen : OpenMessage o others s) (ho : o.opcode = 0x0605) (hnone : ∀ o ∈ others, o.opcode ≠ 0x0605) :
    PortInForce x s (applyPort s) ∧ (applyPort s).eth.revert = some s.live.w11 ∧ (applyPort s).eth.portWrite = none ∧
      (applyPort s).eth.addressFlags = 0 ∧ (applyPort s).mbox.outstanding = others ∧
      ∃ e ∈ (applyPort s).mbox.cache, e.mailbox = o.mailbox ∧ e.sequence = o.sequence ∧ e.status = Status.ok := by
  obtain ⟨hforce, -, hflags, hwrite⟩ := portSet_inForce x s
  have hnew : o ∉ others := fun hmem => hnone o hmem ho
  have hends := (portArmed_opens (old := s.live.w11) (x := x) hopen hnew).finish_ends (fun hmem => hnone _ hmem ho)
  rw [applyPort_completes hx h hopen ho hnone]
  obtain ⟨kflags, kwrite, krevert⟩ := finish_port (keyOf 0 (portArmed s.live.w11 x o (portSet x s))) (readdressed s.live.w11 x o) true true
    Status.ok (.word 11) (0, 0) (wordBytes 11 0 (portArmed s.live.w11 x o (portSet x s)).cfg.words) (portArmed s.live.w11 x o (portSet x s))
  refine ⟨hforce.congr ?_ ?_ ?_ ?_, krevert, kwrite.trans hwrite, kflags.trans hflags, hends ..⟩
  · simp [portArmed]
  · simp [portArmed]
  · simp [portArmed]
  · simp [SameDataPlane, portArmed]

/-! ### The request and the reversion -/

theorem portConfigSet_run (r : Request) (s : State) : opPortConfigSet.run r (taken r s) = acceptance r s (.word 11) false := rfl

/-- The port configuration that a request asks for. -/
def requestedPort (r : Request) (old : BitVec 512) : BitVec 512 :=
  BitVec.ofNat 512 (mergeFields (selected (field r.payload 4 4) (wordFields 11)) old.toNat (wordValue r.payload))

/-- The module with a port configuration waiting to be written. -/
def portAsked (x : BitVec 512) (s : State) : State := { s with eth := { s.eth with portWrite := some x } }

theorem beginPortConfig_eq (r : Request) (w : State) : beginPortConfig r w = applyPort (portAsked (requestedPort r w.live.w11) w) := rfl

theorem exec_portConfigSet {r : Request} {s : State} (h : leftOpen s (serve opPortConfigSet r s) = true) :
    exec (.portConfigSet r) s = .next (beginPortConfig r (serve opPortConfigSet r s)) := congrArg Host.Outcome.next (if_pos h)

theorem configWriteAllowed_congr {s w : State} (h : w.pow = s.pow) : configWriteAllowed w = configWriteAllowed s := by
  simp only [configWriteAllowed, holdupAllows, h]

theorem portConfigSet_completes {r : Request} {s : State} (h : Served opPortConfigSet r s) (hallowed : configWriteAllowed s = true)
    (hnone : ∀ o ∈ s.mbox.outstanding, o.opcode ≠ 0x0605) :
    ∃ t, exec (.portConfigSet r) s = .next t ∧ PortInForce (requestedPort r s.live.w11) s t ∧ t.eth.revert = some s.live.w11 ∧
      t.eth.portWrite = none ∧ t.eth.addressFlags = 0 ∧ Ended r Status.ok s t := by
  obtain ⟨hkeeps, -, -, hleft, hopen⟩ := serve_accepted h (portConfigSet_run r s) rfl
  rw [exec_portConfigSet hleft]
  generalize serve opPortConfigSet r s = w at *
  obtain ⟨-, -, hlive, -⟩ := hkeeps.config
  have hbegin : beginPortConfig r w = applyPort (portAsked (requestedPort r s.live.w11) w) := by
    rw [beginPortConfig_eq, hlive]
  have hallowed' : configWriteAllowed (portAsked (requestedPort r s.live.w11) w) = true := by
    rw [← hallowed]
    exact configWriteAllowed_congr hkeeps.pow
  obtain ⟨hforce, hrevert, hwrite, hflags, hends⟩ := applyPort_sets (s := portAsked (requestedPort r s.live.w11) w) rfl hallowed'
    (hopen.congr ⟨rfl, rfl⟩) rfl hnone
  refine ⟨_, congrArg Host.Outcome.next hbegin, hforce.before hkeeps.config hkeeps.pres hkeeps.plane, ?_, hwrite, hflags, hends⟩
  rw [hrevert, ← hlive, portAsked]

theorem portConfigSet_defers {r : Request} {s : State} (h : Served opPortConfigSet r s) (hdenied : configWriteAllowed s = false) :
    exec (.portConfigSet r) s = .next { serve opPortConfigSet r s with
      eth := { (serve opPortConfigSet r s).eth with portWrite := some (requestedPort r s.live.w11) }
      cove := { (serve opPortConfigSet r s).cove with deferred := true } } := by
  obtain ⟨hkeeps, -, -, hleft, -⟩ := serve_accepted h (portConfigSet_run r s) rfl
  rw [exec_portConfigSet hleft]
  generalize serve opPortConfigSet r s = w at *
  obtain ⟨-, -, hlive, -⟩ := hkeeps.config
  have hbegin : beginPortConfig r w = applyPort (portAsked (requestedPort r s.live.w11) w) := by
    rw [beginPortConfig_eq, hlive]
  have hdenied' : configWriteAllowed (portAsked (requestedPort r s.live.w11) w) = false := by
    rw [← hdenied]
    exact configWriteAllowed_congr hkeeps.pow
  exact congrArg Host.Outcome.next (hbegin.trans (applyPort_defers rfl hdenied'))

theorem exec_portConfigRevert {s : State} {old : BitVec 512} (ha : s.awake = true) (hold : s.eth.revert = some old)
    (hwrite : s.eth.portWrite = none) : exec .portConfigRevert s = .next (applyPort (portAsked old s)) := by
  change execPortConfigRevert s = _
  unfold execPortConfigRevert
  rw [hold]
  dsimp only
  rw [if_pos ⟨ha, hwrite⟩]
  rfl

/-- The reversion brings the old values back, and is over. -/
theorem portConfigRevert_reverts {s : State} {old : BitVec 512} (hallowed : configWriteAllowed s = true)
    (hnone : ∀ o ∈ s.mbox.outstanding, o.opcode ≠ 0x0605) :
    PortInForce old s (applyPort (portAsked old s)) ∧ (applyPort (portAsked old s)).eth.revert = none ∧
      (applyPort (portAsked old s)).eth.portWrite = none := by
  have hallowed' : configWriteAllowed (portAsked old s) = true := hallowed
  obtain ⟨hforce, -, -, hwrite⟩ := portSet_inForce old (portAsked old s)
  rw [applyPort_reverts rfl hallowed' hnone]
  obtain ⟨kwrite, krevert⟩ := raiseNotice_port 0x0003 none 9 0 0 0
    { portSet old (portAsked old s) with eth := { (portSet old (portAsked old s)).eth with revert := none } }
  refine ⟨(hforce.congr ?_ ?_ ?_ ?_).before ⟨rfl, rfl, rfl, rfl⟩ rfl ⟨rfl, rfl, rfl, rfl, rfl⟩, krevert, kwrite.trans hwrite⟩
  · simp
  · simp
  · simp
  · simp [SameDataPlane]

end Sys2Proof.Machine

namespace Sys2Proof.Machine

/-! ## What the accepted operations begin -/

section ImageLoad
variable {r : Request} {x : Option Image} {s : State} (h : Served (opImageLoad x) r s)
include h

theorem imageLoad_accepted :
    AcceptKeeps s (serve (opImageLoad x) r s) ∧ Answers (opImageLoad x) r Status.accepted (0, 0) (serve (opImageLoad x) r s) ∧
      unanswered (serve (opImageLoad x) r s) = unanswered (taken r s) ∧
      exec (.imageLoad r x) s = .next (beginLoad x r (serve (opImageLoad x) r s)) := by
  obtain ⟨hkeeps, hanswer, hrest, hleft, -⟩ := serve_accepted (key := .image) (changed := false) h rfl rfl
  exact ⟨hkeeps, hanswer, hrest, exec_imageLoad hleft⟩

theorem imageLoad_unreturned (hnone : newLoad x r s = none) : exec (.imageLoad r x) s =
    .next (complete [0x0302] 0 false Status.storageError .image (0, 0) (loadReport (serve (opImageLoad x) r s)) (serve (opImageLoad x) r s)) := by
  obtain ⟨hkeeps, -, -, hexec⟩ := imageLoad_accepted h
  rw [hexec, beginLoad_none ((newLoad_congr hkeeps.cove hkeeps.img x r).trans hnone)]

theorem imageLoad_begins {l : Load} (hl : newLoad x r s = some l) : exec (.imageLoad r x) s =
    .next (if l.waiting then holdSource l (serve (opImageLoad x) r s) else
      loaderChecks (namedDigest r) (loadBegun l (serve (opImageLoad x) r s))) := by
  obtain ⟨hkeeps, -, -, hexec⟩ := imageLoad_accepted h
  rw [hexec, beginLoad_some ((newLoad_congr hkeeps.cove hkeeps.img x r).trans hl)]

/-- A load that its checks pass and that has its places stands with its mapping, where no stream is to be parked for it. -/
theorem imageLoad_maps {l : Load} {p : List Nat × List (BitVec 8)} (hl : newLoad x r s = some l) (hwait : l.waiting = false)
    (hchecked : checkImage l.image (namedDigest r) (loadBegun l (serve (opImageLoad x) r s)) = [])
    (hplace : placeImage l.image (loadBegun l (serve (opImageLoad x) r s)) = .inl p) (hlive : s.str.live = [])
    (hunload : s.img.unloading = false) :
    let v := loadBegun l (serve (opImageLoad x) r s)
    exec (.imageLoad r x) s = .next { v with img := { v.img with load := some { l with place := p.1, parents := p.2 } } } := by
  obtain ⟨hkeeps, -, -, -⟩ := imageLoad_accepted h
  obtain ⟨hload, kunload, kstr, kmbox⟩ := loadBegun_keeps l (serve (opImageLoad x) r s)
  have hnolive : (loadBegun l (serve (opImageLoad x) r s)).str.live = [] := by rw [kstr, hkeeps.str, hlive]
  rw [imageLoad_begins h hl, if_neg (by simp [hwait]), loaderChecks_maps hload hchecked hplace]
  refine congrArg Host.Outcome.next (advanceService_waits (.inl ?_) (.inr (.inl hnolive)) (.inl ?_))
  · exact kunload.trans (congrArg Img.unloading hkeeps.img |>.trans hunload)
  · exact (congrArg Mbox.shutdown kmbox).trans (hkeeps.shutdown.trans (h.notShut rfl))

end ImageLoad

/-- A staging as it stands, before its object is created. -/
def staged (g : Staging) (w : State) : State := { w with img := { w.img with staging := some g } }

section CoveStage
variable {r : Request} {x : Option Image} {s : State} (h : Served (opCoveStage x) r s)
include h

theorem coveStage_accepted :
    AcceptKeeps s (serve (opCoveStage x) r s) ∧ Answers (opCoveStage x) r Status.accepted (0, 0) (serve (opCoveStage x) r s) ∧
      unanswered (serve (opCoveStage x) r s) = unanswered (taken r s) ∧
      exec (.coveStage r x) s = .next (beginStage x r (serve (opCoveStage x) r s)) := by
  obtain ⟨hkeeps, hanswer, hrest, hleft, -⟩ := serve_accepted (key := .image) (changed := true) h rfl rfl
  exact ⟨hkeeps, hanswer, hrest, exec_coveStage hleft⟩

/-- A staging that writes its image begins with an object of its own. -/
theorem coveStage_writes {i : Image} (hnone : imageObject (stageDigest r) s = none) (hx : pulled x = some i)
    (hd : stageDigest r = 0 ∨ stageDigest r = i.digestField) (hwrites : writesThrough i s = true) :
    let g : Staging := ⟨i, i.digestField, stageTtl r, false⟩
    ∃ o, createObject (.image i) 0 (imageBytes i) i.digestField 0 (staged g (serve (opCoveStage x) r s)) = some o ∧
      exec (.coveStage r x) s = .next (startPull o.2) ∧ (startPull o.2).img.staging = some g ∧
      ∃ y ∈ (startPull o.2).cove.objects, y.id = o.1 ∧ y.kind = 1 ∧ y.digest = i.digestField ∧ y.committed = false := by
  obtain ⟨hkeeps, -, -, hexec⟩ := coveStage_accepted h
  intro g
  have hcove : (staged g (serve (opCoveStage x) r s)).cove = s.cove := hkeeps.cove
  have hroom : roomFor (imageBytes i) (staged g (serve (opCoveStage x) r s)) = true := by
    rw [roomFor, startStack_congr hcove]
    exact stage_room h hnone hx hwrites
  obtain ⟨o, ho⟩ := createObject_isSome (data := .image i) (holder := 0) (digest := i.digestField) (address := 0) hroom
  obtain ⟨y, hy, hid, hdata, hdigest, hcommitted⟩ := createObject_object ho
  refine ⟨o, ho, ?_, ?_, y, (startPull_objects o.2).symm ▸ hy, hid, by rw [CoveObject.kind, hdata], hdigest, hcommitted⟩
  · rw [hexec, beginStage_writes ((imageObject_congr hkeeps.cove _).trans hnone) hx hd
      ((writesThrough_congr hkeeps.cove i).trans hwrites) ho]
  · simp [createObject_frame ho, staged]

end CoveStage

/-- Settles O17: each request is served with ACCEPTED and leaves its message outstanding; what follows is one step of
the operation's own progress, and where nothing holds it back it ends that message. -/
theorem longOperationsBegin : Obligations.LongOperationsBegin := by
  unfold Obligations.LongOperationsBegin
  refine ⟨fun r s h => ?_, fun r s h => ?_, fun r x s h => ?_, fun r x s h => ?_, fun r s h => ?_, fun s old ha hold hwrite hnone => ?_⟩
  case refine_1 =>
    refine ⟨?_, ?_, exec_imageUnload h, imageUnload_completes h, fun n t => imageUnload_parks h⟩
    · rw [serve_imageUnload h]
      exact answers_respond ..
    · rw [serve_imageUnload h]
      exact unanswered_respond ..
  case refine_2 =>
    refine ⟨?_, ?_, exec_moduleShutdown h, fun hload hunload =>
      ⟨moduleShutdown_running h hload hunload, moduleShutdown_completes h hload hunload⟩⟩
    · rw [serve_moduleShutdown h]
      exact answers_respond ..
    · rw [serve_moduleShutdown h]
      exact unanswered_respond ..
  case refine_3 =>
    obtain ⟨-, hanswer, hrest, -⟩ := imageLoad_accepted h
    refine ⟨hanswer, hrest, imageLoad_unreturned h, fun l hl => ⟨(holdSource_keeps ..).1, fun hwait => ?_, fun hwait => ?_⟩⟩
    · rw [imageLoad_begins h hl, if_pos hwait]
    · have hload := (loadBegun_keeps l (serve (opImageLoad x) r s)).1
      have hbegins := imageLoad_begins h hl
      rw [if_neg (by simp [hwait])] at hbegins
      refine ⟨fun hfail => ?_, fun hchecked => ⟨fun fs hfs => ?_, fun p hp hlive hunload =>
        imageLoad_maps h hl hwait hchecked hp hlive hunload⟩⟩
      · exact hbegins.trans (congrArg Host.Outcome.next (loaderChecks_fails hload hfail))
      · exact hbegins.trans (congrArg Host.Outcome.next (loaderChecks_unplaced hload hchecked hfs))
  case refine_4 =>
    obtain ⟨hkeeps, hanswer, hrest, hexec⟩ := coveStage_accepted h
    refine ⟨hanswer, hrest, fun hheld => ?_, fun hnone => ?_⟩
    · exact hexec.trans (congrArg Host.Outcome.next (beginStage_held (by rwa [imageObject_congr hkeeps.cove])))
    · have hnone' := (imageObject_congr hkeeps.cove (stageDigest r)).trans hnone
      refine ⟨fun hx => ?_, fun i hx => ⟨fun hd hi => ?_, fun hd => ⟨fun hpresent => ?_, coveStage_writes h hnone hx hd⟩⟩⟩
      · exact hexec.trans (congrArg Host.Outcome.next (beginStage_unreturned hnone' hx))
      · exact hexec.trans (congrArg Host.Outcome.next (beginStage_other hnone' hx hd hi))
      · exact hexec.trans (congrArg Host.Outcome.next
          (beginStage_present hnone' hx hd ((writesThrough_congr hkeeps.cove i).trans hpresent)))
  case refine_5 =>
    obtain ⟨-, hanswer, hrest, -⟩ := serve_accepted h (portConfigSet_run r s) rfl
    refine ⟨hanswer, hrest, fun hallowed hnone => ?_, portConfigSet_defers h⟩
    obtain ⟨t, hexec, hforce, hrevert, hdone, hflags, hended⟩ := portConfigSet_completes h hallowed hnone
    exact ⟨t, hexec, by rw [hforce.live]; rfl, by rw [hforce.cfg]; rfl, hrevert, hdone, hflags, hforce.durable, hended, hforce.copy,
      hforce.plane, by rw [hforce.cfg]⟩
  case refine_6 =>
    rw [exec_portConfigRevert ha hold hwrite]
    refine ⟨fun hallowed => ?_, fun hdenied => congrArg Host.Outcome.next (applyPort_defers rfl hdenied)⟩
    obtain ⟨hforce, hrevert, hdone⟩ := portConfigRevert_reverts hallowed hnone
    exact ⟨_, rfl, by rw [hforce.live], by rw [hforce.cfg], hrevert, hdone, hforce.plane⟩

end Sys2Proof.Machine

namespace Sys2Proof.Machine

/-! ## How a command can end (R217) -/

/-- The commands that address the shelf. -/
def addressesShelf : Instr → Bool
  | .shelf _ _ | .shelfScrub _ _ | .dataPlaneStart => true
  | _ => false

/-- Every other command has a next state. -/
theorem exec_next {c : Instr} (h : addressesShelf c = false) (s : State) : ∃ t, exec c s = .next t := by
  cases c with
  | shelf => contradiction
  | shelfScrub => contradiction
  | dataPlaneStart => contradiction
  | _ => exact ⟨_, rfl⟩

/-- A command has a next state, or it faults on a shelf address that does not exist. -/
def EndsOnShelf (o : Out) : Prop := (∃ t, o = .next t) ∨ o = .fault .shelfAddressOutside

theorem endsOnShelf_ite {p : Prop} [Decidable p] {o o' : Out} (h : EndsOnShelf o) (h' : EndsOnShelf o') :
    EndsOnShelf (if p then o else o') := by
  split
  · exact h
  · exact h'

theorem exec_endsOnShelf (c : Instr) (s : State) : EndsOnShelf (exec c s) := by
  have hnext (t : State) : EndsOnShelf (.next t) := .inl ⟨t, rfl⟩
  have hfault : EndsOnShelf (.fault .shelfAddressOutside) := .inr rfl
  cases c with
  | shelf i o => exact endsOnShelf_ite (endsOnShelf_ite hfault (hnext _)) (hnext _)
  | shelfScrub j u => exact endsOnShelf_ite (endsOnShelf_ite (hnext _) hfault) (hnext _)
  | dataPlaneStart =>
    change EndsOnShelf (execDataPlaneStart s)
    unfold execDataPlaneStart
    split
    · exact hnext s
    · exact endsOnShelf_ite (endsOnShelf_ite hfault (hnext _)) (hnext _)
  | _ => exact .inl (exec_next rfl s)

theorem addressesShelf_of_fault {c : Instr} {s : State} {f : Fault} (h : exec c s = .fault f) : addressesShelf c = true := by
  by_contra hc
  obtain ⟨t, ht⟩ := exec_next (Bool.eq_false_iff.mpr hc) s
  simp [h] at ht

/-- Settles O2: every command but three has a next state, and those three have one or the one fault. -/
theorem faultsAreShelfAddresses : Obligations.FaultsAreShelfAddresses := by
  unfold Obligations.FaultsAreShelfAddresses
  refine ⟨fun c s r hr => ?_, fun c s f hf => ⟨by cases f; rfl, ?_⟩⟩
  · rcases exec_endsOnShelf c s with ⟨t, ht⟩ | hfault
    · simp [hr] at ht
    · simp [hr] at hfault
  · have hshelf := addressesShelf_of_fault hf
    cases c with
    | shelf => trivial
    | shelfScrub => trivial
    | dataPlaneStart => trivial
    | _ => contradiction

end Sys2Proof.Machine

namespace Sys2Proof.Machine

/-! ## The RoCEv2 requester (R246, R331 to R333) -/

/-- What a reader of any queue pair finds after queue pair n was changed. -/
theorem setQp_qp (n m : Nat) (f : QueuePair → QueuePair) (s : State) :
    nth (setQp n f s).cove.qps m QueuePair.reset = if n = m ∧ m < s.cove.qps.length then f (nth s.cove.qps m QueuePair.reset)
      else nth s.cove.qps m QueuePair.reset := nth_upd _ _ _ _ _

theorem setQp_other {n m : Nat} (h : m ≠ n) (f : QueuePair → QueuePair) (s : State) :
    nth (setQp n f s).cove.qps m QueuePair.reset = nth s.cove.qps m QueuePair.reset := by
  rw [setQp_qp, if_neg fun hnm => h hnm.1.symm]

theorem qpEnabled_setQp_other {n m : Nat} (h : m ≠ n) (f : QueuePair → QueuePair) (s : State) :
    qpEnabled m (setQp n f s) = qpEnabled m s := by rw [qpEnabled, setQp_other h, qpEnabled]

/-- The enabled queue pair after n, in ascending order from n on (log 23). -/
def nextQp (n : Nat) (s : State) : Option Nat :=
  ((List.range 64).map fun k => (n + 1 + k) % 64).find? fun m => m ≠ n && qpEnabled m s

theorem nextQp_setQp (n : Nat) (f : QueuePair → QueuePair) (s : State) : nextQp n (setQp n f s) = nextQp n s := by
  have hpred : (fun m => decide (m ≠ n) && qpEnabled m (setQp n f s)) = fun m => decide (m ≠ n) && qpEnabled m s := by
    funext m
    by_cases hm : m = n
    · simp [hm]
    · rw [qpEnabled_setQp_other hm]
  rw [nextQp, hpred, nextQp]

theorem nextQp_ne {n m : Nat} {s : State} (h : nextQp n s = some m) : m ≠ n := by
  have hm := List.find?_some h
  simp only [Bool.and_eq_true, decide_eq_true_eq] at hm
  exact hm.1

theorem nextQp_none {n : Nat} {s : State} (h : ∀ m < 64, m ≠ n → qpEnabled m s = false) : nextQp n s = none := by
  refine List.find?_eq_none.mpr fun m hm => ?_
  obtain ⟨k, -, rfl⟩ := List.mem_map.mp hm
  have hlt : (n + 1 + k) % 64 < 64 := Nat.mod_lt _ (by decide)
  by_cases hne : (n + 1 + k) % 64 = n
  · simp [hne]
  · simp [h _ hlt hne]

/-- Queue pair n is reset once its retries are used up (R332). -/
def qpFailed (n : Nat) (s : State) : State :=
  setQp n (fun q => { q with retries := 0, outstanding := 0, error := true, psn := BitVec.ofNat 24 (bits q.record 359 336) }) s

/-- The read of a failed queue pair is asked for on queue pair m (R246). -/
def readMoved (m : Nat) (q : QueuePair) (s : State) : State :=
  send (.rdmaRead m q.psn) (setQp m (fun q => { q with outstanding := q.outstanding + 1, psn := q.psn + 256, error := false })
    { s with cove := { s.cove with pullRetries := s.cove.pullRetries + 1 } })

section Requester
variable {n : Nat} {s : State} (ha : s.awake = true)
include ha

theorem exec_rdma_disabled (h : qpEnabled n s = false) (reads : Nat) (ce : Bool) :
    exec (.rdmaReadResponse n reads ce) s = .next (dropRoce s) ∧ exec (.cnpReceive n) s = .next (dropRoce s) := by
  have hawake : ¬(s.awake = false) := by simp [ha]
  exact ⟨congrArg Host.Outcome.next ((if_neg hawake).trans (if_pos h)),
    congrArg Host.Outcome.next ((if_neg hawake).trans (if_neg (by simp [h])))⟩

theorem exec_cnpReceive (h : qpEnabled n s = true) : exec (.cnpReceive n) s =
    .next (setQp n (fun q => { q with window := max 1 (q.window / 2) }) { s with eth := { s.eth with cnpRx := satInc s.eth.cnpRx } }) :=
  congrArg Host.Outcome.next ((if_neg (by simp [ha])).trans (if_pos h))

theorem exec_cnpRecoveryTick (h : qpEnabled n s = true) : exec (.cnpRecoveryTick n) s =
    .next (setQp n (fun q => { q with window := min (bits q.record 215 211) (q.window + 1) }) s) :=
  congrArg Host.Outcome.next (if_pos ⟨ha, h⟩)

theorem exec_rdma_noPull (h : qpEnabled n s = true) (hpull : pullRuns s = false) (reads : Nat) (ce : Bool) (psn : BitVec 24) :
    exec (.rdmaReadResponse n reads ce) s = .next s ∧ exec (.rdmaTimeout n psn) s = .next s :=
  ⟨congrArg Host.Outcome.next (((if_neg (by simp [ha])).trans (if_neg (by simp [h]))).trans (if_neg (by simp [hpull]))),
    congrArg Host.Outcome.next (if_neg (by simp [hpull]))⟩

theorem exec_rdmaReadResponse (h : qpEnabled n s = true) (hpull : pullRuns s = true) (reads : Nat) (ce : Bool) :
    exec (.rdmaReadResponse n reads ce) s =
      let u := setQp n (fun q => { q with outstanding := q.outstanding - 1, retries := 0 }) s
      .next ((List.range reads).foldl (fun w _ => issueRead n w) (if ce then answerCe n u else u)) :=
  congrArg Host.Outcome.next (((if_neg (by simp [ha])).trans (if_neg (by simp [h]))).trans (if_pos hpull))

theorem exec_rdmaTimeout_retries (h : qpEnabled n s = true) (hpull : pullRuns s = true) (psn : BitVec 24)
    (hr : (nth s.cove.qps n QueuePair.reset).retries < 7) : exec (.rdmaTimeout n psn) s =
      .next (send (.rdmaRead n psn) (setQp n (fun q => { q with retries := q.retries + 1 }) s)) :=
  congrArg Host.Outcome.next ((if_pos ⟨ha, h, hpull⟩).trans (if_pos hr))

/-- After seven retries the next queue pair decides: there is none, it takes the read, or the read has moved three times. -/
theorem exec_rdmaTimeout_fails (h : qpEnabled n s = true) (hpull : pullRuns s = true) (psn : BitVec 24)
    (hr : 7 ≤ (nth s.cove.qps n QueuePair.reset).retries) : exec (.rdmaTimeout n psn) s =
      .next (match nextQp n s with
        | none => failPull (qpFailed n s)
        | some m => if s.cove.pullRetries < 3 then readMoved m (nth s.cove.qps m QueuePair.reset) (qpFailed n s)
          else failPull (qpFailed n s)) := by
  refine congrArg Host.Outcome.next (((if_pos ⟨ha, h, hpull⟩).trans (if_neg (Nat.not_lt.mpr hr))).trans ?_)
  have hnext : nextQp n (qpFailed n s) = nextQp n s := nextQp_setQp ..
  cases hm : nextQp n s with
  | none =>
    rw [hm] at hnext
    unfold nextQp qpFailed at hnext
    simp only [hnext]
    rfl
  | some m =>
    rw [hm] at hnext
    unfold nextQp qpFailed at hnext
    simp only [hnext, setQp_other (nextQp_ne hm)]
    rfl

end Requester

/-- Settles O26: one lemma for each command of the requester, and the next queue pair as a search of its own. -/
theorem readsAreRequestedAndRetried : Obligations.ReadsAreRequestedAndRetried := by
  unfold Obligations.ReadsAreRequestedAndRetried
  intro n s ha q
  refine ⟨fun hoff => exec_rdma_disabled ha hoff, fun hon => ⟨exec_cnpReceive ha hon, exec_cnpRecoveryTick ha hon, fun hpull => ?_,
    fun hpull => exec_rdma_noPull ha hon hpull⟩⟩
  refine ⟨exec_rdmaReadResponse ha hon hpull, exec_rdmaTimeout_retries ha hon hpull, fun psn hr hnone => ?_,
    fun psn m hr hm => ⟨fun hthree => ?_, fun hfewer => ?_⟩⟩
  · rw [exec_rdmaTimeout_fails ha hon hpull psn hr, nextQp_none hnone]
    rfl
  · rw [exec_rdmaTimeout_fails ha hon hpull psn hr, show nextQp n s = some m from hm]
    exact congrArg Host.Outcome.next (if_neg (Nat.not_lt.mpr hthree))
  · rw [exec_rdmaTimeout_fails ha hon hpull psn hr, show nextQp n s = some m from hm]
    exact congrArg Host.Outcome.next (if_pos hfewer)

end Sys2Proof.Machine

namespace Sys2Proof.Machine

/-! ## Writes of the cove (R237, R240, R242, R243, R247) -/

/-- The state with extent k of an object durable: its record stands in the journal and its stack has counted it (R240). -/
def extentRecorded (o : CoveObject) (w : ExtentWrite) (k : Nat) (s : State) : State :=
  journal (countCove w.stack (fun r =>
      { r with extentsCommitted := satInc r.extentsCommitted, writeEpoch := satAdd r.writeEpoch (mibOf (extentLength o k)) })
    (setObject o.id.toNat (fun x => { x with writes := x.writes.map fun y => if y.index = k then { y with durable := true } else y }) s))

theorem extentRecorded_awake (o : CoveObject) (w : ExtentWrite) (k : Nat) (s : State) : (extentRecorded o w k s).awake = s.awake := rfl

theorem awake_ne_holdup {s : State} (h : s.pow.stage = .holdup) : s.awake = false := by simp [State.awake, h]

section Extent
variable {id : BitVec 128} {k : Nat} {s : State} {o : CoveObject} {w : ExtentWrite}

theorem exec_extentDurable (ho : findObject id.toNat s = some o) (hw : o.writes.find? (fun y => y.index = k) = some w)
    (hstarted : w.started = true) (hdurable : w.durable = false) (hpower : s.awake = true ∨ s.pow.stage = .holdup) :
    exec (.extentDurable id k) s = .next (if s.awake then
      advanceService (startWrites (commitReady (freeCancelled (extentRecorded o w k s)))) else extentRecorded o w k s) := by
  change Host.Outcome.next _ = _
  simp only [ho, hw]
  exact congrArg Host.Outcome.next (if_pos ⟨hpower, hstarted, hdurable⟩)

end Extent

/-! ### The commit of a staging -/

section Stage
variable {s : State} {g : Staging} {o : CoveObject} (ha : s.awake = true) (hg : s.img.staging = some g) (hpaused : g.paused = false)
  (ho : s.cove.objects.find? (fun x => !x.committed && x.kind = 1 && x.digest = g.digest) = some o) (hall : allDurable o = true)
  (hallowed : holdupAllows (inFlightNs s) s = true)
include ha hg hpaused ho hall hallowed

/-- The digests decide how a staging ends whose extents are durable. -/
theorem exec_stageCommit (ok : Bool) : exec (.stageCommit ok) s =
    let u : State := { s with img := { s.img with staging := none } }
    .next (if ok = true ∧ g.image.computedDigest = g.digest then
      resumeLoad o.id.toNat (complete [0x0303] 0 false Status.ok .image (0, 0) (bytesBE 64 g.digest.toNat)
        (replaceImageObjects o.id.toNat g.digest (commitObject o.id.toNat g.ttl.toNat u)))
    else orphanLoad (rejectStage g.digest (if ok then 0x0104 else 0x0109) (freeObject o.id.toNat u))) := by
  change Host.Outcome.next _ = _
  simp only [hg, ho]
  exact congrArg Host.Outcome.next (if_pos ⟨ha, hpaused, hall, hallowed⟩)

end Stage

/-! ### Retries and the config flash -/

theorem exec_holdupRetry {s : State} (ha : s.awake = true) : exec .holdupRetry s =
    .next (advanceService (applyPort (commitPress (startWrites (commitReady { s with cove := { s.cove with deferred := false } }))))) :=
  congrArg Host.Outcome.next (if_pos ha)

theorem exec_configDurabilityWrite {s : State} (ha : s.awake = true) (hdirty : s.flash.dirty = true)
    (hallowed : configWriteAllowed s = true) : exec .configDurabilityWrite s = .next (advanceService (makeDurable s)) :=
  congrArg Host.Outcome.next (if_pos ⟨ha, hdirty, hallowed⟩)

/-- A config write changes the flash alone; it goes to the slot that was not selected (R384). -/
theorem makeDurable_flash {s : State} (h : s.pres.cmd = none) :
    makeDurable s = { s with flash := (makeDurable s).flash } ∧ (makeDurable s).flash.dirty = false ∧
      (makeDurable s).flash.selectedB = !s.flash.selectedB := by
  have hwrite : writeCommitted s = writeConfig false 0 s.cfg none s := by simp [writeCommitted, h]
  unfold makeDurable
  rw [hwrite]
  unfold writeConfig
  dsimp only
  split
  next hb => exact ⟨rfl, rfl, by simp [hb]⟩
  next hb => exact ⟨rfl, rfl, by simp [hb]⟩

theorem makeDurable_idle {s : State} (h : ServiceIdle s) : ServiceIdle (makeDurable s) :=
  ⟨by simpa using h.load, by simpa using h.unloading, by simpa using h.shutdown⟩

/-- Settles O27: the cove's writes one command at a time; what can go on after them is the model's own continuation. -/
theorem coveWritesCommit : Obligations.CoveWritesCommit := by
  unfold Obligations.CoveWritesCommit
  refine ⟨fun id k s o w ho hw hstarted hdurable => ⟨fun ha => ?_, fun hheld => ?_⟩,
    fun ok s g o ha hg hpaused ho hall hallowed => ?_, fun s ha => exec_holdupRetry ha,
    fun s ha hdirty hallowed hnone hload hunload hshut => ?_⟩
  · rw [exec_extentDurable ho hw hstarted hdurable (.inl ha), if_pos ha]
    rfl
  · rw [exec_extentDurable ho hw hstarted hdurable (.inr hheld), if_neg (by simp [awake_ne_holdup hheld])]
    rfl
  · have hexec := exec_stageCommit ha hg hpaused ho hall hallowed
    refine ⟨fun hok hdigest => ?_, fun hok hdigest => ?_, fun hok => ?_⟩
    · exact (hexec ok).trans (congrArg Host.Outcome.next (if_pos ⟨hok, hdigest⟩))
    · rw [hok]
      exact (hexec true).trans (congrArg Host.Outcome.next (if_neg fun h => hdigest h.2))
    · rw [hok]
      exact (hexec false).trans (congrArg Host.Outcome.next (if_neg (by simp)))
  · obtain ⟨copy, hcopy, hcontent, hpending⟩ := makeDurable_selected hnone
    obtain ⟨hflash, hclean, hslot⟩ := makeDurable_flash hnone
    have hidle := advanceService_idle (makeDurable_idle ⟨hload, hunload, hshut⟩)
    exact ⟨makeDurable s, copy, (exec_configDurabilityWrite ha hdirty hallowed).trans (congrArg Host.Outcome.next hidle), hclean,
      hcopy, hpending, hcontent, hflash, hslot⟩

end Sys2Proof.Machine

namespace Sys2Proof.Machine

/-! ## Power failure and hold-up (R439 to R441) -/

theorem combDomainsOff_domain {s : State} {d : Nat} (hd : d < 192) (hlen : d < s.pow.domains.length) (hstate : (s.domain d).state = 0) :
    ((combDomainsOff s).domain d).state = 3 := by
  have hget : nth s.pow.domains d Domain.reset = s.pow.domains[d] := List.getD_eq_getElem _ _ hlen
  rw [State.domain, hget] at hstate
  have hoff : (combDomainsOff s).domain d = { s.pow.domains[d] with state := 3 } := by
    simp [State.domain, combDomainsOff, nth, List.getD_eq_getElem?_getD, hlen, hd, hstate]
  rw [hoff]

section Failure
variable {c : PowerCause} {s : State} (ha : s.awake = true) (hc : causeStands c s = true)
include ha hc

theorem exec_powerFailureDecision : exec (.powerFailureDecision c) s =
    .next (if nothingToHold (notePins c s) then darken (notePins c s) else beginHoldup (notePins c s)) :=
  congrArg Host.Outcome.next (if_pos ⟨.inl ha, hc⟩)

theorem powerFailure_holds (hmounted : s.cove.mounted = true) (hshut : s.mbox.shutdown ≠ .complete) :
    exec (.powerFailureDecision c) s = .next (beginHoldup (notePins c s)) := by
  have hstage : s.pow.stage ≠ .nothing := by
    intro h
    simp [State.awake, h] at ha
  rw [exec_powerFailureDecision ha hc, if_neg (by simp [nothingToHold, notePins, hmounted, hshut, hstage])]

theorem powerFailure_darkens (hmounted : s.cove.mounted = false) :
    exec (.powerFailureDecision c) s = .next (darken (notePins c s)) := by
  rw [exec_powerFailureDecision ha hc, if_pos (by simp [nothingToHold, notePins, hmounted])]

end Failure

theorem beginHoldup_keeps (s : State) :
    (beginHoldup s).cove = s.cove ∧ SameConfig s (beginHoldup s) ∧ (s.tide.dp = .running → (beginHoldup s).tide.dp = .halted) ∧
      (s.tide.dp ≠ .running → (beginHoldup s).tide = s.tide) := by
  unfold beginHoldup combDomainsOff
  by_cases hrun : s.tide.dp = .running
  · simp [hrun, SameConfig, halt_tide]
  · simp [hrun, SameConfig]

theorem beginHoldup_domain {s : State} {d : Nat} (hd : d < 192) (hstate : (s.domain d).state = 0) (hlen : d < s.pow.domains.length) :
    ((beginHoldup s).domain d).state = 3 := by
  have hpow : (if s.tide.dp = .running then halt .none s else s).pow = s.pow := by split <;> simp
  exact combDomainsOff_domain (s := if s.tide.dp = .running then halt .none s else s) hd (by rwa [hpow])
    (by rwa [State.domain, hpow])

/-! ## The records that the hold-up appends (R243) -/

/-- The configuration and the objects' names are as before, and what was committed still is. -/
structure HeldCommitted (s t : State) : Prop where
  config : SameConfig s t
  ids : t.cove.objects.map (·.id) = s.cove.objects.map (·.id)
  committed : ∀ o ∈ s.cove.objects, o.committed = true → ∃ x ∈ t.cove.objects, x.id = o.id ∧ x.committed = true

namespace HeldCommitted
variable {s t u : State}

theorem refl (s : State) : HeldCommitted s s := ⟨⟨rfl, rfl, rfl, rfl⟩, rfl, fun o ho hc => ⟨o, ho, rfl, hc⟩⟩

theorem trans (h : HeldCommitted s t) (k : HeldCommitted t u) : HeldCommitted s u where
  config := h.config.trans k.config
  ids := k.ids.trans h.ids
  committed o ho hc := by
    obtain ⟨x, hx, hid, hxc⟩ := h.committed o ho hc
    obtain ⟨y, hy, hyid, hyc⟩ := k.committed x hx hxc
    exact ⟨y, hy, hyid.trans hid, hyc⟩

end HeldCommitted

/-- A change of an object that keeps its name and its commit. -/
theorem setObject_heldCommitted {f : CoveObject → CoveObject} (hf : ∀ o, (f o).id = o.id ∧ (o.committed = true → (f o).committed = true))
    (id : Nat) (s : State) : HeldCommitted s (setObject id f s) where
  config := ⟨rfl, rfl, rfl, rfl⟩
  ids := by
    change (s.cove.objects.map fun o => if o.id.toNat = id then f o else o).map (·.id) = _
    rw [List.map_map]
    refine List.map_congr_left fun o _ => ?_
    simp only [Function.comp_apply]
    split
    · exact (hf o).1
    · rfl
  committed o ho hc := by
    refine ⟨_, List.mem_map_of_mem ho, ?_⟩
    split
    · exact ⟨(hf o).1, (hf o).2 hc⟩
    · exact ⟨rfl, hc⟩

theorem commitObject_heldCommitted (id ttl : Nat) (s : State) : HeldCommitted s (commitObject id ttl s) := by
  have hjournal : HeldCommitted s (journal s) := { HeldCommitted.refl s with }
  refine hjournal.trans ?_
  unfold commitObject
  refine setObject_heldCommitted ?_ id (journal s)
  exact fun _ => ⟨rfl, fun _ => rfl⟩

theorem commitHeld_heldCommitted (s : State) (o : CoveObject) : HeldCommitted s (commitHeld s o) := by
  have hcommit := commitObject_heldCommitted o.id.toNat (holdupTtl o s) s
  unfold commitHeld
  split
  · dsimp only
    split
    next p _ =>
      have hset := setObject_heldCommitted (f := fun x => { x with data := .stream { p.2.atRest with state := .parked } })
        (fun _ => ⟨rfl, id⟩) o.id.toNat (commitObject o.id.toNat (holdupTtl o s) s)
      exact hcommit.trans { hset with }
    next => exact hcommit
  · exact hcommit

theorem heldCommits (s : State) : HeldCommitted s ((heldObjects s).foldl commitHeld s) :=
  foldl_inv (HeldCommitted s) commitHeld (fun t o h => h.trans (commitHeld_heldCommitted t o)) _ s (.refl s)

/-! ## Darkness (R436, R441) -/

theorem exec_goDark {s : State} (h : s.pow.stage = .holdup) : exec .goDark s = .next (darken ((heldObjects s).foldl commitHeld s)) :=
  congrArg Host.Outcome.next (if_pos h)

/-- Every parked stream that darkness leaves has its committed object. -/
theorem darken_parked (s : State) : ∀ y ∈ (darken s).str.parked, ∃ o x, y.parkObject = some o ∧ x ∈ (darken s).cove.objects ∧
    x.id = o ∧ x.committed = true := by
  intro y hy
  obtain ⟨-, hkept⟩ := List.mem_filter.mp hy
  cases ho : y.parkObject with
  | none => simp [ho] at hkept
  | some o =>
    simp only [ho, List.any_eq_true, Bool.and_eq_true, decide_eq_true_eq] at hkept
    obtain ⟨x, hx, hid, hcommitted⟩ := hkept
    exact ⟨o, x, rfl, hx, hid, hcommitted⟩

/-! ## The lid (R398) -/

theorem eraseKeys_keys (s : State) : ∀ o ∈ (eraseKeys s).cove.objects, o.keyAlive = false := by
  intro o ho
  obtain ⟨_, -, rfl⟩ := List.mem_map.mp ho
  rfl

/-- Step 3 of R398 leaves both slots with one committed copy of the configuration. -/
theorem eraseSlots_copies (s : State) :
    ∃ x, eraseSlots s = { s with flash := (eraseSlots s).flash } ∧ (eraseSlots s).flash.copyA = some x ∧
      (eraseSlots s).flash.copyB = some x ∧ x.content = s.cfg ∧ x.pending = false := by
  unfold eraseSlots writeConfig
  cases hb : s.flash.selectedB with
  | true => exact ⟨_, rfl, rfl, rfl, rfl, rfl⟩
  | false => exact ⟨_, rfl, rfl, rfl, rfl, rfl⟩

/-- The module with steps 2 and 4 of R398 done, before its slots are written. -/
def moduleClosed (s : State) : State :=
  let s := dropImage s
  { s with
    cfg := unclaimedCfg s.cfg
    flash := { s.flash with dirty := true }
    str := { s.str with live := [] }
    img := { s.img with load := none, staging := none }
    pow := { s.pow with stage := .nothing }
    pres := ⟨none, .redBlink, 0⟩ }

theorem closeModule_eq (s : State) :
    closeModule s = if configWriteAllowed s then eraseSlots (moduleClosed s) else moduleClosed s := rfl

/-- Besides its slots, the closed module is as steps 2 and 4 leave it. -/
theorem closeModule_slots (s : State) : ∃ f, closeModule s = { moduleClosed s with flash := f } ∧
    (configWriteAllowed s = true → f.copyA = f.copyB ∧ ∃ x, f.copyA = some x ∧ x.content = unclaimedCfg s.cfg ∧ x.pending = false) := by
  rw [closeModule_eq]
  by_cases hallowed : configWriteAllowed s = true
  · obtain ⟨x, heq, ha, hb, hcontent, hpending⟩ := eraseSlots_copies (moduleClosed s)
    exact ⟨_, (if_pos hallowed).trans heq, fun _ => ⟨ha.trans hb.symm, x, ha, hcontent, hpending⟩⟩
  · exact ⟨_, if_neg hallowed, fun h => absurd h hallowed⟩

section Lid
variable {s : State} (hlid : s.pow.lidOpen = false)
include hlid

theorem exec_lidSealOpen_holdup (h : s.pow.stage = .holdup) : exec .lidSealOpen s =
    .next { eraseKeys s with flash := { s.flash with dirty := true } } :=
  congrArg Host.Outcome.next ((if_neg (by simp [hlid])).trans (if_pos h))

theorem exec_lidSealOpen_awake (h : s.awake = true) : exec .lidSealOpen s = .next (closeModule (eraseKeys s)) := by
  have hstage : s.pow.stage ≠ .holdup := fun hs => by simp [awake_ne_holdup hs] at h
  exact congrArg Host.Outcome.next (((if_neg (by simp [hlid])).trans (if_neg hstage)).trans (if_pos h))

end Lid

/-- Settles O32: hold-up and darkness by what each step of them leaves, the lid by what its two courses write. -/
theorem powerLossKeepsFlashAndCove : Obligations.PowerLossKeepsFlashAndCove := by
  unfold Obligations.PowerLossKeepsFlashAndCove
  refine ⟨fun c s ha hc => ⟨fun hmounted hshut => ?_, fun hmounted => ?_⟩, fun s hheld => ?_, fun s hlid hpower => ?_⟩
  case refine_1 =>
    obtain ⟨hcove, hconfig, hhalts, hrests⟩ := beginHoldup_keeps (notePins c s)
    exact ⟨_, powerFailure_holds ha hc hmounted hshut, rfl, rfl, rfl, hcove, hconfig, rfl, hhalts, hrests,
      fun d hd hstate hlen => beginHoldup_domain (s := notePins c s) hd hstate hlen⟩
  case refine_2 =>
    exact ⟨_, powerFailure_darkens ha hc hmounted, rfl, rfl, rfl, ⟨rfl, rfl, rfl, rfl⟩, rfl⟩
  case refine_3 =>
    obtain ⟨hconfig, hids, hcommitted⟩ := heldCommits s
    exact ⟨_, exec_goDark hheld, rfl, hconfig, rfl, rfl, rfl, rfl, rfl, rfl, hids, hcommitted, darken_parked _⟩
  case refine_4 =>
    rcases hpower with ha | hheld
    · obtain ⟨f, hclose, hslots⟩ := closeModule_slots (eraseKeys s)
      refine ⟨_, exec_lidSealOpen_awake hlid ha, ?_⟩
      rw [hclose]
      refine ⟨rfl, rfl, eraseKeys_keys s, fun _ => ⟨rfl, rfl, rfl, rfl, rfl, rfl, rfl, hslots⟩, fun hs => ?_⟩
      simp [awake_ne_holdup hs] at ha
    · refine ⟨_, exec_lidSealOpen_holdup hlid hheld, rfl, rfl, eraseKeys_keys s, fun ha => ?_, fun _ => ⟨rfl, hheld⟩⟩
      simp [awake_ne_holdup hheld] at ha

end Sys2Proof.Machine

namespace Sys2Proof.Machine

/-! ## The head's rows at the root (R57, R93)

The operations of a head row write registers of the wide datapath, and raise violations and counts of the step. -/

/-- Nothing but the wide registers, the step's violations and the step's counts has changed. -/
def HeadOnly (s t : State) : Prop := ∃ w r l, t =
  { s with fabric := { s.fabric with wide := w }, err := { s.err with raised := r, layersStep := l } }

namespace HeadOnly
variable {s t u : State}

theorem refl (s : State) : HeadOnly s s := ⟨_, _, _, rfl⟩

theorem trans (h : HeadOnly s t) (k : HeadOnly t u) : HeadOnly s u := by
  obtain ⟨_, _, _, rfl⟩ := h
  obtain ⟨_, _, _, rfl⟩ := k
  exact ⟨_, _, _, rfl⟩

end HeadOnly

theorem raiseViolation_headOnly (k : Nat) (o : OutRef) (cause groups : Nat) (outs : List (BitVec 32)) (s : State) :
    HeadOnly s (raiseViolation k o cause groups outs s) := by
  unfold raiseViolation
  split
  · exact .refl s
  · dsimp only
    split
    · exact ⟨_, _, _, rfl⟩
    · exact ⟨_, _, _, rfl⟩

theorem flagEvents_headOnly (o : OutRef) (k n events : Nat) (s : State) : HeadOnly s (flagEvents o k n events s) := by
  unfold flagEvents
  split
  · exact .refl s
  · have hcount : HeadOnly s (countLayer n (fun r => { r with rangeEvents := r.rangeEvents + BitVec.ofNat 64 events }) s) :=
      ⟨_, _, _, rfl⟩
    exact hcount.trans (raiseViolation_headOnly ..)

theorem runOps_headOnly (i : Image) (o : OutRef) (ops : List WideOp) (k : Nat) (s : State) : HeadOnly s (runOps i o ops k s) := by
  have hops : HeadOnly s (ops.foldl (runOp i k) (0, s)).2 :=
    foldl_inv (fun a : Nat × State => HeadOnly s a.2) (runOp i k) (fun a op h => h.trans ⟨_, _, _, rfl⟩) ops (0, s) (.refl s)
  exact hops.trans (flagEvents_headOnly ..)

theorem runHead_headOnly (i : Image) (hs : List HeadRow) (s : State) : HeadOnly s (runHead i hs s) :=
  foldl_inv (HeadOnly s) _ (fun t h ht => ht.trans (runOps_headOnly i ⟨0, 0⟩ h.ops h.slot t)) hs s (.refl s)

/-! ## The KV that is sent after verification (R225, R228, R283, R313) -/

/-- A stream without what the KV writer notes in it: its pool entries and its block selections. -/
def Stream.unsent (t : Stream) : Stream := { t with taken := [], chosen := [] }

/-- Nothing but the live streams' pool entries and selections, and the bytes of the shelf, has changed. -/
structure KvSent (s t : State) : Prop where
  rest : { t with str := s.str, shelf := s.shelf } = s
  streams : { t.str with live := s.str.live } = s.str
  moved : t.shelf.moved = s.shelf.moved
  live : t.str.live.map (fun p => (p.1, p.2.unsent)) = s.str.live.map fun p => (p.1, p.2.unsent)

namespace KvSent
variable {s t u : State}

theorem refl (s : State) : KvSent s s := ⟨rfl, rfl, rfl, rfl⟩

theorem trans (h : KvSent s t) (k : KvSent t u) : KvSent s u where
  rest := by
    calc { u with str := s.str, shelf := s.shelf }
      _ = { ({ u with str := t.str, shelf := t.shelf } : State) with str := s.str, shelf := s.shelf } := rfl
      _ = { t with str := s.str, shelf := s.shelf } := by rw [k.rest]
      _ = s := h.rest
  streams := by
    calc { u.str with live := s.str.live }
      _ = { ({ u.str with live := t.str.live } : Streams) with live := s.str.live } := rfl
      _ = { t.str with live := s.str.live } := by rw [k.streams]
      _ = s.str := h.streams
  moved := k.moved.trans h.moved
  live := k.live.trans h.live

theorem foldl {β : Type} {f : State → β → State} (h : ∀ s b, KvSent s (f s b)) (l : List β) (s : State) : KvSent s (l.foldl f s) :=
  foldl_inv (KvSent s) f (fun t b ht => ht.trans (h t b)) l s (.refl s)

end KvSent

theorem setStack_kvSent (n : Nat) (f : Stack → Stack) (s : State) : KvSent s (setStack n f s) := ⟨rfl, rfl, rfl, rfl⟩

theorem writeKv_kvSent (i : Image) (page idx first : Nat) (bs : List (Byte × Bool)) (s : State) :
    KvSent s (writeKv i page idx first bs s) := .foldl (fun s _ => setStack_kvSent _ _ s) _ s

/-- What a change of streams keeps of them, it keeps in every live record. -/
theorem setLive_views {α : Type} (g : Stream → α) {f : Stream → Stream} (hf : ∀ t, g (f t) = g t) (n : Nat) (s : State) :
    (setLive n f s).str.live.map (fun p => (p.1, g p.2)) = s.str.live.map fun p => (p.1, g p.2) := by
  unfold setLive
  rw [List.map_map]
  refine List.map_congr_left fun p _ => ?_
  by_cases hp : p.1 = n
  · simp [hp, hf]
  · simp [hp]

theorem setLive_kvSent {f : Stream → Stream} (hf : ∀ t, (f t).unsent = t.unsent) (n : Nat) (s : State) : KvSent s (setLive n f s) :=
  ⟨rfl, rfl, rfl, setLive_views Stream.unsent hf n s⟩

/-- What does not depend on the KV writer's notes is as before in every live record. -/
theorem KvSent.views {α : Type} {s t : State} (h : KvSent s t) (g : Stream → α) (hg : ∀ t, g t.unsent = g t) :
    t.str.live.map (fun p => (p.1, g p.2)) = s.str.live.map fun p => (p.1, g p.2) := by
  have hmap := congrArg (List.map fun p : Nat × Stream => (p.1, g p.2)) h.live
  simpa only [List.map_map, Function.comp_def, hg] using hmap

/-- The writes of a token's KV, each from a byte of its record on (R225, R227). -/
def kvWrites (i : Image) (x : KvToken) (used : Nat) : List (Nat × List (Byte × Bool)) :=
  let l := i.layer x.layer
  let tok := x.position % 64
  [(tok * i.kvBytes, x.payload), (kvScaleAt i + tok * kvScaleBytes i l, x.scales)]
    ++ x.entries.zipIdx.map (fun e => (kvPoolAt i l + 64 * (used + e.2), e.1))
    ++ [(kvHeaderAt i l, [(BitVec.ofNat 8 (used + x.entries.length), false), (BitVec.ofNat 8 (tok + 1), false)])]
    ++ x.summary.toList.map fun bs => (kvSummaryAt i l, bs)

/-- What the KV writer notes in the stream whose token it sends (R63, R272). -/
def noteKv (x : KvToken) (t : Stream) : Stream :=
  { takeEntriesOf x.layer x.position x.entries.length t with
    chosen := match x.chosen with
      | some bs => (t.chosen.filter fun c => !(c.1 = x.layer && c.2.1 = (x.position + 1) / 64)) ++ [(x.layer, (x.position + 1) / 64, bs)]
      | none => t.chosen }

/-- A token's KV is noted in its stream, then written where its record stands. -/
theorem sendKv_eq {i : Image} {x : KvToken} {s : State} {t : Stream} (h : liveAt x.record s = some t) : sendKv i x s =
    match recordAt i t x.layer (x.position / 64) (setLive x.record (noteKv x) s) with
    | none => setLive x.record (noteKv x) s
    | some a => (kvWrites i x (poolUsed t x.layer x.position)).foldl (fun s y => writeKv i a.1 a.2 y.1 y.2 s)
        (setLive x.record (noteKv x) s) := by
  unfold sendKv
  simp only [h]
  simp only [kvWrites, List.foldl_append, List.foldl_cons, List.foldl_nil, List.foldl_map]
  cases x.summary <;> rfl

theorem sendKv_absent {i : Image} {x : KvToken} {s : State} (h : liveAt x.record s = none) : sendKv i x s = s := by
  unfold sendKv
  simp only [h]

theorem kvWrites_kvSent (i : Image) (a : Nat × Nat) (ys : List (Nat × List (Byte × Bool))) (s : State) :
    KvSent s (ys.foldl (fun s y => writeKv i a.1 a.2 y.1 y.2 s) s) := .foldl (fun s _ => writeKv_kvSent _ _ _ _ _ s) ys s

theorem noteKv_kvSent (x : KvToken) (s : State) : KvSent s (setLive x.record (noteKv x) s) := by
  refine setLive_kvSent ?_ _ s
  exact fun _ => rfl

theorem sendKv_kvSent (i : Image) (x : KvToken) (s : State) : KvSent s (sendKv i x s) := by
  cases h : liveAt x.record s with
  | none =>
    rw [sendKv_absent h]
    exact .refl s
  | some t =>
    rw [sendKv_eq h]
    split
    · exact noteKv_kvSent x s
    · exact (noteKv_kvSent x s).trans (kvWrites_kvSent ..)

/-! ### Where records stand -/

/-- What the places of a stream's records depend on (R228, R277). -/
def Stream.kvPlace (t : Stream) : List KvPage × Option Nat × Bool × Nat := (t.pages, t.prefixIndex, t.waitPrefix, t.sharedTokens)

/-- Image, page map, prefixes and the pages of every live record are as before: every KV record stands where it stood. -/
structure SamePlaces (s t : State) : Prop where
  img : t.img = s.img
  moved : t.shelf.moved = s.shelf.moved
  prefixes : t.str.prefixes = s.str.prefixes
  pages : t.str.live.map (fun p => (p.1, p.2.kvPlace)) = s.str.live.map fun p => (p.1, p.2.kvPlace)

theorem KvSent.samePlaces {s t : State} (h : KvSent s t) : SamePlaces s t :=
  ⟨(congrArg State.img h.rest :), h.moved, (congrArg Streams.prefixes h.streams :), h.views Stream.kvPlace fun _ => rfl⟩

/-- An association list with each value mapped. -/
theorem lookup_map_value {α β : Type} (l : List (Nat × α)) (f : α → β) (n : Nat) :
    lookup (l.map fun p => (p.1, f p.2)) n = (lookup l n).map f := by
  unfold lookup
  rw [List.find?_map, Option.map_map, Option.map_map]
  rfl

namespace SamePlaces
variable {s t : State}

theorem kvUnit (h : SamePlaces s t) (i : Image) (page idx u : Nat) : kvUnit i page idx u t = kvUnit i page idx u s := by
  change Machine.kvUnit i page idx u { s with img := t.img, shelf := { s.shelf with moved := t.shelf.moved } } = _
  rw [h.img, h.moved]

theorem recordAt (h : SamePlaces s t) {y z : Stream} (hyz : z.kvPlace = y.kvPlace) (i : Image) (l b : Nat) :
    recordAt i z l b t = recordAt i y l b s := by
  simp only [Stream.kvPlace, Prod.mk.injEq] at hyz
  obtain ⟨hpages, hindex, hwait, hshared⟩ := hyz
  change Machine.recordAt i { y with pages := z.pages, prefixIndex := z.prefixIndex, waitPrefix := z.waitPrefix
                                     sharedTokens := z.sharedTokens } l b
    { s with img := t.img, str := { s.str with prefixes := t.str.prefixes } } = _
  rw [hpages, hindex, hwait, hshared, h.img, h.prefixes]

theorem liveAt (h : SamePlaces s t) (n : Nat) : (liveAt n t).map Stream.kvPlace = (liveAt n s).map Stream.kvPlace := by
  have hview (u : State) : (Machine.liveAt n u).map Stream.kvPlace = lookup (u.str.live.map fun p => (p.1, p.2.kvPlace)) n :=
    (lookup_map_value u.str.live Stream.kvPlace n).symm
  rw [hview, hview, h.pages]

end SamePlaces

/-! ### Which bytes of the shelf it touches -/

/-- A byte of stack k outside every word of the record at a place (R228, R313). -/
def OutsideRecord (i : Image) (p : Nat × Nat) (k a : Nat) (s : State) : Prop :=
  ∀ w, let q := kvUnit i p.1 p.2 (w / 8) s
    q.1 = k → a < 9 * (q.2 * 8 + w % 8) ∨ 9 * (q.2 * 8 + w % 8) + 9 ≤ a

/-- A byte of stack k outside the record that a token's KV goes to. -/
def OutsideToken (i : Image) (x : KvToken) (k a : Nat) (s : State) : Prop :=
  ∀ y, liveAt x.record s = some y → ∀ p, recordAt i y x.layer (x.position / 64) s = some p → OutsideRecord i p k a s

theorem OutsideRecord.congr {i : Image} {p : Nat × Nat} {k a : Nat} {s t : State} (h : OutsideRecord i p k a s) (hp : SamePlaces s t) :
    OutsideRecord i p k a t := fun w => by
  rw [hp.kvUnit]
  exact h w

theorem OutsideToken.congr {i : Image} {x : KvToken} {k a : Nat} {s t : State} (h : OutsideToken i x k a s) (hp : SamePlaces s t) :
    OutsideToken i x k a t := by
  intro z hz p hat
  have hlive := hp.liveAt x.record
  rw [hz] at hlive
  obtain ⟨y, hy, hyz⟩ := Option.map_eq_some_iff.mp hlive.symm
  exact (h y hy p (by rw [← hp.recordAt hyz.symm i, hat])).congr hp

section Bytes
variable {i : Image} {k a : Nat} {s : State}

theorem writeKvWord_read {p : Nat × Nat} (h : OutsideRecord i p k a s) (w : Nat) (bs : List (Byte × Bool)) :
    Memory.read ((writeKvWord i p.1 p.2 w bs s).stack k).mem a = Memory.read (s.stack k).mem a := by
  unfold writeKvWord
  rw [setStack_stack]
  split
  next hk => exact read_writeSlots_out _ _ _ _ (by have := h w hk.1; simpa [Nat.mul_add] using this)
  next => rfl

theorem writeKv_read {p : Nat × Nat} (h : OutsideRecord i p k a s) (first : Nat) (bs : List (Byte × Bool)) :
    Memory.read ((writeKv i p.1 p.2 first bs s).stack k).mem a = Memory.read (s.stack k).mem a := by
  refine (foldl_inv (fun t => KvSent s t ∧ Memory.read (t.stack k).mem a = Memory.read (s.stack k).mem a) _ (fun t w ht => ?_) _ s
    ⟨.refl s, rfl⟩).2
  exact ⟨ht.1.trans (setStack_kvSent ..), (writeKvWord_read (h.congr ht.1.samePlaces) ..).trans ht.2⟩

theorem kvWrites_read {p : Nat × Nat} (h : OutsideRecord i p k a s) (ys : List (Nat × List (Byte × Bool))) :
    Memory.read ((ys.foldl (fun s y => writeKv i p.1 p.2 y.1 y.2 s) s).stack k).mem a = Memory.read (s.stack k).mem a := by
  refine (foldl_inv (fun t => KvSent s t ∧ Memory.read (t.stack k).mem a = Memory.read (s.stack k).mem a) _ (fun t y ht => ?_) ys s
    ⟨.refl s, rfl⟩).2
  exact ⟨ht.1.trans (writeKv_kvSent ..), (writeKv_read (h.congr ht.1.samePlaces) ..).trans ht.2⟩

theorem sendKv_read {x : KvToken} (h : OutsideToken i x k a s) :
    Memory.read ((sendKv i x s).stack k).mem a = Memory.read (s.stack k).mem a := by
  cases hlive : liveAt x.record s with
  | none => rw [sendKv_absent hlive]
  | some t =>
    have hplaces := (noteKv_kvSent x s).samePlaces
    rw [sendKv_eq hlive, hplaces.recordAt (y := t) rfl]
    split
    next => rfl
    next p hp => exact kvWrites_read ((h t hlive p hp).congr hplaces) _

theorem sendKvs_read {xs : List KvToken} (h : ∀ x ∈ xs, OutsideToken i x k a s) :
    Memory.read ((xs.foldl (fun s x => sendKv i x s) s).stack k).mem a = Memory.read (s.stack k).mem a := by
  induction xs generalizing s with
  | nil => rfl
  | cons x xs ih =>
    have hrest : ∀ y ∈ xs, OutsideToken i y k a (sendKv i x s) :=
      fun y hy => (h y (List.mem_cons_of_mem _ hy)).congr (sendKv_kvSent i x s).samePlaces
    exact (ih hrest).trans (sendKv_read (h x List.mem_cons_self))

end Bytes

/-! ### The commit (R283) -/

/-- The KV that waits for the nodes accepted, in path order. -/
def acceptedKv (accepted : List (Nat × List Nat)) (s : State) : List KvToken :=
  accepted.flatMap fun a => a.2.flatMap fun v => s.fabric.heldKv.filter fun x => x.record = a.1 && x.node = v

/-- The accepted KV sent. -/
def kvCommitted (i : Image) (accepted : List (Nat × List Nat)) (s : State) : State :=
  (acceptedKv accepted s).foldl (fun s x => sendKv i x s) s

theorem commitKv_eq (i : Image) (accepted : List (Nat × List Nat)) (s : State) : commitKv i accepted s =
    { kvCommitted i accepted s with fabric := { (kvCommitted i accepted s).fabric with heldKv := [] } } := rfl

theorem kvCommitted_kvSent (i : Image) (accepted : List (Nat × List Nat)) (s : State) : KvSent s (kvCommitted i accepted s) :=
  .foldl (fun s x => sendKv_kvSent i x s) _ s

theorem commitKv_read {i : Image} {accepted : List (Nat × List Nat)} {k a : Nat} {s : State}
    (h : ∀ x ∈ s.fabric.heldKv, OutsideToken i x k a s) :
    Memory.read ((commitKv i accepted s).stack k).mem a = Memory.read (s.stack k).mem a := by
  refine sendKvs_read (xs := acceptedKv accepted s) fun x hx => h x ?_
  obtain ⟨_, -, hx⟩ := List.mem_flatMap.mp hx
  obtain ⟨_, -, hx⟩ := List.mem_flatMap.mp hx
  exact (List.mem_filter.mp hx).1

end Sys2Proof.Machine

namespace Sys2Proof.Machine

/-! ## The sampling phase (R283, R286, R299, R300) -/

/-- What the sampling phase leaves: the tide, the image, the combs, the configuration, the fabric but for the registers and the KV
that waits, every record's place, and every stream's history. -/
structure SamplingKeeps (s t : State) : Prop extends SamePlaces s t where
  tide : t.tide = s.tide
  combs : t.combs = s.combs
  config : SameConfig s t
  fabric : { t.fabric with wide := s.fabric.wide, heldKv := s.fabric.heldKv } = s.fabric
  histories : t.str.live.map (fun p => (p.1, history p.2)) = s.str.live.map fun p => (p.1, history p.2)

namespace SamplingKeeps
variable {s t u : State}

theorem refl (s : State) : SamplingKeeps s s := ⟨⟨rfl, rfl, rfl, rfl⟩, rfl, rfl, ⟨rfl, rfl, rfl, rfl⟩, rfl, rfl⟩

theorem trans (h : SamplingKeeps s t) (k : SamplingKeeps t u) : SamplingKeeps s u where
  img := k.img.trans h.img
  moved := k.moved.trans h.moved
  prefixes := k.prefixes.trans h.prefixes
  pages := k.pages.trans h.pages
  tide := k.tide.trans h.tide
  combs := k.combs.trans h.combs
  config := h.config.trans k.config
  fabric := by
    calc { u.fabric with wide := s.fabric.wide, heldKv := s.fabric.heldKv }
      _ = { ({ u.fabric with wide := t.fabric.wide, heldKv := t.fabric.heldKv } : Fabric) with
            wide := s.fabric.wide, heldKv := s.fabric.heldKv } := rfl
      _ = { t.fabric with wide := s.fabric.wide, heldKv := s.fabric.heldKv } := by rw [k.fabric]
      _ = s.fabric := h.fabric
  histories := k.histories.trans h.histories

theorem foldl {β : Type} {f : State → β → State} (h : ∀ s b, SamplingKeeps s (f s b)) (l : List β) (s : State) :
    SamplingKeeps s (l.foldl f s) := foldl_inv (SamplingKeeps s) f (fun t b ht => ht.trans (h t b)) l s (.refl s)

end SamplingKeeps

theorem HeadOnly.keeps {s t : State} (h : HeadOnly s t) : SamplingKeeps s t := by
  obtain ⟨_, _, _, rfl⟩ := h
  exact { SamplingKeeps.refl s with }

theorem KvSent.keeps {s t : State} (h : KvSent s t) : SamplingKeeps s t where
  toSamePlaces := h.samePlaces
  tide := (congrArg State.tide h.rest :)
  combs := (congrArg State.combs h.rest :)
  config := ⟨(congrArg State.ident h.rest :), (congrArg State.cfg h.rest :), (congrArg State.live h.rest :), (congrArg State.flash h.rest :)⟩
  fabric := by
    have hfabric : t.fabric = s.fabric := (congrArg State.fabric h.rest :)
    rw [hfabric]
  histories := h.views history fun _ => rfl

theorem commitKv_keeps (i : Image) (accepted : List (Nat × List Nat)) (s : State) : SamplingKeeps s (commitKv i accepted s) := by
  have hsent := (kvCommitted_kvSent i accepted s).keeps
  rw [commitKv_eq]
  exact { hsent with }

theorem commitKv_err (i : Image) (accepted : List (Nat × List Nat)) (s : State) : (commitKv i accepted s).err = s.err :=
  (congrArg State.err (kvCommitted_kvSent i accepted s).rest :)

theorem setLive_samplingKeeps {f : Stream → Stream} (hf : ∀ t, (f t).kvPlace = t.kvPlace ∧ history (f t) = history t) (n : Nat) (s : State) :
    SamplingKeeps s (setLive n f s) :=
  { SamplingKeeps.refl s with
    pages := setLive_views Stream.kvPlace (fun t => (hf t).1) n s
    histories := setLive_views history (fun t => (hf t).2) n s }

/-! ### A poisoned batch (R296, R300) -/

theorem discardBatch_keeps (s : State) : SamplingKeeps s (discardBatch s) :=
  { SamplingKeeps.refl s with
    pages := by simp [discardBatch, Function.comp_def, Stream.kvPlace]
    histories := by simp [discardBatch, Function.comp_def, history] }

theorem discardBatch_live (s : State) : ∀ p ∈ (discardBatch s).str.live, p.2.rows = 0 ∧ p.2.stepOut = none := by
  intro p hp
  obtain ⟨_, -, rfl⟩ := List.mem_map.mp hp
  exact ⟨rfl, rfl⟩

theorem runSampling_poisoned {i : Image} {rows : List LogitRow} {s : State} (h : batchPoisoned s = true) :
    runSampling i rows s = commitKv i [] (discardBatch s) := if_pos h

/-! ### The outcomes of a batch that stands (R286, R299) -/

/-- The outcome of each record that has rows in the step, with its accepted nodes. -/
def sampledOuts (i : Image) (rows : List LogitRow) (s : State) : List (Nat × StepOut × List Nat) :=
  s.str.live.filterMap fun p =>
    if p.2.rows = 0 then none
    else if p.2.state = .prefill then some (p.1, prefillStream i rows p.1 p.2 s, [])
    else if p.2.tree = [] then none
    else (let v := verifyStream i rows p.1 p.2 s; some (p.1, v.1, v.2))

/-- A stream with its outcome of the step. -/
def Stream.withOut (o : StepOut) (t : Stream) : Stream := { t with stepOut := some o }

/-- A stream that poison closes. -/
def Stream.poisonClosed (t : Stream) : Stream :=
  { t with rows := 0, tree := [], event := { t.event with close := some (t.event.close.getD 5) } }

/-- The outcomes stand in their streams. -/
def outsTaken (outs : List (Nat × StepOut × List Nat)) (s : State) : State :=
  outs.foldl (fun s o => setLive o.1 (Stream.withOut o.2.1) s) s

theorem closePoisoned_eq (s : State) :
    closePoisoned s = (poisonedRecords s).foldl (fun s n => setLive n Stream.poisonClosed s) s := rfl

/-- The streams that poison closes are closed, and the outcomes of the others stand. -/
def sampled (i : Image) (rows : List LogitRow) (s : State) : State :=
  outsTaken (sampledOuts i rows (closePoisoned s)) (closePoisoned s)

/-- The nodes whose KV is sent. -/
def sampledNodes (i : Image) (rows : List LogitRow) (s : State) : List (Nat × List Nat) :=
  (sampledOuts i rows (closePoisoned s)).map fun o => (o.1, o.2.2)

/-- The step's poison reports are settled (R299). -/
def reportsSettled (s : State) : State := { s with err := { s.err with reports := [] } }

theorem reportsSettled_stack (s : State) (k : Nat) : (reportsSettled s).stack k = s.stack k := rfl

theorem reportsSettled_keeps {s t : State} (h : SamplingKeeps s t) : SamplingKeeps s (reportsSettled t) := { h with }

theorem runSampling_clean {i : Image} {rows : List LogitRow} {s : State} (h : batchPoisoned s = false) :
    runSampling i rows s = reportsSettled (commitKv i (sampledNodes i rows s) (sampled i rows s)) := if_neg (by simp [h])

/-- Nothing but streams has changed, in what the sampling phase may change of them. -/
structure StreamsSettled (s t : State) : Prop extends SamplingKeeps s t where
  err : t.err = s.err
  sameFabric : t.fabric = s.fabric
  shelf : t.shelf = s.shelf

theorem StreamsSettled.refl (s : State) : StreamsSettled s s := ⟨.refl s, rfl, rfl, rfl⟩

theorem StreamsSettled.trans {s t u : State} (h : StreamsSettled s t) (k : StreamsSettled t u) : StreamsSettled s u :=
  ⟨h.toSamplingKeeps.trans k.toSamplingKeeps, k.err.trans h.err, k.sameFabric.trans h.sameFabric, k.shelf.trans h.shelf⟩

theorem setLive_settled {f : Stream → Stream} (hf : ∀ t, (f t).kvPlace = t.kvPlace ∧ history (f t) = history t) (n : Nat) (s : State) :
    StreamsSettled s (setLive n f s) := ⟨setLive_samplingKeeps hf n s, rfl, rfl, rfl⟩

theorem sampled_settled (i : Image) (rows : List LogitRow) (s : State) : StreamsSettled s (sampled i rows s) := by
  have hcloses : StreamsSettled s (closePoisoned s) :=
    foldl_inv (StreamsSettled s) _ (fun t n ht => ht.trans (setLive_settled (f := Stream.poisonClosed) (fun _ => ⟨rfl, rfl⟩) n t)) _ s (.refl s)
  exact foldl_inv (StreamsSettled s) _ (fun t (o : Nat × StepOut × List Nat) ht =>
    ht.trans (setLive_settled (f := Stream.withOut o.2.1) (fun _ => ⟨rfl, rfl⟩) o.1 t)) _ _ hcloses

/-! ### One stream -/

section One
variable {n : Nat} {y : Stream} {s : State} (hone : s.str.live = [(n, y)])
include hone

theorem setLive_one (f : Stream → Stream) : (setLive n f s).str.live = [(n, f y)] := by simp [setLive, hone]

theorem setLive_none {m : Nat} (h : m ≠ n) (f : Stream → Stream) : setLive m f s = s := by
  have hlive : (setLive m f s).str.live = s.str.live := by simp [setLive, hone, h.symm]
  calc setLive m f s
    _ = { s with str := { s.str with live := (setLive m f s).str.live } } := rfl
    _ = s := by rw [hlive]

theorem closePoisoned_none (h : n ∉ poisonedRecords s) : closePoisoned s = s := by
  rw [closePoisoned_eq]
  generalize poisonedRecords s = ms at h
  induction ms with
  | nil => rfl
  | cons m ms ih =>
    rw [List.foldl_cons, setLive_none hone (List.ne_of_not_mem_cons h).symm]
    exact ih (List.not_mem_of_not_mem_cons h)

/-- The outcome of the one stream that has rows is that of its prefill or of its tree. -/
theorem sampled_one {i : Image} {rows : List LogitRow} (h : n ∉ poisonedRecords s) (hrows : y.rows ≠ 0)
    (hkind : y.state = .prefill ∨ y.tree ≠ []) : (sampled i rows s).str.live =
      [(n, { y with stepOut := some (if y.state = .prefill then prefillStream i rows n y s else (verifyStream i rows n y s).1) })] := by
  rw [sampled, closePoisoned_none hone h]
  by_cases hp : y.state = .prefill
  · have houts : sampledOuts i rows s = [(n, prefillStream i rows n y s, [])] := by simp [sampledOuts, hone, hrows, hp]
    rw [houts, if_pos hp]
    exact setLive_one hone (Stream.withOut _)
  · have houts : sampledOuts i rows s = [(n, verifyStream i rows n y s)] := by
      simp [sampledOuts, hone, hrows, hp, hkind.resolve_left hp]
    rw [houts, if_neg hp]
    exact setLive_one hone (Stream.withOut _)

/-- After KV has been sent the one stream is as before but for the KV writer's notes. -/
theorem KvSent.one {t : State} (h : KvSent s t) : ∃ z, t.str.live = [(n, z)] ∧ z.unsent = y.unsent := by
  have hlive := h.live
  rw [hone, List.map_singleton] at hlive
  obtain ⟨⟨m, z⟩, hz, hp⟩ := List.map_eq_singleton_iff.mp hlive
  obtain ⟨rfl, hyz⟩ := Prod.mk.inj hp
  exact ⟨z, hz, hyz⟩

end One

/-- Streams that differ in the KV writer's notes alone are the same with the notes of one of them. -/
theorem eq_of_unsent {x z : Stream} (h : z.unsent = x.unsent) : { z with taken := x.taken, chosen := x.chosen } = x := by
  calc { z with taken := x.taken, chosen := x.chosen }
    _ = { z.unsent with taken := x.taken, chosen := x.chosen } := rfl
    _ = { x.unsent with taken := x.taken, chosen := x.chosen } := by rw [h]
    _ = x := rfl

theorem exec_samplingPhase {heads : List HeadRow} {s : State} {i : Image} (ha : s.awake = true) (hi : s.img.image = some i)
    (hrun : s.tide.dp = .running) (hp : s.tide.prologue = false) (hphase : inSampling s = true)
    (houts : ∀ p ∈ s.str.live, p.2.stepOut = none)
    (hfull : headComplete i (heads.filterMap fun h => logitRow h (runHead i heads s)) s = true) :
    exec (.samplingPhase heads) s =
      .next (runSampling i (heads.filterMap fun h => logitRow h (runHead i heads s)) (runHead i heads s)) := by
  change Host.Outcome.next _ = _
  have hnone : s.str.live.all (fun p => p.2.stepOut.isNone) = true := List.all_eq_true.mpr fun p hp => by simp [houts p hp]
  simp only [hi]
  exact congrArg Host.Outcome.next (if_pos ⟨ha, hrun, hp, hphase, hnone, hfull⟩)

/-- What the sampling phase keeps, poisoned or not, and the bytes that it leaves. -/
theorem runSampling_keeps (i : Image) (rows : List LogitRow) (s : State) :
    SamplingKeeps s (runSampling i rows s) ∧ (runSampling i rows s).fabric.heldKv = [] ∧ (runSampling i rows s).err.reports = [] ∧
      ∀ k a, (∀ x ∈ s.fabric.heldKv, OutsideToken i x k a s) →
        Memory.read ((runSampling i rows s).stack k).mem a = Memory.read (s.stack k).mem a := by
  cases hb : batchPoisoned s with
  | true =>
    rw [runSampling_poisoned hb]
    refine ⟨(discardBatch_keeps s).trans (commitKv_keeps ..), rfl, ?_, fun k a _ => rfl⟩
    rw [commitKv_err]
    rfl
  | false =>
    have hsampled := sampled_settled i rows s
    have hkeeps := hsampled.toSamplingKeeps.trans (commitKv_keeps i (sampledNodes i rows s) (sampled i rows s))
    rw [runSampling_clean hb]
    refine ⟨reportsSettled_keeps hkeeps, rfl, rfl, fun k a h => ?_⟩
    have hstack : Memory.read ((sampled i rows s).stack k).mem a = Memory.read (s.stack k).mem a := by rw [stack_congr hsampled.shelf]
    have houtside : ∀ x ∈ (sampled i rows s).fabric.heldKv, OutsideToken i x k a (sampled i rows s) := by
      rw [hsampled.sameFabric]
      exact fun x hx => (h x hx).congr hsampled.toSamePlaces
    rw [reportsSettled_stack, commitKv_read houtside, hstack]

/-- Settles O48: the head's rows, the outcomes and the KV that is sent, each by what it may change. -/
theorem samplingSettlesTheStep : Obligations.SamplingSettlesTheStep := by
  unfold Obligations.SamplingSettlesTheStep
  intro heads s i ha hi hrun hp hphase houts u rows hfull t
  have hhead : HeadOnly s u := runHead_headOnly i heads s
  obtain ⟨hkeeps, hheld, hreports, hbytes⟩ := runSampling_keeps i rows u
  have hall := hhead.keeps.trans hkeeps
  obtain ⟨w, r, l, hu⟩ := hhead
  have hpoison : batchPoisoned u = batchPoisoned s := by rw [hu]; rfl
  refine ⟨exec_samplingPhase ha hi hrun hp hphase houts hfull, hall.tide, hall.img, hall.combs, hall.config, hall.fabric, hheld,
    hreports, hall.histories, fun hb => ?_, fun hb => ?_, fun k a h => ?_⟩
  · have ht : t = commitKv i [] (discardBatch u) := runSampling_poisoned (hpoison.trans hb)
    rw [ht, commitKv_err]
    exact ⟨discardBatch_live u, rfl, by rw [hu]; rfl⟩
  · have ht := runSampling_clean (i := i) (rows := rows) (hpoison.trans hb)
    have hraised : t.err.raised = u.err.raised := by
      have herr : (commitKv i (sampledNodes i rows u) (sampled i rows u)).err = u.err :=
        (commitKv_err ..).trans (sampled_settled i rows u).err
      rw [show t = _ from ht, ← herr]
      rfl
    refine ⟨hraised, fun n y hone hn hrows hkind => ?_⟩
    have hone' : u.str.live = [(n, y)] := by rw [hu]; exact hone
    have hn' : n ∉ poisonedRecords u := by rw [hu]; exact hn
    obtain ⟨z, hz, hnotes⟩ := (kvCommitted_kvSent i (sampledNodes i rows u) (sampled i rows u)).one (sampled_one hone' hn' hrows hkind)
    exact ⟨z, (congrArg (fun v => v.str.live) ht).trans hz, eq_of_unsent hnotes⟩
  · have hstack : Memory.read (u.stack k).mem a = Memory.read (s.stack k).mem a := by rw [hu]; rfl
    refine (hbytes k a fun x hx => ?_).trans hstack
    rw [hu] at hx ⊢
    exact h x hx

end Sys2Proof.Machine

namespace Sys2Proof.Machine

/-! ## Units that are restored (R226, R303) -/

/-- Cove, configuration and combs are as before, and of the shelf every unit that reads. -/
structure UnitsRestored (s t : State) : Prop where
  cove : t.cove = s.cove
  cfg : t.cfg = s.cfg
  combs : t.combs = s.combs
  readable : ∀ n u, ((readUnit (s.stack n).mem u).any (·.poison)) = false → readUnit (t.stack n).mem u = readUnit (s.stack n).mem u

namespace UnitsRestored
variable {s t v : State}

theorem refl (s : State) : UnitsRestored s s := ⟨rfl, rfl, rfl, fun _ _ _ => rfl⟩

theorem trans (h : UnitsRestored s t) (k : UnitsRestored t v) : UnitsRestored s v where
  cove := k.cove.trans h.cove
  cfg := k.cfg.trans h.cfg
  combs := k.combs.trans h.combs
  readable n u hu := by
    have hread := h.readable n u hu
    exact (k.readable n u (by rw [hread]; exact hu)).trans hread

theorem foldl {β : Type} {f : State → β → State} (h : ∀ s b, UnitsRestored s (f s b)) (l : List β) (s : State) :
    UnitsRestored s (l.foldl f s) := foldl_inv (UnitsRestored s) f (fun t b ht => ht.trans (h t b)) l s (.refl s)

end UnitsRestored

/-- One unit of a stack written. -/
def putUnit (j u : Nat) (ws : List Word64) (s : State) : State := setStack j (fun x => { x with mem := writeUnits x.mem u ws }) s

theorem putUnit_other {j u n v : Nat} {ws : List Word64} (hl : ws.length = 8) (h : n = j → v ≠ u) (s : State) :
    readUnit ((putUnit j u ws s).stack n).mem v = readUnit (s.stack n).mem v := by
  rw [putUnit, setStack_stack]
  split
  next hj => exact (readSlots_record _ hl).2 (h hj.1.symm)
  next => rfl

theorem putUnits_other {j u n v : Nat} {ws : List Word64} {ks : List Nat} (hks : ∀ k ∈ ks, k < ws.length / 8)
    (h : n = j → ∀ k ∈ ks, v ≠ u + k) (s : State) :
    readUnit ((ks.foldl (fun s k => putUnit j (u + k) ((ws.drop (8 * k)).take 8) s) s).stack n).mem v = readUnit (s.stack n).mem v := by
  induction ks generalizing s with
  | nil => rfl
  | cons k ks ih =>
    have hlen : ((ws.drop (8 * k)).take 8).length = 8 := by
      have := hks k List.mem_cons_self
      simp only [List.length_take, List.length_drop]
      omega
    rw [List.foldl_cons, ih (fun x hx => hks x (List.mem_cons_of_mem _ hx)) (fun hn x hx => h hn x (List.mem_cons_of_mem _ hx))]
    exact putUnit_other hlen (fun hn => h hn k List.mem_cons_self) s

/-- The units restored are those that do not read. -/
theorem restoreUnits_restored (j u : Nat) (ws : List Word64) (s : State) : UnitsRestored s (restoreUnits j u ws s) where
  cove := by simp
  cfg := by simp
  combs := by simp
  readable n v hv := by
    refine putUnits_other (ks := (List.range (ws.length / 8)).filter fun k => (readUnit (s.stack j).mem (u + k)).any (·.poison))
      (fun k hk => List.mem_range.mp (List.mem_filter.mp hk).1) (fun hn k hk huk => ?_) s
    obtain ⟨-, hbad⟩ := List.mem_filter.mp hk
    rw [hn, huk, hbad] at hv
    contradiction

theorem refetchRange_restored (i : Image) (lo hi : Nat) (s : State) (n : Nat) : UnitsRestored s (refetchRange i lo hi s n) := by
  unfold refetchRange
  dsimp only
  split
  · split
    · exact restoreUnits_restored ..
    · exact .refl s
  · exact .refl s

theorem refetchCode_restored (i : Image) (lo hi : Nat) (s : State) : UnitsRestored s (refetchCode i lo hi s) := by
  unfold refetchCode
  dsimp only
  split
  · exact .foldl (fun s j => restoreUnits_restored _ _ _ s) _ s
  · exact .refl s

theorem refetchChunk_restored (o : CoveObject) (e k : Nat) (s : State) : UnitsRestored s (refetchChunk o e k s) := by
  unfold refetchChunk
  split
  · dsimp only
    split
    · exact .trans (.foldl (fun s n => refetchRange_restored _ _ _ s n) _ s) (refetchCode_restored ..)
    · exact .refl s
  · exact .refl s

/-- A chunk of another object than the running image's restores nothing. -/
theorem refetchChunk_other {o : CoveObject} {s : State} (h : o.kind ≠ 1 ∨ o.digest ≠ s.img.digest) (e k : Nat) :
    refetchChunk o e k s = s := by
  unfold refetchChunk
  split
  next hdata _ =>
    exact if_neg (h.resolve_left (not_not_intro (by simp [CoveObject.kind, hdata])))
  next => rfl

/-! ## Reads of the cove (R226, R239, R304) -/

/-- The state with a chunk's read counted on its stack. -/
def chunkCounted (j : Nat) (s : State) : State := countCove j (fun r => { r with readEpoch := satAdd r.readEpoch 4 }) s

/-- A chunk that stands in a committed object whose key is alive. -/
structure ChunkStands (o : CoveObject) (e k : Nat) (s : State) : Prop where
  awake : s.awake = true
  mounted : s.cove.mounted = true
  committed : o.committed = true
  keyAlive : o.keyAlive = true
  extent : e < o.extents
  chunk : k < 64
  inside : k * 4194304 < extentLength o e

/-- What the end of a good read of a chunk leaves unchanged. -/
theorem chunkRead_frame {j : Source} {site : BitVec 128 × Nat × Nat} {s : State} :
    (progress j (settleReads site s)).cfg = s.cfg ∧ (progress j (settleReads site s)).combs = s.combs ∧
    (progress j (settleReads site s)).shelf = s.shelf := ⟨rfl, rfl, rfl⟩

theorem chunkRead_cove {j : Source} {site : BitVec 128 × Nat × Nat} {s : State} :
    (progress j (settleReads site s)).cove = { s.cove with rereads := s.cove.rereads.filter (· ≠ site) } := rfl

section Chunk
variable {id : BitVec 128} {e k : Nat} {s : State} {o : CoveObject} (ho : findObject id.toNat s = some o) (h : ChunkStands o e k s)
include ho h

/-- What a read of a chunk comes to, by what was found and how often it has failed. -/
theorem exec_coveChunkRead (x : ChunkRead) (net : Bool) : exec (.coveChunkRead id e k x net) s =
    let j := (o.startStack + e) % 8
    let bad := countCove j (failedRead x) (chunkCounted j s)
    .next (if x = .good then progress (.coveStack j) (settleReads (id, e, k) (refetchChunk o e k (chunkCounted j s)))
      else if s.cove.rereads.count (id, e, k) < 2 then { bad with cove := { bad.cove with rereads := s.cove.rereads ++ [(id, e, k)] } }
      else if o.kind = 1 ∧ net = true ∧ sourceEnabled s = true then
        refetchChunk o e k (journal (countCove j (fun r => { r with extentsCommitted := satInc r.extentsCommitted }) (settleReads (id, e, k) bad)))
      else advanceService (damageObject o (settleReads (id, e, k) bad))) := by
  change Host.Outcome.next _ = _
  simp only [ho]
  exact congrArg Host.Outcome.next (if_pos ⟨h.awake, h.mounted, h.committed, h.keyAlive, h.extent, h.chunk, h.inside⟩)

theorem coveChunkRead_good (net : Bool) : ∃ t, exec (.coveChunkRead id e k .good net) s = .next t ∧
    t.cove = { (chunkCounted ((o.startStack + e) % 8) s).cove with rereads := s.cove.rereads.filter (· ≠ (id, e, k)) } ∧ t.cfg = s.cfg ∧
    t.combs = s.combs ∧ ((o.kind ≠ 1 ∨ o.digest ≠ s.img.digest) → t.shelf = s.shelf) ∧
    ∀ n u, ((readUnit (s.stack n).mem u).any (·.poison)) = false → readUnit (t.stack n).mem u = readUnit (s.stack n).mem u := by
  have hrestored := refetchChunk_restored o e k (chunkCounted ((o.startStack + e) % 8) s)
  refine ⟨_, (exec_coveChunkRead ho h .good net).trans (congrArg Host.Outcome.next (if_pos rfl)), ?_, ?_, ?_, fun hother => ?_, fun n u hu => ?_⟩
  · rw [chunkRead_cove, hrestored.cove]
    rfl
  · rw [chunkRead_frame.1, hrestored.cfg]
    rfl
  · rw [chunkRead_frame.2.1, hrestored.combs]
    rfl
  · rw [chunkRead_frame.2.2, refetchChunk_other (s := chunkCounted ((o.startStack + e) % 8) s) hother]
    rfl
  · rw [stack_congr chunkRead_frame.2.2 n]
    exact hrestored.readable n u hu

theorem coveChunkRead_again {x : ChunkRead} (hx : x ≠ .good) (hcount : s.cove.rereads.count (id, e, k) < 2) (net : Bool) :
    let bad := countCove ((o.startStack + e) % 8) (failedRead x) (chunkCounted ((o.startStack + e) % 8) s)
    exec (.coveChunkRead id e k x net) s =
      .next { bad with cove := { bad.cove with rereads := s.cove.rereads ++ [(id, e, k)] } } :=
  (exec_coveChunkRead ho h x net).trans (congrArg Host.Outcome.next ((if_neg hx).trans (if_pos hcount)))

section Third
variable {x : ChunkRead} (hx : x ≠ .good) (hcount : 2 ≤ s.cove.rereads.count (id, e, k)) {net : Bool}
include hx hcount

theorem coveChunkRead_damages (hnet : o.kind ≠ 1 ∨ net = false ∨ sourceEnabled s = false) : exec (.coveChunkRead id e k x net) s =
    .next (advanceService (damageObject o (settleReads (id, e, k)
      (countCove ((o.startStack + e) % 8) (failedRead x) (chunkCounted ((o.startStack + e) % 8) s))))) := by
  have hserved : ¬(o.kind = 1 ∧ net = true ∧ sourceEnabled s = true) := by
    rintro ⟨hkind, hn, hsource⟩
    simp [hkind, hn, hsource] at hnet
  exact (exec_coveChunkRead ho h x net).trans
    (congrArg Host.Outcome.next (((if_neg hx).trans (if_neg (Nat.not_lt.mpr hcount))).trans (if_neg hserved)))

theorem coveChunkRead_refetches (hkind : o.kind = 1) (hn : net = true) (hsource : sourceEnabled s = true) :
    exec (.coveChunkRead id e k x net) s = .next (refetchChunk o e k (journal (countCove ((o.startStack + e) % 8)
      (fun r => { r with extentsCommitted := satInc r.extentsCommitted }) (settleReads (id, e, k)
      (countCove ((o.startStack + e) % 8) (failedRead x) (chunkCounted ((o.startStack + e) % 8) s)))))) :=
  (exec_coveChunkRead ho h x net).trans
    (congrArg Host.Outcome.next (((if_neg hx).trans (if_neg (Nat.not_lt.mpr hcount))).trans (if_pos ⟨hkind, hn, hsource⟩)))

end Third

end Chunk

/-! ## Scrub, compaction and expiry (R239, R241, R244) -/

theorem exec_coveScrub {id : BitVec 128} {e : Nat} {s : State} {o : CoveObject} (ha : s.awake = true) (hm : s.cove.mounted = true)
    (ho : findObject id.toNat s = some o) (hc : o.committed = true) (he : e < o.extents) (ok : Bool) : exec (.coveScrub id e ok) s =
    .next (countCove ((o.startStack + e) % 8) (fun r =>
      { r with readEpoch := satAdd r.readEpoch (mibOf (extentLength o e))
               digestFailures := if ok then r.digestFailures else satInc r.digestFailures }) s) := by
  change Host.Outcome.next _ = _
  simp only [ho]
  exact congrArg Host.Outcome.next (if_pos ⟨ha, hm, hc, he⟩)

theorem exec_journalCompaction {j : Nat} {s : State} (ha : s.awake = true) (hm : s.cove.mounted = true) (hj : j < 8)
    (hallowed : holdupAllows (inFlightNs s) s = true) : exec (.journalCompaction j) s =
      .next { s with cove := { s.cove with journalSerial := s.cove.journalSerial + BitVec.ofNat 64 (standingRecords j s) } } :=
  congrArg Host.Outcome.next ((if_pos ⟨ha, hm, hj⟩).trans (if_pos hallowed))

/-- The configuration, the words in force and the data plane are as before. -/
def PlaneKept (s t : State) : Prop := t.cfg = s.cfg ∧ t.live = s.live ∧ SameDataPlane s t

theorem PlaneKept.refl (s : State) : PlaneKept s s := ⟨rfl, rfl, rfl, rfl, rfl, rfl, rfl⟩

theorem PlaneKept.trans {s t u : State} (h : PlaneKept s t) (k : PlaneKept t u) : PlaneKept s u := by
  obtain ⟨hcfg, hlive, htide, himg, hcombs, hfabric, hshelf⟩ := h
  obtain ⟨kcfg, klive, ktide, kimg, kcombs, kfabric, kshelf⟩ := k
  exact ⟨kcfg.trans hcfg, klive.trans hlive, ktide.trans htide, kimg.trans himg, kcombs.trans hcombs, kfabric.trans hfabric,
    kshelf.trans hshelf⟩

theorem expireObject_planeKept (t : Nat) (o : CoveObject) (s : State) : PlaneKept s (expireObject t o s) := by
  have hfree : PlaneKept s (freeObject o.id.toNat s) := by simp [PlaneKept, SameDataPlane]
  unfold expireObject
  split
  · split
    · split
      · exact .refl s
      · exact hfree
    · split
      · simp [PlaneKept, SameDataPlane]
      · exact hfree
    · dsimp only
      split
      · split
        · exact .refl s
        · split
          · simp [PlaneKept, SameDataPlane]
          · exact hfree
      · exact hfree
  · exact .refl s

/-- What an operation on one object keeps, its use on every object keeps. -/
theorem eachObject_planeKept {f : CoveObject → State → State} (hf : ∀ o s, PlaneKept s (f o s)) (s : State) :
    PlaneKept s (eachObject f s) := by
  refine foldl_inv (PlaneKept s) _ (fun t o ht => ?_) _ s (.refl s)
  split
  · exact ht.trans (hf _ t)
  · exact ht

theorem expiry_planeKept (t : Nat) (s : State) :
    PlaneKept s (eachObject (expireObject t) (eachObject clampObject (eachObject (dateObject t) s))) := by
  have hdate := eachObject_planeKept (f := dateObject t) (fun o s => by simp [PlaneKept, SameDataPlane]) s
  have hclamp := eachObject_planeKept (f := clampObject) (fun o s => by simp [PlaneKept, SameDataPlane]) (eachObject (dateObject t) s)
  exact (hdate.trans hclamp).trans (eachObject_planeKept (expireObject_planeKept t) _)

theorem exec_coveExpiryCheck {s : State} (ha : s.awake = true) (hm : s.cove.mounted = true) (hv : s.eth.ptp.valid = true) (now : PtpTime) :
    exec (.coveExpiryCheck now) s =
      .next (eachObject (expireObject (seconds now)) (eachObject clampObject (eachObject (dateObject (seconds now)) s))) :=
  congrArg Host.Outcome.next (if_pos ⟨ha, hm, hv⟩)

end Sys2Proof.Machine

namespace Sys2Proof.Machine

/-! ## A park's record commits (R240, R252) -/

/-- A park in which nothing is left but the record of its object. -/
structure ParkStands (n : Nat) (s : State) (t : Stream) (id : BitVec 128) (o : CoveObject) : Prop where
  awake : s.awake = true
  live : liveAt n s = some t
  parking : t.state = .parking
  goesOn : t.event.cancelPark = false
  object : t.parkObject = some id
  found : findObject id.toNat s = some o
  durable : allDurable o = true
  uncommitted : o.committed = false
  wanted : o.cancelled = false

/-- What the commit of a park leads to: a close that waited for it, or PARKED. -/
theorem exec_parkCommit {n : Nat} {s : State} {t : Stream} {id : BitVec 128} {o : CoveObject} (h : ParkStands n s t id o) :
    let u := commitObject o.id.toNat t.live.parkTtl.toNat s
    let d := countCove o.startStack (fun r => { r with deferrals := satInc r.deferrals }) s
    exec (.parkCommit n) s = .next (if holdupAllows (inFlightNs s) s then
        advanceService (startWrites (sweepPrefixes (match t.event.close with
          | some r => closeParked t r t.event.own u
          | none => enterParked n t u)))
      else { d with cove := { d.cove with deferred := true } }) := by
  change Host.Outcome.next _ = _
  have hobject : (t.parkObject.bind fun o => findObject o.toNat s) = some o := by rw [h.object, Option.bind_some, h.found]
  simp only [h.live, hobject]
  exact congrArg Host.Outcome.next (if_pos ⟨h.awake, h.parking, h.goesOn, h.durable, h.uncommitted, h.wanted⟩)

theorem stateFrame_parked (t : Stream) (st : StreamState) (aux : Nat) (s : State) :
    (stateFrame t st aux s).str.parked = s.str.parked := by
  simp [stateFrame, repeatLater]

/-- A park that commits moves its stream from the live records to the parked ones. -/
theorem enterParked_streams (n : Nat) (t : Stream) (s : State) :
    (enterParked n t s).str.live = s.str.live.filter (·.1 ≠ n) ∧
    (enterParked n t s).str.parked = s.str.parked ++ [{ t.atRest with state := .parked }] := by
  unfold enterParked
  dsimp only
  constructor
  · split_ifs
    · rw [completeAll_str]
      split <;> simp
    · rw [stateFrame_live, completeAll_str]
      split <;> simp
  · split_ifs
    · rw [completeAll_str]
      split <;> simp
    · rw [stateFrame_parked, completeAll_str]
      split <;> simp

theorem enterParked_gone (n : Nat) (t : Stream) (s : State) (y : Stream) : liveAt n (enterParked n t s) ≠ some y := by
  intro hy
  obtain ⟨p, hp, -⟩ := Option.map_eq_some_iff.mp hy
  have hmem := List.mem_of_find?_eq_some hp
  rw [(enterParked_streams n t s).1] at hmem
  have hrecord : p.1 = n := by simpa using List.find?_some hp
  exact of_decide_eq_true (List.mem_filter.mp hmem).2 hrecord

theorem enterParked_parks (n : Nat) (t : Stream) (s : State) :
    ∃ y ∈ (enterParked n t s).str.parked, y.id = t.id ∧ y.mailbox = t.mailbox ∧ y.state = .parked ∧ history y = history t := by
  refine ⟨{ t.atRest with state := .parked }, ?_, rfl, rfl, rfl, rfl⟩
  rw [(enterParked_streams n t s).2]
  exact List.mem_append_right _ List.mem_cons_self

/-! ## Pages for what is read back (R228, R278) -/

/-- What work on pages of the shelf keeps; it touches the cove, the prefixes, the shelf and messages. -/
structure PageWork (s t : State) : Prop where
  config : SameConfig s t
  tide : t.tide = s.tide
  img : t.img = s.img
  combs : t.combs = s.combs
  fabric : t.fabric = s.fabric
  shutdown : t.mbox.shutdown = s.mbox.shutdown
  records : t.str.live = s.str.live

namespace PageWork
variable {s t u : State}

theorem refl (s : State) : PageWork s s := ⟨⟨rfl, rfl, rfl, rfl⟩, rfl, rfl, rfl, rfl, rfl, rfl⟩

theorem trans (h : PageWork s t) (k : PageWork t u) : PageWork s u :=
  ⟨h.config.trans k.config, k.tide.trans h.tide, k.img.trans h.img, k.combs.trans h.combs, k.fabric.trans h.fabric,
    k.shutdown.trans h.shutdown, k.records.trans h.records⟩

theorem serviceIdle (h : PageWork s t) (hs : ServiceIdle s) : ServiceIdle t :=
  ⟨h.img ▸ hs.load, h.img ▸ hs.unloading, h.shutdown.trans hs.shutdown⟩

end PageWork

theorem setPrefix_pageWork (index : Nat) (f : Prefix → Prefix) (s : State) : PageWork s (setPrefix index f s) :=
  ⟨⟨rfl, rfl, rfl, rfl⟩, rfl, rfl, rfl, rfl, rfl, rfl⟩

theorem createObject_pageWork {data : CoveData} {holder : BitVec 16} {bytes : Nat} {digest address : Digest} {s : State}
    {o : BitVec 128 × State} (h : createObject data holder bytes digest address s = some o) : PageWork s o.2 := by
  constructor <;> simp [SameConfig, createObject_frame h]

theorem movePrefix_pageWork (p : Prefix) (s : State) : PageWork s (movePrefix p s) := by
  unfold movePrefix
  split
  · split
    · exact setPrefix_pageWork ..
    · exact .refl s
  · split
    next h => exact (createObject_pageWork h).trans (setPrefix_pageWork ..)
    next => exact .refl s
  · exact .refl s

theorem pagesFor_pageWork (want : List (Nat × Nat)) (s : State) : PageWork s (pagesFor want s).2 :=
  foldl_inv (PageWork s) _ (fun t p ht => by
    split
    · exact ht
    · exact ht.trans (movePrefix_pageWork p t)) _ s (.refl s)

theorem prefixPages_pageWork (i : Image) (p : Prefix) (s : State) : PageWork s (prefixPages i p s).2 := by
  unfold prefixPages
  split
  · exact pagesFor_pageWork ..
  · exact .refl s

theorem extendMap_pageWork (s : State) : PageWork s (extendMap s) := by
  obtain ⟨m, hm⟩ := extendMap_onlyPagesMapped s
  rw [hm]
  exact ⟨⟨rfl, rfl, rfl, rfl⟩, rfl, rfl, rfl, rfl, rfl, rfl⟩

theorem givePages_pageWork (index : Nat) (ps : List KvPage) (s : State) : PageWork s (givePages index ps s) :=
  (setPrefix_pageWork ..).trans (extendMap_pageWork _)

theorem restoreRecords_pageWork (i : Image) (ps : List KvPage) (cs : List KvCopy) (s : State) :
    PageWork s (restoreRecords i ps cs s) := by
  constructor <;> simp [SameConfig]

theorem copyPrefix_pageWork (i : Image) (p : Prefix) (ps : List KvPage) (s : State) : PageWork s (copyPrefix i p ps s) := by
  unfold copyPrefix
  split
  · exact restoreRecords_pageWork ..
  · exact .refl s

/-! ## A resumption that has landed (R252) -/

/-- A resumed stream with its pages. -/
def Stream.landed (ps : List KvPage) (t : Stream) : Stream :=
  { t with pages := ps, copies := [], event := { t.event with resumeDone := true } }

/-- The state after the records and the history of a resumed stream stand in pages of the shelf. -/
def landedState (n : Nat) (t : Stream) (i : Image) (ps : List KvPage) (v : State) : State :=
  storeHistory { t with pages := ps } 0 (restoreRecords i ps t.copies (extendMap (setLive n (Stream.landed ps) v)))

theorem exec_resumeLanded {n : Nat} {s : State} {t : Stream} {i : Image} (ha : s.awake = true) (hlive : liveAt n s = some t)
    (hi : s.img.image = some i) (hstate : t.state = .resuming) :
    exec (.resumeLanded n) s = .next (match resumePages i (historyLength t) s with
      | (some ps, v) => landedState n t i ps v
      | (none, v) => v) := by
  change Host.Outcome.next _ = _
  simp only [hlive, hi]
  exact congrArg Host.Outcome.next (if_pos ⟨ha, hstate⟩)

/-- With its pages taken, the stream has its pages, and nothing but the shelf and its record is touched. -/
theorem landedState_resumes {n : Nat} {s v : State} {t : Stream} {i : Image} {ps : List KvPage} (h : PageWork s v)
    (hlive : liveAt n s = some t) (hstate : t.state = .resuming) :
    (landedState n t i ps v).combs = s.combs ∧ (landedState n t i ps v).tide = s.tide ∧ SameConfig s (landedState n t i ps v) ∧
    ∃ y, liveAt n (endResume n (landedState n t i ps v)) = some y ∧ y.state = t.resumeTo.getD .ready ∧ y.pages = ps ∧
      history y = history t := by
  have hmap := extendMap_pageWork (setLive n (Stream.landed ps) v)
  have hat : liveAt n (landedState n t i ps v) = some (t.landed ps) := by
    have hv : liveAt n v = some t := by rw [liveAt, h.records]; exact hlive
    have hset := setLive_same hv (Stream.landed ps)
    rw [liveAt] at hset ⊢
    rw [← hset, ← hmap.records]
    simp [landedState]
  refine ⟨?_, ?_, ?_, (t.landed ps).resumed, endResume_liveAt hat rfl hstate, rfl, rfl, rfl⟩
  · simp [landedState, hmap.combs, h.combs]
  · simp [landedState, hmap.tide, h.tide]
  · refine h.config.trans (hmap.config.trans ?_)
    simp [landedState, SameConfig]

/-! ## A prefix whose copy is done (R276) -/

/-- A publication that waits for the copy of a prefix. -/
def publishes (n : Nat) (o : Outstanding) : Bool := o.opcode = 0x0501 && o.subject.toNat = n

/-- The publications of a prefix end. -/
def endPublications (n : Nat) (p : Prefix) (s : State) : State :=
  (s.mbox.outstanding.filter (publishes n)).foldl
    (fun s o => finish (keyOf o.mailbox.toNat s) o true false Status.ok (.prefix_ n) (0, 0) (publishBody p) s) s

/-- Ending messages takes them off the outstanding ones. -/
theorem finishAll_outstanding {f : State → Outstanding → State} (hf : ∀ s o, (f s o).mbox.outstanding = s.mbox.outstanding.erase o)
    (l : List Outstanding) (s : State) : (l.foldl f s).mbox.outstanding = s.mbox.outstanding.diff l := by
  induction l generalizing s with
  | nil => simp
  | cons o l ih => rw [List.foldl_cons, ih, hf, List.diff_cons]

theorem not_mem_diff_filter {α : Type} [BEq α] [LawfulBEq α] (p : α → Bool) (l : List α) {a : α} (ha : a ∈ l.diff (l.filter p)) :
    p a = false := by
  by_contra hp
  have hcount := List.count_pos_iff.mpr ha
  rw [List.count_diff, List.count_filter (by simpa using hp)] at hcount
  omega

/-- Once they have ended no publication of the prefix is outstanding. -/
theorem endPublications_outstanding (n : Nat) (p : Prefix) (s : State) :
    ∀ o ∈ (endPublications n p s).mbox.outstanding, ¬(o.opcode = 0x0501 ∧ o.subject.toNat = n) := by
  intro o ho
  have hdiff : (endPublications n p s).mbox.outstanding = _ := finishAll_outstanding (fun s o => (finish_mbox ..).1) _ s
  rw [hdiff] at ho
  simpa [publishes] using not_mem_diff_filter _ _ ho

theorem endPublications_pageWork (n : Nat) (p : Prefix) (s : State) : PageWork s (endPublications n p s) :=
  foldl_inv (PageWork s) _ (fun t o ht => ht.trans (by constructor <;> simp [SameConfig, finish_unchanged])) _ s (.refl s)

theorem endPublications_streams (n : Nat) (p : Prefix) (s : State) :
    (endPublications n p s).str = s.str ∧ (endPublications n p s).shelf = s.shelf :=
  ⟨foldl_keeps State.str _ (fun _ _ => (finish_unchanged ..).1) _ s, foldl_keeps State.shelf _ (fun _ _ => by simp) _ s⟩

/-- Prefix n of a module that is awake and has an image. -/
structure PrefixStands (n : Nat) (s : State) (p : Prefix) (i : Image) : Prop where
  awake : s.awake = true
  found : s.str.prefixes.find? (fun p => p.index = n) = some p
  image : s.img.image = some i

theorem renewPrefix_kept (n : Nat) (s : State) :
    PageWork s (renewPrefix n s) ∧ (renewPrefix n s).str = s.str ∧ (renewPrefix n s).shelf = s.shelf := by
  unfold renewPrefix
  dsimp only
  split
  · exact ⟨.refl s, rfl, rfl⟩
  · split
    · exact ⟨⟨⟨rfl, rfl, rfl, rfl⟩, rfl, rfl, rfl, rfl, rfl, rfl⟩, rfl, rfl⟩
    · exact ⟨.refl s, rfl, rfl⟩

section Prefixes
variable {n : Nat} {s : State} {p : Prefix} {i : Image} (h : PrefixStands n s p i)
include h

theorem exec_prefixCopyDone (hcopying : p.copying = true) : exec (.prefixCopyDone n) s = .next (match prefixPages i p s with
    | (some ps, v) => advanceService (endPublications n p (setPrefix n (fun p => { p with copying := false })
        (copyPrefix i p ps (givePages n ps v))))
    | (none, v) => v) := by
  change Host.Outcome.next _ = _
  simp only [h.found, h.image]
  exact congrArg Host.Outcome.next (if_pos ⟨h.awake, hcopying⟩)

/-- The copy of a prefix is done: its publications end, and the service has nothing to go on with. -/
theorem prefixCopyDone_ends (hcopying : p.copying = true) (hidle : ServiceIdle s) {ps : List KvPage} {v : State}
    (hpages : prefixPages i p s = (some ps, v)) :
    let u := copyPrefix i p ps (givePages n ps v)
    ∃ t, exec (.prefixCopyDone n) s = .next t ∧ t.str = (setPrefix n (fun p => { p with copying := false }) u).str ∧
      (∀ o ∈ t.mbox.outstanding, ¬(o.opcode = 0x0501 ∧ o.subject.toNat = n)) ∧ t.shelf = u.shelf ∧ PageWork s t := by
  have hwork : PageWork s (endPublications n p (setPrefix n (fun p => { p with copying := false }) (copyPrefix i p ps (givePages n ps v)))) := by
    have hroom := prefixPages_pageWork i p s
    rw [hpages] at hroom
    exact (((hroom.trans (givePages_pageWork ..)).trans (copyPrefix_pageWork ..)).trans (setPrefix_pageWork ..)).trans
      (endPublications_pageWork ..)
  refine ⟨_, (exec_prefixCopyDone h hcopying).trans ?_, (endPublications_streams ..).1, endPublications_outstanding _ _ _, ?_, hwork⟩
  · rw [hpages]
    exact congrArg Host.Outcome.next (advanceService_idle (hwork.serviceIdle hidle))
  · rw [(endPublications_streams ..).2]
    rfl

/-! ## A prefix that is read back (R277, R278) -/

/-- The streams that waited for a prefix map it. -/
def mapWaiting (n : Nat) (p : Prefix) (s : State) : State :=
  { s with str := { s.str with live := s.str.live.map fun x =>
      if x.2.waitPrefix && x.2.prefixIndex = some n then (x.1, mapPrefix p x.2) else x } }

theorem exec_prefixReadbackComplete (hplace : p.place = 1) : exec (.prefixReadbackComplete n) s = .next (
    match prefixPages i { p with pages := [] } s with
    | (some ps, v) => mapWaiting n p (renewPrefix n (setPrefix n (fun p => { p with place := 0 })
        (restoreRecords i ps p.copies (givePages n ps v))))
    | (none, v) => v) := by
  change Host.Outcome.next _ = _
  simp only [h.found, h.image]
  exact congrArg Host.Outcome.next (if_pos ⟨h.awake, hplace⟩)

/-- The prefix is in the shelf, and what waited for it maps it. -/
theorem prefixReadbackComplete_maps (hplace : p.place = 1) {ps : List KvPage} {v : State}
    (hpages : prefixPages i { p with pages := [] } s = (some ps, v)) :
    let u := restoreRecords i ps p.copies (givePages n ps v)
    ∃ t, exec (.prefixReadbackComplete n) s = .next t ∧
      t.str.prefixes = (setPrefix n (fun p => { p with place := 0 }) u).str.prefixes ∧ t.shelf = u.shelf ∧
      (∀ m y, (m, y) ∈ s.str.live → y.waitPrefix = true → y.prefixIndex = some n → (m, mapPrefix p y) ∈ t.str.live) ∧
      SameConfig s t ∧ t.tide = s.tide ∧ t.img = s.img ∧ t.combs = s.combs ∧ t.fabric = s.fabric := by
  intro u
  obtain ⟨hrenew, hstr, hshelf⟩ := renewPrefix_kept n (setPrefix n (fun p => { p with place := 0 }) u)
  have hwork : PageWork s (renewPrefix n (setPrefix n (fun p => { p with place := 0 }) u)) := by
    have hroom := prefixPages_pageWork i { p with pages := [] } s
    rw [hpages] at hroom
    exact (((hroom.trans (givePages_pageWork ..)).trans (restoreRecords_pageWork ..)).trans (setPrefix_pageWork ..)).trans hrenew
  refine ⟨mapWaiting n p (renewPrefix n (setPrefix n (fun p => { p with place := 0 }) u)),
    (exec_prefixReadbackComplete h hplace).trans (by rw [hpages]), congrArg (·.prefixes) hstr, hshelf, fun m y hy hwait hindex => ?_,
    hwork.config, hwork.tide, hwork.img, hwork.combs, hwork.fabric⟩
  refine List.mem_map.mpr ⟨(m, y), ?_, ?_⟩
  · rw [hwork.records]
    exact hy
  · simp [hwait, hindex]

end Prefixes

/-! ## O28 -/

/-- Settles O28: what a chunk's read comes to is read off the command, and what it rewrites are only units that do not read;
a park that commits takes its stream out of the live records; a resumption, a copy and a read-back take pages and are seen
through what work on pages keeps. -/
theorem coveReadsParksAndPrefixes : Obligations.CoveReadsParksAndPrefixes := by
  unfold Obligations.CoveReadsParksAndPrefixes
  refine ⟨⟨fun id e k net s o ha hm ho hc hkey he hk hin => ?_, fun id e ok s o ha hm ho hc he => exec_coveScrub ha hm ho hc he ok,
      fun j s => exec_journalCompaction, fun now s ha hm hv => ?_⟩,
    ⟨fun n s t id o ha hlive hstate hcancel hobject ho hall hc hwanted => ?_, fun n s t i ha hlive hi hstate => ?_⟩,
    fun n s p i ha hp hi hcopying hload hunloading hshutdown => ?_, fun n s p i ha hp hi hplace => ?_, fun _ _ _ => rfl⟩
  case refine_1 =>
    have h : ChunkStands o e k s := ⟨ha, hm, hc, hkey, he, hk, hin⟩
    exact ⟨coveChunkRead_good ho h net, fun x hx hcount => coveChunkRead_again ho h hx hcount net, fun x hx hcount =>
      ⟨coveChunkRead_damages ho h hx hcount, coveChunkRead_refetches ho h hx hcount⟩⟩
  case refine_2 =>
    obtain ⟨hcfg, hlive, hplane⟩ := expiry_planeKept (seconds now) s
    exact ⟨_, exec_coveExpiryCheck ha hm hv now, rfl, hcfg, hlive, hplane⟩
  case refine_3 =>
    have h : ParkStands n s t id o := ⟨ha, hlive, hstate, hcancel, hobject, ho, hall, hc, hwanted⟩
    refine ⟨fun hno => (exec_parkCommit h).trans (congrArg Host.Outcome.next (if_neg (by simp [hno]))),
      fun hyes => (exec_parkCommit h).trans (congrArg Host.Outcome.next (if_pos hyes)), enterParked_gone n t _, enterParked_parks n t _⟩
  case refine_4 =>
    have hroom := pagesFor_pageWork (blockPageKeys i ((historyLength t + 63) / 64) s ++ historyPageKeys (historyLength t) s) s
    refine ⟨fun v hv => (exec_resumeLanded ha hlive hi hstate).trans (by rw [hv]), fun ps v hv => ?_⟩
    have hpages : PageWork s v := by
      rw [resumePages] at hv
      rwa [hv] at hroom
    exact ⟨(exec_resumeLanded ha hlive hi hstate).trans (by rw [hv]; rfl), landedState_resumes hpages hlive hstate⟩
  case refine_5 =>
    have h : PrefixStands n s p i := ⟨ha, hp, hi⟩
    refine ⟨fun v hv => (exec_prefixCopyDone h hcopying).trans (by rw [hv]), fun ps v hv => ?_⟩
    obtain ⟨t, hexec, hstr, hended, hshelf, hwork⟩ := prefixCopyDone_ends h hcopying ⟨hload, hunloading, hshutdown⟩ hv
    exact ⟨t, hexec, hstr, hended, hshelf, hwork.config, hwork.tide, hwork.img, hwork.combs, hwork.fabric⟩
  case refine_6 =>
    have h : PrefixStands n s p i := ⟨ha, hp, hi⟩
    exact ⟨fun v hv => (exec_prefixReadbackComplete h hplace).trans (by rw [hv]), fun ps v hv => prefixReadbackComplete_maps h hplace hv⟩

end Sys2Proof.Machine

namespace Sys2Proof.Machine

/-! ## A step commits (R256, R287, R288) -/

/-! ### The words of a token history -/

/-- Image and page map stand, and of the shelf nothing has changed but bytes of its stacks, none of them an excluded one. -/
structure ShelfWritten (excluded : Nat → Nat → Prop) (s t : State) : Prop where
  img : t.img = s.img
  rest : { t.shelf with stk := s.shelf.stk } = s.shelf
  counts : ∀ k, { t.stack k with mem := (s.stack k).mem } = s.stack k
  bytes : ∀ k a, excluded k a → Memory.read (t.stack k).mem a = Memory.read (s.stack k).mem a

/-- A byte of stack k outside every word that a stream's token history may take. -/
def outsideHistory (t : Stream) (s : State) (k a : Nat) : Prop :=
  ∀ m q, historySlot t m s = some q → q.1 = k → a < 9 * q.2 ∨ 9 * q.2 + 9 ≤ a

theorem ShelfWritten.refl (excluded : Nat → Nat → Prop) (s : State) : ShelfWritten excluded s s :=
  ⟨rfl, rfl, fun _ => rfl, fun _ _ _ => rfl⟩

theorem ShelfWritten.trans {excluded : Nat → Nat → Prop} {s t u : State} (h : ShelfWritten excluded s t) (k : ShelfWritten excluded t u) :
    ShelfWritten excluded s u where
  img := k.img.trans h.img
  rest := by
    calc { u.shelf with stk := s.shelf.stk }
      _ = { ({ u.shelf with stk := t.shelf.stk } : Shelf) with stk := s.shelf.stk } := rfl
      _ = { t.shelf with stk := s.shelf.stk } := by rw [k.rest]
      _ = s.shelf := h.rest
  counts j := by
    calc { u.stack j with mem := (s.stack j).mem }
      _ = { ({ u.stack j with mem := (t.stack j).mem } : Stack) with mem := (s.stack j).mem } := rfl
      _ = { t.stack j with mem := (s.stack j).mem } := by rw [k.counts]
      _ = s.stack j := h.counts j
  bytes j a ha := (k.bytes j a ha).trans (h.bytes j a ha)

/-- One word of a stack written. -/
theorem setStack_shelfWritten {excluded : Nat → Nat → Prop} {s : State} (k i : Nat) (w : Word64)
    (h : ∀ a, excluded k a → a < 9 * i ∨ 9 * i + 9 ≤ a) :
    ShelfWritten excluded s (setStack k (fun x => { x with mem := writeSlots x.mem i [w] }) s) where
  img := by simp
  rest := rfl
  counts j := by
    rw [setStack_stack]
    split <;> rfl
  bytes j a ha := by
    rw [setStack_stack]
    split
    next hj => exact read_writeSlots_out _ _ _ _ (h a (hj.1 ▸ ha))
    next => rfl

theorem historySlot_congr {s v : State} {t u : Stream} (himg : v.img = s.img) (hpages : u.pages = t.pages) (m : Nat) :
    historySlot u m v = historySlot t m s := by
  change historySlot { t with pages := u.pages } m { s with img := v.img } = _
  rw [himg, hpages]

/-- The token history of a stream is written into its own words. -/
theorem storeHistory_shelfWritten (t : Stream) (first : Nat) (s : State) :
    ShelfWritten (outsideHistory t s) s (storeHistory t first s) := by
  refine foldl_inv (ShelfWritten (outsideHistory t s) s) _ (fun v k hv => ?_) _ s (.refl _ s)
  dsimp only
  split
  next q hq =>
    refine hv.trans (setStack_shelfWritten _ _ _ fun a ha => ha (2 * (first / 2 + k)) q ?_ rfl)
    rw [← hq, historySlot_congr hv.img rfl]
  next => exact hv

/-! ### What a step leaves of its stream -/

/-- A stream after the step that has an outcome. -/
def stepped (o : StepOut) (t : Stream) : Stream := if t.state = .prefill then commitPrefill o t else commitDecode o t

/-- The entries that a stream's step emits. -/
def emittedBy (o : StepOut) (t : Stream) : List TokenEntry :=
  stepEntries (if t.state = .prefill then historyLength t else t.committed.length + 1) t.suspectMark o

/-- The state with a stream's step in its record and in its history pages. -/
def stepWritten (n : Nat) (o : StepOut) (t : Stream) (s : State) : State :=
  storeHistory (stepped o t) (if t.committed.length = t.sharedTokens then 0 else t.committed.length) (setLive n (fun _ => stepped o t) s)

/-- The same, with what the step sampled waiting to be emitted. -/
def stepQueued (n : Nat) (o : StepOut) (t : Stream) (s : State) : State :=
  let v := stepWritten n o t s
  if emittedBy o t = [] then v else { v with str := { v.str with emit := v.str.emit ++ [(n, emittedBy o t)] } }

theorem stepEntries_eq_nil (first : Nat) (suspect : Bool) (o : StepOut) :
    stepEntries first suspect o = [] ↔ o.accepted = [] ∧ o.bonus = none := by
  simp [stepEntries]

section CommitStep
variable {n : Nat} {s : State} {t : Stream} {o : StepOut}

/-- A prefill that ends at the image's limit without a token is told by a state frame; every other step by its tokens. -/
theorem commitStep_eq (h : liveAt n s = some t) (ho : t.stepOut = some o) :
    commitStep n s = if t.state = .prefill ∧ (stepped o t).state = .ready ∧ emittedBy o t = [] ∧
        contextLimit (stepQueued n o t s) ≤ historyLength (stepped o t)
      then stateFrame (stepped o t) .ready 1 (stepQueued n o t s) else stepQueued n o t s := by
  unfold commitStep
  simp only [h, ho]
  rfl

theorem stepWritten_str (n : Nat) (o : StepOut) (t : Stream) (s : State) :
    (stepWritten n o t s).str = (setLive n (fun _ => stepped o t) s).str := by simp [stepWritten]

theorem stepQueued_kept (n : Nat) (o : StepOut) (t : Stream) (s : State) :
    (stepQueued n o t s).str.live = (setLive n (fun _ => stepped o t) s).str.live ∧ (stepQueued n o t s).combs = s.combs ∧
    (stepQueued n o t s).fabric = s.fabric ∧ (stepQueued n o t s).shelf = (stepWritten n o t s).shelf := by
  have hstr := congrArg Streams.live (stepWritten_str n o t s)
  unfold stepQueued
  dsimp only
  split <;> exact ⟨hstr, by simp [stepWritten], by simp [stepWritten], rfl⟩

theorem stepQueued_emit (n : Nat) (o : StepOut) (t : Stream) (s : State) :
    (stepQueued n o t s).str.emit = if emittedBy o t = [] then s.str.emit else s.str.emit ++ [(n, emittedBy o t)] := by
  have hemit : (stepWritten n o t s).str.emit = s.str.emit := (congrArg Streams.emit (stepWritten_str n o t s) :)
  unfold stepQueued
  dsimp only
  split
  · exact hemit
  · rw [← hemit]

variable (h : liveAt n s = some t) (ho : t.stepOut = some o)
include h ho

theorem commitStep_kept :
    (commitStep n s).str.live = (setLive n (fun _ => stepped o t) s).str.live ∧ (commitStep n s).combs = s.combs ∧
    (commitStep n s).fabric = s.fabric ∧ (commitStep n s).shelf = (stepWritten n o t s).shelf := by
  obtain ⟨hlive, hcombs, hfabric, hshelf⟩ := stepQueued_kept n o t s
  rw [commitStep_eq h ho]
  split
  · exact ⟨by rw [stateFrame_live, hlive], by simp [hcombs], by simp [hfabric], by simp [hshelf]⟩
  · exact ⟨hlive, hcombs, hfabric, hshelf⟩

theorem commitStep_stepped : liveAt n (commitStep n s) = some (stepped o t) := by
  rw [liveAt, (commitStep_kept h ho).1]
  exact setLive_same h _

theorem commitStep_others {m : Nat} (hm : m ≠ n) : liveAt m (commitStep n s) = liveAt m s := by
  have hset : liveAt m (setLive n (fun _ => stepped o t) s) = liveAt m s := by rw [setLive_liveAt, if_neg hm.symm]
  rw [liveAt, (commitStep_kept h ho).1]
  exact hset

/-- Of the shelf a step writes the words of its stream's token history alone (R256). -/
theorem commitStep_shelfWritten : ShelfWritten (outsideHistory t s) s (commitStep n s) := by
  have hpages : (stepped o t).pages = t.pages := by
    unfold stepped
    split <;> rfl
  have hwritten := storeHistory_shelfWritten (stepped o t) (if t.committed.length = t.sharedTokens then 0 else t.committed.length)
    (setLive n (fun _ => stepped o t) s)
  have hstack (k : Nat) : (commitStep n s).stack k = (stepWritten n o t s).stack k := by
    simp only [State.stack, (commitStep_kept h ho).2.2.2]
  refine ⟨(commitStep_work n s).img, ?_, fun k => ?_, fun k a ha => ?_⟩
  · rw [(commitStep_kept h ho).2.2.2]
    exact hwritten.rest
  · rw [hstack]
    exact hwritten.counts k
  · rw [hstack]
    refine hwritten.bytes k a fun m q hq => ha m q ?_
    rw [← hq]
    exact (historySlot_congr rfl hpages m).symm

theorem commitStep_emit_decode (hstate : t.state = .decode) :
    (commitStep n s).str.emit = if o.accepted = [] ∧ o.bonus = none then s.str.emit
      else s.str.emit ++ [(n, stepEntries (t.committed.length + 1) t.suspectMark o)] := by
  have hentries : emittedBy o t = stepEntries (t.committed.length + 1) t.suspectMark o := by simp [emittedBy, hstate]
  rw [commitStep_eq h ho, if_neg (by simp [hstate]), stepQueued_emit, hentries]
  simp only [stepEntries_eq_nil]

end CommitStep

/-! ### The draft depth (R289) -/

section AdaptDepth
variable {t : Stream} {d a : Nat}

theorem adaptDepth_probe (h : 1 ≤ d ∧ probeDue t = true) : adaptDepth t d a = if a = 0 then (0, 63) else (1, 0) := if_pos h

theorem adaptDepth_missed (hnot : ¬(1 ≤ d ∧ probeDue t = true)) (hd : 1 ≤ d) (ha : a = 0) :
    adaptDepth t d a = (BitVec.ofNat 4 (t.draftDepth.toNat / 2), if t.draftDepth.toNat / 2 = 0 then 63 else t.probe) :=
  (if_neg hnot).trans (if_pos ⟨hd, ha⟩)

theorem adaptDepth_full (hnot : ¬(1 ≤ d ∧ probeDue t = true)) (hd : 1 ≤ d) (ha : a = d) :
    adaptDepth t d a = (BitVec.ofNat 4 (min (t.draftDepth.toNat + 1) t.live.draftDepthMax.toNat), t.probe) :=
  (if_neg hnot).trans ((if_neg (by omega)).trans (if_pos ⟨hd, ha⟩))

theorem adaptDepth_partial (hnot : ¬(1 ≤ d ∧ probeDue t = true)) (hpos : 0 < a) (hless : a < d) :
    adaptDepth t d a = (t.draftDepth, t.probe) :=
  (if_neg hnot).trans ((if_neg (by omega)).trans ((if_neg (by omega)).trans (if_neg (by omega))))

/-- Without a draft the countdown goes on at depth 0, and nothing changes at any other. -/
theorem adaptDepth_undrafted (hd : d = 0) : adaptDepth t d a =
    if t.draftDepth.toNat = 0 then (0, if t.probe = 0 then 0 else t.probe - 1) else (t.draftDepth, t.probe) := by
  subst hd
  simp [adaptDepth]

end AdaptDepth

/-- A countdown that stands at 0 stays there. -/
theorem countdown_toNat (x : BitVec 6) : (if x = 0 then (0 : BitVec 6) else x - 1).toNat = x.toNat - 1 := by
  split
  next h => simp [h]
  next h =>
    have hpos : x.toNat ≠ 0 := fun h0 => h (BitVec.eq_of_toNat_eq h0)
    rw [BitVec.toNat_sub_of_le (by rw [BitVec.le_def]; change 1 ≤ x.toNat; omega)]
    rfl

/-- Settles O50: the record after a step is read off the step's outcome, of the shelf it writes its history's words, and the
depth follows the table's rows one by one. -/
theorem stepsCommitAndDepthAdapts : Obligations.StepsCommitAndDepthAdapts := by
  unfold Obligations.StepsCommitAndDepthAdapts
  refine ⟨fun n s t o h ho => ?_, fun t d a hle => ?_⟩
  case refine_1 =>
    have hwork := commitStep_work n s
    obtain ⟨-, hcombs, hfabric, -⟩ := commitStep_kept h ho
    have hwritten := commitStep_shelfWritten h ho
    refine ⟨fun m hm => commitStep_others h ho hm, hwork.config, hwork.tide, hwork.img, hcombs, hfabric, hwritten.rest, hwritten.counts,
      hwritten.bytes, fun hstate => ⟨_, commitStep_stepped h ho, ?decode⟩, fun hstate => ⟨_, commitStep_stepped h ho, ?prefill⟩⟩
    case decode =>
      have hdecode : stepped o t = commitDecode o t := if_neg (by simp [hstate])
      rw [hdecode]
      refine ⟨rfl, rfl, rfl, rfl, ?_, rfl, rfl, commitStep_emit_decode h ho hstate⟩
      simp [commitDecode, hstate, or_assoc]
    case prefill =>
      have hprefill : stepped o t = commitPrefill o t := if_pos hstate
      rw [hprefill]
      refine ⟨rfl, rfl, rfl, fun hmore => ?_, fun hends hbonus hend htruncated hlimit => ?_, fun hends hstop => ?_⟩
      · simp [commitPrefill, hmore]
      · simp [commitPrefill, hends, Option.isSome_iff_ne_none.mp hbonus, hend, htruncated, hlimit]
      · rcases hstop with hstop | hstop | hstop | hstop <;> simp [commitPrefill, hends, hstop]
  case refine_2 =>
    refine ⟨fun h ha => ?_, fun h ha => ?_, fun hnot hd ha hcur => ?_, fun hnot hd ha hcur => ?_, adaptDepth_full, fun hd hcur => ?_,
      adaptDepth_partial, fun hd hcur => ?_⟩
    · rw [adaptDepth_probe h, if_neg ha]
    · rw [adaptDepth_probe h, if_pos ha]
    · rw [adaptDepth_missed hnot hd ha, if_neg (by omega)]
    · have hzero : t.draftDepth.toNat / 2 = 0 := by omega
      rw [adaptDepth_missed hnot hd ha, if_pos hzero, hzero]
      rfl
    · rw [adaptDepth_undrafted hd, if_pos (by simp [hcur])]
      exact ⟨hcur.symm, countdown_toNat _⟩
    · rw [adaptDepth_undrafted hd, if_neg fun h0 : t.draftDepth.toNat = 0 => hcur (BitVec.eq_of_toNat_eq h0)]

end Sys2Proof.Machine

namespace Sys2Proof.Machine

/-! ## States that differ by an answer alone (R343, R350) -/

/-- The streams that hold a record or are parked. -/
def heldStreams (s : State) : List Stream := s.str.live.map (·.2) ++ s.str.parked

/-- A stream without the record of its last change. -/
def Stream.undated (t : Stream) : Stream := { t with lastChange := Change.zero }

theorem Stream.eq_of_undated {x t : Stream} (h : x.undated = t.undated) : x = { t with lastChange := x.lastChange } := by
  calc x = { x.undated with lastChange := x.lastChange } := rfl
    _ = { t.undated with lastChange := x.lastChange } := by rw [h]

section Unanswered
variable {v w : State} (h : unanswered w = unanswered v)
include h

theorem unanswered_live : w.str.live.map (fun p => (p.1, p.2.undated)) = v.str.live.map fun p => (p.1, p.2.undated) :=
  congrArg (fun s => s.str.live) h

/-- What a live record holds is as before, but for the record of its last change. -/
theorem liveAt_of_unanswered {n : Nat} {t : Stream} (ht : liveAt n v = some t) :
    ∃ c, liveAt n w = some { t with lastChange := c } := by
  have hview (s : State) : (liveAt n s).map Stream.undated = lookup (s.str.live.map fun p => (p.1, p.2.undated)) n :=
    (lookup_map_value s.str.live Stream.undated n).symm
  have hsame : (liveAt n w).map Stream.undated = some t.undated := by
    rw [hview, unanswered_live h, ← hview, ht, Option.map_some]
  obtain ⟨x, hx, hundated⟩ := Option.map_eq_some_iff.mp hsame
  exact ⟨x.lastChange, hx.trans (congrArg some (Stream.eq_of_undated hundated))⟩

theorem unanswered_held : (heldStreams w).map Stream.undated = (heldStreams v).map Stream.undated := by
  have hlive := congrArg (List.map (·.2)) (unanswered_live h)
  have hparked : w.str.parked.map Stream.undated = v.str.parked.map Stream.undated := congrArg (fun s => s.str.parked) h
  simp only [List.map_map] at hlive
  simp only [heldStreams, List.map_append, List.map_map, hparked]
  exact congrArg (· ++ _) hlive

theorem unanswered_closed : w.str.closed.map Stream.undated = v.str.closed.map Stream.undated :=
  congrArg (fun s => s.str.closed) h

theorem findObject_of_unanswered {id : Nat} (hnone : findObject id v = none) : findObject id w = none := by
  have hobjects : w.cove.objects.map (fun o => { o with lastChange := Change.zero }) =
      v.cove.objects.map fun o => { o with lastChange := Change.zero } := congrArg (fun s => s.cove.objects) h
  have hids := congrArg (List.map (·.id)) hobjects
  simp only [List.map_map, Function.comp_def] at hids
  rw [findObject, List.find?_eq_none] at hnone ⊢
  intro o ho
  obtain ⟨x, hx, hid⟩ := List.mem_map.mp (hids ▸ List.mem_map_of_mem (f := CoveObject.id) ho)
  rw [← hid]
  exact hnone x hx

end Unanswered

/-! ## The stream that a request names (R254, R376) -/

theorem findStream_names {mb id : Nat} {s : State} {t : Stream} (h : findStream mb id s = some t) :
    t.mailbox.toNat = mb ∧ t.id.toNat = id := by
  have hnamed : (t.mailbox.toNat = mb && t.id.toNat = id) = true := by
    unfold findStream at h
    dsimp only at h
    split at h
    next p hp =>
      obtain rfl := Option.some.inj h
      exact (List.find?_some hp :)
    next =>
      split at h
      next y hy =>
        obtain rfl := Option.some.inj h
        exact (List.find?_some hy :)
      next => exact (List.find?_some h :)
  simpa using hnamed

theorem findStream_congr {s u : State} (h : u.str = s.str) (mb id : Nat) : findStream mb id u = findStream mb id s := by
  rw [findStream, h, findStream]

theorem namedStream_taken (owner : Bool) (r q : Request) (s : State) : namedStream owner r (taken q s) = namedStream owner r s :=
  findStream_congr (by simp) ..

theorem liveAt_taken (n : Nat) (r : Request) (s : State) : liveAt n (taken r s) = liveAt n s := liveAt_congr (by simp) n

theorem nextStep_taken (r : Request) (s : State) : nextStep (taken r s) = nextStep s := nextStep_congr (taken_tide r s) (taken_img r s)

/-- What a live record holds after every stream of an identifier was changed. -/
theorem liveAt_setStreamById (n id : Nat) (f : Stream → Stream) (s : State) :
    liveAt n (setStreamById id f s) = (liveAt n s).map fun t => if t.id.toNat = id then f t else t :=
  lookup_map_value s.str.live (fun t => if t.id.toNat = id then f t else t) n

theorem setEvent_same {n : Nat} {s : State} {t : Stream} (h : liveAt n s = some t) (f : StreamEvent → StreamEvent) :
    liveAt n (setEvent t.mailbox.toNat t.id.toNat f s) = some { t with event := f t.event } := by
  simp [setEvent, liveAt_setStreamById, h]

/-- The stream's own check is among those that a served request has passed (R364). -/
theorem withStream_ok {owner : Bool} {r : Request} {s : State} {t : Stream} {check : Stream → Status}
    (ht : namedStream owner r s = some t) (h : withStream owner r (taken r s) check = Status.ok) : check t = Status.ok := by
  rwa [withStream, namedStream_taken, ht] at h

/-- A stream command that is served completes with what its answer carries. -/
theorem completesWith_of_streamAnswer {c : Instr} {op : Op} {r : Request} {s v : State} {mb id : Nat} {effect : Nat × Nat}
    {status : Status} (h : Served op r s) (hrun : op.run r (taken r s) = streamAnswer mb id effect status v)
    (hexec : exec c s = .next (serve op r s)) : CompletesWith c op r s status effect v := completesWith_of_run h hrun hexec

/-! ## STREAM_STOP and STREAM_PARK (R252, R365, R376) -/

section StopAndPark
variable {c : Instr} {owner : Bool} {r : Request} {s : State} {t : Stream}

theorem stop_completes (h : Served (stopOp owner) r s) (ht : namedStream owner r s = some t)
    (hexec : exec c s = .next (serve (stopOp owner) r s)) :
    CompletesWith c (stopOp owner) r s Status.ok (3, nextStep s)
      (setEvent t.mailbox.toNat t.id.toNat (fun e => { e with stop := true }) (taken r s)) := by
  obtain ⟨hmailbox, hid⟩ := findStream_names ht
  rw [hmailbox, hid, ← nextStep_taken r s]
  exact completesWith_of_streamAnswer h rfl hexec

theorem stop_checked (h : Served (stopOp owner) r s) (ht : namedStream owner r s = some t) : t.state = .decode ∨ t.state = .paused := by
  have hstate := of_need (by decide) (withStream_ok ht (ok_of_firstBad h.passed _ (List.mem_cons_of_mem _ List.mem_cons_self)))
  simp only [Bool.and_eq_true, Bool.or_eq_true, decide_eq_true_eq] at hstate
  exact hstate.1

theorem park_completes (h : Served (parkOp owner) r s) (ht : namedStream owner r s = some t)
    (hexec : exec c s = .next (serve (parkOp owner) r s)) :
    CompletesWith c (parkOp owner) r s Status.accepted (3, nextStep s)
      (setEvent t.mailbox.toNat t.id.toNat (fun e => { e with park := true, own := decide (r.mailbox = t.mailbox) }) (taken r s)) := by
  obtain ⟨hmailbox, hid⟩ := findStream_names ht
  have hown : decide (r.mailbox = t.mailbox) = decide (r.mailbox.toNat = (target owner r).1) :=
    decide_eq_decide.mpr (by rw [← hmailbox, BitVec.toNat_inj])
  rw [hown, hmailbox, hid, ← nextStep_taken r s]
  exact completesWith_of_streamAnswer h rfl hexec

theorem park_checked (h : Served (parkOp owner) r s) (ht : namedStream owner r s = some t) :
    t.state = .ready ∨ t.state = .prefill ∨ t.state = .decode ∨ t.state = .paused := by
  have hstate := of_need (by decide) (withStream_ok ht (ok_of_firstBad h.passed _ (List.mem_cons_of_mem _ List.mem_cons_self)))
  simpa [parkable, or_assoc] using (Bool.and_eq_true_iff.mp hstate).1

end StopAndPark

/-! ### At the step boundary -/

section Emission
variable {n : Nat} {s : State} {t : Stream}

/-- Emission keeps what it sends in the stream, and changes nothing else of it (R358). -/
theorem emitEntries_liveAt (h : liveAt n s = some t) (es : List TokenEntry) :
    ∃ k, liveAt n (emitEntries n es s) = some { t with kept := k } := by
  unfold emitEntries
  simp only [h]
  refine ⟨lastN 65536 (t.kept ++ es), setLive_same ?_ _⟩
  split
  · rw [← h]
    simp only [liveAt, repeatLater, sendTokens_frame]
  · exact (liveAt_congr (by simp) n).trans h

theorem emitFirst_liveAt (h : liveAt n s = some t) : ∃ k, liveAt n (emitFirst n s) = some { t with kept := k } := by
  unfold emitFirst
  split
  · exact ⟨t.kept, h⟩
  next p _ =>
    have hrest : liveAt n { s with str := { s.str with emit := s.str.emit.erase p } } = some t := h
    exact emitEntries_liveAt hrest _

theorem emitAll_liveAt (h : liveAt n s = some t) : ∃ k, liveAt n (emitAll n s) = some { t with kept := k } := by
  refine foldl_inv (fun v => ∃ k, liveAt n v = some { t with kept := k }) _ (fun v _ hv => ?_) _ s ⟨t.kept, h⟩
  obtain ⟨k, hk⟩ := hv
  obtain ⟨l, hl⟩ := emitFirst_liveAt hk
  exact ⟨l, hl⟩

theorem parkAtBoundary_begins (h : liveAt n s = some t) (hpark : t.event.park = true)
    (hstate : t.state = .ready ∨ t.state = .prefill ∨ t.state = .decode ∨ t.state = .paused) :
    parkAtBoundary n s = (beginPark n t.event.own (emitAll n s)).2 := by
  unfold parkAtBoundary
  simp only [h]
  rw [if_pos hpark]
  rcases hstate with hstate | hstate | hstate | hstate <;> rw [hstate]

/-- A park that begins at its boundary leaves its stream PARKING, with its history. -/
theorem parkAtBoundary_parks (h : liveAt n s = some t) (hpark : t.event.park = true)
    (hstate : t.state = .ready ∨ t.state = .prefill ∨ t.state = .decode ∨ t.state = .paused)
    (hbegun : (beginPark n t.event.own (emitAll n s)).1 = true) :
    ∃ y, liveAt n (parkAtBoundary n s) = some y ∧ y.state = .parking ∧ history y = history t := by
  obtain ⟨k, hk⟩ := emitAll_liveAt h
  rw [parkAtBoundary_begins h hpark hstate]
  have hparks := beginPark_parks hk hbegun
  exact hparks

end Emission

/-! ## STREAM_CLOSE (R252, R376) -/

/-- A stream is neither live nor parked, and its closed record gives the reason. -/
def GoneFor (t : Stream) (reason : BitVec 5) (w : State) : Prop :=
  (∀ y ∈ w.str.live.map (·.2) ++ w.str.parked, ¬(y.id = t.id ∧ y.mailbox = t.mailbox)) ∧
    ∃ c ∈ w.str.closed, c.id = t.id ∧ c.mailbox = t.mailbox ∧ c.state = .closed ∧ c.closeReason = reason

theorem GoneFor.of_unanswered {t : Stream} {reason : BitVec 5} {v w : State} (h : unanswered w = unanswered v) (hv : GoneFor t reason v) :
    GoneFor t reason w := by
  obtain ⟨hheld, c, hc, hid, hmailbox, hstate, hreason⟩ := hv
  refine ⟨fun y hy => ?_, ?_⟩
  · obtain ⟨x, hx, hxy⟩ := List.mem_map.mp (unanswered_held h ▸ List.mem_map_of_mem (f := Stream.undated) hy)
    rw [Stream.eq_of_undated hxy.symm]
    exact hheld x hx
  · obtain ⟨x, hx, hxc⟩ := List.mem_map.mp (unanswered_closed h ▸ List.mem_map_of_mem (f := Stream.undated) hc)
    refine ⟨x, hx, ?_⟩
    rw [Stream.eq_of_undated hxc]
    exact ⟨hid, hmailbox, hstate, hreason⟩

theorem completeAll_cove (codes : List Nat) (subject : Nat) (status : Status) (key : ObjKey) (body : Bytes) (s : State) :
    (completeAll codes subject status key body s).cove = s.cove :=
  foldl_keeps State.cove _ (fun s o => by
    split
    · rfl
    · simp [finish]) _ s

theorem closeStream_cove (t : Stream) (reason : BitVec 5) (own : Bool) (resumeStatus : Status) (s : State) :
    (closeStream t reason own resumeStatus s).cove = s.cove := by
  unfold closeStream
  rw [completeAll_cove, completeAll_cove]
  dsimp only
  split_ifs <;> simp

theorem closeStream_closes (t : Stream) (reason : BitVec 5) (own : Bool) (resumeStatus : Status) (s : State) :
    GoneFor t reason (closeStream t reason own resumeStatus s) := by
  have hparked : (closeStream t reason own resumeStatus s).str.parked =
      s.str.parked.filter fun x => !(x.id = t.id && x.mailbox = t.mailbox) := by
    unfold closeStream
    rw [completeAll_str, completeAll_str]
    dsimp only
    split_ifs <;> simp [stateFrame_parked]
  have hclosed : (closeStream t reason own resumeStatus s).str.closed =
      s.str.closed ++ [{ t.atRest with state := .closed, closeReason := reason, resumeTo := none, pauseReason := 0 }] := by
    unfold closeStream
    rw [completeAll_str, completeAll_str]
    dsimp only
    split_ifs <;> simp [stateFrame, repeatLater]
  refine ⟨fun y hy => ?_, ?_⟩
  · rcases List.mem_append.mp hy with hy | hy
    · obtain ⟨p, hp, rfl⟩ := List.mem_map.mp hy
      exact closeStream_gone t reason own resumeStatus s p hp
    · rw [hparked] at hy
      simpa [imp_iff_not_or] using (List.mem_filter.mp hy).2
  · rw [hclosed]
    exact ⟨_, List.mem_append_right _ List.mem_cons_self, rfl, rfl, rfl, rfl⟩

theorem closeParked_closes (t : Stream) (reason : BitVec 5) (own : Bool) (s : State) : GoneFor t reason (closeParked t reason own s) :=
  closeStream_closes ..

theorem freeObject_gone (id : Nat) (s : State) : findObject id (freeObject id s) = none := by
  unfold freeObject
  split
  · assumption
  · simp [findObject]

theorem closeParked_frees {t : Stream} {o : BitVec 128} (h : t.parkObject = some o) (reason : BitVec 5) (own : Bool) (s : State) :
    findObject o.toNat (closeParked t reason own s) = none := by
  unfold closeParked
  rw [findObject, closeStream_cove, h]
  exact freeObject_gone ..

/-- A close takes effect at the boundary in every state but PARKING. -/
theorem closeAtBoundary_closes {n : Nat} {s : State} {t : Stream} {reason : BitVec 5} (h : liveAt n s = some t)
    (hclose : t.event.close = some reason) (hstate : t.state ≠ .parking) : GoneFor t reason (closeAtBoundary n s) := by
  unfold closeAtBoundary
  simp only [h, hclose]
  rw [if_neg hstate]
  split
  · exact closeParked_closes ..
  · exact closeStream_closes ..

section Close
variable {c : Instr} {owner : Bool} {r : Request} {s : State} {t : Stream}

/-- close_reason of the tenant's form and of the owner's. -/
def formReason (owner : Bool) : BitVec 5 := if owner then 3 else 1

variable (h : Served (closeOp owner) r s) (ht : namedStream owner r s = some t) (hexec : exec c s = .next (serve (closeOp owner) r s))
include h ht hexec

theorem close_completes_parked (hparked : t.state = .parked) : CompletesWith c (closeOp owner) r s Status.ok (0, 0)
    (closeParked t (formReason owner) (decide (r.mailbox = t.mailbox)) (taken r s)) := by
  obtain ⟨hmailbox, hid⟩ := findStream_names ht
  have hrun : (closeOp owner).run r (taken r s) = streamAnswer t.mailbox.toNat t.id.toNat (0, 0) Status.ok
      (closeParked t (formReason owner) (decide (r.mailbox = t.mailbox)) (taken r s)) := by
    simp only [closeOp, namedStream_taken, ht, if_pos hparked, ← hmailbox, ← hid, BitVec.toNat_inj, formReason]
  exact completesWith_of_streamAnswer h hrun hexec

theorem close_completes_live (hlive : t.state ≠ .parked) : CompletesWith c (closeOp owner) r s Status.ok (3, nextStep s)
    (setEvent t.mailbox.toNat t.id.toNat (fun e => { e with close := some (formReason owner), own := decide (r.mailbox = t.mailbox) })
      (taken r s)) := by
  obtain ⟨hmailbox, hid⟩ := findStream_names ht
  have hrun : (closeOp owner).run r (taken r s) = streamAnswer t.mailbox.toNat t.id.toNat (3, nextStep s) Status.ok
      (setEvent t.mailbox.toNat t.id.toNat
        (fun e => { e with close := some (formReason owner), own := decide (r.mailbox = t.mailbox) }) (taken r s)) := by
    simp only [closeOp, namedStream_taken, ht, if_neg hlive, ← hmailbox, ← hid, BitVec.toNat_inj, nextStep_taken, formReason]
  exact completesWith_of_streamAnswer h hrun hexec

end Close

/-- Settles O12: each opcode's run gives the state that waits for the boundary, which an answer leaves but for the records of last
changes; what the boundary does to the stream then follows from its event. -/
theorem stopParkAndCloseWaitForTheStep : Obligations.StopParkAndCloseWaitForTheStep := by
  unfold Obligations.StopParkAndCloseWaitForTheStep
  refine ⟨fun x hx r s t h ht => ?stop, fun x hx r s t h ht => ?park, fun x hx r s t h ht => ?close⟩
  case stop =>
    have hexec : exec (x.1 r) s = .next (serve (stopOp x.2) r s) := by
      rcases List.mem_pair.mp hx with rfl | rfl <;> rfl
    obtain ⟨w, hw, hrest, hanswers⟩ := stop_completes h ht hexec
    refine ⟨w, hw, hanswers, hrest, fun n hn => ?_⟩
    obtain ⟨d, hd⟩ := liveAt_of_unanswered hrest (setEvent_same ((liveAt_taken n r s).trans hn) _)
    refine ⟨_, stopAtBoundary_liveAt hd, ?_⟩
    simp [Stream.stopped, stop_checked h ht, history]
  case park =>
    intro own
    have hexec : exec (x.1 r) s = .next (serve (parkOp x.2) r s) := by
      rcases List.mem_pair.mp hx with rfl | rfl <;> rfl
    obtain ⟨w, hw, hrest, hanswers⟩ := park_completes h ht hexec
    refine ⟨w, hw, hanswers, hrest, fun n hn => ?_⟩
    obtain ⟨d, hd⟩ := liveAt_of_unanswered hrest (setEvent_same ((liveAt_taken n r s).trans hn) _)
    have hstate := park_checked h ht
    have hbegins := parkAtBoundary_begins hd rfl hstate
    have hparks := parkAtBoundary_parks hd rfl hstate
    exact ⟨hbegins, hparks⟩
  case close =>
    intro reason own gone
    have hexec : exec (x.1 r) s = .next (serve (closeOp x.2) r s) := by
      rcases List.mem_pair.mp hx with rfl | rfl <;> rfl
    refine ⟨fun hparked => ?_, fun hlive => ?_⟩
    · obtain ⟨w, hw, hrest, hanswers⟩ := close_completes_parked h ht hexec hparked
      exact ⟨w, hw, hanswers, hrest, (closeParked_closes ..).of_unanswered hrest, fun o ho =>
        findObject_of_unanswered hrest (closeParked_frees ho ..)⟩
    · obtain ⟨w, hw, hrest, hanswers⟩ := close_completes_live h ht hexec hlive
      refine ⟨w, hw, hanswers, hrest, fun n hn hparking => ?_⟩
      obtain ⟨d, hd⟩ := liveAt_of_unanswered hrest (setEvent_same ((liveAt_taken n r s).trans hn) _)
      have hgone := closeAtBoundary_closes hd rfl hparking
      exact hgone

end Sys2Proof.Machine

namespace Sys2Proof.Machine

/-! ## STREAM_RESUME (R252, R377) -/

theorem freeRecord_of_recordStatus {mb : Nat} {s : State} (h : recordStatus mb s = Status.ok) : ∃ n, freeRecord s = some n := by
  unfold recordStatus at h
  split at h
  next => exact absurd h (by decide)
  next hfree => exact Option.isSome_iff_exists.mp (by simpa [Option.isSome_iff_ne_none] using hfree)

section Resume
variable {r : Request} {s : State} {t : Stream}

/-- Serial of the admission of a stream that is resumed: a new one where it goes on to PREFILL or DECODE. -/
def resumedAdmission (t : Stream) (s : State) : BitVec 64 :=
  if t.resumeTo = some .prefill ∨ t.resumeTo = some .decode then s.cfg.powerUpCount ++ (s.mbox.changes + 1) else t.admission

theorem resumedAdmission_taken (t : Stream) (r : Request) (s : State) : resumedAdmission t (taken r s) = resumedAdmission t s := by
  simp [resumedAdmission]

/-- A stream in PARKING whose resumption waits for the step boundary. -/
def Stream.recalled (out : Endpoint) (admission : BitVec 64) (t : Stream) : Stream :=
  { t with out := out, admission := admission, event := { t.event with cancelPark := true, own := true } }

/-- The object of a parked stream is being read. -/
def objectRead (t : Stream) (s : State) : State :=
  match t.parkObject with
  | some o => setObject o.toNat (fun x => { x with readers := x.readers + 1 }) s
  | none => s

/-- A parked stream in live record n, in RESUMING. -/
def resumedState (n : Nat) (out : Endpoint) (admission : BitVec 64) (t : Stream) (s : State) : State :=
  { objectRead t s with str := { s.str with
      live := s.str.live ++ [(n, { t with state := .resuming, out := out, admission := admission })]
      parked := s.str.parked.filter fun x => !(x.id = t.id && x.mailbox = t.mailbox) } }

variable (h : Served opStreamResume r s) (ht : namedStream false r s = some t)
include h ht

theorem resume_completes_parking (hparking : t.state = .parking) :
    CompletesWith (.streamResume r) opStreamResume r s Status.accepted (3, nextStep s) (setStreamById t.id.toNat
      (fun x => if x.mailbox = t.mailbox then x.recalled r.src (resumedAdmission t s) else x) (taken r s)) := by
  obtain ⟨hmailbox, hid⟩ := findStream_names ht
  have hrun : opStreamResume.run r (taken r s) = streamAnswer r.mailbox.toNat t.id.toNat (3, nextStep s) Status.accepted
      (setStreamById t.id.toNat (fun x => if x.mailbox = t.mailbox then x.recalled r.src (resumedAdmission t s) else x) (taken r s)) := by
    rw [← resumedAdmission_taken t r s, ← nextStep_taken r s, hid]
    simp only [opStreamResume, namedStream_taken, ht, if_pos hparking]
    rfl
  exact completesWith_of_streamAnswer h hrun rfl

theorem resume_completes_parked (hparked : t.state = .parked) : ∃ n, freeRecord (taken r s) = some n ∧
    CompletesWith (.streamResume r) opStreamResume r s Status.accepted (3, nextStep s)
      (resumedState n r.src (resumedAdmission t s) t (taken r s)) := by
  have hstatus : resumeStatus t (taken r s) = Status.ok := by
    have hcheck := withStream_ok ht h.passed
    simpa only [hparked] using hcheck
  obtain ⟨n, hn⟩ := freeRecord_of_recordStatus (ok_of_firstBad hstatus (recordStatus t.mailbox.toNat (taken r s)) (by simp))
  have hnot : ¬t.state = .parking := by simp [hparked]
  have hrun : opStreamResume.run r (taken r s) = streamAnswer r.mailbox.toNat (field r.payload 0 8) (3, nextStep s) Status.accepted
      (resumedState n r.src (resumedAdmission t s) t (taken r s)) := by
    rw [← resumedAdmission_taken t r s, ← nextStep_taken r s]
    simp only [opStreamResume, namedStream_taken, ht, if_neg hnot, hn]
    cases hobject : t.parkObject <;> simp only [resumedState, objectRead, hobject] <;> rfl
  exact ⟨n, hn, completesWith_of_streamAnswer h hrun rfl⟩

end Resume

/-! ## STREAM_SET (R366, R377) -/

section Set
variable {c : Instr} {owner : Bool} {r : Request} {s : State} {t : Stream}

/-- The settings that a STREAM_SET leaves a stream with. -/
def requestedSettings (owner : Bool) (r : Request) (t : Stream) : Settings :=
  mergeSettings (field (target owner r).2 8 4) t.shadow (settingsOf (settingsAt (target owner r).2 16))

/-- A live stream with settings that wait for the next tide boundary. -/
def Stream.shadowed (y : Settings) (depth : Bool) (t : Stream) : Stream :=
  { t with shadow := y, depthWritten := t.depthWritten || depth }

/-- The settings of a parked stream are in force, and its object's TTL counts from the journal record that sets it. -/
def parkedSet (y : Settings) (t : Stream) (s : State) : State :=
  let v := setStreamById t.id.toNat (fun x => if x.mailbox = t.mailbox then { x with live := y, shadow := y } else x) s
  match t.parkObject with
  | some o => setObject o.toNat (fun c => { c with expiresAt := expiresAt y.parkTtl.toNat (journal v)
                                                   serial := s.cove.journalSerial + 1
                                                   dated := seconds s.now }) (journal v)
  | none => v

theorem latchStream_live (t : Stream) : (latchStream t).live = t.shadow := by
  unfold latchStream
  split <;> rfl

theorem nextTide_taken (r : Request) (s : State) : nextTide (taken r s) = nextTide s := by simp [nextTide]

variable (h : Served (setOp owner) r s) (ht : namedStream owner r s = some t) (hexec : exec c s = .next (serve (setOp owner) r s))
include h ht hexec

theorem set_completes_live (hlive : t.state ≠ .parked) : CompletesWith c (setOp owner) r s Status.ok (1, nextTide s)
    (setStreamById t.id.toNat (fun x => if x.mailbox = t.mailbox then
      x.shadowed (requestedSettings owner r t) ((field (target owner r).2 8 4).testBit 9) else x) (taken r s)) := by
  obtain ⟨-, hid⟩ := findStream_names ht
  have hrun : (setOp owner).run r (taken r s) = ⟨setStreamById t.id.toNat (fun x => if x.mailbox = t.mailbox then
      x.shadowed (requestedSettings owner r t) ((field (target owner r).2 8 4).testBit 9) else x) (taken r s), Status.ok,
      named owner r, true, (1, nextTide s), settingsBlock (requestedSettings owner r t)⟩ := by
    rw [← nextTide_taken r s, hid]
    simp only [setOp, namedStream_taken, ht, if_neg hlive]
    rfl
  exact completesWith_of_run h hrun hexec

theorem set_completes_parked (hparked : t.state = .parked) : CompletesWith c (setOp owner) r s Status.ok (0, 0)
    (parkedSet (requestedSettings owner r t) t (taken r s)) := by
  obtain ⟨-, hid⟩ := findStream_names ht
  have hrun : (setOp owner).run r (taken r s) = ⟨parkedSet (requestedSettings owner r t) t (taken r s), Status.ok,
      named owner r, true, (0, 0), settingsBlock (requestedSettings owner r t)⟩ := by
    simp only [setOp, namedStream_taken, ht, if_pos hparked, ← hid]
    cases hobject : t.parkObject <;> simp only [parkedSet, hobject] <;> rfl
  exact completesWith_of_run h hrun hexec

end Set

/-- Settles O13: a resumption's run and a setting's by the state of the stream that they name; what an answer leaves of the live
record then takes the boundary's own step. -/
theorem resumeAndSettingsComplete : Obligations.ResumeAndSettingsComplete := by
  unfold Obligations.ResumeAndSettingsComplete
  refine ⟨fun r s t h ht => ?resume, fun x hx r s t h ht => ?set⟩
  case resume =>
    refine ⟨fun hparking => ?_, fun hparked => ?_⟩
    · obtain ⟨w, hw, hrest, hanswers⟩ := resume_completes_parking h ht hparking
      refine ⟨w, hw, hanswers, hrest, fun n hn => ?_⟩
      have hrecalled : liveAt n (setStreamById t.id.toNat
          (fun x => if x.mailbox = t.mailbox then x.recalled r.src (resumedAdmission t s) else x) (taken r s)) =
          some (t.recalled r.src (resumedAdmission t s)) := by
        simp [liveAt_setStreamById, liveAt_taken, hn]
      obtain ⟨d, hd⟩ := liveAt_of_unanswered hrest hrecalled
      have hcancelled := cancelPark_liveAt hd rfl hparking
      exact ⟨_, hcancelled, rfl, rfl⟩
    · obtain ⟨n, hn, hdone⟩ := resume_completes_parked h ht hparked
      have hstr : (taken r s).str = s.str := by simp
      refine ⟨n, hn, ?_⟩
      rw [resumedState, hstr] at hdone
      exact hdone
  case set =>
    have hexec : exec (x.1 r) s = .next (serve (setOp x.2) r s) := by
      rcases List.mem_pair.mp hx with rfl | rfl <;> rfl
    refine ⟨fun hlive => ?_, fun hparked => ?_⟩
    · obtain ⟨w, hw, hrest, hanswers⟩ := set_completes_live h ht hexec hlive
      refine ⟨w, hw, hanswers, hrest, fun n hn => ?_⟩
      have hshadowed : liveAt n (setStreamById t.id.toNat (fun z => if z.mailbox = t.mailbox then
          z.shadowed (requestedSettings x.2 r t) ((field (target x.2 r).2 8 4).testBit 9) else z) (taken r s)) =
          some (t.shadowed (requestedSettings x.2 r t) ((field (target x.2 r).2 8 4).testBit 9)) := by
        simp [liveAt_setStreamById, liveAt_taken, hn]
      obtain ⟨d, hd⟩ := liveAt_of_unanswered hrest hshadowed
      exact ⟨_, hd, rfl, latchStream_live _⟩
    · have hdone := set_completes_parked h ht hexec hparked
      rw [parkedSet, taken_cove] at hdone
      exact hdone

end Sys2Proof.Machine

namespace Sys2Proof.Machine

/-! ## A module that the owner's requests reach -/

/-- The key of its owner. -/
def attendedKey : Key := 5

/-- A ready module, claimed, its owner on any address, with an image that is stopped. -/
def attended : State :=
  { State.reset with
    cfg := { Cfg.shipped with claimed := true, ownerKey := attendedKey, ownerPrefixes := [BitVec.ofNat 256 (2 ^ 120)] }
    pow := { Power.reset with stage := .ready }
    img := { Img.reset with image := some { oneTideImage with sampler := BitVec.ofNat 256 (4 + 2 * 2 ^ 32) } }
    tide := { Tide.reset with dp := .stopped } }

/-- A request of the owner with a payload, tagged. -/
def ownerRequest (op : Op) (p : Bytes) : Request :=
  signed attendedKey op ⟨⟨0, 0⟩, 0, ⟨0, 0⟩, 0x46524D42, 1, 0, 0, 1, 0, BitVec.ofNat 32 p.length, 0, p, []⟩

/-- Settings that take the largest logit and share what is committed. -/
def greedySettings : Settings := ⟨0, false, 100, 0, 0, 0x3F800000, 0x3F800000, 0, 1, 0⟩

/-! ## STREAM_OPEN where every identifier is taken (R251, R254) -/

/-- The owner's request for a new stream. -/
def openRequest : Request := ownerRequest opStreamOpen (settingsBlock greedySettings)

/-- A parked stream of the owner. -/
def parkedUnder (id : BitVec 64) : Stream := { newStream id openRequest greedySettings State.reset with state := .parked }

/-- Streams parked under the identifiers below a bound. -/
def parkedBelow (m : Nat) : List Stream := (List.range m).map fun n => parkedUnder (BitVec.ofNat 64 n)

theorem mem_parkedBelow {m : Nat} {id : BitVec 64} (h : id.toNat < m) : parkedUnder id ∈ parkedBelow m :=
  List.mem_map.mpr ⟨id.toNat, List.mem_range.mpr h, by rw [BitVec.ofNat_toNat, BitVec.setWidth_eq]⟩

/-- The owner has a stream parked under each of the identifiers. -/
def crowded : State := { attended with str := { Streams.reset with parked := parkedBelow (2 ^ 64) } }

theorem crowded_parked : crowded.str.parked = parkedBelow (2 ^ 64) := by simp only [crowded]

theorem crowded_serves : Served opStreamOpen openRequest crowded := served_signed (by decide +kernel) (by decide +kernel)

/-- Refutes O11: STREAM_OPEN does not always find an identifier that no other stream of its mailbox holds, for nothing in the state
bounds the parked streams (R251 leaves that to the cove): where the mailbox has one parked under each of the 2^64 identifiers, the
request passes its checks, and there is none left. -/
theorem not_streamsOpenAndGenerate : ¬ Obligations.StreamsOpenAndGenerate := by
  unfold Obligations.StreamsOpenAndGenerate
  rintro ⟨hopen, -⟩
  obtain ⟨n, id, draws, t, -, hnew, -⟩ := hopen openRequest crowded crowded_serves
  have hparked : parkedUnder id ∈ crowded.str.parked := by
    rw [crowded_parked]
    exact mem_parkedBelow id.isLt
  exact hnew (parkedUnder id) (List.mem_append_right _ hparked) rfl rfl

end Sys2Proof.Machine

namespace Sys2Proof.Machine

/-! ## PREFIX_PUBLISH where an index goes past 64 bits (R276, R344) -/

/-- A stream of the owner with a block committed. -/
def publisher : Stream :=
  { newStream 3 openRequest greedySettings State.reset with committed := List.replicate 64 1 }

/-- A prefix of another mailbox in the shelf. -/
def foreignPrefix (index lastUse : Nat) (copying : Bool) : Prefix := ⟨index, 0, 2, 1, [], 0, lastUse, copying, [], [], [], Change.zero⟩

/-- The module holds 1,024 prefixes, of which the least recently used one without references has the index 2^64, and another one
the index 0. -/
def overfull : State :=
  { attended with str := { Streams.reset with
      live := [(0, publisher)]
      prefixes := foreignPrefix (2 ^ 64) 0 false :: foreignPrefix 0 1 false :: List.replicate 1022 (foreignPrefix 1 2 true) } }

/-- The owner's request to publish the stream's block. -/
def publishRequest : Request := ownerRequest opPrefixPublish (bytesBE 8 3 ++ bytesBE 4 64 ++ bytesBE 4 0)

theorem overfull_serves : Served opPrefixPublish publishRequest overfull := served_signed (by decide +kernel) (by decide +kernel)

theorem overfull_names : namedStream false publishRequest overfull = some publisher := by decide +kernel

/-- Status of the newest response after a command. -/
def newestStatus : Out → Option Status
  | .next w => w.mbox.cache.getLast?.map (·.status)
  | _ => none

/-- The publication is taken for one that is there already: the index of its message is that of the other prefix. -/
theorem overfull_completes : newestStatus (exec (.prefixPublish publishRequest) overfull) = some Status.ok := by decide +kernel

theorem overfull_unpublished : ((taken publishRequest overfull).str.prefixes.find? fun p => p.publisher = publisher.mailbox &&
    p.address = contentAddress publisher.digest publisher.committed (field publishRequest.payload 8 4 / 64)) = none := by
  decide +kernel

/-- Refutes O14: a publication that takes an index does not always stay outstanding, for a prefix's index is a number without a
bound and the message that waits for its copy carries 64 bits of it. Where the least recently used prefix has the index 2^64, the
new one takes it over, and the prefix with the index 0, whose copy is done, ends the message at once. -/
theorem not_prefixesArePublishedAndDropped : ¬ Obligations.PrefixesArePublishedAndDropped := by
  unfold Obligations.PrefixesArePublishedAndDropped
  rintro ⟨hpublish, -⟩
  obtain ⟨hnew, -⟩ := hpublish publishRequest overfull publisher overfull_serves overfull_names
  obtain ⟨n, v, w, -, hexec, ⟨⟨e, serial, k, body, hlast, -, -, -, -, hstatus, -⟩, -⟩, -⟩ := hnew overfull_unpublished
  have hok := overfull_completes
  simp only [hexec, newestStatus, hlast, Option.map_some, hstatus] at hok
  exact absurd hok (by decide)

end Sys2Proof.Machine

namespace Sys2Proof.Machine

/-! ## The path that a verification accepts (R286) -/

/-- The token that the head's row of node u gives under the stream's settings where the history is g (R286). -/
def nodeSample (rows : List LogitRow) (n : Nat) (t : Stream) (u : Nat) (g : List Token) : Token :=
  sampleToken ((headRow rows n u).elim [] (·.logits)) t.live g.length g

/-- The token of node u of the stream's tree. -/
def nodeToken (t : Stream) (u : Nat) : Token := (nth t.tree u ⟨0, 0, 0⟩).token

theorem nodeToken_of_getElem? {t : Stream} {u : Nat} {x : Node} (hx : t.tree[u]? = some x) : nodeToken t u = x.token := by
  simp [nodeToken, nth, List.getD_eq_getElem?_getD, hx]

/-- Node c of the tree is a child of node v that verification accepts where the history is h: it carries the sampled token,
which is no end token (R286). -/
structure AcceptedChild (i : Image) (rows : List LogitRow) (n : Nat) (t : Stream) (v : Nat) (h : List Token) (c : Nat) : Prop where
  node : ∃ x, t.tree[c]? = some x ∧ x.parent = v
  not_root : c ≠ 0
  token : nodeToken t c = nodeSample rows n t v h
  not_end : i.endTokens.contains (nodeToken t c) = false

/-- A path of the tree down from node v with the history h, of children that verification accepts one after the other. -/
inductive SampledPath (i : Image) (rows : List LogitRow) (n : Nat) (t : Stream) : Nat → List Token → List Nat → Prop
  | nil {v : Nat} {h : List Token} : SampledPath i rows n t v h []
  | cons {v c : Nat} {h : List Token} {path : List Nat} (child : AcceptedChild i rows n t v h c)
      (rest : SampledPath i rows n t c (h ++ [nodeToken t c]) path) : SampledPath i rows n t v h (c :: path)

section Path

variable {i : Image} {rows : List LogitRow} {n : Nat} {t : Stream}

/-- Each node of a sampled path is an accepted child of the node before it, with the path so far in its history. -/
theorem SampledPath.acceptedChild {v : Nat} {h : List Token} {path : List Nat} (hp : SampledPath i rows n t v h path) :
    ∀ k, k < path.length → AcceptedChild i rows n t (if k = 0 then v else nth path (k - 1) 0)
      (h ++ (path.take k).map (nodeToken t)) (nth path k 0) := by
  induction hp with
  | nil => intro k hk; simp at hk
  | @cons v c h path child rest ih =>
    rintro (_ | k) hk
    · simpa [nth] using child
    · have hchild := ih k (by simpa using hk)
      cases k <;> simpa [nth] using hchild

variable (i rows n t)

/-- One turn of the loop of R286: the verification goes on at an accepted child, or it returns where it stands with the sample
as the bonus. -/
theorem verify_succ (fuel v : Nat) (acc : List Nat) (h : List Token) :
    verify i rows n t (fuel + 1) v acc h = (acc, v, nodeSample rows n t v h) ∨
    ∃ c, AcceptedChild i rows n t v h c ∧
      verify i rows n t (fuel + 1) v acc h = verify i rows n t fuel c (acc ++ [c]) (h ++ [nodeToken t c]) := by
  rw [verify, ← nodeSample]
  split
  next p hfind =>
    obtain ⟨x, c⟩ := p
    have hx : t.tree[c]? = some x := List.mem_zipIdx_iff_getElem?.1 (List.mem_of_find?_eq_some hfind)
    have hpick := List.find?_some hfind
    simp only [Bool.and_eq_true, bne_iff_ne, decide_eq_true_eq] at hpick
    obtain ⟨⟨hroot, hparent⟩, htoken⟩ := hpick
    have hct : nodeToken t c = nodeSample rows n t v h := (nodeToken_of_getElem? hx).trans htoken
    split
    next => exact .inl rfl
    next hend => exact .inr ⟨c, ⟨⟨x, hx, hparent⟩, hroot, hct, by simpa [hct] using hend⟩, by rw [hct]⟩
  next => exact .inl rfl

/-- What a verification adds to the accepted nodes is a sampled path, and it ends at the last of its nodes with the sample there as
the bonus; the bound of the loop cuts it off only where the path is as long as the bound. -/
theorem verify_sampledPath (fuel v : Nat) (acc : List Nat) (h : List Token) :
    ∃ path, SampledPath i rows n t v h path ∧ path.length ≤ fuel ∧
      (verify i rows n t fuel v acc h).1 = acc ++ path ∧
      (verify i rows n t fuel v acc h).2.1 = path.getLast?.getD v ∧
      (path.length < fuel → (verify i rows n t fuel v acc h).2.2 =
        nodeSample rows n t (path.getLast?.getD v) (h ++ path.map (nodeToken t))) := by
  induction fuel generalizing v acc h with
  | zero => exact ⟨[], .nil, by simp [verify]⟩
  | succ fuel ih =>
    obtain hstop | ⟨c, hchild, hgo⟩ := verify_succ i rows n t fuel v acc h
    · exact ⟨[], .nil, by simp [hstop]⟩
    · obtain ⟨path, hpath, hlen, hacc, hlast, hbonus⟩ := ih c (acc ++ [c]) (h ++ [nodeToken t c])
      refine ⟨c :: path, .cons hchild hpath, by simpa using hlen, ?_, ?_, fun hlt => ?_⟩
      · simpa [hgo] using hacc
      · simpa [hgo, List.getLast?_cons] using hlast
      · simpa [hgo, List.getLast?_cons] using hbonus (by simpa using hlt)

end Path

/-- Settles O49: what is accepted is a sampled path of the tree, by induction on the bound of the loop. -/
theorem verifyFollowsTheTree : Obligations.VerifyFollowsTheTree := by
  unfold Obligations.VerifyFollowsTheTree
  intro i rows n t fuel v acc h
  obtain ⟨path, hpath, hlen, hacc, hlast, hbonus⟩ := verify_sampledPath i rows n t fuel v acc h
  refine ⟨path, hacc, hlen, hlast, fun k hk => ?_, fun hlt => ?_⟩
  · obtain ⟨⟨x, hx, hparent⟩, hroot, htoken, hend⟩ := hpath.acceptedChild k hk
    rw [nodeToken_of_getElem? hx] at htoken hend
    exact ⟨x, hx, hroot, hparent, by rw [hparent]; exact htoken, hend⟩
  · rw [hlast]
    exact hbonus hlt

end Sys2Proof.Machine

namespace Sys2Proof.Machine

/-! ## Frames sent one after another (R325, R327) -/

/-- What frames that are sent, dropped or held back leave: in the port two counters and the frames that wait may change, the
output grows at its end, and all else stays. -/
structure Sending (s t : State) : Prop where
  rest : t = { s with outbox := t.outbox, eth := t.eth }
  eth : t.eth = { s.eth with tx := t.eth.tx, droppedFilter := t.eth.droppedFilter, held := t.eth.held }
  outbox : s.outbox <+: t.outbox

theorem Sending.refl (s : State) : Sending s s := ⟨rfl, rfl, ⟨[], List.append_nil _⟩⟩

theorem Sending.trans {s t u : State} (h : Sending s t) (k : Sending t u) : Sending s u :=
  ⟨k.rest.trans (by rw [h.rest]), k.eth.trans (by rw [h.eth]), h.outbox.trans k.outbox⟩

theorem Sending.ite {s t u : State} {c : Prop} [Decidable c] (h : Sending s t) (k : Sending s u) : Sending s (if c then t else u) := by
  split
  · exact h
  · exact k

theorem send_sending (x : Sent) (s : State) : Sending s (send x s) := by
  unfold send
  refine .ite (.refl s) (.ite ?dropped (.ite ?waits ?leaves))
  case dropped => exact ⟨rfl, rfl, ⟨[], List.append_nil _⟩⟩
  case waits => exact ⟨rfl, rfl, ⟨[], List.append_nil _⟩⟩
  case leaves => exact ⟨rfl, rfl, ⟨[x], rfl⟩⟩

theorem foldl_sending {α : Type} {f : State → α → State} (hf : ∀ s a, Sending s (f s a)) (l : List α) (s : State) :
    Sending s (l.foldl f s) := by
  induction l generalizing s with
  | nil => exact Sending.refl s
  | cons a l ih => exact (hf s a).trans (ih (f s a))

namespace Sending
variable {s t : State} (h : Sending s t)
include h

theorem live : t.live = s.live := by rw [h.rest]

theorem link : t.eth.link = s.eth.link := by rw [h.eth]

theorem paused : t.eth.paused = s.eth.paused := by rw [h.eth]

theorem config : SameConfig s t := by
  rw [h.rest]
  exact ⟨rfl, rfl, rfl, rfl⟩

theorem plane : SameDataPlane s t := by
  rw [h.rest]
  exact ⟨rfl, rfl, rfl, rfl, rfl⟩

theorem pausedPriority (x : Sent) :
    Machine.pausedPriority (priorityOf x t) t = Machine.pausedPriority (priorityOf x s) s := by
  unfold Machine.pausedPriority priorityOf
  rw [h.live, h.paused]

theorem routable (a : BitVec 128) : Machine.routable a t = Machine.routable a s := by
  unfold Machine.routable
  rw [h.live]

end Sending

/-- A frame whose priority is not paused does not wait. -/
theorem send_held {x : Sent} {s : State} (hfree : pausedPriority (priorityOf x s) s = false) :
    (send x s).eth.held = s.eth.held := by
  have hpaused : ¬(pausedPriority (priorityOf x s) s = true) := by simp [hfree]
  unfold send
  rw [if_neg hpaused]
  (repeat' split) <;> rfl

/-- A frame leaves when the link is up, a host that it goes to has a next hop, and its priority is not paused. -/
theorem mem_outbox_send {x : Sent} {s : State} (hl : s.eth.link = 2)
    (hroute : ∀ a, destinationOf x = some a → routable a s = true) (hfree : pausedPriority (priorityOf x s) s = false) :
    x ∈ (send x s).outbox := by
  unfold send
  rw [if_neg (by simp [hl]), if_neg ?hop, if_neg (by simp [hfree])]
  · simp
  case hop =>
    cases hd : destinationOf x with
    | none => simp
    | some a => simp [hroute a hd]

/-! ### The frames that a pause held back (R327) -/

theorem foldl_send_held {l : List Sent} {s : State} (hfree : ∀ x ∈ l, pausedPriority (priorityOf x s) s = false) :
    (l.foldl (fun s x => send x s) s).eth.held = s.eth.held := by
  induction l generalizing s with
  | nil => rfl
  | cons y l ih =>
    obtain ⟨hy, hl⟩ := List.forall_mem_cons.1 hfree
    exact (ih fun x hx => ((send_sending y s).pausedPriority x).trans (hl x hx)).trans (send_held hy)

theorem mem_outbox_foldl_send {l : List Sent} {x : Sent} {s : State} (hx : x ∈ l) (hl : s.eth.link = 2)
    (hroute : ∀ a, destinationOf x = some a → routable a s = true) (hfree : pausedPriority (priorityOf x s) s = false) :
    x ∈ (l.foldl (fun s x => send x s) s).outbox := by
  induction l generalizing s with
  | nil => simp at hx
  | cons y l ih =>
    have hy := send_sending y s
    obtain rfl | hx := List.mem_cons.1 hx
    · exact (foldl_sending (fun s x => send_sending x s) l _).outbox.subset (mem_outbox_send hl hroute hfree)
    · exact ih hx (hy.link.trans hl) (fun a ha => (hy.routable a).trans (hroute a ha)) ((hy.pausedPriority x).trans hfree)

/-- The frames that wait for a priority that is still paused. -/
def stillHeld (s : State) : List Sent := s.eth.held.filter fun x => pausedPriority (priorityOf x s) s

theorem releaseHeld_sending (s : State) : Sending { s with eth := { s.eth with held := stillHeld s } } (releaseHeld s) :=
  foldl_sending (fun s x => send_sending x s) _ _

theorem releaseHeld_held (s : State) : (releaseHeld s).eth.held = stillHeld s := by
  refine foldl_send_held (s := { s with eth := { s.eth with held := stillHeld s } }) fun x hx => ?_
  have hfree := (List.mem_filter.1 hx).2
  simp only [Bool.not_eq_true'] at hfree
  exact hfree

theorem mem_outbox_releaseHeld {x : Sent} {s : State} (hx : x ∈ s.eth.held) (hl : s.eth.link = 2)
    (hroute : ∀ a, destinationOf x = some a → routable a s = true) (hfree : pausedPriority (priorityOf x s) s = false) :
    x ∈ (releaseHeld s).outbox :=
  mem_outbox_foldl_send (s := { s with eth := { s.eth with held := stillHeld s } })
    (List.mem_filter.2 ⟨hx, by simp [hfree]⟩) hl hroute hfree

/-! ## Priority flow control (R327) -/

theorem mem_paused_pausePriority {p r : Nat} {q x : BitVec 16} {s : State} :
    (r, x) ∈ (pausePriority p q s).eth.paused ↔ if r = p then x = q ∧ x ≠ 0 else (r, x) ∈ s.eth.paused := by
  unfold pausePriority
  split
  next hq => by_cases hr : r = p <;> simp [hq, hr]
  next hq =>
    by_cases hr : r = p
    · simpa [hr] using fun h : x = q => h ▸ hq
    · simp [hr]

/-- What a PFC frame does to one priority. -/
def pauseMarked (classes : BitVec 8) (quanta : List (BitVec 16)) (s : State) (p : Nat) : State :=
  if bit classes p && pfcEnabled p s then pausePriority p (nth quanta p 0) s else s

section PfcFrame
variable (classes : BitVec 8) (quanta : List (BitVec 16))

theorem pauseMarked_live (s : State) (p : Nat) : (pauseMarked classes quanta s p).live = s.live := by
  unfold pauseMarked
  split <;> rfl

theorem pauseMarked_pfcRx (s : State) (p : Nat) : (pauseMarked classes quanta s p).eth.pfcRx = s.eth.pfcRx := by
  unfold pauseMarked
  split <;> rfl

theorem pfcEnabled_congr {s t : State} (h : t.live = s.live) (p : Nat) : pfcEnabled p t = pfcEnabled p s := by
  unfold pfcEnabled
  rw [h]

theorem mem_paused_pauseMarked {p r : Nat} {q : BitVec 16} {s : State} :
    (r, q) ∈ (pauseMarked classes quanta s p).eth.paused ↔
      if r = p ∧ bit classes r = true ∧ pfcEnabled r s = true then q = nth quanta r 0 ∧ q ≠ 0 else (r, q) ∈ s.eth.paused := by
  by_cases hm : bit classes p = true ∧ pfcEnabled p s = true
  · rw [pauseMarked, if_pos (by simpa using hm), mem_paused_pausePriority]
    by_cases hr : r = p
    · subst hr
      simp [hm]
    · simp [hr]
  · rw [pauseMarked, if_neg (by simpa using hm), if_neg (by rintro ⟨rfl, h⟩; exact hm h)]

/-- A PFC frame sets the pause of every enabled priority that it marks, in whatever order they are taken. -/
theorem mem_paused_foldl_pauseMarked {r : Nat} {q : BitVec 16} (ps : List Nat) (s : State) :
    (r, q) ∈ (ps.foldl (pauseMarked classes quanta) s).eth.paused ↔
      if r ∈ ps ∧ bit classes r = true ∧ pfcEnabled r s = true then q = nth quanta r 0 ∧ q ≠ 0 else (r, q) ∈ s.eth.paused := by
  induction ps generalizing s with
  | nil => simp
  | cons p ps ih =>
    rw [List.foldl_cons, ih, pfcEnabled_congr (pauseMarked_live classes quanta s p), mem_paused_pauseMarked]
    by_cases hm : bit classes r = true ∧ pfcEnabled r s = true
    · by_cases hr : r = p
      · subst hr
        simp [hm]
      · simp [hr]
    · simp [hm]

theorem exec_pfcFrameReceive {s : State} (ha : s.awake = true) (hl : s.eth.link = 2) :
    exec (.pfcFrameReceive classes quanta) s = .next (releaseHeld ((List.range 8).foldl (pauseMarked classes quanta)
      { received s with eth := { (received s).eth with pfcRx := satInc s.eth.pfcRx } })) :=
  congrArg Host.Outcome.next (if_pos ⟨ha, hl⟩)

end PfcFrame

/-- A priority whose pause is over. -/
theorem pausePriority_zero (p : Nat) (s : State) :
    pausePriority p 0 s = { s with eth := { s.eth with paused := s.eth.paused.filter fun x => x.1 ≠ p } } := by
  simp [pausePriority]

theorem exec_pfcPauseExpiry (p : Nat) (s : State) : exec (.pfcPauseExpiry p) s =
    .next (releaseHeld { s with eth := { s.eth with paused := s.eth.paused.filter fun x => x.1 ≠ p } }) :=
  congrArg (fun t => Host.Outcome.next (releaseHeld t)) (pausePriority_zero p s)

/-- The port's record with the level of a receive buffer, which is full at 8 MiB. -/
def bufferAt (p level : Nat) (e : Eth) : Eth := { e with levels := e.levels.set p (min level 8388608) }

section Threshold
variable {p level : Nat} {s : State} (ha : s.awake = true) (hl : s.eth.link = 2) (hp : p < 8)
include ha hl hp

theorem exec_pfcBufferThreshold_pauses (hhigh : 6291456 < level) (hen : bit s.live.w11 (96 + p) = true) (hn : p ∉ s.eth.pauseSent) :
    exec (.pfcBufferThreshold p level) s = .next (send (.pfc p true) { s with eth :=
      { bufferAt p level s.eth with pauseSent := s.eth.pauseSent ++ [p], pfcTx := satInc s.eth.pfcTx } }) :=
  congrArg Host.Outcome.next ((if_pos ⟨ha, hl, hp⟩).trans (if_pos ⟨hhigh, by simp [pfcEnabled, hp, hen], by simpa using hn⟩))

theorem exec_pfcBufferThreshold_releases (hlow : level < 4194304) (hs : p ∈ s.eth.pauseSent) :
    exec (.pfcBufferThreshold p level) s = .next (send (.pfc p false) { s with eth :=
      { bufferAt p level s.eth with pauseSent := s.eth.pauseSent.filter (· ≠ p), pfcTx := satInc s.eth.pfcTx } }) :=
  congrArg Host.Outcome.next ((if_pos ⟨ha, hl, hp⟩).trans ((if_neg (by omega)).trans (if_pos ⟨hlow, by simpa using hs⟩)))

theorem exec_pfcBufferThreshold_keeps (hno : level ≤ 6291456 ∨ bit s.live.w11 (96 + p) = false ∨ p ∈ s.eth.pauseSent)
    (hnr : 4194304 ≤ level ∨ p ∉ s.eth.pauseSent) :
    exec (.pfcBufferThreshold p level) s = .next { s with eth := bufferAt p level s.eth } := by
  refine congrArg Host.Outcome.next ((if_pos ⟨ha, hl, hp⟩).trans ((if_neg ?_).trans (if_neg ?_)))
  · rintro ⟨hhigh, hen, hn⟩
    have hbit : bit s.live.w11 (96 + p) = true := (Bool.and_eq_true_iff.1 hen).2
    have hmem : p ∉ s.eth.pauseSent := by simpa using hn
    obtain hlow | hoff | hin := hno
    · omega
    · simp [hoff] at hbit
    · exact hmem hin
  · rintro ⟨hlow, hs⟩
    have hmem : p ∈ s.eth.pauseSent := by simpa using hs
    obtain hhigh | hn := hnr
    · omega
    · exact hn hmem

end Threshold

/-! ## The link (R319 to R322, R328) -/

/-- The module with the conflicts of its addresses forgotten. -/
def conflictsForgotten (s : State) : State := { s with eth := { s.eth with addressFlags := 0 } }

/-- After the link-local address is probed, what else is probed is only sent. -/
theorem probeAddresses_sending (s : State) :
    Sending (send (.neighbourProbe 6 (linkLocalAddress s.ident.macAddress)) (conflictsForgotten s)) (probeAddresses s) :=
  have hglobal := Sending.ite (c := bits s.live.w11 383 376 ≠ 0)
    (send_sending (.neighbourProbe 6 (BitVec.ofNat 128 (bits s.live.w11 511 384))) _) (.refl _)
  hglobal.trans (.ite (c := bits s.live.w11 215 210 ≠ 0) (send_sending ..) (.refl _))

/-- The module with its notices marked as sent. -/
def noticesSent (s : State) : State :=
  { s with mbox := { s.mbox with notices := s.mbox.notices.map fun n => { n with sent := true } } }

theorem sendWaitingNotices_sending (s : State) : Sending (noticesSent s) (sendWaitingNotices s) :=
  foldl_sending (fun _ _ => .ite (send_sending ..) (.refl _)) _ _

/-- The port as the link comes up: priority flow control and the next-hop cache start afresh. -/
def linkReset (s : State) : State :=
  { s with eth := { s.eth with link := 2, lowPower := false, paused := [], pauseSent := [], held := [],
                               levels := List.replicate 8 0, cache := [] } }

/-- The link-local address is probed as soon as the link is up, since no priority is paused then. -/
theorem probe_mem_outbox (s : State) :
    .neighbourProbe 6 (linkLocalAddress s.ident.macAddress) ∈ (probeAddresses (linkReset s)).outbox := by
  refine (probeAddresses_sending (linkReset s)).outbox.subset (mem_outbox_send rfl ?_ rfl)
  simp [destinationOf]

/-- What the port, the mailboxes and the output show of a link that has come up. -/
structure LinkIsUp (s t : State) : Prop where
  link : t.eth.link = 2
  pmd : t.eth.pmd = s.eth.pmd
  paused : t.eth.paused = []
  pauseSent : t.eth.pauseSent = []
  cache : t.eth.cache = []
  addressFlags : t.eth.addressFlags = 0
  probe : .neighbourProbe 6 (linkLocalAddress s.ident.macAddress) ∈ t.outbox
  config : SameConfig s t
  plane : SameDataPlane s t
  str : t.str = s.str
  notices : ∀ n ∈ t.mbox.notices, n.sent = true

theorem linkUp_isUp (s : State) : LinkIsUp s (linkUp s) := by
  have hprobe : Sending (conflictsForgotten (linkReset s)) (probeAddresses (linkReset s)) :=
    (send_sending ..).trans (probeAddresses_sending (linkReset s))
  have hwait : Sending (noticesSent (probeAddresses (linkReset s))) (linkUp s) := sendWaitingNotices_sending _
  have heth : (linkUp s).eth = { (conflictsForgotten (linkReset s)).eth with
      tx := (linkUp s).eth.tx, droppedFilter := (linkUp s).eth.droppedFilter, held := (linkUp s).eth.held } :=
    hwait.eth.trans (by rw [show (noticesSent (probeAddresses (linkReset s))).eth = _ from hprobe.eth])
  obtain ⟨htide, himg, hcombs, hfabric, hshelf⟩ := hprobe.plane
  obtain ⟨ktide, kimg, kcombs, kfabric, kshelf⟩ := hwait.plane
  exact
    { link := by rw [heth]; rfl
      pmd := by rw [heth]; rfl
      paused := by rw [heth]; rfl
      pauseSent := by rw [heth]; rfl
      cache := by rw [heth]; rfl
      addressFlags := by rw [heth]; rfl
      probe := hwait.outbox.subset (probe_mem_outbox s)
      config := SameConfig.trans hprobe.config hwait.config
      plane := ⟨ktide.trans htide, kimg.trans himg, kcombs.trans hcombs, kfabric.trans hfabric, kshelf.trans hshelf⟩
      str := by rw [hwait.rest, noticesSent, hprobe.rest]; rfl
      notices := by rw [hwait.rest]; simp [noticesSent] }

/-! ### The commands -/

section LinkUp
variable {pmd : BitVec 8} {w : Nat} {trained : Bool} {s : State} (ha : s.awake = true) (hd : s.eth.link ≠ 2) (hpmd : pmd.toNat ≤ 5)
include ha hd hpmd

theorem exec_portLinkUp_empty (h : pmd = 0) :
    exec (.portLinkUp pmd w trained) s = .next { s with eth := { s.eth with pmd := pmd, link := 0, lowPower := false } } :=
  congrArg Host.Outcome.next ((if_pos ⟨ha, hd, hpmd⟩).trans (if_pos h))

theorem exec_portLinkUp_refused (h : pmd ≠ 0) (hlow : pmd = 5 ∨ 20 < w) :
    exec (.portLinkUp pmd w trained) s = .next { s with eth := { s.eth with pmd := pmd, link := 0, lowPower := true } } :=
  congrArg Host.Outcome.next ((if_pos ⟨ha, hd, hpmd⟩).trans ((if_neg h).trans (if_pos hlow)))

theorem exec_portLinkUp_supported (h : pmd ≠ 0) (hok : ¬(pmd = 5 ∨ 20 < w)) :
    exec (.portLinkUp pmd w trained) s = .next (if trained = true then linkUp { s with eth := { s.eth with pmd := pmd } }
      else { s with eth := { s.eth with pmd := pmd, link := 1, lowPower := false } }) :=
  congrArg Host.Outcome.next ((if_pos ⟨ha, hd, hpmd⟩).trans ((if_neg h).trans (if_neg hok)))

end LinkUp

theorem exec_portLinkDown {s : State} (hl : s.eth.link = 2) : exec .portLinkDown s =
    .next { s with eth := { s.eth with link := 0, linkDowns := satInc s.eth.linkDowns, held := [], paused := [] } } :=
  congrArg Host.Outcome.next (if_pos hl)

theorem exec_pluggableMonitor {a : BitVec 256} {c d : Nat} {s : State} (ha : s.awake = true) (hp : s.eth.pmd ≠ 0) :
    exec (.pluggableMonitor a c d) s =
      let u : State := { s with eth := { s.eth with alarm := a, fecCorrected := satAdd s.eth.fecCorrected c
                                                    fecUncorrected := satAdd s.eth.fecUncorrected d } }
      .next (if a = 0 then u else raiseNotice 0x0202 none 9 0 0 a.toNat u) :=
  congrArg Host.Outcome.next (if_pos ⟨ha, hp⟩)

/-! ## The frame filter (R323, R324) -/

theorem dropFrame_error (good : Bool) (s : State) : dropFrame good true s =
    { s with eth := { s.eth with rx := if good = true then s.eth.rx + 1 else s.eth.rx, droppedError := satInc s.eth.droppedError } } := by
  cases good <;> rfl

theorem dropFrame_filter (good : Bool) (s : State) : dropFrame good false s =
    { s with eth := { s.eth with rx := if good = true then s.eth.rx + 1 else s.eth.rx, droppedFilter := satInc s.eth.droppedFilter } } := by
  cases good <;> rfl

section Filter
variable {f : PortFrame} {s : State}

theorem frameDropped_error (h : f.fcsGood = false ∨ 9216 < f.bytes) : frameDropped f s = some true := if_pos h

variable (hfcs : f.fcsGood = true) (hbytes : f.bytes ≤ 9216)
include hfcs hbytes

/-- The tags and the destination are looked at before what the frame carries. -/
theorem frameDropped_filter_of_header (h : tagsAccepted f.tags s = false ∨ destAccepted f.dest f.body s = false) :
    frameDropped f s = some false :=
  (if_neg (by simp [hfcs, hbytes])).trans (if_pos (Bool.and_eq_false_iff.2 h))

theorem frameDropped_filter_of_body (hicrc : icrcFails f.body = false) (h : bodyAccepted f.body s = false) :
    frameDropped f s = some false := by
  by_cases hheader : tagsAccepted f.tags s = false ∨ destAccepted f.dest f.body s = false
  · exact frameDropped_filter_of_header hfcs hbytes hheader
  · exact (if_neg (by simp [hfcs, hbytes])).trans ((if_neg (mt Bool.and_eq_false_iff.1 hheader)).trans
      ((if_neg (by simp [hicrc])).trans (if_pos h)))

end Filter

theorem tagsAccepted_many {tags : List (BitVec 12)} (h : 2 ≤ tags.length) (s : State) : tagsAccepted tags s = false := by
  match tags, h with
  | _ :: _ :: _, _ => rfl

theorem tagsAccepted_untagged {s : State} (h : bits s.live.w11 177 166 ≠ 0) : tagsAccepted [] s = false := by
  simp [tagsAccepted, h]

theorem tagsAccepted_other {t : BitVec 12} {s : State} (h : t.toNat ≠ bits s.live.w11 177 166) : tagsAccepted [t] s = false := by
  simp [tagsAccepted, h]

theorem destAccepted_otherUnicast {m : BitVec 48} {s : State} (h : m ≠ s.ident.macAddress) (b : FrameBody) :
    destAccepted (.unicast m) b s = false := by
  simp [destAccepted, h]

theorem bodyAccepted_fragment {a b : Bool} (h : a = true ∨ b = true) (x : IpPayload) (s : State) :
    bodyAccepted (.ip a b x) s = false := by
  obtain rfl | rfl := h <;> simp [bodyAccepted]

theorem bodyAccepted_tcp (a b : Bool) (s : State) : bodyAccepted (.ip a b .tcp) s = false := by
  simp [bodyAccepted, payloadAccepted]

/-- What the port refuses of a frame without an error: its tags, its destination, or what it carries. -/
theorem frameDropped_filter {f : PortFrame} {s : State} (hfcs : f.fcsGood = true) (hbytes : f.bytes ≤ 9216)
    (h : 2 ≤ f.tags.length ∨ (f.tags = [] ∧ bits s.live.w11 177 166 ≠ 0) ∨ (∃ t, f.tags = [t] ∧ t.toNat ≠ bits s.live.w11 177 166) ∨
      (∃ m, f.dest = .unicast m ∧ m ≠ s.ident.macAddress) ∨ f.dest = .otherGroup ∨ f.body = .pause ∨
      (∃ a b x, f.body = .ip a b x ∧ (x = .tcp ∨ ((a = true ∨ b = true) ∧ icrcFails f.body = false)))) :
    frameDropped f s = some false := by
  obtain hmany | ⟨htags, hvid⟩ | ⟨t, htags, hvid⟩ | ⟨m, hdest, hm⟩ | hdest | hbody | ⟨a, b, x, hbody, rfl | ⟨hextra, hicrc⟩⟩ := h
  · exact frameDropped_filter_of_header hfcs hbytes (.inl (tagsAccepted_many hmany s))
  · exact frameDropped_filter_of_header hfcs hbytes (.inl (htags ▸ tagsAccepted_untagged hvid))
  · exact frameDropped_filter_of_header hfcs hbytes (.inl (htags ▸ tagsAccepted_other hvid))
  · exact frameDropped_filter_of_header hfcs hbytes (.inr (hdest ▸ destAccepted_otherUnicast hm _))
  · exact frameDropped_filter_of_header hfcs hbytes (.inr (by rw [hdest]; rfl))
  · exact frameDropped_filter_of_body hfcs hbytes (by rw [hbody]; rfl) (by rw [hbody]; rfl)
  · exact frameDropped_filter_of_body hfcs hbytes (by rw [hbody]; rfl) (hbody ▸ bodyAccepted_tcp a b s)
  · exact frameDropped_filter_of_body hfcs hbytes hicrc (hbody ▸ bodyAccepted_fragment hextra x s)

section FrameFilterDrop
variable {f : PortFrame} {s : State} (ha : s.awake = true) (hl : s.eth.link = 2)
include ha hl

theorem exec_frameFilterDrop_dropped {e : Bool} (h : frameDropped f s = some e) :
    exec (.frameFilterDrop f) s = .next (dropFrame f.fcsGood e s) := by
  refine congrArg Host.Outcome.next ((if_pos ⟨ha, hl⟩).trans ?_)
  rw [h]

theorem exec_frameFilterDrop_accepted (h : frameDropped f s = none) : exec (.frameFilterDrop f) s = .next s := by
  refine congrArg Host.Outcome.next ((if_pos ⟨ha, hl⟩).trans ?_)
  rw [h]

end FrameFilterDrop

/-- Settles O22: one lemma for each command of the port; what sending may change decides what a link that comes up and a pause that
ends leave. -/
theorem portLinkAndPausesFollow : Obligations.PortLinkAndPausesFollow := by
  unfold Obligations.PortLinkAndPausesFollow
  refine ⟨⟨?linkUp, fun s => exec_portLinkDown⟩, ⟨?filter, fun a c d s => exec_pluggableMonitor⟩, ?receive, ?expiry, ?threshold⟩
  case linkUp =>
    intro pmd w trained s ha hd hpmd c
    refine ⟨exec_portLinkUp_empty ha hd hpmd, exec_portLinkUp_refused ha hd hpmd, fun h0 h5 hw hno => ?_, fun h0 h5 hw htrained => ?_⟩
    · exact (exec_portLinkUp_supported ha hd hpmd h0 (not_or.2 ⟨h5, hw.not_gt⟩)).trans (congrArg _ (if_neg (by simp [hno])))
    · have hup := linkUp_isUp { s with eth := { s.eth with pmd := pmd } }
      exact ⟨_, (exec_portLinkUp_supported ha hd hpmd h0 (not_or.2 ⟨h5, hw.not_gt⟩)).trans (congrArg _ (if_pos htrained)),
        hup.link, hup.pmd, hup.paused, hup.pauseSent, hup.cache, hup.addressFlags, hup.probe, hup.config, hup.plane, hup.str,
        hup.notices⟩
  case filter =>
    intro f s ha hl c n
    refine ⟨fun herror => ?_, fun hfcs hbytes h => ?_, exec_frameFilterDrop_accepted ha hl⟩
    · exact (exec_frameFilterDrop_dropped ha hl (frameDropped_error herror)).trans (congrArg _ (dropFrame_error ..))
    · exact (exec_frameFilterDrop_dropped ha hl (frameDropped_filter hfcs hbytes h)).trans (congrArg _ (dropFrame_filter ..))
  case receive =>
    intro classes quanta s ha hl
    refine ⟨_, exec_pfcFrameReceive classes quanta ha hl, ?_, fun p q hp => ?_⟩
    · rw [(releaseHeld_sending _).eth]
      exact foldl_keeps (fun s : State => s.eth.pfcRx) _ (pauseMarked_pfcRx classes quanta) _ _
    · rw [(releaseHeld_sending _).paused]
      refine (mem_paused_foldl_pauseMarked classes quanta (List.range 8) _).trans ?_
      simp [hp, pfcEnabled, received]
  case expiry =>
    intro p s v
    exact ⟨_, exec_pfcPauseExpiry p s, (releaseHeld_sending v).paused, releaseHeld_held v,
      fun hl x hx hfree hroute => mem_outbox_releaseHeld (s := v) hx hl hroute hfree⟩
  case threshold =>
    intro p level s ha hl hp e c
    exact ⟨exec_pfcBufferThreshold_pauses ha hl hp, exec_pfcBufferThreshold_releases ha hl hp, exec_pfcBufferThreshold_keeps ha hl hp⟩

end Sys2Proof.Machine

namespace Sys2Proof.Machine

/-! ## Neighbours and echo (R325, R328) -/

/-! ### The rate of replies (R325) -/

/-- Replies of a kind that have left in the second that the clock shows. -/
def repliesThisSecond (kind : Nat) (s : State) : Nat :=
  if (nth s.eth.replies kind (0, 0)).1 = seconds s.now then (nth s.eth.replies kind (0, 0)).2 else 0

/-- The module with one more reply of a kind counted. -/
def replyCounted (kind : Nat) (s : State) : State :=
  { s with eth := { s.eth with replies := s.eth.replies.set kind (seconds s.now, repliesThisSecond kind s + 1) } }

theorem rateReply_exhausted {kind : Nat} {s : State} (h : 100 ≤ repliesThisSecond kind s) (x : Sent) : rateReply kind x s = s :=
  if_neg (Nat.not_lt.2 h)

theorem rateReply_within {kind : Nat} {s : State} (h : repliesThisSecond kind s < 100) (x : Sent) :
    rateReply kind x s = send x (replyCounted kind s) :=
  if_pos h

/-- A reply is counted before it leaves, so that no count passes the bound that it is compared with. -/
theorem rateReply_bounded (kind : Nat) (x : Sent) {s : State} (h : ∀ y ∈ s.eth.replies, y.2 ≤ 100) :
    ∀ y ∈ (rateReply kind x s).eth.replies, y.2 ≤ 100 := by
  obtain hroom | hfull := Nat.lt_or_ge (repliesThisSecond kind s) 100
  · have hreplies : (rateReply kind x s).eth.replies = (replyCounted kind s).eth.replies := by
      rw [rateReply_within hroom, (send_sending ..).eth]
    intro y hy
    rw [hreplies] at hy
    obtain hy | rfl := List.mem_or_eq_of_mem_set hy
    · exact h y hy
    · exact hroom
  · rwa [rateReply_exhausted hfull]

/-! ### The next-hop cache (R325) -/

theorem mem_cacheNeighbour (family : Nat) (a : BitVec 128) (mac : BitVec 48) (s : State) :
    (family, a, mac) ∈ (cacheNeighbour family a mac s).eth.cache := by
  simp [cacheNeighbour]

/-! ### The commands -/

section Requests
variable {family : Nat} {a : BitVec 128} {s : State} (ha : s.awake = true) (hl : s.eth.link = 2)
include ha hl

theorem exec_arpNdRequest_used (h : usedAddress family a (received s) = true) (dest : Endpoint) :
    exec (.arpNdRequest family a dest) s =
      .next (rateReply (if family = 4 then 0 else 1) (.neighbourReply family dest) (received s)) :=
  congrArg Host.Outcome.next ((if_pos ⟨ha, hl⟩).trans (if_pos h))

theorem exec_arpNdRequest_other (h : usedAddress family a (received s) = false) (dest : Endpoint) :
    exec (.arpNdRequest family a dest) s = .next (received s) :=
  congrArg Host.Outcome.next ((if_pos ⟨ha, hl⟩).trans (if_neg (by simp [h])))

theorem exec_echoRequest_answered {bytes : Nat} (h : usedAddress family a (received s) = true) (hb : bytes ≤ 1500) (dest : Endpoint) :
    exec (.echoRequest family a dest bytes) s =
      .next (rateReply (if family = 4 then 2 else 3) (.echoReply dest bytes) (received s)) :=
  congrArg Host.Outcome.next ((if_pos ⟨ha, hl⟩).trans (if_pos ⟨h, hb⟩))

theorem exec_echoRequest_ignored {bytes : Nat} (h : ¬(usedAddress family a (received s) = true ∧ bytes ≤ 1500)) (dest : Endpoint) :
    exec (.echoRequest family a dest bytes) s = .next (received s) :=
  congrArg Host.Outcome.next ((if_pos ⟨ha, hl⟩).trans (if_neg h))

theorem exec_arpNdReply_own {k : Nat} (h : ownAddress family a (received s) = some k) (mac : BitVec 48) :
    exec (.arpNdReply family a mac) s = .next (if mac = s.ident.macAddress then received s else
      { received s with eth := { (received s).eth with addressFlags := setBits (received s).eth.addressFlags k k 1 } }) := by
  refine congrArg Host.Outcome.next ((if_pos ⟨ha, hl⟩).trans ?_)
  dsimp only
  rw [h]
  rfl

theorem exec_arpNdReply_neighbour (h : ownAddress family a (received s) = none) (mac : BitVec 48) :
    exec (.arpNdReply family a mac) s = .next (cacheNeighbour family a mac (received s)) := by
  refine congrArg Host.Outcome.next ((if_pos ⟨ha, hl⟩).trans ?_)
  dsimp only
  rw [h]

end Requests

/-- Settles O23: the four commands case by case, and the rate of a reply as a rule of its own. -/
theorem neighboursAndEchoAreAnswered : Obligations.NeighboursAndEchoAreAnswered := by
  unfold Obligations.NeighboursAndEchoAreAnswered
  refine ⟨fun family a dest bytes mac s ha hl => ⟨fun hused => ⟨?_, ?_, fun hb => ?_⟩, fun hused => ⟨?_, ?_⟩,
    fun k hk => ⟨fun hmac => ?_, fun hmac => ?_⟩, fun hnone => ?_⟩, fun kind x s hkind => ?_⟩
  · exact exec_arpNdRequest_used ha hl hused dest
  · exact fun hb => exec_echoRequest_answered ha hl hused hb dest
  · exact exec_echoRequest_ignored ha hl (fun h => hb.not_ge h.2) dest
  · exact exec_arpNdRequest_other ha hl hused dest
  · exact exec_echoRequest_ignored ha hl (by simp [hused]) dest
  · exact (exec_arpNdReply_own ha hl hk mac).trans (congrArg _ (if_neg hmac))
  · exact (exec_arpNdReply_own ha hl hk mac).trans (congrArg _ (if_pos hmac))
  · exact ⟨_, exec_arpNdReply_neighbour ha hl hnone mac, mem_cacheNeighbour .., rfl⟩
  · exact ⟨fun h => rateReply_exhausted h x, fun h => rateReply_within h x, rateReply_bounded kind x⟩

end Sys2Proof.Machine

namespace Sys2Proof.Machine

/-! ## The PTP clock (R334, R335)

A Sync of the selected master sets what the clock shows whatever its state; the state decides where the clock goes. -/

section TakeSync
variable (off : Int) (time : PtpTime) (ppb : Int) (p : Ptp)

theorem takeSync_measured : (takeSync off time ppb p).now = time ∧ (takeSync off time ppb p).offsetNs = off ∧
    (takeSync off time ppb p).ppb = ppb ∧ (takeSync off time ppb p).master = p.master := by
  unfold takeSync
  cases p.state with
  | unlocked => exact ⟨rfl, rfl, rfl, rfl⟩
  | locking =>
    dsimp only
    (repeat' split) <;> exact ⟨rfl, rfl, rfl, rfl⟩
  | locked => exact ⟨rfl, rfl, rfl, rfl⟩
  | holdover =>
    dsimp only
    split <;> exact ⟨rfl, rfl, rfl, rfl⟩

variable {off p}

theorem takeSync_unlocked (hp : p.state = .unlocked) :
    (takeSync off time ppb p).state = .locking ∧ (takeSync off time ppb p).steps = p.steps + 1 := by
  simp [takeSync, hp]

/-- The sixteenth good Sync in a row locks the clock. -/
theorem takeSync_locks (hp : p.state = .locking) (hoff : off.natAbs < 100) (hgood : 15 ≤ p.goodSyncs) :
    (takeSync off time ppb p).state = .locked ∧ (takeSync off time ppb p).valid = true := by
  have hn : 16 ≤ p.goodSyncs + 1 := by omega
  simp [takeSync, hp, offsetBelow, hoff, hn]

theorem takeSync_counts (hp : p.state = .locking) (hoff : off.natAbs < 100) (hgood : p.goodSyncs < 15) :
    (takeSync off time ppb p).state = .locking ∧ (takeSync off time ppb p).goodSyncs = p.goodSyncs + 1 := by
  have hn : ¬16 ≤ p.goodSyncs + 1 := by omega
  simp [takeSync, hp, offsetBelow, hoff, hn]

theorem takeSync_restarts (hp : p.state = .locking) (hoff : 100 ≤ off.natAbs) :
    (takeSync off time ppb p).state = .locking ∧ (takeSync off time ppb p).goodSyncs = 0 := by
  simp [takeSync, hp, offsetBelow, hoff.not_gt]

theorem takeSync_locked (hp : p.state = .locked) :
    (takeSync off time ppb p).state = .locked ∧ (takeSync off time ppb p).steps = p.steps := by
  simp [takeSync, hp]

theorem takeSync_relocks (hp : p.state = .holdover) (hoff : off.natAbs < 1000000) :
    (takeSync off time ppb p).state = .locked ∧ (takeSync off time ppb p).steps = p.steps := by
  simp [takeSync, hp, offsetBelow, hoff]

theorem takeSync_stepsFromHoldover (hp : p.state = .holdover) (hoff : 1000000 ≤ off.natAbs) :
    (takeSync off time ppb p).state = .locking ∧ (takeSync off time ppb p).steps = p.steps + 1 := by
  simp [takeSync, hp, offsetBelow, hoff.not_gt]

end TakeSync

/-! ### The commands -/

/-- Whether an Announce of this rank takes the clock over from the selected master, or from none (R334). -/
def TakesOver (rank : Nat × Nat × Nat × Nat × Nat × Nat × Nat) (p : Ptp) : Prop :=
  p.master = none ∨ p.masterRank = worstRank ∨ lexLess (rankList rank) (rankList p.masterRank) = true

section Ptp
variable {m : BitVec 64} {s : State} (ha : s.awake = true) (hl : s.eth.link = 2)
include ha hl

theorem exec_ptpSyncReceive_master (hm : s.eth.ptp.master = some m) (off : Int) (time : PtpTime) (ppb : Int) :
    exec (.ptpSyncReceive m off time ppb) s = .next (setPtp (takeSync off time ppb) (received s)) :=
  congrArg Host.Outcome.next ((if_pos ⟨ha, hl⟩).trans (if_pos hm))

theorem exec_ptpSyncReceive_other (hm : s.eth.ptp.master ≠ some m) (off : Int) (time : PtpTime) (ppb : Int) :
    exec (.ptpSyncReceive m off time ppb) s = .next (received s) :=
  congrArg Host.Outcome.next ((if_pos ⟨ha, hl⟩).trans (if_neg hm))

theorem exec_ptpDelayReq (hm : s.eth.ptp.master = some m) :
    exec .ptpDelayReq s = .next (send .delayReq (setPtp (fun p => { p with delayAsked := true }) s)) :=
  congrArg Host.Outcome.next (if_pos ⟨ha, hl, by simp [hm]⟩)

theorem exec_ptpDelayRespReceive (hm : s.eth.ptp.master = some m) (hasked : s.eth.ptp.delayAsked = true) (d : Int) :
    exec (.ptpDelayRespReceive m d) s =
      .next (setPtp (fun p => { p with delayNs := d, delayAsked := false }) (received s)) :=
  congrArg Host.Outcome.next ((if_pos ⟨ha, hl⟩).trans (if_pos ⟨hm, hasked⟩))

variable (p1 c a v p2 n : Nat)

theorem exec_ptpAnnounceReceive_same (hm : s.eth.ptp.master = some m) :
    exec (.ptpAnnounceReceive m p1 c a v p2 n) s =
      .next (setPtp (fun p => { p with masterRank := (p1, c, a, v, p2, m.toNat, n) }) (received s)) :=
  congrArg Host.Outcome.next ((if_pos ⟨ha, hl⟩).trans (if_pos hm))

theorem exec_ptpAnnounceReceive_better (hm : s.eth.ptp.master ≠ some m) (h : TakesOver (p1, c, a, v, p2, m.toNat, n) s.eth.ptp) :
    exec (.ptpAnnounceReceive m p1 c a v p2 n) s = .next (setPtp
      (fun p => { p with master := some m, masterRank := (p1, c, a, v, p2, m.toNat, n), delayAsked := false }) (received s)) :=
  congrArg Host.Outcome.next ((if_pos ⟨ha, hl⟩).trans ((if_neg hm).trans (if_pos h)))

theorem exec_ptpAnnounceReceive_worse (hm : s.eth.ptp.master ≠ some m) (h : ¬TakesOver (p1, c, a, v, p2, m.toNat, n) s.eth.ptp) :
    exec (.ptpAnnounceReceive m p1 c a v p2 n) s = .next (received s) :=
  congrArg Host.Outcome.next ((if_pos ⟨ha, hl⟩).trans ((if_neg hm).trans (if_neg h)))

end Ptp

theorem exec_ptpHoldover {s : State} (h : s.eth.ptp.state = .locking ∨ s.eth.ptp.state = .locked) :
    exec .ptpHoldover s = .next (setPtp (fun p => { p with state := .holdover, masterRank := worstRank }) s) :=
  congrArg Host.Outcome.next (if_pos h)

/-- Settles O24: the five commands of the clock, and a Sync's effect by the state that it meets. -/
theorem ptpClockFollowsItsMaster : Obligations.PtpClockFollowsItsMaster := by
  unfold Obligations.PtpClockFollowsItsMaster
  refine ⟨?sync, fun m off time ppb s ha hl hm => exec_ptpSyncReceive_other ha hl hm off time ppb, ?delay, fun s => exec_ptpHoldover,
    ?announce⟩
  case sync =>
    intro m off time ppb s ha hl hm
    obtain ⟨hnow, hoff, hppb, hmaster⟩ := takeSync_measured off time ppb s.eth.ptp
    exact ⟨_, exec_ptpSyncReceive_master ha hl hm off time ppb, hnow, hoff, hppb, hmaster.trans hm, rfl, takeSync_unlocked time ppb,
      takeSync_locks time ppb, takeSync_counts time ppb, takeSync_restarts time ppb, takeSync_locked time ppb, takeSync_relocks time ppb,
      takeSync_stepsFromHoldover time ppb⟩
  case delay =>
    exact fun m d s ha hl hm => ⟨exec_ptpDelayReq ha hl hm, fun hasked => exec_ptpDelayRespReceive ha hl hm hasked d⟩
  case announce =>
    intro m p1 c a v p2 n s ha hl rank better
    refine ⟨fun h => ?_, fun hother hsome hworse => ?_⟩
    · by_cases hm : s.eth.ptp.master = some m
      · exact ⟨_, exec_ptpAnnounceReceive_same ha hl p1 c a v p2 n hm, hm, rfl, rfl⟩
      · exact ⟨_, exec_ptpAnnounceReceive_better ha hl p1 c a v p2 n hm (h.resolve_left hm), rfl, rfl, rfl⟩
    · exact exec_ptpAnnounceReceive_worse ha hl p1 c a v p2 n hother (not_or.2 ⟨hsome, hworse⟩)

end Sys2Proof.Machine

namespace Sys2Proof.Machine

/-! ## One command a step (log 1) -/

theorem step_cons {c : Instr} {rest : List Instr} {s : State} (h : s.pending = c :: rest) :
    step s = exec c { s with pending := rest } := by
  simp only [step, h]

theorem step_nil {s : State} (h : s.pending = []) : step s = .next s := by
  simp only [step, h]

/-- Settles O1. -/
theorem stepRunsTheFrontCommand : Obligations.StepRunsTheFrontCommand :=
  ⟨fun _ _ _ => step_cons, fun _ => step_nil⟩

end Sys2Proof.Machine

namespace Sys2Proof.Machine

/-! ## What an answer is (R343, R344, R350, R365) -/

/-- The number of changes does not rest on where the last one is recorded. -/
theorem noteChange_changes (k : ObjKey) (c : Change) (s : State) : (noteChange k c s).mbox.changes = s.mbox.changes := by
  cases k <;> rfl

/-- A committed answer counts one change more, an answer without a change none. -/
theorem respond_changes (op : Op) (r : Request) (a : Answer) :
    (respond op r a).mbox.changes = a.state.mbox.changes + (if a.changed then 1 else 0) := by
  obtain ⟨x, hx⟩ := respond_eq op r a
  have hmbox : (send x (answeredState op r a)).mbox = (answeredState op r a).mbox := by simp
  rw [hx, hmbox]
  cases hc : a.changed with
  | false => simp [answeredState, committed, hc]
  | true => simp [answeredState, committed, hc, commitChange, noteChange_changes]

theorem OnlyAnswers.sending {u s t : State} (h : OnlyAnswers u s) (hs : Sending s t) : OnlyAnswers u t := by
  unfold OnlyAnswers at *
  rw [hs.rest, hs.eth]
  exact h

/-- Before it is sent, an answer without a change is in the response cache and among the outstanding messages only. -/
theorem answeredState_onlyAnswers {op : Op} {r : Request} {a : Answer} (h : a.changed = false) :
    OnlyAnswers a.state (answeredState op r a) := by
  have hcommitted : committed r a = a.state := if_neg (by simp [h])
  rw [answeredState, hcommitted]
  rfl

theorem respond_onlyAnswers {op : Op} {r : Request} {a : Answer} (h : a.changed = false) : OnlyAnswers a.state (respond op r a) := by
  obtain ⟨x, hx⟩ := respond_eq op r a
  rw [hx]
  exact (answeredState_onlyAnswers h).sending (send_sending ..)

/-- Settles O6. -/
theorem answeringChangesNothingElse : Obligations.AnsweringChangesNothingElse := fun op r a =>
  ⟨unanswered_respond op r a, respond_onlyAnswers, answers_respond op r a, respond_changes op r a⟩

/-! ## The treatments of R343 -/

section Sequence
variable {op : Op} {r : Request} {s : State} {e : CacheEntry}

theorem sequenceCheck_duplicate (he : (cacheOf r.mailbox s).find? (fun e => e.sequence = r.sequence) = some e)
    (hd : e.digest = requestDigest op.code r) :
    sequenceCheck op r s = reply (keyOf r.mailbox.toNat s) r 0xA0 e.opcode e.status e.stamp e.payload
      (countMailbox r.mailbox.toNat (fun m => { m with duplicates := satInc m.duplicates }) s) := by
  simp only [sequenceCheck, he, if_pos hd]

theorem sequenceCheck_reused (he : (cacheOf r.mailbox s).find? (fun e => e.sequence = r.sequence) = some e)
    (hd : e.digest ≠ requestDigest op.code r) :
    sequenceCheck op r s = reply (keyOf r.mailbox.toNat s) r 0x80 op.code Status.seqReused r.stamp.time
      (bytesBE 4 (nextSequence r.mailbox s).toNat)
      (countMailbox r.mailbox.toNat (fun m => { m with staleOrReused := satInc m.staleOrReused }) s) := by
  simp only [sequenceCheck, he, if_neg hd]

variable (hnone : (cacheOf r.mailbox s).find? (fun e => e.sequence = r.sequence) = none)
include hnone

theorem sequenceCheck_stale {es : List CacheEntry} (hes : cacheOf r.mailbox s = e :: es) (hfull : 64 ≤ (e :: es).length)
    (hold : newer r.sequence e.sequence = false) :
    sequenceCheck op r s = reply (keyOf r.mailbox.toNat s) r 0x80 op.code Status.stale r.stamp.time
      (bytesBE 4 (nextSequence r.mailbox s).toNat)
      (countMailbox r.mailbox.toNat (fun m => { m with staleOrReused := satInc m.staleOrReused }) s) := by
  have hstale : 64 ≤ (cacheOf r.mailbox s).length ∧
      ((cacheOf r.mailbox s).head?.map fun e => newer r.sequence e.sequence) = some false := by
    simpa [hes, hold] using hfull
  simp only [sequenceCheck, hnone, if_pos hstale]

variable (hfits : ¬(64 ≤ (cacheOf r.mailbox s).length ∧
  ((cacheOf r.mailbox s).head?.map fun e => newer r.sequence e.sequence) = some false))
include hfits

theorem sequenceCheck_windowFull (hfull : 16 ≤ (s.mbox.outstanding.filter fun o => o.mailbox = r.mailbox).length) :
    sequenceCheck op r s = reply (keyOf r.mailbox.toNat s) r 0x80 op.code Status.windowFull r.stamp.time
      (outcomeBlock 0 .module s) (countMailbox r.mailbox.toNat (fun m => { m with windowFull := satInc m.windowFull }) s) := by
  simp only [sequenceCheck, hnone, if_neg hfits, if_pos hfull]

theorem sequenceCheck_executes (hroom : (s.mbox.outstanding.filter fun o => o.mailbox = r.mailbox).length < 16) :
    sequenceCheck op r s = execute op r s := by
  simp only [sequenceCheck, hnone, if_neg hfits, if_neg (Nat.not_le.mpr hroom)]

end Sequence

/-- Settles O7: one equation of the sequence check for each row. -/
theorem requestsAreTreatedBySequence : Obligations.RequestsAreTreatedBySequence := fun _ _ _ =>
  ⟨fun _ => sequenceCheck_duplicate, fun _ => sequenceCheck_reused, fun _ _ hnone => sequenceCheck_stale hnone,
    sequenceCheck_windowFull, fun ⟨hnone, hfits, hroom⟩ => sequenceCheck_executes hnone hfits hroom⟩

/-! ## Commands whose meaning is their service (R341, R364) -/

theorem exec_queryRows : ∀ x ∈ queryRows, ∀ (r : Request) (s : State), exec (x.1 r) s = .next (serve x.2 r s) := by
  simp only [queryRows, List.forall_mem_append, List.forall_mem_cons, List.not_mem_nil, false_implies, implies_true,
    and_true]
  and_intros <;> exact fun _ _ => rfl

theorem exec_commandRows : ∀ x ∈ commandRows, ∀ (r : Request) (s : State), exec (x.1 r) s = .next (serve x.2 r s) := by
  simp only [commandRows, List.forall_mem_append, List.forall_mem_cons, List.not_mem_nil, false_implies, implies_true,
    and_true]
  and_intros <;> exact fun _ _ => rfl

theorem exec_presenceRows (key : Option Key) : ∀ x ∈ presenceRows key, ∀ (r : Request) (s : State),
    exec (x.1 r) s = .next (serve (x.2.1.op x.2.2) r s) := by
  simp only [presenceRows, List.forall_mem_append, List.forall_mem_cons, List.not_mem_nil, false_implies, implies_true,
    and_true]
  and_intros <;> exact fun _ _ => rfl

theorem exec_requestRows {key : Option Key} {x : (Request → Instr) × Op} (hx : x ∈ requestRows key) (r : Request) (s : State) :
    exec (x.1 r) s = .next (serve x.2 r s) := by
  obtain hx | hx := List.mem_append.mp hx
  · obtain hx | hx := List.mem_append.mp hx
    · exact exec_queryRows x hx r s
    · exact exec_commandRows x hx r s
  · obtain ⟨y, hy, rfl⟩ := List.mem_map.mp hx
    exact exec_presenceRows key y hy r s

/-- Settles O8. -/
theorem dropsAreSilent : Obligations.DropsAreSilent := by
  intro key x hx r s ha
  have hdrop (hp : arrival x.2 r s ≠ .pass) : exec (x.1 r) s =
      .next (countDrop (arrival x.2 r s) r.mailbox.toNat (received s)) := by
    rw [exec_requestRows hx, serve_dropped ha hp]
  refine ⟨fun hfilter => ⟨_, ?_, rfl⟩, fun hauth => ⟨_, ?_, rfl⟩⟩
  · rw [hdrop (by simp [hfilter]), hfilter]
    rfl
  · rw [hdrop (by simp [hauth]), hauth]
    rfl

/-- A request that fails a check is answered with the check's status, and changes nothing. -/
theorem serve_rejected_answers {op : Op} {r : Request} {s : State} (h : Rejected op r s) :
    OnlyAnswers (taken r s) (serve op r s) ∧ Answers op r (checks op r (taken r s)) (0, 0) (serve op r s) ∧
      (serve op r s).mbox.changes = s.mbox.changes := by
  rw [serve_rejected h]
  exact ⟨respond_onlyAnswers rfl, answers_respond .., by simp [respond_changes]⟩

/-- No role may send an opcode that the catalogue does not define (R362). -/
theorem checks_undefined (code : BitVec 16) (r : Request) (s : State) : checks (opUndefined code) r s = Status.badOpcode := by
  have hrole : roleOk (opUndefined code) r s = false := rfl
  rw [checks, hrole]
  rfl

/-- Settles O9. -/
theorem rejectedRequestsChangeNothing : Obligations.RejectedRequestsChangeNothing := by
  refine ⟨fun key x hx r s h => ⟨_, exec_requestRows hx r s, serve_rejected_answers h⟩, fun r code s ha hp hf => ?_⟩
  have hrejected : Rejected (opUndefined code) r s := ⟨ha, hp, hf, by rw [checks_undefined]; decide⟩
  obtain ⟨honly, hanswers, -⟩ := serve_rejected_answers hrejected
  rw [checks_undefined] at hanswers
  exact ⟨_, rfl, honly, hanswers⟩

/-! ## Queries (R362, R365, R387) -/

/-- An opcode that answers OK and changes nothing. -/
def Op.OnlyReads (op : Op) (r : Request) (s : State) : Prop := ∃ k body, op.run r s = answered s k body

theorem streamQuery_reads {owner : Bool} {r : Request} {s : State} (h : Served (queryOp owner) r s) :
    (queryOp owner).OnlyReads r (taken r s) := by
  have hnamed := ok_of_firstBad h.passed _ (List.mem_cons_of_mem _ List.mem_cons_self)
  cases ht : namedStream owner r (taken r s) with
  | none =>
    simp only [withStream, ht] at hnamed
    exact absurd hnamed (by decide)
  | some t =>
    simp only [Op.OnlyReads, queryOp, ht]
    exact ⟨_, _, rfl⟩

theorem slotQuery_reads (r : Request) (s : State) : opSlotQuery.OnlyReads r s := by
  unfold Op.OnlyReads opSlotQuery
  dsimp only
  split
  · exact ⟨_, _, rfl⟩
  · exact ⟨_, _, rfl⟩

theorem queryRows_read : ∀ x ∈ queryRows, ∀ (r : Request) (s : State), Served x.2 r s →
    x.2.changes = false ∧ x.2.OnlyReads r (taken r s) := by
  simp only [queryRows, List.forall_mem_append, List.forall_mem_cons, List.not_mem_nil, false_implies, implies_true, and_true]
  refine ⟨⟨⟨?_, ?_, ?_, ?_, ?_, ?stream, ?_⟩, ?ownerStream, ?_, ?_, ?_, ?_, ?_⟩, ?_, ?slots, ?_, ?_⟩
  case stream => exact fun r s h => ⟨rfl, streamQuery_reads h⟩
  case ownerStream => exact fun r s h => ⟨rfl, streamQuery_reads h⟩
  case slots => exact fun r s _ => ⟨rfl, slotQuery_reads r _⟩
  all_goals exact fun r s _ => ⟨rfl, _, _, rfl⟩

/-- The payload of an OK answer of an opcode that changes nothing (R365). -/
theorem payloadOf_query (serial : BitVec 64) (k : ObjKey) (effect : Nat × Nat) (body : Bytes) (s : State) :
    payloadOf false serial Status.ok k effect body s = outcomeBlock serial k s ++ body := by
  simp [payloadOf, Status.ok, Status.accepted, Status.pendingPresence]

/-- Settles O5: a query answers the state that it is taken in. -/
theorem queriesChangeNothing : Obligations.QueriesChangeNothing := by
  intro x hx r s h
  obtain ⟨hchanges, k, body, hrun⟩ := queryRows_read x hx r s h
  refine ⟨_, exec_queryRows x hx r s, ?_⟩
  rw [serve_served h, hrun]
  refine ⟨respond_onlyAnswers rfl, responseOf x.2 r (answered (taken r s) k body), k, ?_, rfl, rfl, rfl, rfl, ?_⟩
  · rw [(respond_mbox ..).1, getLast?_cachePut]
  · refine Eq.trans ?_ (payloadOf_query 0 k (0, 0) body (taken r s))
    rw [← hchanges]
    rfl

end Sys2Proof.Machine

namespace Sys2Proof.Machine

/-! ## Word writes (R359, R362, R366, R367) -/

theorem effectAt_taken (kind : Nat) (r : Request) (s : State) : effectAt kind (taken r s) = effectAt kind s := by
  unfold effectAt
  split
  · exact nextTide_taken r s
  · simp [nextEpoch]
  · exact nextStep_taken r s
  · rfl

/-- A word write is committed in a dirty configuration; besides, it may only list its word among those whose T fields wait. -/
theorem applyWord_keeps (n i mask x : Nat) (s : State) :
    (applyWord n i mask x s).flash.dirty = true ∧ (applyWord n i mask x s).mbox.notices = s.mbox.notices ∧
      SameDataPlane s (applyWord n i mask x s) ∧ (applyWord n i mask x s).str = s.str :=
  ⟨rfl, rfl, ⟨rfl, rfl, rfl, rfl, rfl⟩, rfl⟩

/-- The state in which the word write of a request is committed. -/
def wordCommitted (r : Request) (s : State) : State :=
  applyWord (field r.payload 0 2) (field r.payload 2 2) (field r.payload 4 4) (wordValue r.payload) (taken r s)

/-- The effect of the word write of a request: the boundary of the fields that its mask selects (R18, R365). -/
def wordEffect (r : Request) (s : State) : Nat × Nat :=
  let kind := maskKind (field r.payload 0 2) (field r.payload 4 4)
  (kind, effectAt kind s)

theorem wordEffect_taken (r : Request) (s : State) : wordEffect r (taken r s) = wordEffect r s :=
  congrArg (Prod.mk _) (effectAt_taken ..)

theorem wordCommitted_keeps (r : Request) (s : State) : (wordCommitted r s).flash.dirty = true ∧
    (wordCommitted r s).mbox.notices = s.mbox.notices ∧ SameDataPlane s (wordCommitted r s) ∧ (wordCommitted r s).str = s.str := by
  obtain ⟨hdirty, hnotices, ⟨htide, himg, hcombs, hfabric, hshelf⟩, hstr⟩ := applyWord_keeps (field r.payload 0 2)
    (field r.payload 2 2) (field r.payload 4 4) (wordValue r.payload) (taken r s)
  obtain ⟨-, -, -, -, -, -, ktide, kimg, kcombs, kfabric, kshelf, -, kstr, -⟩ := taken_frame r s
  have hkept : (taken r s).mbox.notices = s.mbox.notices := by simp [taken, countMailbox]
  exact ⟨hdirty, hnotices.trans hkept, ⟨htide.trans ktide, himg.trans kimg, hcombs.trans kcombs, hfabric.trans kfabric,
    hshelf.trans kshelf⟩, hstr.trans kstr⟩

section WordWrite
variable {code : BitVec 16} {words : List Nat} {recovery : Bool} {r : Request} {s : State}
  (h : Served (wordOp code words recovery) r s)
include h

theorem wordWrite_completes {c : Instr} (hexec : exec c s = .next (serve (wordOp code words recovery) r s)) :
    CompletesWith c (wordOp code words recovery) r s Status.ok (wordEffect r s) (wordCommitted r s) := by
  rw [← wordEffect_taken]
  exact completesWith_of_run h rfl hexec

/-- A word write counts one change more, and the link stays as it is. -/
theorem wordWrite_counted : (serve (wordOp code words recovery) r s).mbox.changes = s.mbox.changes + 1 ∧
    (serve (wordOp code words recovery) r s).eth.link = s.eth.link := by
  rw [serve_served h]
  obtain ⟨x, hx⟩ := respond_eq (wordOp code words recovery) r ((wordOp code words recovery).run r (taken r s))
  refine ⟨?_, ?_⟩
  · rw [respond_changes]
    exact congrArg (· + 1) (taken_mbox r s).2.2.2
  · rw [hx, (send_sending ..).link]
    unfold taken confirmPort
    split
    · rfl
    · rfl

end WordWrite

/-- NOTICE_CONFIG_SET sends what waited for a link once its word is written (R359). -/
theorem exec_noticeConfigSet {r : Request} {s : State} (h : Served opNoticeConfigSet r s) : exec (.noticeConfigSet r) s =
    .next (if s.eth.link = 2 then sendWaitingNotices (serve opNoticeConfigSet r s) else serve opNoticeConfigSet r s) := by
  obtain ⟨hchanges, hlink⟩ := wordWrite_counted h
  have hcounted : s.mbox.changes + 1 ≠ s.mbox.changes := by simp
  have hgoes : ((serve opNoticeConfigSet r s).mbox.changes ≠ s.mbox.changes ∧ (serve opNoticeConfigSet r s).eth.link = 2) ↔
      s.eth.link = 2 := by
    rw [show (serve opNoticeConfigSet r s).mbox.changes = s.mbox.changes + 1 from hchanges,
      show (serve opNoticeConfigSet r s).eth.link = s.eth.link from hlink]
    exact and_iff_right hcounted
  exact congrArg Host.Outcome.next (if_congr hgoes rfl rfl)

/-- Settles O15: every opcode that writes a word answers with wordAnswer. -/
theorem wordWritesCommit : Obligations.WordWritesCommit := by
  intro r s
  obtain ⟨hdirty, hnotices, hplane, hstr⟩ := wordCommitted_keeps r s
  refine ⟨hdirty, hnotices, hplane, hstr, ?rows, fun h => ?notice⟩
  case rows =>
    simp only [List.forall_mem_cons, List.not_mem_nil, false_implies, implies_true, and_true]
    exact ⟨fun h => wordWrite_completes h rfl, fun h => wordWrite_completes h rfl, fun h => wordWrite_completes h rfl,
      fun h => wordWrite_completes h rfl⟩
  case notice =>
    have hserve := serve_served h
    refine ⟨serve opNoticeConfigSet r s, ?_, ?_, exec_noticeConfigSet h⟩
    · rw [hserve]
      exact unanswered_respond ..
    · have hanswers := answers_respond opNoticeConfigSet r (opNoticeConfigSet.run r (taken r s))
      rw [← hserve] at hanswers
      change Answers opNoticeConfigSet r Status.ok (wordEffect r s) _
      rw [← wordEffect_taken]
      exact hanswers

end Sys2Proof.Machine

namespace Sys2Proof.Machine

/-! ## Commands under presence arrive (R374, R395) -/

/-- A presence-pending command is served only while no other one waits (R379). -/
theorem presence_alone {p : PresenceOp} {key : Option Key} {r : Request} {s : State} (h : Served (p.op key) r s) :
    s.pres.cmd = none := by
  have hfree := of_need (by decide) (ok_of_firstBad h.passed _ (List.mem_cons_of_mem _ List.mem_cons_self))
  simpa using hfree

/-- Settles O18. -/
theorem presenceCommandsWait : Obligations.PresenceCommandsWait := fun key x hx r s h =>
  ⟨presence_alone h, completesWith_of_run h rfl (exec_presenceRows key x hx r s)⟩

/-! ## The press (R374, R384, R394) -/

/-- The press commits whatever the opcode (R373, R374). -/
theorem commit_ok : ∀ p ∈ presenceOps, ∀ (c : PresenceCmd) (s : State), (p.commit c s).status = Status.ok := by
  simp only [presenceOps, List.forall_mem_cons, List.not_mem_nil, false_implies, implies_true, and_true]
  and_intros <;> intro c s <;> rfl

theorem presenceOp_commit_ok {code : BitVec 16} {p : PresenceOp} (hp : presenceOp code = some p) (c : PresenceCmd) (s : State) :
    (p.commit c s).status = Status.ok := commit_ok p (List.mem_of_find?_eq_some hp) c s

theorem PlaneKept.ite {s t u : State} {c : Prop} [Decidable c] (h : PlaneKept s t) (k : PlaneKept s u) :
    PlaneKept s (if c then t else u) := by
  split
  · exact h
  · exact k

theorem finish_planeKept (k : Option Key) (o : Outstanding) (changes changedNow : Bool) (status : Status) (key : ObjKey)
    (effect : Nat × Nat) (body : Bytes) (s : State) : PlaneKept s (finish k o changes changedNow status key effect body s) := by
  simp [PlaneKept, SameDataPlane]

/-- The end of a waiting command changes neither configuration nor data plane. -/
theorem endPresence_planeKept (c : PresenceCmd) (k : Option Key) (a : Answer) (s : State) : PlaneKept s (endPresence c k a s) := by
  unfold endPresence
  cases presenceMessage c s with
  | none => exact .ite (.refl s) (.refl s)
  | some o => exact .ite (finish_planeKept ..) (finish_planeKept ..)

/-- The LEDs at the end of a command show whether it had its effect (R395). -/
theorem endPresence_leds (c : PresenceCmd) (k : Option Key) (a : Answer) (s : State) : (endPresence c k a s).pres.cmd = none ∧
    (a.status = Status.ok → (endPresence c k a s).pres.leds = 0xF) ∧
    (a.status ≠ Status.ok → (endPresence c k a s).pres.led = .redThrice) := by
  unfold endPresence
  dsimp only
  split
  next hok => exact ⟨rfl, fun _ => rfl, fun h => absurd hok h⟩
  next hbad => exact ⟨rfl, fun h => absurd h hbad, fun _ => rfl⟩

theorem dropPending_planeKept (s : State) : PlaneKept s (dropPending s) := by
  unfold dropPending
  (repeat' split) <;> simp [PlaneKept, SameDataPlane]

/-- A command ends without effect: none waits any more, the LEDs blink red, and neither configuration nor data plane has changed
(R374, R395). -/
structure Abandoned (s t : State) : Prop where
  kept : PlaneKept s t
  cmd : t.pres.cmd = none
  led : t.pres.led = .redThrice

theorem dropPending_abandoned {a : Answer} (h : a.status ≠ Status.ok) (c : PresenceCmd) (k : Option Key) (s : State) :
    Abandoned s (dropPending (endPresence c k a s)) := by
  obtain ⟨-, hpres⟩ := dropPending_keeps (endPresence c k a s)
  obtain ⟨hcmd, -, hled⟩ := endPresence_leds c k a s
  exact ⟨(endPresence_planeKept c k a s).trans (dropPending_planeKept _), (congrArg Presence.cmd hpres).trans hcmd,
    (congrArg Presence.led hpres).trans (hled h)⟩

theorem abandonPresence_abandoned {status : Status} (h : status ≠ Status.ok) {s : State} {c : PresenceCmd} (hc : s.pres.cmd = some c) :
    Abandoned s (abandonPresence status s) := by
  unfold abandonPresence
  rw [hc]
  exact dropPending_abandoned h ..

/-- s with another command, or none, that waits. -/
def withCmd (c : Option PresenceCmd) (s : State) : State := { s with pres := { s.pres with cmd := c } }

section Press
variable {c : PresenceCmd} {p : PresenceOp} {s : State} (hp : presenceOp c.opcode = some p)
include hp

theorem commitPress_unpressed (h : c.press = none) : commitPress (withCmd (some c) s) = withCmd (some c) s := by
  simp only [commitPress, withCmd, hp, h]

variable {t : PtpTime} (ht : c.press = some t)
include ht

theorem commitPress_unwritten (h : c.written = false) : commitPress (withCmd (some c) s) = withCmd (some c) s := by
  simp [commitPress, withCmd, hp, ht, h]

variable (hw : c.written = true) (hallowed : configWriteAllowed s = true)
include hw hallowed

theorem commitPress_checked : commitPress (withCmd (some c) s) =
    if pressChecks p c (withCmd none s) = Status.ok then
      let a := p.commit c (withCmd none s)
      let s1 := commitCopy t a.state.cfg a.state
      let s2 := endPresence c (completionKey c (withCmd none s) s1) a s1
      if c.opcode = 0x0104 then { s2 with mbox := { s2.mbox with cache := s2.mbox.cache.filter (·.mailbox ≠ 0) } } else s2
    else dropPending (endPresence c (keyOf c.request.mailbox.toNat (withCmd none s))
      ⟨withCmd none s, pressChecks p c (withCmd none s), p.object c.request, false, (0, 0), []⟩ (withCmd none s)) := by
  have hgoes : c.written = true ∧ configWriteAllowed (withCmd (some c) s) = true := ⟨hw, hallowed⟩
  have hcmd : (withCmd (some c) s).pres.cmd = some c := rfl
  rw [commitPress, hcmd]
  dsimp only
  rw [hp, ht]
  exact if_pos hgoes

/-- A press that stands over a written copy has the command's effect, if the checks pass again (R374, step 3). -/
theorem commitPress_passes (h : pressChecks p c (withCmd none s) = Status.ok) :
    (commitPress (withCmd (some c) s)).cfg = (p.commit c (withCmd none s)).state.cfg ∧
    (commitPress (withCmd (some c) s)).pres.cmd = none ∧ (commitPress (withCmd (some c) s)).pres.leds = 0xF := by
  rw [commitPress_checked hp ht hw hallowed, if_pos h]
  extract_lets a s1 s2
  obtain ⟨hcmd, hleds, -⟩ := endPresence_leds c (completionKey c (withCmd none s) s1) a s1
  have hcfg : s2.cfg = a.state.cfg := (endPresence_planeKept ..).1.trans (by simp [s1])
  split
  · exact ⟨hcfg, hcmd, hleds (presenceOp_commit_ok hp ..)⟩
  · exact ⟨hcfg, hcmd, hleds (presenceOp_commit_ok hp ..)⟩

theorem commitPress_fails (h : pressChecks p c (withCmd none s) ≠ Status.ok) : Abandoned s (commitPress (withCmd (some c) s)) := by
  rw [commitPress_checked hp ht hw hallowed, if_neg h]
  obtain ⟨hkept, hcmd, hled⟩ := dropPending_abandoned (a := ⟨withCmd none s, pressChecks p c (withCmd none s), p.object c.request, false,
    (0, 0), []⟩) h c (keyOf c.request.mailbox.toNat (withCmd none s)) (withCmd none s)
  exact ⟨hkept, hcmd, hled⟩

end Press

/-! ### Step 2: the PENDING copy (R374, R384) -/

/-- s with the PENDING copy of a command written, and the configuration as committed in its undo section. -/
def pendingWritten (p : PresenceOp) (c : PresenceCmd) (s : State) : State := writeConfig true 0 (p.commit c s).state.cfg (some s.cfg) s

theorem exec_pendingWriteDone {s : State} {c : PresenceCmd} {p : PresenceOp} (ha : s.awake = true) (hc : s.pres.cmd = some c)
    (hp : presenceOp c.opcode = some p) (hw : c.written = false) (hallowed : configWriteAllowed s = true) :
    exec .presencePendingWriteDone s = .next (commitPress (withCmd (some { c with
      written := true, press := if s.ident.standingPresence then some s.now else c.press }) (pendingWritten p c s))) := by
  refine congrArg Host.Outcome.next ?_
  rw [hc]
  dsimp only
  rw [hp]
  exact if_pos ⟨ha, hw, hallowed⟩

/-- A copy goes to the slot that does not hold the selected one, and is selected (R384). -/
theorem writeConfig_slots (pending : Bool) (press : PtpTime) (content : Cfg) (undo : Option Cfg) (s : State) :
    ∃ copy : ConfigCopy, copy.pending = pending ∧ copy.content = content ∧ copy.undo = undo ∧
      let t := writeConfig pending press content undo s
      if s.flash.selectedB then t.flash.copyA = some copy ∧ t.flash.copyB = s.flash.copyB ∧ t.flash.selectedB = false
      else t.flash.copyB = some copy ∧ t.flash.copyA = s.flash.copyA ∧ t.flash.selectedB = true := by
  unfold writeConfig
  cases hb : s.flash.selectedB with
  | true => exact ⟨_, rfl, rfl, rfl, rfl, rfl, rfl⟩
  | false => exact ⟨_, rfl, rfl, rfl, rfl, rfl, rfl⟩

theorem pendingWritten_allowed (p : PresenceOp) (c : PresenceCmd) (s : State) :
    configWriteAllowed (pendingWritten p c s) = configWriteAllowed s := by
  simp [configWriteAllowed, holdupAllows, pendingWritten]

/-- Without a press the command goes on waiting, its copy written. -/
theorem pendingWriteDone_waits {s : State} {c : PresenceCmd} {p : PresenceOp} (ha : s.awake = true) (hc : s.pres.cmd = some c)
    (hp : presenceOp c.opcode = some p) (hw : c.written = false) (hpress : c.press = none) (hstrap : s.ident.standingPresence = false)
    (hallowed : configWriteAllowed s = true) :
    exec .presencePendingWriteDone s = .next (withCmd (some { c with written := true }) (pendingWritten p c s)) := by
  rw [exec_pendingWriteDone ha hc hp hw hallowed, if_neg (by simp [hstrap])]
  exact congrArg Host.Outcome.next (commitPress_unpressed (c := { c with written := true }) hp hpress)

/-! ### The press and the ends -/

theorem exec_presencePress {s : State} {c : PresenceCmd} {ms : Nat} {stamp : Stamp} (ha : s.awake = true) (hc : s.pres.cmd = some c)
    (hpress : c.press = none) (hshort : 100 ≤ ms) (hlong : ms < 5000)
    (hwindow : nanos stamp.time ≤ nanos c.request.stamp.time + 30 * 10 ^ 9) :
    exec (.presencePress ms stamp) s = .next (commitPress (withCmd (some { c with press := some stamp.time }) s)) := by
  refine congrArg Host.Outcome.next ?_
  rw [hc]
  exact if_pos ⟨ha, hshort, hlong, hpress, hwindow⟩

/-- A closure that is too short or too long, comes late, or comes after a press, is ignored (R394). -/
theorem exec_presencePress_ignored {s : State} {c : PresenceCmd} {ms : Nat} {stamp : Stamp} (hc : s.pres.cmd = some c)
    (h : ms < 100 ∨ 5000 ≤ ms ∨ c.press ≠ none ∨ nanos c.request.stamp.time + 30 * 10 ^ 9 < nanos stamp.time) :
    exec (.presencePress ms stamp) s = .next s := by
  refine congrArg Host.Outcome.next ?_
  rw [hc]
  refine if_neg ?_
  rintro ⟨-, hshort, hlong, hpress, hwindow⟩
  obtain h | h | h | h := h
  · omega
  · omega
  · exact h hpress
  · omega

theorem exec_presenceRefusal {s : State} (ha : s.awake = true) :
    exec .presenceRefusal s = .next (abandonPresence Status.presenceTimeout s) := congrArg Host.Outcome.next (if_pos ha)

theorem exec_presenceWindowExpiry {s : State} {c : PresenceCmd} (ha : s.awake = true) (hc : s.pres.cmd = some c) :
    exec .presenceWindowExpiry s =
      .next (abandonPresence (if c.written ∧ c.press = none then Status.presenceTimeout else Status.holdupDeferred) s) := by
  refine congrArg Host.Outcome.next ?_
  rw [hc]
  exact if_pos ha

/-- Settles O19: step 2 of R374, the standing press, the press, and the ends without effect. -/
theorem presenceCommandsEnd : Obligations.PresenceCommandsEnd := by
  refine ⟨?copy, ?standing, ?press, fun s c ms stamp hc h => exec_presencePress_ignored hc h, ?ends⟩
  case copy =>
    intro s c p ha hc hp hw hpress hstrap hallowed
    obtain ⟨copy, hpending, hcontent, hundo, hslots⟩ := writeConfig_slots true 0 (p.commit c s).state.cfg (some s.cfg) s
    refine ⟨_, copy, pendingWriteDone_waits ha hc hp hw hpress hstrap hallowed, ?_, hpending, hcontent, hundo, hslots, ?_, ?_, ?_⟩
    · simp [withCmd, pendingWritten]
    · simp [withCmd, pendingWritten]
    · simp [SameDataPlane, withCmd, pendingWritten]
    · simp [withCmd, pendingWritten]
  case standing =>
    intro s c p ha hc hp hw hallowed hstrap v s0 c' hchecks
    have hexec : exec .presencePendingWriteDone s = .next (commitPress (withCmd (some c') (pendingWritten p c s))) := by
      rw [exec_pendingWriteDone ha hc hp hw hallowed, if_pos hstrap]
    have hs0 : s0 = withCmd none (pendingWritten p c s) := by simp [s0, v, withCmd, pendingWritten]
    rw [hs0] at hchecks ⊢
    exact ⟨_, hexec, commitPress_passes (c := c') hp rfl rfl ((pendingWritten_allowed ..).trans hallowed) hchecks⟩
  case press =>
    intro s c p ms stamp ha hc hp hpress hshort hlong hwindow
    have hexec := exec_presencePress ha hc hpress hshort hlong hwindow
    refine ⟨fun hw => ?_, ?_⟩
    · rw [hexec, commitPress_unwritten (c := { c with press := some stamp.time }) hp rfl hw]
      rfl
    · intro hw hallowed s0 c'
      refine ⟨_, hexec, ?_⟩
      by_cases hchecks : pressChecks p c' s0 = Status.ok
      · obtain ⟨hcfg, hcmd, hleds⟩ := commitPress_passes (c := c') hp rfl hw hallowed hchecks
        exact ⟨hcmd, fun _ => ⟨hcfg, hleds⟩, fun h => absurd hchecks h⟩
      · have hended := commitPress_fails (c := c') hp rfl hw hallowed hchecks
        exact ⟨hended.cmd, fun h => absurd h hchecks, fun _ => ⟨hended.kept.1, hended.led⟩⟩
  case ends =>
    intro s c ha hc
    have hended {status : Status} (h : status ≠ Status.ok) := abandonPresence_abandoned h hc
    refine ⟨⟨_, exec_presenceRefusal ha, ?_⟩, ⟨_, exec_presenceWindowExpiry ha hc, ?_⟩⟩
    · obtain ⟨⟨hcfg, hlive, hplane⟩, hcmd, hled⟩ := hended (status := Status.presenceTimeout) (by decide)
      exact ⟨hcmd, hled, hcfg, hlive, hplane, rfl⟩
    · have hbad : (if c.written ∧ c.press = none then Status.presenceTimeout else Status.holdupDeferred) ≠ Status.ok := by
        split <;> decide
      obtain ⟨⟨hcfg, hlive, hplane⟩, hcmd, hled⟩ := hended hbad
      exact ⟨hcmd, hled, hcfg, hlive, hplane, rfl⟩

end Sys2Proof.Machine

namespace Sys2Proof.Machine

/-! ## A stream frame that passes (R341, R353) -/

theorem receiveFrame_passes {kind : Nat} {f : Frame} {t : Stream} {s : State} (h : FramePasses kind f t s)
    (act : Stream → State → State) : receiveFrame kind f act s = act t (received s) := by
  obtain ⟨hawake, hformed, hauthentic, hnamed⟩ := h
  simp only [receiveFrame, if_pos hawake, if_pos hformed, hauthentic, hnamed]

theorem exec_prompt {f : Frame} {t : Stream} {s : State} (h : FramePasses 1 f t s) :
    exec (.prompt f) s = .next (acceptPrompt f t (received s)) :=
  congrArg Host.Outcome.next (receiveFrame_passes h _)

theorem exec_hostNak {f : Frame} {t : Stream} {s : State} (h : FramePasses 3 f t s) :
    exec (.hostNak f) s = .next (resend f t (received s)) :=
  congrArg Host.Outcome.next (receiveFrame_passes h _)

/-- A PROMPT frame that is well formed carries a token. -/
theorem prompt_nonempty {f : Frame} (h : frameWellFormed 1 f = true) : 1 ≤ f.entryCount.toNat := by
  simp [frameWellFormed] at h
  omega

/-! ## PROMPT (R354) -/

section Prompt
variable {f : Frame} {t : Stream} {u : State}

theorem acceptPrompt_refuses {reason : Nat} (h : promptTreatment f t u = .refuse reason) :
    acceptPrompt f t u = moduleNak reason f t u := by
  simp only [acceptPrompt, h]

theorem acceptPrompt_ignores (h : promptTreatment f t u = .ignore) : acceptPrompt f t u = u := by
  simp only [acceptPrompt, h]

theorem acceptPrompt_accepts (h : promptTreatment f t u = .accept) : acceptPrompt f t u =
    countMailbox t.mailbox.toNat (fun m => { m with framesInAccepted := satInc m.framesInAccepted })
      (setStreamById t.id.toNat (fun x =>
        if x.mailbox = t.mailbox then { x with pending := x.pending ++ promptTokens f } else x) u) := by
  simp only [acceptPrompt, h]

theorem promptTreatment_notReady (h : t.state ≠ .ready) : promptTreatment f t u = .refuse 1 := if_pos h

variable (hready : t.state = .ready)
include hready

theorem promptTreatment_ready : promptTreatment f t u =
    if f.firstPosition.toNat + f.entryCount.toNat ≤ historyLength t then .ignore
    else if f.firstPosition.toNat ≠ historyLength t then .refuse 0
    else if contextLimit u < historyLength t + f.entryCount.toNat then .refuse 2
    else if (promptTokens f).any (fun x => decide (vocabSize u ≤ x.toNat)) then .refuse 3
    else .accept := if_neg (not_not.mpr hready)

theorem promptTreatment_known (h : f.firstPosition.toNat + f.entryCount.toNat ≤ historyLength t) :
    promptTreatment f t u = .ignore := (promptTreatment_ready hready).trans (if_pos h)

theorem promptTreatment_gap (h : historyLength t < f.firstPosition.toNat + f.entryCount.toNat)
    (hfirst : f.firstPosition.toNat ≠ historyLength t) : promptTreatment f t u = .refuse 0 :=
  (promptTreatment_ready hready).trans ((if_neg (Nat.not_le.mpr h)).trans (if_pos hfirst))

variable (hn : 1 ≤ f.entryCount.toNat) (hfirst : f.firstPosition.toNat = historyLength t)
include hn hfirst

theorem promptTreatment_next : promptTreatment f t u =
    if contextLimit u < historyLength t + f.entryCount.toNat then .refuse 2
    else if (promptTokens f).any (fun x => decide (vocabSize u ≤ x.toNat)) then .refuse 3
    else .accept :=
  (promptTreatment_ready hready).trans ((if_neg (by omega)).trans (if_neg (not_not.mpr hfirst)))

theorem promptTreatment_tooLong (h : contextLimit u < historyLength t + f.entryCount.toNat) :
    promptTreatment f t u = .refuse 2 := (promptTreatment_next hready hn hfirst).trans (if_pos h)

variable (hfits : historyLength t + f.entryCount.toNat ≤ contextLimit u)
include hfits

theorem promptTreatment_noToken (h : ∃ x ∈ promptTokens f, vocabSize u ≤ x.toNat) : promptTreatment f t u = .refuse 3 :=
  (promptTreatment_next hready hn hfirst).trans ((if_neg (Nat.not_lt.mpr hfits)).trans (if_pos (by simpa using h)))

theorem promptTreatment_accepts (h : ∀ x ∈ promptTokens f, x.toNat < vocabSize u) : promptTreatment f t u = .accept :=
  (promptTreatment_next hready hn hfirst).trans ((if_neg (Nat.not_lt.mpr hfits)).trans (if_neg (by simpa using h)))

end Prompt

/-- Settles O20: the table of R354, row by row. -/
theorem promptFramesAreTreated : Obligations.PromptFramesAreTreated := by
  intro f t s h
  have hn := prompt_nonempty h.2.1
  have hexec := exec_prompt h
  refine ⟨fun reason hsoon => if_pos hsoon, fun reason hlate => if_neg (by simp [hlate]), fun hstate => ?_, fun hready hknown => ?_,
    fun hready hbefore hbeyond => ?_, fun hready hgap => ?_, fun hready hfirst hlong => ?_, fun hready hfirst hfits htoken => ?_,
    fun hready hfirst hfits htokens => ?_⟩
  · rw [hexec, acceptPrompt_refuses (promptTreatment_notReady hstate)]
  · rw [hexec, acceptPrompt_ignores (promptTreatment_known hready hknown)]
  · rw [hexec, acceptPrompt_refuses (promptTreatment_gap hready hbeyond hbefore.ne)]
  · rw [hexec, acceptPrompt_refuses (promptTreatment_gap hready (Nat.lt_add_right _ hgap) hgap.ne')]
  · rw [hexec, acceptPrompt_refuses (promptTreatment_tooLong hready hn hfirst hlong)]
  · rw [hexec, acceptPrompt_refuses (promptTreatment_noToken hready hn hfirst hfits htoken)]
  · rw [hexec, acceptPrompt_accepts (promptTreatment_accepts hready hn hfirst hfits htokens)]

end Sys2Proof.Machine

namespace Sys2Proof.Machine

/-! ## A host's NAK (R356, R358) -/

/-- A host's NAK is counted in its mailbox's record. -/
def nakCounted (t : Stream) (s : State) : State :=
  countMailbox t.mailbox.toNat (fun m => { m with naksReceived := satInc m.naksReceived }) s

/-- Where the range that a NAK names ends: not beyond what was emitted. -/
def nakStop (f : Frame) (t : Stream) (s : State) : Nat := min (f.firstPosition.toNat + f.aux.toNat) (emittedEnd t s)

section Nak
variable {f : Frame} {t : Stream} {s : State}

theorem resend_noRecord (h : liveRecord t.mailbox.toNat t.id.toNat (nakCounted t s) = none) :
    resend f t s = moduleNak 5 f t (nakCounted t s) := if_pos (Option.isNone_iff_eq_none.mpr h)

variable {n : Nat} (hlive : liveRecord t.mailbox.toNat t.id.toNat (nakCounted t s) = some n)
include hlive

/-- The oldest entry that a stream keeps, or the end of the range where it keeps none. -/
theorem resend_live : resend f t s =
    if f.firstPosition.toNat < (match t.kept with | e :: _ => e.position.toNat | [] => nakStop f t (nakCounted t s)) ∧
        f.firstPosition.toNat < nakStop f t (nakCounted t s) then moduleNak 4 f t (nakCounted t s)
    else (frameRuns (frameCapacity t.out (nakCounted t s)) (t.kept.filter fun e =>
        f.firstPosition.toNat ≤ e.position.toNat && decide (e.position.toNat < nakStop f t (nakCounted t s)))).foldl
          (fun w run => sendTokens t 1 run w) (nakCounted t s) := by
  refine (if_neg (by simp [nakCounted] at hlive; simp [hlive])).trans ?_
  cases t.kept <;> rfl

/-- A range whose start is no longer kept is refused. -/
theorem resend_gone (hkept : ∀ e es, t.kept = e :: es → f.firstPosition.toNat < e.position.toNat)
    (hstop : f.firstPosition.toNat < nakStop f t (nakCounted t s)) : resend f t s = moduleNak 4 f t (nakCounted t s) := by
  rw [resend_live hlive, if_pos]
  refine ⟨?_, hstop⟩
  split
  next e es h => exact hkept e es h
  next => exact hstop

theorem resend_sends (h : nakStop f t (nakCounted t s) ≤ f.firstPosition.toNat ∨
      ∃ e es, t.kept = e :: es ∧ e.position.toNat ≤ f.firstPosition.toNat) : resend f t s =
    (frameRuns (frameCapacity t.out (nakCounted t s)) (t.kept.filter fun e => f.firstPosition.toNat ≤ e.position.toNat &&
      decide (e.position.toNat < nakStop f t (nakCounted t s)))).foldl (fun w run => sendTokens t 1 run w) (nakCounted t s) := by
  rw [resend_live hlive, if_neg]
  rintro ⟨hleast, hstop⟩
  obtain h | ⟨e, es, hkept, hpos⟩ := h
  · exact absurd h (Nat.not_le.mpr hstop)
  · rw [hkept] at hleast
    exact absurd hpos (Nat.not_le.mpr hleast)

end Nak

/-! ## Tokens leave and are kept (R355, R357) -/

/-- s with other streams. -/
def withStr (x : Streams) (s : State) : State := { s with str := x }

theorem send_withStr (y : Sent) (x : Streams) (s : State) : send y (withStr x s) = withStr x (send y s) := by
  simp only [send, apply_ite (withStr x)]
  rfl

theorem countFrames_withStr (mb n : Nat) (x : Streams) (s : State) : countFrames mb n (withStr x s) = withStr x (countFrames mb n s) := by
  simp only [countFrames, apply_ite (withStr x)]
  rfl

/-- The tag of a stream frame rests on the configuration alone (R342). -/
theorem streamFrame_congr {s u : State} (h : u.cfg = s.cfg) (dest : Endpoint) (kind flags reason : Nat) (mb : BitVec 16)
    (first : BitVec 32) (id : BitVec 64) (aux : Nat) (entries : List (BitVec 128)) :
    streamFrame dest kind flags reason mb first id aux entries u = streamFrame dest kind flags reason mb first id aux entries s := by
  rw [streamFrame, keyOf, h, streamFrame, keyOf]

theorem sendFrame_withStr (dest : Endpoint) (kind flags reason : Nat) (mb : BitVec 16) (first : BitVec 32) (id : BitVec 64)
    (aux : Nat) (entries : List (BitVec 128)) (x : Streams) (s : State) :
    sendFrame dest kind flags reason mb first id aux entries (withStr x s) =
      withStr x (sendFrame dest kind flags reason mb first id aux entries s) := by
  have hframe : streamFrame dest kind flags reason mb first id aux entries (withStr x s) =
    streamFrame dest kind flags reason mb first id aux entries s := streamFrame_congr rfl ..
  rw [sendFrame, hframe, sendFrame]
  cases streamFrame dest kind flags reason mb first id aux entries s with
  | none => rfl
  | some y => exact send_withStr ..

/-- Sending tokens does not look at the streams. -/
theorem sendTokens_withStr (t : Stream) (flags : Nat) (es : List TokenEntry) (x : Streams) (s : State) :
    sendTokens t flags es (withStr x s) = withStr x (sendTokens t flags es s) := by
  cases es with
  | nil => rfl
  | cons e es => exact (congrArg _ (sendFrame_withStr ..)).trans (countFrames_withStr ..)

/-- The repeat of a frame that carries a generation's last token (R357). -/
def lastRepeat (t : Stream) (es : List TokenEntry) (s : State) : List Sent :=
  if es ≠ [] ∧ lastToken es = true then
    (streamFrame t.out 2 2 0 t.mailbox ((es.head?.map (·.position)).getD 0) t.id 0 (es.map tokenEntry) s).toList
  else []

section Emission
variable {n : Nat} {s : State} {t : Stream}

/-- A stream keeps what it emits for resends, 65,536 entries at most (R358). -/
def keepEntries (es : List TokenEntry) (u : Stream) : Stream := { u with kept := lastN 65536 (u.kept ++ es) }

/-- What emission leaves of the streams: the entries are kept, and their repeat waits where they end a generation. -/
def emissionKept (n : Nat) (t : Stream) (es : List TokenEntry) (s : State) : Streams :=
  (setLive n (keepEntries es) (withStr { s.str with repeats := s.str.repeats ++ lastRepeat t es s } s)).str

/-- Another state with the streams of s, to which a repeat is added. -/
theorem repeatLater_withStr {v : State} (h : v.str = s.str) (x : Option Sent) :
    repeatLater x v = withStr { s.str with repeats := s.str.repeats ++ x.toList } v := by
  rw [repeatLater, h, withStr]

theorem withStr_same {v : State} (h : v.str = s.str) : v = withStr { s.str with repeats := s.str.repeats ++ [] } v := by
  rw [List.append_nil, ← h, withStr]

/-- A step's tokens are sent beside what becomes of the streams. -/
theorem emitEntries_eq (h : liveAt n s = some t) (es : List TokenEntry) :
    emitEntries n es s = withStr (emissionKept n t es s) (sendTokens t 0 es s) := by
  have hstr : (sendTokens t 0 es s).str = s.str := by simp
  have hcfg : (sendTokens t 0 es s).cfg = s.cfg := by simp
  have hkeep {v : State} (hv : v = withStr { s.str with repeats := s.str.repeats ++ lastRepeat t es s } (sendTokens t 0 es s)) :
      setLive n (keepEntries es) v = withStr (emissionKept n t es s) (sendTokens t 0 es s) := by
    rw [hv]
    rfl
  simp only [emitEntries, h]
  refine hkeep ?_
  cases hlast : lastToken es with
  | false =>
    have hnone : lastRepeat t es s = [] := if_neg (by simp [hlast])
    rw [hnone]
    exact withStr_same hstr
  | true =>
    cases es with
    | nil => simp [lastToken] at hlast
    | cons e es =>
      have hsome : lastRepeat t (e :: es) s =
          (streamFrame t.out 2 2 0 t.mailbox e.position t.id 0 ((e :: es).map tokenEntry) s).toList :=
        if_pos ⟨List.cons_ne_nil _ _, hlast⟩
      rw [hsome, ← streamFrame_congr hcfg]
      exact repeatLater_withStr hstr _

theorem emissionKept_liveAt (m : Nat) (es : List TokenEntry) (v : State) : liveAt m (withStr (emissionKept n t es s) v) =
    if n = m then (liveAt m s).map (keepEntries es) else liveAt m s :=
  setLive_liveAt n m (keepEntries es) (withStr { s.str with repeats := s.str.repeats ++ lastRepeat t es s } s)

end Emission

/-- A step's tokens are taken off the queue. -/
def unqueued (p : Nat × List TokenEntry) (s : State) : State := withStr { s.str with emit := s.str.emit.erase p } s

theorem exec_tokenEmission {n : Nat} {s : State} {es : List TokenEntry} {t : Stream} (ha : s.awake = true)
    (hqueued : s.str.emit.find? (fun p => p.1 = n) = some (n, es)) (hlive : liveAt n s = some t) :
    exec (.tokenEmission n) s = .next (withStr (emissionKept n t es (unqueued (n, es) s)) (sendTokens t 0 es s)) := by
  have hemit : emitFirst n s = emitEntries n es (unqueued (n, es) s) := by
    simp only [emitFirst, hqueued]
    rfl
  have hrest : liveAt n (unqueued (n, es) s) = some t := hlive
  refine congrArg Host.Outcome.next ((if_pos ha).trans ?_)
  rw [hemit, emitEntries_eq hrest, unqueued, sendTokens_withStr]
  rfl

/-! ## The repeats of R357 -/

/-- s without the oldest frame that waits for its repeat. -/
def repeatTaken (rest : List Sent) (s : State) : State := withStr { s.str with repeats := rest } s

section Repeat
variable {s : State} {x : Sent} {rest : List Sent} (ha : s.awake = true) (hx : s.str.repeats = x :: rest)
include ha hx

theorem stateFrameRepeat_sends {y : Sent} (hy : reflag (repeatFlags x) x (repeatTaken rest s) = some y) :
    exec .stateFrameRepeat s = .next (countFrames x.mailbox 1 (send y (repeatTaken rest s))) := by
  rw [repeatTaken, withStr] at *
  refine congrArg Host.Outcome.next ((if_pos ha).trans ?_)
  simp only [hx, hy]

theorem stateFrameRepeat_untagged (hnone : reflag (repeatFlags x) x (repeatTaken rest s) = none) :
    exec .stateFrameRepeat s = .next (repeatTaken rest s) := by
  rw [repeatTaken, withStr] at *
  refine congrArg Host.Outcome.next ((if_pos ha).trans ?_)
  simp only [hx, hnone]

end Repeat

/-- Settles O21: what a host's NAK is answered with, and what becomes of tokens and of frames that wait. -/
theorem tokensAreEmittedKeptAndResent : Obligations.TokensAreEmittedKeptAndResent := by
  refine ⟨fun f t s h => ?nak, fun n s es t ha hqueued hlive => ?emission, fun s x rest ha hx => ?again⟩
  case nak =>
    have hexec := exec_hostNak h
    refine ⟨fun hnone => ?_, fun n hsome hkept hstop => ?_, fun n hsome hrange => ?_⟩
    · rw [hexec, resend_noRecord hnone]
      rfl
    · rw [hexec, resend_gone hsome hkept hstop]
      rfl
    · rw [hexec, resend_sends hsome hrange]
      rfl
  case emission =>
    refine ⟨_, exec_tokenEmission ha hqueued hlive, rfl, fun hne => ?_, ?_, ?_, fun m hm => ?_, ?_, ?_⟩
    · have hstr : (sendTokens t 0 es s).str = s.str := by simp
      cases es with
      | nil => exact absurd rfl hne
      | cons e es => exact congrArg (fun x => withStr x (sendTokens t 0 (e :: es) s)) hstr.symm
    · exact congrArg (s.str.repeats ++ ·) (if_congr Iff.rfl (congrArg Option.toList (streamFrame_congr rfl ..)) rfl)
    · have hrest : liveAt n (unqueued (n, es) s) = some t := hlive
      rw [emissionKept_liveAt, if_pos rfl, hrest]
      simp only [Option.map_some, keepEntries]
    · rw [emissionKept_liveAt, if_neg (Ne.symm hm)]
      rfl
    · simp [SameConfig, withStr]
    · simp [SameDataPlane, withStr]
  case again =>
    cases hframe : reflag (repeatFlags x) x (repeatTaken rest s) with
    | none =>
      refine ⟨_, stateFrameRepeat_untagged ha hx hframe, rfl, ⟨rfl, rfl, rfl, rfl⟩, ⟨rfl, rfl, rfl, rfl, rfl⟩, ?_⟩
      rintro dest kind flags reason mb first id aux entries tag rfl y hy
      have hsome : reflag (repeatFlags (.frame dest kind flags reason mb first id aux entries tag))
        (.frame dest kind flags reason mb first id aux entries tag) (repeatTaken rest s) = some y := hy
      exact absurd (hsome.symm.trans hframe) (by simp)
    | some y =>
      refine ⟨_, stateFrameRepeat_sends ha hx hframe, by simp [repeatTaken, withStr], by simp [SameConfig, repeatTaken, withStr],
        by simp [SameDataPlane, repeatTaken, withStr], ?_⟩
      rintro dest kind flags reason mb first id aux entries tag rfl z hz
      have hsome : reflag (repeatFlags (.frame dest kind flags reason mb first id aux entries tag))
        (.frame dest kind flags reason mb first id aux entries tag) (repeatTaken rest s) = some z := hz
      rw [Option.some.inj (hframe.symm.trans hsome)]
      rfl

end Sys2Proof.Machine

namespace Sys2Proof.Machine

/-! ## The effective cap (R411) -/

/-- Settles O29. -/
theorem effectiveCapIsTheLeast : Obligations.EffectiveCapIsTheLeast := by
  intro s n figures
  have hcap : effectiveCap s =
    min (bits s.live.w14 31 24 * 10000) (min 2000000 (min (200000 * (n - 1)) (420 * s.pow.vinCv.toNat))) := rfl
  simp only [figures, List.mem_cons, List.not_mem_nil, or_false, forall_eq_or_imp, forall_eq]
  rw [hcap]
  omega

/-! ## Power control (R412) -/

/-- s with the input of a window and the cap that follows from it. -/
def inputTaken (w : WindowData) (s : State) : State :=
  let u : State := { s with pow := { s.pow with
    vinCv := w.vinCv, iinDa := w.iinDa, pinW10 := w.pinW10, bankCv := w.bankCv, windowEnd := w.endTime
    window := s.pow.window + 1
    powers := lastN 4 (s.pow.powers ++ [w.pinW10.toNat]) } }
  { u with pow := { u.pow with capW10 := BitVec.ofInt 16 (inUnits 10 ((effectiveCap u : Rat) / 1000)) } }

theorem inputTaken_powers (w : WindowData) (s : State) :
    (inputTaken w s).pow.powers = lastN 4 (s.pow.powers ++ [w.pinW10.toNat]) := by
  simp only [inputTaken]

/-- P4 exceeds 98 % of the cap, and k_p may rise in the window (R412). -/
def capPassed (w : WindowData) (s : State) : Prop :=
  98 * effectiveCap (inputTaken w s) < 25000 * (inputTaken w s).pow.powers.sum ∧ s.pow.kP < 15 ∧
    4 ≤ ((s.pow.window + 1 : Nat) : Int) - s.pow.lastUp

section PowerControl
variable {w : WindowData} {s : State}

theorem powerControl_raises (h : capPassed w s) : powerControl w s =
    { inputTaken w s with pow := { (inputTaken w s).pow with kP := s.pow.kP + 1, lastUp := (s.pow.window + 1 : Nat), below := 0 } } :=
  if_pos h

variable (h : ¬capPassed w s)
include h

theorem powerControl_lowers (hlow : 25000 * (inputTaken w s).pow.powers.sum < 90 * effectiveCap (inputTaken w s))
    (hlong : 16 ≤ s.pow.below + 1) (hk : 0 < s.pow.kP) : powerControl w s =
    { inputTaken w s with pow := { (inputTaken w s).pow with kP := s.pow.kP - 1, below := 0 } } :=
  (if_neg h).trans ((if_pos hlow).trans (if_pos ⟨hlong, hk⟩))

theorem powerControl_counts (hlow : 25000 * (inputTaken w s).pow.powers.sum < 90 * effectiveCap (inputTaken w s))
    (hstays : ¬(16 ≤ s.pow.below + 1 ∧ 0 < s.pow.kP)) : powerControl w s =
    { inputTaken w s with pow := { (inputTaken w s).pow with below := s.pow.below + 1 } } :=
  (if_neg h).trans ((if_pos hlow).trans (if_neg hstays))

theorem powerControl_rests (hhigh : ¬25000 * (inputTaken w s).pow.powers.sum < 90 * effectiveCap (inputTaken w s)) :
    powerControl w s = { inputTaken w s with pow := { (inputTaken w s).pow with below := 0 } } :=
  (if_neg h).trans (if_neg hhigh)

end PowerControl

/-- What power control leaves of the window's input: only the demand k_p and its counters follow. -/
theorem powerControl_input (w : WindowData) (s : State) :
    effectiveCap (powerControl w s) = effectiveCap (inputTaken w s) ∧ (powerControl w s).pow.powers = (inputTaken w s).pow.powers ∧
    (powerControl w s).pow.vinCv = w.vinCv ∧ (powerControl w s).pow.window = s.pow.window + 1 ∧
    (powerControl w s).pow.domains = s.pow.domains := by
  unfold powerControl
  dsimp only
  (repeat' split) <;> exact ⟨rfl, rfl, rfl, rfl, rfl⟩

/-- The window of power control: k_p rises, falls or stays. -/
theorem powerControl_follows (w : WindowData) (s : State) :
    (capPassed w s → (powerControl w s).pow.kP = s.pow.kP + 1 ∧ (powerControl w s).pow.lastUp = (s.pow.window + 1 : Nat) ∧
      (powerControl w s).pow.below = 0) ∧
    (¬capPassed w s → (powerControl w s).pow.lastUp = s.pow.lastUp ∧
      (25000 * (inputTaken w s).pow.powers.sum < 90 * effectiveCap (inputTaken w s) → 16 ≤ s.pow.below + 1 → 0 < s.pow.kP →
        (powerControl w s).pow.kP = s.pow.kP - 1 ∧ (powerControl w s).pow.below = 0) ∧
      (25000 * (inputTaken w s).pow.powers.sum < 90 * effectiveCap (inputTaken w s) → (s.pow.below + 1 < 16 ∨ s.pow.kP = 0) →
        (powerControl w s).pow.kP = s.pow.kP ∧ (powerControl w s).pow.below = s.pow.below + 1) ∧
      (90 * effectiveCap (inputTaken w s) ≤ 25000 * (inputTaken w s).pow.powers.sum →
        (powerControl w s).pow.kP = s.pow.kP ∧ (powerControl w s).pow.below = 0)) := by
  refine ⟨fun h => ?_, fun h => ⟨?_, fun hlow hlong hk => ?_, fun hlow hstays => ?_, fun hhigh => ?_⟩⟩
  · rw [powerControl_raises h]
    exact ⟨rfl, rfl, rfl⟩
  · by_cases hlow : 25000 * (inputTaken w s).pow.powers.sum < 90 * effectiveCap (inputTaken w s)
    · by_cases hfalls : 16 ≤ s.pow.below + 1 ∧ 0 < s.pow.kP
      · rw [powerControl_lowers h hlow hfalls.1 hfalls.2]
        rfl
      · rw [powerControl_counts h hlow hfalls]
        rfl
    · rw [powerControl_rests h hlow]
      rfl
  · rw [powerControl_lowers h hlow hlong hk]
    exact ⟨rfl, rfl⟩
  · have hfalls : ¬(16 ≤ s.pow.below + 1 ∧ 0 < s.pow.kP) := by
      rintro ⟨hlong, hk⟩
      obtain hshort | hzero := hstays
      · omega
      · simp [hzero] at hk
    rw [powerControl_counts h hlow hfalls]
    exact ⟨rfl, rfl⟩
  · rw [powerControl_rests h (Nat.not_lt.mpr hhigh)]
    exact ⟨rfl, rfl⟩

/-! ## The telemetry window (R409, R417, R418)

The parts of a window that come after its samples raise notices and write records of their own: none of them touches the clock,
the domains, the controllers' values, or what a sensor reads. -/

/-- Clock, domains, the values of the thermal controller and the readings of the sensors are as before. -/
structure SamplesKept (s t : State) : Prop where
  now : t.eth.ptp.now = s.eth.ptp.now
  domains : t.pow.domains = s.pow.domains
  kT : t.cool.kT = s.cool.kT
  f : t.cool.f = s.cool.f
  readings : t.cool.sensors.map (·.reading) = s.cool.sensors.map (·.reading)

namespace SamplesKept
variable {s t u : State}

theorem refl (s : State) : SamplesKept s s := ⟨rfl, rfl, rfl, rfl, rfl⟩

theorem trans (h : SamplesKept s t) (k : SamplesKept t u) : SamplesKept s u :=
  ⟨k.now.trans h.now, k.domains.trans h.domains, k.kT.trans h.kT, k.f.trans h.f, k.readings.trans h.readings⟩

/-- An operation after what keeps the samples, in the order in which compositions are written. -/
theorem before (k : SamplesKept t u) (h : SamplesKept s t) : SamplesKept s u := h.trans k

theorem ite {c : Prop} [Decidable c] (h : SamplesKept s t) (k : SamplesKept s u) : SamplesKept s (if c then t else u) := by
  split
  · exact h
  · exact k

theorem foldl {β : Type} {f : State → β → State} (h : ∀ s b, SamplesKept s (f s b)) (l : List β) (s : State) :
    SamplesKept s (l.foldl f s) := foldl_inv (SamplesKept s) f (fun t b ht => ht.trans (h t b)) l s (.refl s)

end SamplesKept

theorem send_ptp (x : Sent) (s : State) : (send x s).eth.ptp = s.eth.ptp := by
  rw [(send_sending x s).eth]

theorem raiseNotice_ptp (code : Nat) (severity : Option Nat) (kind subject related detail : Nat) (s : State) :
    (raiseNotice code severity kind subject related detail s).eth.ptp = s.eth.ptp := by
  cases severity <;> simp [raiseNotice, draw, apply_ite State.eth, apply_ite Eth.ptp, send_ptp]

theorem thermalNotice_samplesKept (c index : Nat) (value : Int) (severity : Option Nat) (kind subject : Nat) (s : State) :
    SamplesKept s (thermalNotice c index value severity kind subject s) :=
  ⟨congrArg Ptp.now (raiseNotice_ptp ..), by simp, by simp, by simp, by simp⟩

theorem warningNotice_samplesKept (severity : Option Nat) (x : Nat × Nat × BitVec 32) (s : State) :
    SamplesKept s (warningNotice severity x s) := ⟨congrArg Ptp.now (raiseNotice_ptp ..), by simp, by simp, by simp, by simp⟩

theorem raiseWarning_samplesKept (c index value : Nat) (s : State) : SamplesKept s (raiseWarning c index value s) :=
  .ite (.refl s) ((warningNotice_samplesKept ..).before ⟨rfl, rfl, rfl, rfl, rfl⟩)

theorem inputWarnings_samplesKept (s : State) : SamplesKept s (inputWarnings s) := by
  have hlow : SamplesKept s (if warningHolds 1 0 s then raiseWarning 1 0 s.pow.vinCv.toNat s else s) :=
    .ite (raiseWarning_samplesKept ..) (.refl s)
  exact .before (.ite (raiseWarning_samplesKept ..) (.refl _)) (hlow.trans ⟨rfl, rfl, rfl, rfl, rfl⟩)

theorem powerControl_samplesKept (w : WindowData) (s : State) : SamplesKept s (powerControl w s) :=
  ⟨by simp, (powerControl_input w s).2.2.2.2, by simp, by simp, by simp⟩

theorem markHot_samplesKept (s : State) : SamplesKept s (markHot s) := ⟨by simp, by simp, by simp, by simp, by simp⟩

theorem checkPairs_samplesKept (s : State) : SamplesKept s (checkPairs s) := by
  unfold checkPairs
  dsimp only
  split
  · exact ⟨rfl, rfl, rfl, rfl, rfl⟩
  · split
    · exact ⟨rfl, rfl, rfl, rfl, rfl⟩
    · exact (thermalNotice_samplesKept ..).before ⟨rfl, rfl, rfl, rfl, rfl⟩

theorem capCombs_samplesKept (w : WindowData) (s : State) : SamplesKept s (capCombs w s) :=
  .before (.foldl (fun _ _ => thermalNotice_samplesKept ..) _ _) ⟨rfl, rfl, rfl, rfl, rfl⟩

theorem judgeSensor_reading (m : Option Rat) (bad : Bool) (partner : Option (Sensor × Bool)) (x : Sensor) :
    (judgeSensor m bad partner x).reading = x.reading := by
  unfold judgeSensor
  extract_lets v away mate apart far agrees n k g y
  simp only [apply_ite Sensor.reading, ite_self, y]

theorem judgeSensors_samplesKept (w : WindowData) (s : State) : SamplesKept s (judgeSensors w s) := by
  refine ⟨rfl, rfl, rfl, rfl, ?_⟩
  simp only [judgeSensors, List.map_map, Function.comp_def, judgeSensor_reading]
  refine List.ext_getElem? fun i => ?_
  simp [Function.comp_def]

theorem stepSpots_samplesKept (w : WindowData) (s : State) : SamplesKept s (stepSpots w s) := ⟨rfl, rfl, rfl, rfl, rfl⟩

theorem addEpoch_samplesKept (s : State) : SamplesKept s (addEpoch s) := ⟨rfl, rfl, rfl, rfl, rfl⟩

/-- The state after a telemetry window, before the thermal controller and the thermal stop. -/
def windowEnded (w : WindowData) (s : State) : State :=
  addEpoch (inputWarnings (powerControl w (markHot (checkPairs (capCombs w (judgeSensors w (stepSpots w (takeSamples w s))))))))

theorem windowEnded_samplesKept (w : WindowData) (s : State) : SamplesKept (takeSamples w s) (windowEnded w s) :=
  (stepSpots_samplesKept w _).trans <| (judgeSensors_samplesKept w _).trans <| (capCombs_samplesKept w _).trans <|
    (checkPairs_samplesKept _).trans <| (markHot_samplesKept _).trans <| (powerControl_samplesKept w _).trans <|
    (inputWarnings_samplesKept _).trans (addEpoch_samplesKept _)

theorem checkPairs_frame (s : State) : SameConfig s (checkPairs s) ∧ (checkPairs s).tide = s.tide ∧
    (checkPairs s).img = s.img ∧ (checkPairs s).combs = s.combs ∧ (checkPairs s).str = s.str := by
  unfold checkPairs
  dsimp only
  split
  · exact ⟨⟨rfl, rfl, rfl, rfl⟩, rfl, rfl, rfl, rfl⟩
  · split
    · exact ⟨⟨rfl, rfl, rfl, rfl⟩, rfl, rfl, rfl, rfl⟩
    · simp [SameConfig]

theorem windowEnded_frame (w : WindowData) (s : State) : SameConfig s (windowEnded w s) ∧ (windowEnded w s).tide = s.tide ∧
    (windowEnded w s).img = s.img ∧ (windowEnded w s).combs = s.combs ∧ (windowEnded w s).str = s.str := by
  obtain ⟨hconfig, htide, himg, hcombs, hstr⟩ := checkPairs_frame (capCombs w (judgeSensors w (stepSpots w (takeSamples w s))))
  simpa [SameConfig, windowEnded, htide, himg, hcombs, hstr] using hconfig

/-- A sensor whose sample is good reads it, trimmed (R417). -/
theorem takeSamples_reading {w : WindowData} {s : State} {i : Nat} {raw : Option Int} {y : Int}
    (hi : s.cool.sensors[i]?.isSome) (hraw : w.sensors[i]? = some raw) (hgood : goodSample (s.sensor i) raw = some y) :
    ((takeSamples w s).sensor i).reading = BitVec.ofInt 16 y := by
  obtain ⟨x, hx⟩ := Option.isSome_iff_exists.mp hi
  have hsensor : s.sensor i = x := by simp [State.sensor, nth, List.getD_eq_getElem?_getD, hx]
  have hzip : (s.cool.sensors.zip w.sensors)[i]? = some (x, raw) := List.getElem?_zip_eq_some.mpr ⟨hx, hraw⟩
  have htaken : (takeSamples w s).sensor i = sampleSensor w.endTime x raw := by
    simp [State.sensor, nth, List.getD_eq_getElem?_getD, takeSamples, hzip]
  rw [htaken, sampleSensor, ← hsensor, hgood]

theorem SamplesKept.reading {s t : State} (h : SamplesKept s t) (i : Nat) : (t.sensor i).reading = (s.sensor i).reading := by
  have hread : ∀ u : State, (u.sensor i).reading = (u.cool.sensors.map (·.reading)).getD i Sensor.reset.reading := fun u => by
    rw [List.getD_map]
    rfl
  rw [hread, hread, h.readings]

/-- The thermal controller and the thermal stop act in a window only while the data plane runs. -/
theorem checkStop_thermalControl (w : WindowData) {s v : State} (htide : v.tide = s.tide) :
    checkStop (if v.tide.dp = .running then thermalControl w v else v) =
      if s.tide.dp = .running then checkStop (thermalControl w v) else v := by
  rw [← htide]
  split
  · rfl
  · next hrests => exact if_neg hrests

theorem exec_telemetryWindowEnd {w : WindowData} {s : State} (ha : s.awake = true)
    (hd : w.domains.length = s.pow.domains.length) (hs : w.sensors.length = s.cool.sensors.length) :
    exec (.telemetryWindowEnd w) s =
      .next (if s.tide.dp = .running then checkStop (thermalControl w (windowEnded w s)) else windowEnded w s) :=
  congrArg Host.Outcome.next ((if_pos ⟨ha, hd, hs⟩).trans (checkStop_thermalControl w (windowEnded_frame w s).2.1))

/-- Settles O30. -/
theorem windowsDriveTheControllers : Obligations.WindowsDriveTheControllers := by
  refine ⟨fun w s => ?power, fun w s ha hd hs => ?window⟩
  case power =>
    obtain ⟨hcap, hpowers, hvin, hwindow, -⟩ := powerControl_input w s
    obtain ⟨hraises, hstays⟩ := powerControl_follows w s
    refine ⟨hvin, hwindow, hpowers.trans (inputTaken_powers w s), ?_, ?_⟩
    · intro h1 h2 h3
      rw [hcap, hpowers] at h1
      exact hraises ⟨h1, h2, h3⟩
    · intro hnot
      rw [hcap, hpowers] at hnot ⊢
      exact hstays hnot
  case window =>
    intro v
    have hv : v = windowEnded w s := rfl
    clear_value v
    subst hv
    have hkept := windowEnded_samplesKept w s
    obtain ⟨hconfig, htide, himg, hcombs, hstr⟩ := windowEnded_frame w s
    exact ⟨exec_telemetryWindowEnd ha hd hs, hconfig, htide, himg, hcombs, hstr, hkept.now, hkept.kT, hkept.f, hkept.domains,
      fun i raw y hi hraw hgood => (hkept.reading i).trans (takeSamples_reading hi hraw hgood)⟩

end Sys2Proof.Machine

namespace Sys2Proof.Machine

/-! ## Streams parked while the data plane rests (R375, R424) -/

/-- The tide and the cooling are as before. -/
def TideAndCoolKept (s t : State) : Prop := t.tide = s.tide ∧ t.cool = s.cool

namespace TideAndCoolKept
variable {s t u : State}

theorem refl (s : State) : TideAndCoolKept s s := ⟨rfl, rfl⟩

theorem trans (h : TideAndCoolKept s t) (k : TideAndCoolKept t u) : TideAndCoolKept s u := ⟨k.1.trans h.1, k.2.trans h.2⟩

theorem ite {c : Prop} [Decidable c] (h : TideAndCoolKept s t) (k : TideAndCoolKept s u) :
    TideAndCoolKept s (if c then t else u) := by
  split
  · exact h
  · exact k

end TideAndCoolKept

theorem dropCancel_tideAndCool (n : Nat) (t : Stream) (s : State) : TideAndCoolKept s (dropCancel n t s) :=
  .ite ⟨by simp, by simp⟩ (.refl s)

theorem dropResume_tideAndCool (n : Nat) (t : Stream) (s : State) : TideAndCoolKept s (dropResume n t s) := by
  refine ⟨(dropResume_work n t s).tide, ?_⟩
  cases h : t.parkObject <;> simp [dropResume, h]

theorem closeStream_tideAndCool (t : Stream) (reason : BitVec 5) (own : Bool) (status : Status) (s : State) :
    TideAndCoolKept s (closeStream t reason own status s) := ⟨by simp, by simp⟩

theorem createObject_cool {data : CoveData} {holder : BitVec 16} {bytes : Nat} {digest address : Digest} {s : State}
    {o : BitVec 128 × State} (h : createObject data holder bytes digest address s = some o) : o.2.cool = s.cool := by
  unfold createObject at h
  split at h
  · contradiction
  · obtain rfl := Option.some.inj h
    simp [drawId]

theorem beginPark_tideAndCool (n : Nat) (own : Bool) (s : State) : TideAndCoolKept s (beginPark n own s).2 := by
  refine ⟨(beginPark_work n own s).tide, ?_⟩
  unfold beginPark
  split
  · dsimp only
    split
    · next h => simpa [apply_ite State.cool] using createObject_cool h
    · simp
  · rfl

theorem parkOne_tideAndCool (n : Nat) (s : State) : TideAndCoolKept s (parkOne (fun _ s => s) n s) := by
  unfold parkOne
  split
  · exact .refl s
  · split
    · exact .ite (dropCancel_tideAndCool ..) (closeStream_tideAndCool ..)
    · have hpark := beginPark_tideAndCool n false s
      exact .ite (dropCancel_tideAndCool ..) (.ite (dropResume_tideAndCool ..) (.ite hpark (hpark.trans ⟨rfl, rfl⟩)))

theorem parkAll_tideAndCool (s : State) : TideAndCoolKept s (parkAll (fun _ => true) (fun _ s => s) s) :=
  foldl_inv (TideAndCoolKept s) _ (fun _ n h => h.trans (.ite (parkOne_tideAndCool n _) (.refl _))) _ s (.refl s)

/-! ## The thermal stop (R424) -/

/-- Thermal stops of the epoch, with the one that happens now. -/
def stopsCounted (s : State) : Nat :=
  if s.tide.thermalEpoch = s.tide.number.toNat / 2 ^ 20 then s.tide.thermalStops + 1 else 1

/-- The stop that every thermal stop makes, the third of an epoch before it parks the streams. -/
def thermallyHalted (h : Nat) (s : State) : State :=
  let v := inUnits 9 ((nth s.cool.spots h HotSpot.reset).control * 10)
  let t := thermalNotice 6 (hotterSensor h s) v (some 3) 8 (hotterSensor h s) (halt .thermal s)
  { t with cool := { t.cool with kT := 15, f := 4, fPending := none, stack := [] }
           tide := { t.tide with thermalStops := stopsCounted s, thermalEpoch := s.tide.number.toNat / 2 ^ 20 } }

theorem thermallyHalted_tide (h : Nat) (s : State) : (thermallyHalted h s).tide.dp = .halted ∧
    (thermallyHalted h s).tide.halt = .thermal ∧ (thermallyHalted h s).tide.thermalStops = stopsCounted s := by
  simp [thermallyHalted, halt_tide]

theorem thermalStop_halts {h : Nat} {s : State} (hfew : ¬3 ≤ stopsCounted s) : thermalStop h s = thermallyHalted h s :=
  if_neg hfew

theorem thermalStop_parks {h : Nat} {s : State} (hmany : 3 ≤ stopsCounted s) : thermalStop h s =
    parkAll (fun _ => true) (fun _ s => s)
      { thermallyHalted h s with tide := { (thermallyHalted h s).tide with dp := .stopped, halt := .none } } :=
  if_pos hmany

/-- A thermal stop leaves the controller at its floor; the third of an epoch leaves the data plane Stopped. -/
theorem thermalStop_stops (h : Nat) (s : State) : (thermalStop h s).cool.kT = 15 ∧ (thermalStop h s).cool.f = 4 ∧
    (thermalStop h s).cool.stack = [] ∧
    ((thermalStop h s).tide.thermalStops < 3 → (thermalStop h s).tide.dp = .halted ∧ (thermalStop h s).tide.halt = .thermal) ∧
    (3 ≤ (thermalStop h s).tide.thermalStops → (thermalStop h s).tide.dp = .stopped) := by
  obtain ⟨hdp, hhalt, hstops⟩ := thermallyHalted_tide h s
  by_cases hmany : 3 ≤ stopsCounted s
  · obtain ⟨htide, hcool⟩ := parkAll_tideAndCool
      { thermallyHalted h s with tide := { (thermallyHalted h s).tide with dp := .stopped, halt := .none } }
    rw [thermalStop_parks hmany, htide, hcool]
    exact ⟨rfl, rfl, rfl, fun hfew => absurd (hstops ▸ hfew) (Nat.not_lt.mpr hmany), fun _ => rfl⟩
  · rw [thermalStop_halts hmany]
    exact ⟨rfl, rfl, rfl, fun _ => ⟨hdp, hhalt⟩, fun hthree => absurd (hstops ▸ hthree) hmany⟩

/-! ## The sensors' check while the data plane rests (R426) -/

/-- A sensor that is suspect is retired; the rest is as before. -/
def retireIfSuspect (s : State) (i : Nat) : State := if (s.sensor i).state = 1 then retireSensor i s else s

theorem retireSensor_sensor (i j : Nat) (s : State) : (retireSensor i s).sensor j =
    if i = j ∧ j < s.cool.sensors.length then { s.sensor j with state := 2 } else s.sensor j := by
  simp [retireSensor, State.sensor, nth_upd]

theorem retireIfSuspect_keeps (s : State) (i : Nat) :
    SameDataPlane s (retireIfSuspect s i) ∧ SameConfig s (retireIfSuspect s i) ∧
    (retireIfSuspect s i).cool.sensors.length = s.cool.sensors.length := by
  unfold retireIfSuspect
  split
  · simp [retireSensor, SameDataPlane, SameConfig, upd]
  · exact ⟨⟨rfl, rfl, rfl, rfl, rfl⟩, ⟨rfl, rfl, rfl, rfl⟩, rfl⟩

theorem retireIfSuspect_same {s : State} {i : Nat} (hi : i < s.cool.sensors.length) (hone : (s.sensor i).state = 1) :
    ((retireIfSuspect s i).sensor i).state = 2 := by
  rw [retireIfSuspect, if_pos hone, retireSensor_sensor, if_pos ⟨rfl, hi⟩]

theorem retireIfSuspect_other {s : State} {i j : Nat} (h : (s.sensor j).state ≠ 1 ∨ i ≠ j) :
    (retireIfSuspect s i).sensor j = s.sensor j := by
  unfold retireIfSuspect
  split
  · next hone =>
    have hij : i ≠ j := h.elim (fun hnot hij => hnot (hij ▸ hone)) id
    rw [retireSensor_sensor, if_neg fun hboth => hij hboth.1]
  · rfl

theorem foldl_retireIfSuspect_other {l : List Nat} {s : State} {j : Nat} (h : (s.sensor j).state ≠ 1 ∨ j ∉ l) :
    (l.foldl retireIfSuspect s).sensor j = s.sensor j := by
  induction l generalizing s with
  | nil => rfl
  | cons i l ih =>
    have hstep : (retireIfSuspect s i).sensor j = s.sensor j :=
      retireIfSuspect_other (h.imp_right fun hout hij => hout (hij ▸ List.mem_cons_self))
    rw [List.foldl_cons, ih (by rw [hstep]; exact h.imp_right fun hout hin => hout (List.mem_cons_of_mem i hin)), hstep]

theorem foldl_retireIfSuspect_suspect {l : List Nat} {s : State} {j : Nat} (hin : j ∈ l) (hj : j < s.cool.sensors.length)
    (hone : (s.sensor j).state = 1) : ((l.foldl retireIfSuspect s).sensor j).state = 2 := by
  induction l generalizing s with
  | nil => cases hin
  | cons i l ih =>
    rw [List.foldl_cons]
    by_cases hij : i = j
    · subst hij
      have htwo := retireIfSuspect_same hj hone
      rw [foldl_retireIfSuspect_other (.inl (by rw [htwo]; decide)), htwo]
    · have hlater : j ∈ l := (List.mem_cons.mp hin).resolve_left (Ne.symm hij)
      exact ih hlater (by rw [(retireIfSuspect_keeps s i).2.2]; exact hj) (by rw [retireIfSuspect_other (.inr hij)]; exact hone)

theorem retireSuspects_keeps (s : State) : SameDataPlane s (retireSuspects s) ∧ SameConfig s (retireSuspects s) := by
  refine foldl_inv (fun t => SameDataPlane s t ∧ SameConfig s t) retireIfSuspect (fun t i ht => ?_) _ s
    ⟨⟨rfl, rfl, rfl, rfl, rfl⟩, ⟨rfl, rfl, rfl, rfl⟩⟩
  obtain ⟨⟨htide, himg, hcombs, hfabric, hshelf⟩, hident, hcfg, hlive, hflash⟩ := ht
  obtain ⟨⟨ktide, kimg, kcombs, kfabric, kshelf⟩, ⟨kident, kcfg, klive, kflash⟩, -⟩ := retireIfSuspect_keeps t i
  exact ⟨⟨ktide.trans htide, kimg.trans himg, kcombs.trans hcombs, kfabric.trans hfabric, kshelf.trans hshelf⟩,
    kident.trans hident, kcfg.trans hcfg, klive.trans hlive, kflash.trans hflash⟩

/-! ## Warnings (R409, R414) -/

/-- A warning that is raised stands with those that stood; nothing else of the power's state changes. -/
theorem raiseWarning_pow (c index value : Nat) (s : State) :
    ∃ ws, (raiseWarning c index value s).pow = { s.pow with warnings := s.pow.warnings ++ ws } := by
  unfold raiseWarning
  split
  · exact ⟨[], by simp⟩
  · exact ⟨[(c, index, BitVec.ofNat 32 value)], by simp⟩

/-- What warnings that are raised leave: configuration, data plane, streams, the domains, and the warnings that stood. -/
structure WarningsRaised (s t : State) : Prop where
  config : SameConfig s t
  plane : SameDataPlane s t
  streams : t.str = s.str
  domains : t.pow.domains = s.pow.domains
  stage : t.pow.stage = s.pow.stage
  warnings : s.pow.warnings ⊆ t.pow.warnings

namespace WarningsRaised
variable {s t u : State}

theorem refl (s : State) : WarningsRaised s s := ⟨⟨rfl, rfl, rfl, rfl⟩, ⟨rfl, rfl, rfl, rfl, rfl⟩, rfl, rfl, rfl, fun _ h => h⟩

theorem trans (h : WarningsRaised s t) (k : WarningsRaised t u) : WarningsRaised s u := by
  obtain ⟨⟨hident, hcfg, hlive, hflash⟩, ⟨htide, himg, hcombs, hfabric, hshelf⟩, hstr, hdomains, hstage, hwarnings⟩ := h
  obtain ⟨⟨kident, kcfg, klive, kflash⟩, ⟨ktide, kimg, kcombs, kfabric, kshelf⟩, kstr, kdomains, kstage, kwarnings⟩ := k
  exact ⟨⟨kident.trans hident, kcfg.trans hcfg, klive.trans hlive, kflash.trans hflash⟩,
    ⟨ktide.trans htide, kimg.trans himg, kcombs.trans hcombs, kfabric.trans hfabric, kshelf.trans hshelf⟩, kstr.trans hstr,
    kdomains.trans hdomains, kstage.trans hstage, List.Subset.trans hwarnings kwarnings⟩

theorem foldl {β : Type} {f : State → β → State} (h : ∀ s b, WarningsRaised s (f s b)) (l : List β) (s : State) :
    WarningsRaised s (l.foldl f s) := foldl_inv (WarningsRaised s) f (fun t b ht => ht.trans (h t b)) l s (.refl s)

end WarningsRaised

theorem raiseWarning_raised (c index value : Nat) (s : State) : WarningsRaised s (raiseWarning c index value s) := by
  obtain ⟨ws, hpow⟩ := raiseWarning_pow c index value s
  exact ⟨by simp [SameConfig], by simp [SameDataPlane], by simp, by rw [hpow], by rw [hpow],
    by rw [hpow]; exact List.subset_append_left ..⟩

/-- The period's fields of every domain are complete. -/
def periodsEnded (s : State) : State := { s with pow := { s.pow with domains := s.pow.domains.map endPeriod } }

/-- A domain that is on is warned of where the period found it low. -/
def warnLow (s : State) (d : Nat) : State :=
  if (s.domain d).state = 0 ∧ warningHolds 5 d s then raiseWarning 5 d (s.domain d).minMv.toNat s else s

theorem warnLow_raised (s : State) (d : Nat) : WarningsRaised s (warnLow s d) := by
  unfold warnLow
  split
  · exact raiseWarning_raised ..
  · exact .refl s

theorem exec_reportPeriodEnd {s : State} (ha : s.awake = true) :
    exec .reportPeriodEnd s = .next ((List.range 196).foldl warnLow (periodsEnded s)) :=
  congrArg Host.Outcome.next (if_pos ha)

theorem reportPeriodEnd_ends {s : State} (ha : s.awake = true) : ∃ t, exec .reportPeriodEnd s = .next t ∧
    t.pow.domains = s.pow.domains.map endPeriod ∧ SameConfig s t ∧ SameDataPlane s t ∧
    ∀ w ∈ s.pow.warnings, w ∈ t.pow.warnings := by
  obtain ⟨hconfig, hplane, -, hdomains, -, hwarnings⟩ := WarningsRaised.foldl warnLow_raised (List.range 196) (periodsEnded s)
  exact ⟨_, exec_reportPeriodEnd ha, hdomains, hconfig, hplane, fun w hw => hwarnings hw⟩

/-! ## Bus converters (R402) -/

theorem nth_set_false (l : List Bool) (n m : Nat) : nth (l.set n false) m false = (nth l m false && !(m == n)) := by
  unfold nth
  by_cases h : n = m
  · subst h
    by_cases hlen : n < l.length <;> simp [List.getD_eq_getElem?_getD, hlen]
  · simp [List.getD_eq_getElem?_getD, h, Ne.symm h]

/-- Converter n is switched off. -/
def converterOff (n : Nat) (s : State) : State := { s with pow := { s.pow with converters := s.pow.converters.set n false } }

theorem loseConverter_works {s : State} {n : Nat} (h : nth s.pow.converters n false = true) :
    loseConverter s n = raiseWarning 2 n (convertersWorking (converterOff n s)) (converterOff n s) := if_pos h

theorem loseConverter_off {s : State} {n : Nat} (h : nth s.pow.converters n false = false) : loseConverter s n = s :=
  if_neg (Bool.not_eq_true _ ▸ h)

theorem loseConverter_converters (s : State) (n m : Nat) :
    nth (loseConverter s n).pow.converters m false = (nth s.pow.converters m false && !(m == n)) := by
  cases hworks : nth s.pow.converters n false with
  | true =>
    obtain ⟨ws, hpow⟩ := raiseWarning_pow 2 n (convertersWorking (converterOff n s)) (converterOff n s)
    rw [loseConverter_works hworks, hpow]
    exact nth_set_false ..
  | false =>
    rw [loseConverter_off hworks]
    by_cases h : m = n
    · rw [h, hworks, Bool.false_and]
    · rw [beq_false_of_ne h, Bool.not_false, Bool.and_true]

theorem converterOff_raised (n : Nat) (s : State) : WarningsRaised s (converterOff n s) :=
  ⟨⟨rfl, rfl, rfl, rfl⟩, ⟨rfl, rfl, rfl, rfl, rfl⟩, rfl, rfl, rfl, fun _ h => h⟩

theorem loseConverter_raised (s : State) (n : Nat) : WarningsRaised s (loseConverter s n) := by
  cases hworks : nth s.pow.converters n false with
  | true =>
    rw [loseConverter_works hworks]
    exact (converterOff_raised n s).trans (raiseWarning_raised ..)
  | false =>
    rw [loseConverter_off hworks]
    exact .refl s

theorem foldl_loseConverter_converters (failed : List Nat) (s : State) (m : Nat) :
    nth (failed.foldl loseConverter s).pow.converters m false = (nth s.pow.converters m false && !failed.contains m) := by
  induction failed generalizing s with
  | nil => simp
  | cons n l ih => rw [List.foldl_cons, ih, loseConverter_converters, List.contains_cons, Bool.not_or, Bool.and_assoc]

theorem exec_busConverterCheck {failed : List Nat} {s : State} (ha : s.awake = true) : exec (.busConverterCheck failed) s =
    .next (if convertersWorking (failed.foldl loseConverter s) ≤ 4 ∧ 4 < convertersWorking s ∧ s.pow.stage = .ready then
      advanceService (lowPower (failed.getLast?.getD 0) (failed.foldl loseConverter s))
    else failed.foldl loseConverter s) := by
  rw [← (WarningsRaised.foldl loseConverter_raised failed s).stage]
  exact congrArg Host.Outcome.next (if_pos ha)

/-! ## Overcurrent latches (R407, R408) -/

/-- What a latch records, before it is durable. -/
def latchNoted (d : Nat) (s : State) : State :=
  let t := setDomain d (fun x => { x with state := 1 }) s
  { t with cfg := { t.cfg with latched := (t.cfg.latched ++ [d]).dedup }, flash := { t.flash with dirty := true } }

theorem recordLatch_records (d : Nat) (s : State) :
    (recordLatch d s).cfg = (latchNoted d s).cfg ∧ (recordLatch d s).pow = (latchNoted d s).pow := by
  unfold recordLatch latchNoted
  dsimp only
  split
  · exact ⟨by simp, by simp⟩
  · exact ⟨rfl, rfl⟩

theorem recordLatch_latched (d : Nat) (s : State) : d ∈ (recordLatch d s).cfg.latched := by
  rw [(recordLatch_records d s).1]
  exact List.mem_dedup.mpr (by simp)

theorem recordLatch_state {d : Nat} {s : State} (h : d < s.pow.domains.length) : ((recordLatch d s).domain d).state = 1 := by
  simp only [State.domain, (recordLatch_records d s).2]
  exact congrArg Domain.state (nth_upd_self h _ _)

theorem exec_overcurrentLatch {d : Nat} {s : State} (ha : s.awake = true) (hd : d < 196) (hon : (s.domain d).state = 0) :
    exec (.overcurrentLatch d) s =
      .next (if 192 ≤ d then hiveLatch d s else advanceService (failNow (.domain d) (recordLatch d s))) :=
  congrArg Host.Outcome.next (if_pos ⟨.inl ha, hd, hon⟩)

/-- Settles O31. -/
theorem stopsWarningsAndLatchesAct : Obligations.StopsWarningsAndLatchesAct := by
  refine ⟨⟨fun s ha hdp hhalt hfailed hcool => ?resume, fun s ha hdp => ?idle, fun h s _ => thermalStop_stops h s⟩,
    fun s => reportPeriodEnd_ends, fun c i s ha hgone => congrArg Host.Outcome.next (if_pos ⟨ha, hgone⟩),
    fun failed s ha hleft => ?lost, fun failed s ha hready hbefore hafter => ?low, fun d s ha hd hon => ?latch,
    fun d s ha hlow hd hon hstage => ?hive⟩
  case resume =>
    have hspots : s.cool.spots.all (fun h => decide (h.model < thermalTarget s - 10)) = true :=
      List.all_eq_true.mpr fun h hh => decide_eq_true (hcool h hh)
    exact congrArg Host.Outcome.next (if_pos ⟨ha, hdp, hhalt, hfailed, hspots⟩)
  case idle =>
    obtain ⟨hplane, hconfig⟩ := retireSuspects_keeps s
    refine ⟨retireSuspects s, congrArg Host.Outcome.next (if_pos ⟨ha, hdp⟩), fun i hi hlen hone => ?_, fun i hout => ?_,
      hplane, hconfig⟩
    · exact foldl_retireIfSuspect_suspect (List.mem_range.mpr hi) hlen hone
    · exact foldl_retireIfSuspect_other (hout.imp_right fun hfar hin => Nat.not_lt.mpr hfar (List.mem_range.mp hin))
  case lost =>
    have hraised := WarningsRaised.foldl loseConverter_raised failed s
    refine ⟨_, (exec_busConverterCheck ha).trans (congrArg Host.Outcome.next (if_neg fun h => ?_)),
      foldl_loseConverter_converters failed s, hraised.config, hraised.plane, hraised.streams⟩
    exact Nat.not_lt.mpr h.1 hleft
  case low => exact (exec_busConverterCheck ha).trans (congrArg Host.Outcome.next (if_pos ⟨hafter, hbefore, hready⟩))
  case latch =>
    have hcomb : ¬192 ≤ d := by omega
    refine ⟨?_, recordLatch_latched d s, recordLatch_state⟩
    rw [exec_overcurrentLatch ha (by omega) hon, if_neg hcomb]
  case hive => rw [exec_overcurrentLatch ha hd hon, if_pos hlow, hiveLatch, if_neg hstage]

end Sys2Proof.Machine
